-- ==== Sys2Proof/Word.lean ====
section
/-! DEFINITION. The word types of the module: a byte of a store, a 64-bit register word (R12, R14 of 00_scope.md). -/

namespace Sys2Proof

/-- One byte of a store, a window or a record. -/
abbrev Byte := BitVec 8

/-- One 64-bit little-endian register ("Notation", 00_scope.md). -/
abbrev Word := BitVec 64

end Sys2Proof
end

