-- ==== Sys2Proof/Syntax.lean ====
section
/-! DEFINITION. The commands of the block: one constructor per row of spec/opcode_table.json, each with the row's operands. -/

namespace Sys2Proof

/-- A Renzia Link packet, its 32-byte header field by field, then its data and trailer (R300). -/
structure Packet where
  typ : Nat
  comp : Bool
  cval : Bool
  spec : Bool
  last : Bool
  flow : Nat
  srcDev : Nat
  dstDev : Nat
  jobEpoch : Nat
  abortEpoch : Nat
  tick : Nat
  slot : Nat
  gen : Nat
  length : Nat
  status : Nat
  addr : Nat
  /-- the OR of the header's reserved bits, as a number: zero in a well-formed packet -/
  reserved : Nat
  data : List Byte
  trailer : Word
  /-- DESIGN CHOICE (log entry 70): the parts of the data read from poisoned lines, as (offset, bytes); the wire has no bit for them -/
  poison : List (Nat × Nat) := []
deriving DecidableEq, Repr, Inhabited

/-- A control-flit slot (R304): type, tree context, slot epoch, 64-bit symbol. -/
structure CtlSlot where
  typ : Nat
  tree : Nat
  epoch : Nat
  sym : Word
deriving DecidableEq, Repr, Inhabited

/-- The fields of a 128-bit vector-engine instruction (R145), less its opcode, which the command names. -/
structure VIns where
  typ : Nat
  rnd : Nat
  zero : Bool
  pred : Nat
  ftz : Bool
  srcsel : Nat
  idxr : Nat
  dst : Nat
  srcA : Nat
  srcB : Nat
  srcC : Nat
  sub : Nat
  typ2 : Nat
  imm : BitVec 32
deriving DecidableEq, Repr, Inhabited

/-- The error, if any, that the storage device shows on an access: single-bit corrected, double-bit,
and the far store's other kinds (R248, R263, R265). -/
inductive EccEvent where
  | none | corrected | uncorrectable
  /-- the line as it left the path at its first read and, where that failed its CHECK, at its second (R262, R263) -/
  | path (first second : List Byte)
  /-- the line as it came to the channel controller for a write -/
  | pathWrite (got : List Byte)
  | transfer
deriving DecidableEq, Repr, Inhabited

/-- An on-die packet-layer request (R24, R489): its requester (a tile, or an engine as 1024 + e in the
order far-store, fabric, Ethernet, management), the reset epoch it carries, the partition whose traffic it is (16 for none) with
the abort epoch it carries (R224), a tag, and the access. -/
structure MeshReq where
  requester : Nat
  epoch : Nat
  part : Nat
  abortEpoch : Nat
  tag : Nat
  addr : Nat
  isWrite : Bool
  len : Nat
  data : List Byte
deriving DecidableEq, Repr, Inhabited

/-- An on-die reply, echoing the requester's reset epoch (R489) and its partition's abort epoch (R224); it may carry a poisoned
line (R248). -/
structure MeshReply where
  requester : Nat
  epoch : Nat
  part : Nat
  abortEpoch : Nat
  tag : Nat
  status : Nat
  poisoned : Bool
  data : List Byte
deriving DecidableEq, Repr, Inhabited

/-- One trained far-store channel as power-on training reports it (R261, R284). -/
structure ChanResult where
  chan : Nat
  ok : Bool
  spares : Nat
deriving DecidableEq, Repr, Inhabited

/-- How the codewords that carried a flit arrived (R291): whole, corrected with so many symbols on each lane, or uncorrectable. -/
inductive Codewords where
  | clean
  | corrected (symbols : List Nat)
  | uncorrectable
deriving DecidableEq, Repr, Inhabited

/-- How an Ethernet frame came: on which connection, by its local queue pair number, marked Congestion Experienced or not (R318), in what
codewords (R332). -/
structure Carried where
  qpn : Nat
  marked : Bool := false
  cw : Codewords := .clean
deriving DecidableEq, Repr, Inhabited

/-- A layer slot or a segment with what the predictor guesses for it: a denomination, or the FEED record whose pass comes next (R217, R220). -/
structure Guessed where
  of : Nat
  guess : Option Nat := none
deriving DecidableEq, Repr, Inhabited

/-- The answer to a partition's oldest outstanding pool write: an acknowledgement, or a remote error (R461, R466). -/
structure PoolAnswer where
  q : Nat
  ok : Bool := true
deriving DecidableEq, Repr, Inhabited

/-- A step of a connection's rate recovery: that of 55 µs, or that of 10 MiB sent (R318). -/
structure RateStep where
  qpn : Nat
  timer : Bool
deriving DecidableEq, Repr, Inhabited

/-- The block's commands. `h seq` names an accepted command record by its host slot and SEQ (R359);
`t` a tile, `q` a partition, `p` a link port, `e` an Ethernet port, `u` a check-value unit,
`qpn` a connection's local queue pair number; `seen` is the smallest margin that the sensors showed between two readings of the thermal loop. -/
inductive Instr where
  | commandRecord (h : Nat) (msg : List Byte)
  | attach (e : Nat) (dg : List Byte)
  | identify (h seq : Nat)
  | readLog (h seq : Nat)
  | attest (h seq : Nat)
  | loadImage (h seq : Nat)
  | imageStaged (h seq : Nat)
  | unload (h seq : Nat)
  | start (h seq : Nat)
  | hold (h seq : Nat)
  | resume (h seq : Nat)
  | abortStep (h seq : Nat)
  | ctxSave (h seq : Nat)
  | ctxRestore (h seq : Nat)
  | dma (h seq : Nat)
  | reset (h seq : Nat)
  | deferredReset
  | resetComplete (domain idx : Nat)
  | selfTest (h seq : Nat)
  | dump (h seq : Nat) (fsAnswers ethAnswers : Bool)
  | dumpUnit
  | dumpRequestTimeout
  | bindJob (h seq : Nat)
  | unbindJob (h seq : Nat)
  | shadowBegin (h seq : Nat)
  | shadowEnd (h seq : Nat)
  | fence (h seq : Nat)
  | expel (h seq : Nat)
  | admitModule (h seq : Nat)
  | checkpoint (h seq : Nat)
  | restore (h seq : Nat)
  | poolReadResponse (qpn : Nat) (ok : Bool) (data : List Byte)
  | connect (h seq : Nat)
  | disconnect (h seq : Nat)
  | fwRestart (h seq : Nat)
  | bootComplete (badSites : List (Nat × Nat)) (chans : List ChanResult) (signature : Word)
  | hostRdmaRead (via : Carried) (addr len : Nat)
  | hostRdmaWrite (via : Carried) (addr : Nat) (data : List Byte)
  | hostSendData (via : Carried) (data : List Byte)
  | atomicRequest (qpn : Nat)
  | registerWrite (addr : Nat) (v : Word)
  | devTickPeriodWrite (v : Word)
  | devTickAtWrite (v : Word)
  | devIdWrite (v : Word)
  | lnkCfgWrite (p : Nat) (v : Word)
  | drnAnchorWrite (q slot : Nat) (v : Word)
  | drnWindowWrite (t : Nat) (fromHost : Bool) (v : Word)
  | accumulatorWindowRead (t off len : Nat)
  | accumulatorWindowWrite (t off : Nat) (data : List Byte)
  | rduTallyWrite (t k half : Nat) (v : Word)
  | cvuSlotWrite (u off : Nat) (v : Word)
  | pwrCapWrite (v : Word)
  | devTickRefWrite (v : Word)
  | vecErrRead (t : Nat)
  | nsErrRead (t : Nat)
  | nsDmaRead (t : Nat)
  | fsErrRead
  | fcStatusRead
  | fsChanRead (c : Nat)
  | schSpecRead (q : Nat)
  | schSpec2Read (q : Nat)
  | lnkErrRead (p : Nat)
  | lnkLaneRead (p l : Nat)
  | lnkFabricRead
  | lnkFabric2Read
  | ethErrRead (e : Nat)
  | cvuStatusRead (u : Nat)
  | lnkBucketRead (q : Nat)
  | updJoinRead (q : Nat)
  | updJournalRead (q : Nat)
  | tileResetRead (t : Nat)
  | devTickRefRead
  | controlMeshRequest (t off : Nat) (write : Option Word)
  | agentSilent (isGroup : Bool) (idx : Nat)
  | mgtPulseIncrement
  | mgtLockstep
  | tickBoundary
  | tickRecord (q : Nat)
  | preemptBoundary (q : Nat)
  | tokenArrival (tok : BitVec 128)
  | speculativeFire (t actor : Nat) (confidence : Nat) (predictTaken : Bool)
  | fireBody (t : Nat)
  | firePass (t : Nat)
  | fireDma (t : Nat)
  | fireSync (t : Nat)
  | fireClose (t : Nat)
  | firingComplete (t actor : Nat)
  | gateOpen (t : Nat)
  | intakeWrite (t seg : Nat) (slot : Guessed)
  | issueSlot (t seg : Nat)
  | cellFire (t k n : Nat)
  | shadowLoad (t : Nat) (seg : Guessed)
  | blockPartial (t seg n : Nat)
  | drainAccumulate (t : Nat)
  | accumulatorMerge (t layerSlot valueAddr tagAddr : Nat) (srcWide : Bool)
  | outputConversion (t : Nat)
  | layerClose (q layerSlot : Nat)
  | reductionTreeComplete (q tree : Nat)
  | spotRecompute (t layerSlot row blk outIndex : Nat) (actFmt : Nat) (acts : List (List Byte × Nat)) (sets : List Nat) (finished : Bool)
  | nop (t : Nat) (i : VIns)
  | fadd (t : Nat) (i : VIns)
  | fsub (t : Nat) (i : VIns)
  | fmul (t : Nat) (i : VIns)
  | fma (t : Nat) (i : VIns)
  | fms (t : Nat) (i : VIns)
  | fnma (t : Nat) (i : VIns)
  | fmin (t : Nat) (i : VIns)
  | fmax (t : Nat) (i : VIns)
  | fabs (t : Nat) (i : VIns)
  | fneg (t : Nat) (i : VIns)
  | fdiv (t : Nat) (i : VIns)
  | fsqrt (t : Nat) (i : VIns)
  | frcp (t : Nat) (i : VIns)
  | frsqrt (t : Nat) (i : VIns)
  | fexp2 (t : Nat) (i : VIns)
  | flog2 (t : Nat) (i : VIns)
  | ftanh (t : Nat) (i : VIns)
  | fcmp (t : Nat) (i : VIns)
  | frint (t : Nat) (i : VIns)
  | cvt (t : Nat) (i : VIns)
  | packb (t : Nat) (i : VIns)
  | unpackb (t : Nat) (i : VIns)
  | iadd (t : Nat) (i : VIns)
  | isub (t : Nat) (i : VIns)
  | imul (t : Nat) (i : VIns)
  | imin (t : Nat) (i : VIns)
  | imax (t : Nat) (i : VIns)
  | vand (t : Nat) (i : VIns)
  | vor (t : Nat) (i : VIns)
  | vxor (t : Nat) (i : VIns)
  | shl (t : Nat) (i : VIns)
  | shr (t : Nat) (i : VIns)
  | sar (t : Nat) (i : VIns)
  | icmp (t : Nat) (i : VIns)
  | iota (t : Nat) (i : VIns)
  | itof (t : Nat) (i : VIns)
  | ftoi (t : Nat) (i : VIns)
  | mov (t : Nat) (i : VIns)
  | sel (t : Nat) (i : VIns)
  | ldl (t : Nat) (i : VIns)
  | stl (t : Nat) (i : VIns)
  | setidx (t : Nat) (i : VIns)
  | addidx (t : Nat) (i : VIns)
  | pand (t : Nat) (i : VIns)
  | por (t : Nat) (i : VIns)
  | pxor (t : Nat) (i : VIns)
  | pnot (t : Nat) (i : VIns)
  | pset (t : Nat) (i : VIns)
  | gfn (t : Nat) (i : VIns)
  | rsum (t : Nat) (i : VIns)
  | rprod (t : Nat) (i : VIns)
  | rmax (t : Nat) (i : VIns)
  | rmin (t : Nat) (i : VIns)
  | rargmax (t : Nat) (i : VIns)
  | rargmin (t : Nat) (i : VIns)
  | rcount (t : Nat) (i : VIns)
  | rand (t : Nat) (i : VIns)
  | ror (t : Nat) (i : VIns)
  | rxsum (t : Nat) (i : VIns)
  | rcvt (t : Nat) (i : VIns)
  | rnet (t : Nat) (i : VIns)
  | rbcast (t : Nat) (i : VIns)
  | popq (t : Nat) (i : VIns)
  | rclr (t : Nat) (i : VIns)
  | copy (t k : Nat)
  | feed (t k : Nat)
  | weight (t k : Nat)
  | prefetch (t k : Nat)
  | fill (t k : Nat)
  | scan (t k : Nat)
  | descriptorComplete (t k : Nat)
  | bankGrant (t bank : Nat) (ecc : EccEvent)
  | meshRequestArrival (r : MeshReq)
  | meshReplyArrival (r : MeshReply)
  | regulatorAdmit (q : Nat)
  | fsRequestIssue (source : Nat)
  | farCacheAccess (source : Option Nat) (addr : Nat) (wdata : Option (List Byte)) (noalloc : Bool) (ecc : EccEvent)
  | guardStaleAck (g unit : Nat)
  | guardRefetch (g unit : Nat)
  | copyAheadStage (q granule : Nat)
  | writebackTimeout
  | fabricRequestIssue (dest : Nat)
  | packetSend (p : Nat)
  | flitReceive (p : Nat) (cw : Codewords) (flit : List Byte)
  | retryRequest (p ackSeq : Nat)
  | retrainComplete (p : Nat) (ok : Bool)
  | portTrained (p partnerPort : Nat) (partnerDev : Option Nat) (partnerSwitch partnerLR : Bool)
  | laneFault (p l : Nat)
  | laneTestComplete (p l : Nat) (pass : Bool)
  | portSilent (p : Nat)
  | write (p : Nat) (k : Packet)
  | readReq (p : Nat) (k : Packet)
  | readData (p : Nat) (k : Packet)
  | ack (p : Nat) (k : Packet)
  | token (p : Nat) (k : Packet)
  | deposit (p : Nat) (k : Packet)
  | flowTimeout (slot : Nat)
  | upwardTick (p : Nat) (c : CtlSlot)
  | voteWaitExpiry (tree : Nat)
  | downwardTick (p : Nat) (c : CtlSlot)
  | abortSymbol (p : Nat) (c : CtlSlot)
  | fenceSymbol (p : Nat) (c : CtlSlot)
  | timeReqSend (p : Nat)
  | timeReq (p : Nat) (c : CtlSlot)
  | timeRsp (p : Nat) (c : CtlSlot)
  | periodSymbol (p : Nat) (c : CtlSlot)
  | timingParentLost
  | stepAbort (q cause : Nat)
  | tilePurgeReport (t : Nat)
  | targetedSelfTest (kind idx : Nat)
  | selfTestComplete (kind idx : Nat) (answered : Bool) (signature : Word)
  | bucketStart (q b : Nat)
  | bucketExchangeComplete (q b : Nat)
  | updateRange (q r : Nat)
  | escrowPass (q owner blk : Nat)
  | catchUpUnit (q owner : Nat)
  | firstCopyUnit (q dst : Nat)
  | coldStreamUnit (q : Nat) (data : List Byte)
  | checkpointObjectAck (a : PoolAnswer)
  | monitorWindow (m : Nat) (seen : Option Int)
  | ethLinkUp (e : Nat)
  | ethLinkLoss (e : Nat)
  | roceAckTimeout (qpn : Nat)
  | cnpReceive (qpn : Nat)
  | rateRecovery (r : RateStep)
  | droopDetect
  | droopRamp
  | capLoop (avgW : Nat)
  | thermalLoop (dieHot memHot : Int)
  | uvWarn
  | uvWarnClear
  | uvFault
  | ovFault
  | overcurrent
  | thermalTrip
  | modEnRise
  | modEnFall
  | modResetNFall
  | modResetNRelease
  | railGood
  | railFault
  | refLoss
  | refclkRestore
  | tickRefEdge (late : Int)
  | tickRefEdgeMissing
  | page (write : Option Byte)
  | clearFaults
  | vinOvFaultLimit
  | vinUvWarnLimit
  | vinUvFaultLimit
  | statusWord
  | readVin (mv : Nat)
  | readIin (ma : Nat)
  | readVout (mv : Nat)
  | readIout (ma : Nat)
  | readTemperature1 (c : Int)
  | readTemperature2 (c : Int)
  | readTemperature3 (c : Int)
  | readPout (mw : Nat)
  | readPin (mw : Nat)
  | bypass
  | idcode
  | samplePreload
  | extest
  | bulkAccessResponse (h seq : Nat) (ok : Bool) (data : List Byte)
deriving DecidableEq, Repr

end Sys2Proof
end

