-- ==== Sys2Proof/Config.lean ====
section
/-! DEFINITION. What an implementation fixes and the free values: constants with no body. -/

namespace Sys2Proof

/-- The event code a trace-ring entry carries for a kind of event (R499 names the events and gives no codes). -/
opaque Config.traceCode : Nat → Nat

/-- Error-log codes of events that other chapters send to the log and the code table does not list (R478, R480). -/
opaque Config.logCode : Nat → Nat

/-- Offsets of the owner's forward values in the 65,536 bytes of an ESCROW header: step (8 bytes), k and lr_scale (4 bytes each); R421
gives no layout within it. -/
opaque Config.forwardStepAt : Fin 65529
opaque Config.forwardCountAt : Fin 65533
opaque Config.forwardScaleAt : Fin 65533

/-- Whether a fused multiply-add of 0 × ∞ with a NaN addend raises INVALID: IEEE 754 leaves it to the implementation, and R152 does not
say. -/
opaque Config.fmaZeroInfNan : Bool

/-- OFFSET of a hold tick's tick record, whose tick lies past the schedule (R218 gives none). -/
opaque Config.holdOffset : Nat → Nat

/-- TAKEN as a COND actor reads it where slot 0 is a free slot and no token was consumed (R206, R207). -/
opaque Config.freeTaken : Bool

/-- Device-local address, at a partner, of the mailbox slot of its flow: by partner device and flow index (R426). -/
opaque Config.mailboxAddress : Nat → Nat → Nat

/-- Device-local address, at a partner, where the block, unit or header part numbered goes in its escrow, version or narrow
region: by partner device, flow index, kind of part and number (R422, R425, R439, R442). -/
opaque Config.partnerAddress : Nat → Nat → Nat → Nat → Nat

/-- The DRAM bank that holds a far-store address (R271 counts requests by bank and gives no mapping). -/
opaque Config.dramBank : Nat → Nat

/-- Where an entry of a pool of the working reserve lies, by pool, partition and entry (R275 and R416 give no layout within it). -/
opaque Config.poolPlace : Nat → Nat → Nat → Nat

/-- Which tiles of a group, in ascending order, and (bit 64) whether its controller a failing group signature shows (R484). -/
opaque Config.groupFailing : Word → BitVec 65

/-- Lanes that a channel's training in service finds failing and replaces by spare lanes, by draw (R261: it depends on the stack). -/
opaque Config.lanesReplaced : Nat → Nat

/-- The signature of a lane test that fails (R296, R483). -/
opaque Config.laneSignature : Nat → Word

/-- A tile record's 96 KiB context, and a shared unit's record, as the stepping lays them out: by a key of what they hold
(R228, R500). -/
opaque Config.contextRecord : Nat → List Byte
opaque Config.unitRecord : Nat → List Byte

/-- Where a shared unit's record of a dump holds its trace ring: by kind (R500). -/
opaque Config.unitTraceAt : Nat → Nat

/-- A test's expected signature, by variant and stepping as one number, kind and index (R483). -/
opaque Config.testSignature : Nat → Nat → Nat → Word

/-- Whether a Falcon-1024 signature verifies: public key, message, signature bytes (R188, R432, R514 name the scheme and
leave its arithmetic to its own standard). -/
opaque Config.falconVerifies : List Byte → List Byte → List Byte → Bool

/-- The public key of the Falcon-1024 pair generated from a 256-bit seed, and a signature under it (R519, R520). -/
opaque Config.falconPublic : List Byte → List Byte
opaque Config.falconSign : List Byte → List Byte → List Byte

/-- A cold newcomer's step and abort epoch at the tick its START names (R442, R443 name no source for them). -/
opaque Config.coldStep : Nat → Nat
opaque Config.coldAbortEpoch : Nat → Nat
opaque Config.coldFirst : Nat → Nat

/-- The first tick a shadow computes, and that tick's step (R439, R440 name no source for them). -/
opaque Config.shadowFirst : Nat → Nat
opaque Config.shadowStep : Nat → Nat

/-- The read-only Gwynis tables: table, entry, coefficient (R173 to R175 give no values). -/
opaque Config.gwynis : Nat → Nat → Nat → BitVec 32

/-- Numbers that the device chooses for a connection: its queue pair number, starting packet sequence number, remote key and, for a
host slot, its cookie; by the model's counter (R352, R353, R365 give no values). -/
opaque Config.newQpn : Nat → Nat
opaque Config.newPsn : Nat → Nat
opaque Config.newRkey : Nat → Nat
opaque Config.newCookie : Nat → Word

/-- How a connection is set, by setting (0 tagged frames, 1 DSCP, 2 ACK timeout, 3 RNR retry, 4 retry count) and draw (R316, R317 make
them each connection's own and name no field that sets them). -/
opaque Config.connSetting : Nat → Nat → Nat

/-- The fields of a REFUSE datagram that no rule gives: HOST_ID, PMTU, QPN and PSN, by field and moment (R352). -/
opaque Config.refuseField : Nat → Nat → Nat

/-- A byte of the device-records region of the working reserve, at an offset and a moment (R275, R478 give no layout). -/
opaque Config.deviceRecord : Nat → Nat → Byte

/-- The fused root digests by slot, 32 bytes each, and the die's serial number (R515, R530: set at manufacture, no value given). -/
opaque Config.rootDigest : Nat → List Byte
opaque Config.deviceSerial : Word

/-- The fused device secret, which no register shows (R519). -/
opaque Config.deviceSecret : List Byte

/-- What SAMPLE/PRELOAD shifts out of the boundary cells, by draw (R551 names the pins and gives no order of cells). -/
opaque Config.boundarySample : Nat → Nat

end Sys2Proof
end

