-- ==== Sys2Proof/Machine/State.lean ====
section
/-! DEFINITION. The state of the module as plain data: everything the spec gives the device, the fabric and
the module's power chain, and the queue of waiting commands. Sparse stores are lists of (key, value) pairs. -/

namespace Sys2Proof.Machine

/-- A sparse table: keys in rising order, an unlisted key reading as its reset value. -/
abbrev Tab (α : Type) := List (Nat × α)

/-- No command ends the machine's run with a fault: every error of the spec is a state the device goes on from. -/
inductive Fault where
deriving DecidableEq, Repr

/-- Reasons a command has no meaning. -/
inductive Refusal where
  /-- Raised only by an arm of exec whose command is not modelled; safe, since no state follows. -/
  | notModelled (mnemonic : String)
deriving DecidableEq, Repr

/-- The three orderable variants (R1). -/
inductive Variant where
  | dj4096H | dj3072H | dj4096G
deriving DecidableEq, Repr, Inhabited

/-- The device states (R363). -/
inductive DevState where
  | off | boot | ready | degraded | fenced | dump
deriving DecidableEq, Repr, Inhabited

/-- The partition states (R239, R364). -/
inductive PartState where
  | empty | loaded | running | held | aborting | faulted
deriving DecidableEq, Repr, Inhabited

/-! ### The cell array (03_cell_array.md) -/

/-- A lane element (R73). -/
structure LaneEl where
  digit : BitVec 4
  sign : Bool
  swap : Bool
  par : Bool
deriving DecidableEq, Repr, Inhabited

/-- A column element: a 25-bit partial sum with its parity, or a swap token (R73, R74). -/
inductive ColEl where
  | psum (v : BitVec 25) (par : Bool)
  | swapTok
deriving DecidableEq, Repr, Inhabited

/-- One cell (R72): two weight registers with even parity, SHADOW_FULL, and the two output stages (R92). -/
structure Cell where
  active : BitVec 16 := 0
  activePar : Bool := false
  shadow : BitVec 16 := 0
  shadowPar : Bool := false
  full : Bool := false
  /-- the active weight was installed by a swap since the last purge (R101) -/
  installed : Bool := false
  east : List LaneEl := []
  south : List ColEl := []
deriving DecidableEq, Repr, Inhabited

/-- A combine-buffer entry (R78, R92): whether its activation block counts in k (R110), whether it marks
the output non-finite (R107), and otherwise the block partial p with exponent e (R104). -/
structure Partial where
  counts : Bool := false
  nonfinite : Bool := false
  p : Int := 0
  e : Int := 0
deriving DecidableEq, Repr, Inhabited

/-- A pass being issued by one segment (R86): its plan and set, whether it is its window's last, the window's ring, first
slot, first element row and number of rows, the denominations of the rows whose tags have been read, and the slot it
issues next, counted from its swap slot. -/
structure PassIssue where
  plan : Nat := 0
  set : Nat := 0
  last : Bool := false
  ring : Nat := 0
  baseSlot : Nat := 0
  baseRow : Nat := 0
  rows : Nat := 0
  denoms : List Nat := []
  /-- rows of the window already let go -/
  freed : Nat := 0
  sigma : Nat := 0
deriving DecidableEq, Repr, Inhabited

/-- A weight set loaded into one segment and not yet issued (R90): plan, set index, offset, cells and scale bytes written. -/
structure Load where
  plan : Nat := 0
  set : Nat := 0
  off : Nat := 0
  next : Nat := 0
  scaleNext : Nat := 0
  /-- begun ahead of its pass's firing, for this FEED record (R96, R202) -/
  pred : Option Nat := none
deriving DecidableEq, Repr, Inhabited

/-- A pass plan in progress (R85, R95, R559). -/
structure Plan where
  id : Nat := 0
  actor : Nat := 0
  feed : Nat := 0
  layerSlot : Nat := 0
  tick : Nat := 0
  opened : Bool := false
  rows : Nat := 0
  /-- element rows the plan's earlier windows issued in the step attempt (R62, point 0x03), and, for a firing run again
  by a layer repeat, what they were at its first run -/
  outRow : Nat := 0
  rerun : Option Nat := none
  /-- first element row and first slot of the window in each segment's ring -/
  baseRows : List Nat := [0, 0, 0, 0]
  baseSlots : List Nat := [0, 0, 0, 0]
  /-- sets whose accumulators have been cleared (R108) -/
  cleared : Nat := 0
  /-- element rows that each column has entered, over all sets (R92) -/
  entered : List Nat := List.replicate 128 0
  /-- sets whose swap slot each segment has issued, segments 0 to 3 -/
  issued : List Nat := [0, 0, 0, 0]
  /-- sets whose load each segment has begun -/
  loaded : List Nat := [0, 0, 0, 0]
  convSet : Nat := 0
  convRow : Nat := 0
deriving DecidableEq, Repr, Inhabited

/-- An activation block bound for an intake (R80): format code, element bytes, scale byte, base element index. -/
structure SrcBlk where
  fmt : Nat := 0
  bytes : List Byte := []
  scale : Nat := 0
  index : Nat := 0
  poisoned : Bool := false
deriving DecidableEq, Repr, Inhabited

/-- A feed ring of one layer slot and segment (R81 to R83, R103). Slot and row numbers run from the first
element row after the last purge. -/
structure Ring where
  slotBase : Nat := 0
  slotSize : Nat := 0
  tagBase : Nat := 0
  tagSize : Nat := 0
  rowsIn : Nat := 0
  slotIn : Nat := 0
  rowsOut : Nat := 0
  slotOut : Nat := 0
  issueSlot : Nat := 0
  window : Nat := 0
  /-- the partition's running-tick count when each queued row was written (R95) -/
  queuedAt : List Nat := []
  /-- denominations of the queued rows, oldest first -/
  denoms : List Nat := []
  /-- the blocks that the queued rows were made from, oldest first (R269) -/
  blocks : List SrcBlk := []
  /-- the slot-ring lines not yet final, by line of the stream, with the nibbles written so far (R83) -/
  lines : Tab (List Byte) := []
deriving DecidableEq, Repr, Inhabited

/-- The array of one tile. Keys: cells 128·k + n; rows k; segment columns 128·b + n; rings 4·slot + b. -/
structure Arr where
  cells : Tab Cell := []
  laneIn : Tab (List LaneEl) := []
  digitStage : Tab (List ColEl) := []
  forming : Tab (List (BitVec 25)) := []
  combine : Tab (List Partial) := []
  /-- block tags the drain port still has to apply at each segment column (R78) -/
  tags : Tab (List Nat) := []
  expActive : Tab (BitVec 8) := []
  expShadow : Tab (BitVec 8) := []
  issue : Tab (List PassIssue) := []
  loads : Tab (List Load) := []
  plans : List Plan := []
  nextPlan : Nat := 0
  faultStop : Bool := false
  passCount : Nat := 0
  activeLayer : Nat := 0
  /-- layer tags of the sets whose swap wave is under way in segment 0, oldest first (R101) -/
  swapTags : List Nat := []
  keptClose : List Nat := []
  /-- element rows each FEED record's windows took in the step attempt (R62, point 0x03) -/
  planRows : Tab Nat := []
  rings : Tab Ring := []
  intakeQ : Tab (List SrcBlk) := []
deriving DecidableEq, Repr, Inhabited

/-! ### The drain and the queue (04_accumulation.md, 05_vector_engine.md) -/

/-- An accumulator: its window integer and its tag byte (R63, R109). -/
structure Acc where
  val : Int := 0
  tag : BitVec 8 := 0
deriving DecidableEq, Repr, Inhabited

/-- A finished-tile queue entry (R169). -/
structure QEntry where
  hdr : BitVec 96 := 0
  data : List Byte := []
  rowMax : BitVec 32 := 0
  rowSum : BitVec 32 := 0
deriving DecidableEq, Repr, Inhabited

/-- A spot audit's counts for one layer and attempt (R399). -/
structure SpotCount where
  done : Nat := 0
  skipped : Nat := 0
  largest : Nat := 0
  sum : Nat := 0
  atWarn : Nat := 0
deriving DecidableEq, Repr, Inhabited

/-- The drain of one tile: accumulators by 128·m + n, block counts by m, overdraft flags by layer slot (R129),
largest output exponents by layer slot (R393), the queue, the layers already reported non-finite (R390), and by layer slot
the outputs that R132 wrote non-finite. -/
structure Drain where
  accs : Tab Acc := []
  blocks : Tab Nat := []
  /-- entries of an element row that count in its block count, with the columns still to enter them (R92, R108) -/
  late : Tab (List (Nat × List Nat)) := []
  ovf : List Nat := []
  xmax : Tab Int := []
  /-- the same for the layer runs that have not closed (R131) -/
  xrun : Tab Int := []
  queue : List QEntry := []
  nfSeen : List Nat := []
  nfOut : Tab Nat := []
deriving DecidableEq, Repr, Inhabited

/-! ### The vector engine and reduction unit (05_vector_engine.md) -/

/-- A node of a reduction tree: its value (bits of a float or integer, or an exact sum), its position, its flags. -/
structure RNode where
  val : Int := 0
  pos : Nat := 0
  nonfinite : Bool := false
  sat : Bool := false
deriving DecidableEq, Repr, Inhabited

/-- An open stream (R161): the opcode, TYPE and SUB[2] that opened it, its latched base position, its lines so
far, and the stack of completed subtrees, the deepest first. -/
structure Stream where
  op : Nat := 0
  typ : Nat := 0
  intLanes : Bool := false
  base : Nat := 0
  lines : Nat := 0
  stack : List (Nat × Option RNode) := []
deriving DecidableEq, Repr, Inhabited

/-- The body being run (R143): its actor, first bundle's offset, next bundle, bundle count. -/
structure Body where
  actor : Nat := 0
  addr : Nat := 0
  next : Nat := 0
  len : Nat := 0
  spec : Bool := false
  retired : Bool := false
deriving DecidableEq, Repr, Inhabited

/-- What a speculative body's instruction writes outside the suspense buffer, withheld until the firing is confirmed (R220, R222): a
mask, an index register, tallies with their tags and streams, the mode of their reduction, sticky bits (R156), SAT and NONFINITE of the
layer, an audited conversion as (target format, converted, overflowed, vanished). -/
structure HeldFx where
  pred : Option (Nat × BitVec 256) := none
  idx : Option (Nat × BitVec 48) := none
  tallies : List (Nat × BitVec 128 × BitVec 8 × Option Stream) := []
  mode : Nat := 0
  sticky : Nat := 0
  sat : Bool := false
  nonfinite : Bool := false
  audit : Option (Nat × Nat × Nat × Nat) := none
deriving DecidableEq, Repr, Inhabited

/-- A contribution to a network tree (R165): contributor index, tally value and tag, the mode of its reduction, the assigned tick. -/
structure Contrib where
  idx : Nat := 0
  val : BitVec 128 := 0
  tag : BitVec 8 := 0
  mode : Nat := 0
  tick : Nat := 0
deriving DecidableEq, Repr, Inhabited

/-- The vector engine and reduction unit of one tile; masks P0 to P7 (R147), index registers (R181), tallies and
tags by number (R160, R186). -/
structure Vec where
  preds : List (BitVec 256) := [BitVec.allOnes 256, 0, 0, 0, 0, 0, 0, 0]
  idx : List (BitVec 48) := [0, 0, 0, 0, 0, 0, 0, 0]
  tallies : Tab (BitVec 128) := []
  tags : Tab (BitVec 8) := []
  /-- RND + 8·FTZ under which a tally was last reduced; unlisted: RNE, no FTZ (R161, R166) -/
  modes : Tab Nat := []
  /-- tallies whose stored parity is wrong, not yet met (R176) -/
  badTallies : List Nat := []
  streams : Tab Stream := []
  body : Option Body := none
  /-- open network trees: (tree, destination tally) (R165) -/
  netOpen : List (Nat × Nat) := []
  stopped : Bool := false
deriving DecidableEq, Repr, Inhabited

/-! ### The scheduler and DMA engine (06_structure_and_ticks.md, 07_memory.md) -/

/-- An actor context (R204): slot counters, the TAKEN bits of slot 0's tokens oldest first, firings done and
completed in the attempt. -/
structure ActorSt where
  counts : List Nat := [0, 0, 0, 0, 0, 0, 0, 0]
  takens : List Bool := []
  fired : Nat := 0
  completed : Nat := 0
  /-- a speculative firing waits for its real slot-0 token (R221) -/
  specOpen : Bool := false
deriving DecidableEq, Repr, Inhabited

/-- A firing, waiting in a unit's queue or running: actor, assigned tick, order of readiness, whether it is
speculative, whether it does its work, its edges' TAKEN bits once known, the worst status of its transfers. -/
structure Firing where
  actor : Nat := 0
  tick : Nat := 0
  order : Nat := 0
  spec : Bool := false
  work : Bool := true
  taken : List Bool := []
  finished : Bool := false
  status : Nat := 0
  /-- a layer repeat runs the firing again: it takes and sends no token (R131) -/
  rerun : Bool := false
  /-- the element rows its plan had issued before it, for a PASS (R62) -/
  base : Nat := 0
deriving DecidableEq, Repr, Inhabited

/-- The tile scheduler: contexts, ready firings, running firings, the suspense token hold (R220), finish cycle. -/
structure Sched where
  ctx : Tab ActorSt := []
  ready : List Firing := []
  running : List Firing := []
  order : Nat := 0
  hold : List (Nat × BitVec 128) := []
  /-- per actor, what its unchecked speculative body wrote that is withheld, oldest first (R222) -/
  suspense : Tab (List HeldFx) := []
  /-- speculative firings whose work is complete and whose check is still to come (R221) -/
  specDone : List Firing := []
  /-- cycle of the current tick at which the tile's work was last completed -/
  finish : Nat := 0
  /-- finish cycle and overrun of the last ended tick (R241) -/
  lastFinish : Nat := 0
  overrun : Bool := false
  /-- update ranges started for a done actor and not yet applied (R215, R413): (actor, range) -/
  updates : List (Nat × Nat) := []
  /-- the completed firings of layers that have not closed, by layer slot: what a repeat runs again (R131) -/
  log : List (Nat × Firing) := []
  stopped : Bool := false
deriving DecidableEq, Repr, Inhabited

/-- A descriptor in the DMA engine: its list offset, its 64 bytes, its phase (0 waiting, 1 its far-store requests made,
2 moved, 3 complete), its status (R358), its guard entry. -/
structure Desc where
  off : Nat := 0
  bytes : List Byte := []
  phase : Nat := 0
  status : Nat := 0
  /-- it was fetched from a poisoned line (R254) -/
  poisoned : Bool := false
  /-- a SCAN whose trailer did not match: the firing ends as for a failed transfer (R342) -/
  mismatch : Bool := false
  guardIdx : Option Nat := none
  /-- what has arrived of a checked stream read from another module, as (offset, bytes), and its trailer (R342) -/
  got : List (Nat × List Byte) := []
  trailer : Nat := 0
deriving DecidableEq, Repr, Inhabited

/-- The descriptor list the DMA engine runs: for an actor's firing, or for a host DMA command (slot, SEQ). -/
structure DmaRun where
  actor : Option Nat := none
  host : Option (Nat × Nat) := none
  spec : Bool := false
  tick : Nat := 0
  descs : List Desc := []
deriving DecidableEq, Repr, Inhabited

/-- A packet-layer request waiting for a row of a near-store bank (R246): its port, the part of the request that lies in
the row (device-local address and bytes), the request with what has been read of it, whether that was poisoned, and the cycle it joined. -/
structure BankReq where
  port : Nat := 0
  addr : Nat := 0
  len : Nat := 0
  req : MeshReq := default
  poisoned : Bool := false
  age : Nat := 0
deriving DecidableEq, Repr, Inhabited

/-- An ACTORS record (R197). -/
structure ActorRec where
  kind : Nat := 0
  slots : Nat := 0
  flags : Nat := 0
  runahead : Nat := 0
  layerSlot : Nat := 0
  tickOffset : Nat := 0
  firings : Nat := 0
  need : List Nat := []
  arg : Nat := 0
  len : Nat := 0
  outFirst : Nat := 0
  outCount : Nat := 0
deriving DecidableEq, Repr, Inhabited

/-- An EDGES record (R198). -/
structure EdgeRec where
  tile : Nat := 0
  actor : Nat := 0
  slot : Nat := 0
deriving DecidableEq, Repr, Inhabited

/-- A FEED record (R201): its 32 bytes' fields; `kind` 1 a ring, 2 a pass plan. -/
structure FeedRec where
  kind : Nat := 0
  seg : Nat := 0
  destQueue : Bool := false
  layerSlot : Nat := 0
  slotBase : Nat := 0
  slotSize : Nat := 0
  tagBase : Nat := 0
  tagSize : Nat := 0
  windowRows : Nat := 0
  gateSlots : Nat := 0
  gateTicks : Nat := 0
  setCount : Nat := 0
  setList : Nat := 0
  dest : Nat := 0
  destSize : Nat := 0
  outIndex0 : Nat := 0
deriving DecidableEq, Repr, Inhabited

/-- What the image configures on one tile: TILECONF (R196), ACTORS, EDGES, FEED. -/
structure TileConf where
  susBase : Nat := 0
  susSize : Nat := 0
  susLine : Nat := 0
  susLines : Nat := 0
  actors : List ActorRec := []
  edges : List EdgeRec := []
  feeds : List FeedRec := []
deriving DecidableEq, Repr, Inhabited

/-- One tile. Its near store and till bytes lie in `State.mem`; its registers' stored bits in `State.regs`. -/
structure Tile where
  arr : Arr := {}
  drain : Drain := {}
  vec : Vec := {}
  sched : Sched := {}
  dma : List DmaRun := []
  conf : TileConf := {}
  /-- requests by bank; key 32 holds those whose port is at its limit -/
  banks : Tab (List BankReq) := []
  /-- per bank, the cycle of its last test-port access (R246) -/
  testPort : Tab Nat := []
  /-- per bank, the cycle of its last grant (R21, R246) -/
  granted : Tab Nat := []
  resetEpoch : Nat := 0
  resetting : Bool := false
  testing : Bool := false
  spots : Tab SpotCount := []
deriving DecidableEq, Repr, Inhabited

/-- A saved tile context (R228): the number its record's bytes go by, the shape, digest and stepping it was saved under, and what
the scheduler and the engines owned. -/
structure CtxRec where
  key : Nat := 0
  gw : Nat := 0
  gh : Nat := 0
  digest : List Byte := []
  stepping : Nat := 0
  arr : Arr := {}
  drain : Drain := {}
  vec : Vec := {}
  sched : Sched := {}
  dma : List DmaRun := []
  spots : Tab SpotCount := []
deriving DecidableEq, Repr, Inhabited

/-! ### The structure image and the step context (06_structure_and_ticks.md) -/

/-- A LAYERS record (R194). -/
structure LayerRec where
  tag : Nat := 0
  slot : Nat := 0
  cap : Nat := 0
  rndIn : Nat := 0
  rndOut : Nat := 0
  headroom : Nat := 0
  anchor : Int := 0
  rungs : List (Nat × Nat) := []
  rowstat : Bool := false
  continue_ : Bool := false
  inWidth : Nat := 0
  outWidth : Nat := 0
deriving DecidableEq, Repr, Inhabited

/-- A SCHEDULE record (R195). -/
structure SchedRec where
  phase : Nat := 0
  settle : Bool := false
  microBatch : Nat := 0
  stage : Nat := 0
  expect : Nat := 0
deriving DecidableEq, Repr, Inhabited

/-- A ROUTES record (R199). -/
structure RouteRec where
  src : Nat := 0
  dst : Nat := 0
  cycles : Nat := 0
  order : Nat := 0
  stream : Nat := 0
deriving DecidableEq, Repr, Inhabited

/-- A TREES record (R200). -/
structure TreeRec where
  tree : Nat := 0
  op : Nat := 0
  typ : Nat := 0
  bcast : Bool := false
  root : Nat := 0
  dst : Nat := 0
  contrib : List Nat := []
deriving DecidableEq, Repr, Inhabited

/-- A BUCKETS record (R380). -/
structure BucketRec where
  op : Nat := 0
  sparse : Bool := false
  stoch : Bool := false
  alg : Nat := 0
  size : Nat := 0
  p : Nat := 0
  rank : Nat := 0
  flowFirst : Nat := 0
  trigTile : Nat := 0
  trigActor : Nat := 0
  doneTile : Nat := 0
  doneActor : Nat := 0
  doneSlot : Nat := 0
  anchor0 : Int := 0
  src : Nat := 0
  dst : Nat := 0
  flagsAddr : Nat := 0
deriving DecidableEq, Repr, Inhabited

/-- A FLOWS record (R299). -/
structure FlowRec where
  kind : Nat := 0
  dstPart : Nat := 0
  dstDev : Nat := 0
  portMask : Nat := 0
  remoteFlow : Nat := 0
  creditKib : Nat := 0
  slotLimit : Nat := 0
  timeoutUs : Nat := 0
  cvuMode : Nat := 0
deriving DecidableEq, Repr, Inhabited

/-- The NUMERICS record (R400). -/
structure NumericsRec where
  policy : Nat := 0
  auditMode : Nat := 0
  spotEnable : Nat := 0
  spotK : Nat := 0
  spotWarn : Nat := 0
  balOff : Nat := 0
  balSize : Nat := 0
  logOff : Nat := 0
  logSize : Nat := 0
deriving DecidableEq, Repr, Inhabited

/-- A PREDICT record (R202). -/
structure PredictRec where
  kind : Nat := 0
  confidence : Nat := 0
  tile : Nat := 0
  target : Nat := 0
deriving DecidableEq, Repr, Inhabited

/-- A loaded structure image, as LOAD_IMAGE distributes it (R187 to R203); its identity is IMAGE_ID and digest. -/
structure Image where
  id : Nat := 0
  digest : List Byte := []
  signed : Bool := false
  keyId : List Byte := []
  sig : List Byte := []
  sigState : Nat := 0
  keyIndex : Nat := 0
  toolVersion : Nat := 0
  runaheadLimit : Nat := 0
  resumeGap : Nat := 1
  ticksPerStep : Nat := 1
  carveGib : Nat := 0
  flowCount : Nat := 0
  slotQuota : Nat := 0
  regRate : Nat := 0
  regBurst : Nat := 0
  seed : Word := 0
  layers : List LayerRec := []
  schedule : List SchedRec := []
  routes : List RouteRec := []
  trees : List TreeRec := []
  buckets : List BucketRec := []
  flows : List FlowRec := []
  numerics : NumericsRec := {}
  predict : List PredictRec := []
deriving DecidableEq, Repr, Inhabited

/-- A layer's anchor register, less its image fields (R115). -/
structure Anchor where
  anchor : Int := 0
  startRung : Nat := 0
  established : Bool := false
  lastRung : Nat := 0
  lastRepeat : Bool := false
deriving DecidableEq, Repr, Inhabited

/-- A layer's course in the current attempt (R130 to R134): rung in force, whether it is running, its repeats in the
present run, one more than the highest rung at which it closed after a repeat, the tiles that have finished their part. -/
structure LayerRun where
  rung : Nat := 0
  running : Bool := false
  repeats : Nat := 0
  top : Nat := 0
  /-- times it has closed in the attempt -/
  closes : Nat := 0
  tilesDone : List Nat := []
deriving DecidableEq, Repr, Inhabited

/-- A purge in progress (R225, R227): the tiles still to report, the abort tick A, whether the fault that caused it
is to leave the partition FAULTED. -/
structure Purge where
  tiles : List Nat := []
  abortTick : Nat := 0
  faulted : Bool := false
  /-- the broadcast has reached the tile agents; false while the management controller is not running (R491) -/
  sent : Bool := true
deriving DecidableEq, Repr, Inhabited

/-- An audit count: layer tag (or bucket), point, format; converted, overflowed, vanished (R395). -/
structure AuditCount where
  layer : Nat := 0
  point : Nat := 0
  fmt : Nat := 0
  converted : Nat := 0
  overflowed : Nat := 0
  vanished : Nat := 0
deriving DecidableEq, Repr, Inhabited

/-- The step context of a partition: latched anchors and multiplier, presets, and the attempt's course (R117, R134,
R213, R224, R386, R389, R391, R414). -/
structure StepCtx where
  step : Nat := 0
  firstTick : Nat := 0
  attempt : Nat := 0
  firstAttemptTick : Nat := 0
  firstAttemptCycle : Nat := 0
  /-- the cycle at which the settlement tick ended -/
  endCycle : Nat := 0
  seed : Word := 0
  /-- an attempt occupies the current ticks (R213) -/
  active : Bool := false
  /-- ticks spent HELD within the attempt -/
  shift : Nat := 0
  latched : Tab Anchor := []
  presets : Tab Nat := []
  layers : Tab LayerRun := []
  bucketAnchor : Tab Int := []
  bucketNext : Tab Int := []
  presetD64 : List Nat := []
  lrScale : BitVec 32 := 0x3F800000
  wide : Bool := false
  /-- running ticks counted since load (R95) -/
  runTicks : Nat := 0
  /-- votes raised for the current tick (R306) -/
  votes : BitVec 8 := 0
  nonfiniteSeen : Bool := false
  overdraftSeen : Bool := false
  firstNf : Nat := 0xFFFF
  /-- the cycle and layer slot of the report that firstNf is kept from (R390) -/
  nfReport : Nat × Nat := (0, 0)
  firstNfTick : Nat := 0
  skipLast : Bool := false
  skippedSteps : Nat := 0
  audits : List AuditCount := []
  /-- the attempt's tick cause flags (R217) and per-tick record flags (R218) -/
  causes : BitVec 8 := 0
  throttled : Bool := false
  /-- the tick whose tick record is due, with its finish cycle, offset and flag byte (R218) -/
  recordDue : Option (Nat × Nat × Nat × Nat) := none
  /-- the settlement result of the step has not arrived: the partition waits or holds (R428) -/
  waitResult : Bool := false
  /-- the settlement or hold tick whose result is awaited -/
  awaited : Nat := 0
  holding : Bool := false
  /-- the step's records and weights: sums of squares per layer slot W2, G2, U2 in exact units of 2^-596 (R392) -/
  norms : Tab (Int × Int × Int) := []
deriving DecidableEq, Repr, Inhabited

/-! ### Buckets (11_training_support.md) -/

/-- One reduced block: exact element sums and header flags (R66, R68). -/
structure DBlock where
  elems : List Int := []
  nonfinite : Bool := false
  sat : Bool := false
  empty : Bool := true
  /-- ranks that have contributed -/
  ranks : List Nat := []
deriving DecidableEq, Repr, Inhabited

/-- An open (or waiting) bucket exchange (R382 to R388). -/
structure BucketRun where
  b : Nat := 0
  opened : Bool := false
  d64 : Bool := false
  /-- the exchange is D64 from its start (R389) -/
  preset : Bool := false
  /-- its place in the order in which triggers' firings completed (R383) -/
  asked : Nat := 0
  tick : Nat := 0
  taken : Bool := true
  blocks : Tab DBlock := []
  /-- distributed (already reduced) blocks received, by block index -/
  results : Tab DBlock := []
  clamped : Nat := 0
  /-- the agreed largest exponent of the last exchange (R393) -/
  agreed : Option Int := none
  /-- results already written at a completed exchange -/
  written : Bool := false
deriving DecidableEq, Repr, Inhabited

/-! ### Settlement, escrow and spares (12_settlement_and_spares.md) -/

/-- A recipe record (R411). -/
structure Recipe where
  layerTag : Nat := 0
  opt : Nat := 0
  narrowOut : Bool := false
  first : Nat := 0
  count : Nat := 0
  bucket : Nat := 0
  block : Nat := 0
  narrowFmt : Nat := 0
  lr : BitVec 32 := 0
  beta1 : BitVec 32 := 0
  beta2 : BitVec 32 := 0
  eps : BitVec 32 := 0
  wd : BitVec 32 := 0
  narrowAddr : Nat := 0
  raw : List Byte := []
deriving DecidableEq, Repr, Inhabited

/-- A journal or retention entry (R415 to R417): the identity (flow, step, offset, index), its absolute tick, the
packet as received or sent. `acked`: for retention, acknowledged; for the journal, met in the present attempt. -/
structure Msg where
  flow : Nat := 0
  step : Nat := 0
  off : Nat := 0
  idx : Nat := 0
  tick : Nat := 0
  pkt : Packet := default
  acked : Bool := false
deriving DecidableEq, Repr, Inhabited

/-- An escrow slot (R448): keepers 0 and 1, then owners 0 and 1. -/
structure EscrowSlot where
  role : Nat := 0
  dev : Nat := 0
  flow : Nat := 0
  params : Nat := 0
  watermark : Nat := 0
  copyStep : Nat := 0
  holdStep : Nat := 0
  /-- catch-up of a settled hold is running -/
  catchUp : Bool := false
  /-- units of a first copy already sent or received (R425) -/
  copied : Nat := 0
  /-- blocks of the current step folded by the escrow pass (R423) -/
  passDone : Nat := 0
  /-- the parts of an owner's hold that forward writes of the unsettled step have reached: first byte, one past the last, stamped tick
(R422, R423) -/
  arrived : List (Nat × Nat × Nat) := []
  /-- the fingerprint of the present step has been written to this partner (R426) -/
  fprintSent : Bool := false
  /-- a COPYING slot takes part in settlement from the first step begun after its copy did (R425) -/
  joined : Bool := false
deriving DecidableEq, Repr, Inhabited

/-- A job's binding (R407). -/
structure Binding where
  jobId : Nat := 0
  jobEpoch : Nat := 0
  keys : List (List Byte) := []
  quorum : Nat := 0
  params : Nat := 0
  tree : Nat := 0
  slots : List EscrowSlot := []
  recipes : List Recipe := []
  ownerRecipes : List (List Recipe) := []
  imageDigest : List Byte := []
  sigState : Nat := 0
  sigKey : Nat := 0
  expelled : List Nat := []
  fenced : Bool := false
  /-- the tree context's flag byte, parent port, child mask and vote wait as last bound -/
  treeShape : Nat × Nat × Nat × Nat := (0, 0, 0, 0)
deriving DecidableEq, Repr, Inhabited

/-- Shadowing and takeover (R438 to R444, R449); `mode` as UPD_JOIN MODE. -/
structure Join where
  mode : Nat := 0
  memberDev : Nat := 0
  memberFlow : Nat := 0
  qualify : Nat := 0
  copyRate : Nat := 0
  matched : Nat := 0
  copied : Nat := 0
  copyDone : Bool := false
  computing : Bool := false
  stepMatched : Bool := true
  sources : List Nat := []
  unit : Nat := 0
  admitModule : Option (Nat × Nat) := none
  /-- as a member: the flow of the shadow it serves -/
  serves : Option Nat := none
  /-- tick fingerprints by tick: own, and the member's (R440) -/
  ownPrints : List (Nat × Nat) := []
  peerPrints : List (Nat × Nat) := []
  served : Nat := 0
  /-- as a member: the step in which the copy to its shadow was completed -/
  servedStep : Option Nat := none
deriving DecidableEq, Repr, Inhabited

/-- Settlement state of a partition (R426 to R430, R447, R450). -/
structure Settle where
  settledVer : Nat := 0
  /-- the step whose update produced the settled version (R429) -/
  producedBy : Nat := 0
  updateCount : Nat := 0
  rangesDone : List Nat := []
  /-- the running check value of each recipe record's piece, by index, as its update engine wrote it (R346) -/
  pieces : Tab Nat := []
  /-- the settled version's state fingerprint as G[6] and G[7] combined it (R346) -/
  settledPrint : Option Nat := none
  narrowWritten : List Nat := []
  /-- partners whose fingerprint mismatched in the previous attempt of this step (R430) -/
  disputeOnce : List Nat := []
  journal : List Msg := []
  retention : List Msg := []
  journalFullOnce : Bool := false
  /-- messages posted and not yet in a compared tick fingerprint: tick, flow, data (R345) -/
  posted : List (Nat × Nat × List Byte) := []
  /-- RESTORE completed, START must name this step (R471) -/
  restored : Option Nat := none
deriving DecidableEq, Repr, Inhabited

/-! ### Checkpoints (13_checkpoints.md) -/

/-- The checkpoint target (R457): connections, remote key, slot length, slots (address, used). -/
structure CkptTarget where
  conns : List Nat := []
  rkey : Nat := 0
  slotLen : Nat := 0
  slots : List (Nat × Bool) := []
deriving DecidableEq, Repr, Inhabited

/-- A generation being copied (R455, R459). Objects are numbered 0 META, 1 + j STATE of granule j, 2^40 SEAL;
`outstanding` lists (object, index of its connection), oldest first. -/
structure CkptCopy where
  gen : Nat := 0
  slot : Nat := 0
  rkey : Nat := 0
  conns : List Nat := []
  ver : Nat := 0
  granules : Nat := 0
  metaSent : Bool := false
  issued : List Nat := []
  copied : List Nat := []
  outstanding : List (Nat × Nat) := []
  /-- granules copied ahead, with their bytes, and granules that held writers wait on (R460) -/
  staged : List (Nat × List Byte) := []
  waiting : List Nat := []
  metaBytes : List Byte := []
  fprint : Word := 0
deriving DecidableEq, Repr, Inhabited

/-- A RESTORE in progress (R469): what was read so far. Its reads are numbered 0 the commit record's header, 1 its rest, 2 SEAL,
3 META, 4 + j STATE object j; `outstanding` lists those under way as (read, index of its connection), oldest first. -/
structure RestoreRun where
  host : Nat := 0
  seq : Nat := 0
  conns : List Nat := []
  rkey : Nat := 0
  gen : Nat := 0
  commitAddr : Nat := 0
  commitLen : Nat := 0
  commit : List Byte := []
  sealBytes : List Byte := []
  meta_ : List Byte := []
  slotAddr : Nat := 0
  /-- the command's epoch check failed as it started: STALE_EPOCH, where every other check passes (R358) -/
  stale : Bool := false
  /-- STATE objects asked for, and STATE objects written -/
  next : Nat := 0
  done : Nat := 0
  outstanding : List (Nat × Nat) := []
deriving DecidableEq, Repr, Inhabited

/-- A partition's checkpoint state (R451 to R461, R474, R475). -/
structure Ckpt where
  pending : Bool := false
  target : CkptTarget := {}
  copy : Option CkptCopy := none
  lastSealed : Nat := 0
  lastFail : Nat := 0
  restore : Option RestoreRun := none
deriving DecidableEq, Repr, Inhabited

/-- Far-store requests waiting at a partition's regulator (R273): bytes, source, and the address of the next one. -/
structure RegWait where
  bytes : Nat := 0
  source : Nat := 0
  addr : Nat := 0
deriving DecidableEq, Repr, Inhabited

/-- A far-store request of at most one 256-byte unit (R271): its source, address and bytes. -/
structure FsReq where
  source : Nat := 0
  addr : Nat := 0
  bytes : Nat := 0
deriving DecidableEq, Repr, Inhabited

/-- A request that came on a flow and waits to be served (R273, R303): its port, its flow, whether its message's trailer has shown a
mismatch. -/
structure Served where
  port : Nat := 0
  flow : Nat := 0
  bad : Bool := false
  pkt : Packet := default
deriving DecidableEq, Repr, Inhabited

/-- An engine's operation whose requests have been made (R273): its number, the engine, its spans as (address, bytes). -/
structure RegOp where
  id : Nat := 0
  engine : Nat := 0
  spans : List (Nat × Nat) := []
  /-- the request of another module that the operation serves -/
  served : Option Served := none
deriving DecidableEq, Repr, Inhabited

/-- One partition; its regulator holds whole bytes and a fraction in units of 10^-4 byte (R273). -/
structure Part where
  state : PartState := .empty
  origin : Nat := 0
  gw : Nat := 0
  gh : Nat := 0
  image : Option Image := none
  carve : Nat := 0
  abortEpoch : Nat := 0
  aborted : Option (Nat × Nat) := none
  resetEpoch : Nat := 0
  startAt : Option Nat := none
  replayAt : Option Nat := none
  preempt : Bool := false
  /-- the pre-emption takes effect at the boundary just begun (R98) -/
  preemptDue : Bool := false
  /-- the tick at which the partition became HELD -/
  heldTick : Nat := 0
  /-- tiles of the partition were reset while it was HELD and no context was restored since (R488) -/
  heldReset : Bool := false
  /-- the next resumption begins a replay (R364) -/
  replay : Bool := false
  /-- tiles to reset once the purge has completed, with the command (R488) -/
  resetAfter : List Nat := []
  /-- a reset of the partition is under way (R490) -/
  resetting : Bool := false
  purge : Option Purge := none
  ctx : StepCtx := {}
  anchors : Tab Anchor := []
  buckets : List BucketRun := []
  earlyDeposits : List (Nat × Packet) := []
  /-- buckets that took a faulty block in the attempt (R66) -/
  spoilt : List Nat := []
  binding : Option Binding := none
  settle : Settle := {}
  join : Join := {}
  ckpt : Ckpt := {}
  regions : List (Nat × Nat) := []
  quota : List Nat := []
  stashBase : Nat := 0
  bucketTokens : Nat := 0
  bucketFrac : Nat := 0
  regWait : List RegWait := []
  /-- engine operations waiting for their requests to enter, and the number of the next (R273) -/
  regOps : List RegOp := []
  nextOp : Nat := 0
  trees : Tab (List Contrib) := []
deriving DecidableEq, Repr, Inhabited

/-! ### Links, flows, Ethernet (08_links_and_ethernet.md) -/

/-- What waits on a fabric request slot. -/
inductive SlotUse where
  | dma (t k : Nat)
  /-- data of descriptor k's stream from offset `at_` on, for the local address `dst` -/
  | read (t k dst at_ : Nat)
  /-- the trailer after descriptor k's source (R342) -/
  | trailer (t k : Nat)
  | fdTag (h seq partner : Nat)
  | send
  | deposit (q b : Nat)
  | shadow (q : Nat)
deriving DecidableEq, Repr, Inhabited

/-- A packet on its way out: its partition and flow, what waits for its reply, and, for a retained message, its tick
offset and its index among the flow's packets of that offset (R415, R417). -/
structure OutPkt where
  q : Nat := 0
  flow : Nat := 0
  usage : SlotUse := .send
  ident : Option (Nat × Nat) := none
  pkt : Packet := default
deriving DecidableEq, Repr, Inhabited

/-- One lane of a link port (R325): state 0 ACTIVE, 1 OUT, 2 TESTING, 3 RETIRED. -/
structure Lane where
  state : Nat := 0
  faulty : Bool := false
  /-- the cycle at which a test passed, while the lane waits to return -/
  passedAt : Option Nat := none
deriving DecidableEq, Repr, Inhabited

/-- A link port (R293 to R298, R322 to R326). `state`: 0 DOWN, 1 TRAINING, 2 UP, 3 RETRAINING. -/
structure Port where
  state : Nat := 0
  enable : Bool := true
  fecReq : Bool := true
  fecMode : Bool := false
  partnerPort : Nat := 0
  partnerDev : Nat := 0
  partnerSwitch : Bool := false
  /-- the partner asked for LR at the last training (R297) -/
  partnerLR : Bool := false
  lanes : List Lane := [{}, {}, {}, {}]
  /-- SEQ of the last data or control flit sent, last SEQ received in order -/
  txSeq : Nat := 0
  rxSeq : Nat := 0
  retryAsked : Bool := false
  /-- replay buffer: (SEQ, flit bytes) unacknowledged, oldest first -/
  replay : List (Nat × List Byte) := []
  retries : Nat := 0
  /-- cycles of the retrains that failed -/
  retrainFails : List Nat := []
  creditReq : Nat := 4096
  creditRsp : Nat := 4096
  /-- packets waiting for credits (R295) -/
  sendReq : List OutPkt := []
  sendRsp : List OutPkt := []
  /-- control slots waiting for room in the replay buffer -/
  ctlWait : List CtlSlot := []
  /-- bytes of packets sent that do not fill a data flit yet (R293) -/
  txTail : List Byte := []
  /-- packet bytes received and not yet forming a whole packet; packets and symbols received and not yet taken -/
  rxBytes : List Byte := []
  rxReady : List Packet := []
  rxSyms : List CtlSlot := []
  /-- credits to return with the next flits (R293) -/
  owedReq : Nat := 0
  owedRsp : Nat := 0
  /-- departure time of the last TIME_REQ (R309), in 1/16 reference cycles -/
  timeReqAt : Option Nat := none
  delay : Nat := 0
  delayValid : Bool := false
  wasUp : Bool := false
deriving DecidableEq, Repr, Inhabited

/-- A tree context (R307, R308, R327, R328), with the votes collected for the tick being voted. -/
structure TreeCtx where
  valid : Bool := false
  root : Bool := false
  timing : Bool := false
  parent : Nat := 0
  childMask : BitVec 16 := 0
  epoch : Nat := 0
  wait : Nat := 0
  part : Nat := 0
  /-- upward votes received: (tick, port, vote) -/
  got : List (Nat × Nat × BitVec 8) := []
  /-- own bits by tick awaiting the upward send -/
  own : List (Nat × BitVec 8) := []
  sentTick : Nat := 0
  sentAny : Bool := false
  lastTick : Nat := 0
  lastVote : BitVec 8 := 0
  suspectDev : Nat := 0
deriving DecidableEq, Repr, Inhabited

/-- A flow in service (R299, R301, R338, R415): its record, current partner, traffic counters. -/
structure Flow where
  q : Nat := 0
  idx : Nat := 0
  cfg : FlowRec := {}
  dstDev : Nat := 0
  portMask : Nat := 0
  closed : Bool := false
  /-- messages sent and received in the current tick offset: (offset, count) -/
  sentIdx : List (Nat × Nat) := []
  rcvdIdx : List (Nat × Nat) := []
  /-- running check values of the message being sent and received, and the ports they go by (R338) -/
  txRun : Option Word := none
  txPort : Option Nat := none
  rxRun : Option Word := none
  rxPort : Option Nat := none
  rxBad : Bool := false
  rxLines : List Nat := []
  /-- requests waiting for a slot, oldest first (R272) -/
  queue : List OutPkt := []
deriving DecidableEq, Repr, Inhabited

/-- A held fabric request slot (R300, R301). -/
structure ReqSlot where
  num : Nat := 0
  gen : Nat := 0
  q : Nat := 0
  flow : Nat := 0
  usage : SlotUse := .send
  bytes : Nat := 0
  dst : Nat := 0
  spec : Bool := false
  tick : Nat := 0
  ident : Option (Nat × Nat) := none
deriving DecidableEq, Repr, Inhabited

/-- A RoCEv2 connection (R317 to R320): `kind` 0 management, 1 host data, 2 pool; rates in kbit/s. -/
structure Conn where
  qpn : Nat := 0
  port : Nat := 0
  kind : Nat := 0
  host : Nat := 0
  peer : List Byte := []
  peerQpn : Nat := 0
  psn : Nat := 0
  pmtu : Nat := 0
  rkey : Nat := 0
  /-- IEEE 802.1Q tagged frames, DSCP, ACK timeout and RNR retry, as the connection is set (R316, R317) -/
  tagged : Bool := false
  dscp : Nat := 0
  ackTimeout : Nat := 0
  rnrRetry : Nat := 0
  retries : Nat := 0
  retryMax : Nat := 7
  rate : Nat := 400000000
  target : Nat := 400000000
  /-- α of R318 as an exact fraction: numerator over 256^exponent -/
  alphaNum : Nat := 1
  alphaExp : Nat := 0
  steps : Nat := 0
  cnpSinceDecay : Bool := false
  /-- the cycle of the last notification sent (R318) -/
  cnpAt : Option Nat := none
deriving DecidableEq, Repr, Inhabited

/-- An Ethernet port (R331). `state`: 0 DOWN, 1 NEGOTIATING, 2 UP. -/
structure EthPort where
  state : Nat := 0
deriving DecidableEq, Repr, Inhabited

/-! ### Host control (10_host_control.md) -/

/-- A host slot (R353, R355, R359). -/
structure HostSlot where
  attached : Bool := false
  held : Bool := false
  cookie : Word := 0
  qpn : Nat := 0
  anySeq : Bool := true
  h : Nat := 0
  /-- reply cache: (SEQ, status record) of the SEQs from H − 255 to H, newest first -/
  cache : List (Nat × List Byte) := []
deriving DecidableEq, Repr, Inhabited

/-- An accepted command (R356, R360). `phase`: 0 waiting, 1 awaiting bulk or staging, 2 effect in progress. -/
structure Cmd where
  host : Nat := 0
  seq : Nat := 0
  opcode : Nat := 0
  partition : Nat := 0
  flags : Nat := 0
  payloadLen : Nat := 0
  jobEpoch : Nat := 0
  arg0 : Nat := 0
  arg1 : Nat := 0
  bulkAddr : Nat := 0
  bulkLen : Nat := 0
  bulkRkey : Nat := 0
  arg2 : Nat := 0
  reserved : Nat := 0
  payload : List Byte := []
  /-- the SEND was shorter than a header -/
  short : Bool := false
  phase : Nat := 0
  bulk : List Byte := []
  /-- results kept until completion -/
  r0 : Nat := 0
  r1 : Nat := 0
  /-- partners whose failure-domain tag is still to come (R408) -/
  awaiting : List Nat := []
deriving DecidableEq, Repr, Inhabited

/-- What leaves the block: everything it sends on a port, a pin or a bus, in order. -/
inductive Emission where
  | status (h : Nat) (rec : List Byte)
  | attachReply (e : Nat) (dg : List Byte)
  | nak (qpn code : Nat)
  | rdmaReadReply (qpn : Nat) (data : List Byte)
  | rdmaRefused (qpn : Nat)
  /-- a congestion notification packet (R318) -/
  | cnp (qpn : Nat)
  | rdmaAck (qpn : Nat)
  | bulkRead (h seq addr len rkey : Nat)
  | bulkWrite (h seq addr rkey : Nat) (data : List Byte)
  | register (addr : Nat) (v : Word)
  | windowRead (t off : Nat) (data : List Byte)
  | flit (p : Nat) (bytes : List Byte)
  | packet (p : Nat) (k : Packet)
  | symbol (p : Nat) (c : CtlSlot)
  /-- a port's own half of the exchange at training: identifier, FEC mode (R297) -/
  | training (p : Nat) (dev : Option Nat) (lr : Bool)
  | poolWrite (qpn addr rkey : Nat) (data : List Byte)
  | poolRead (qpn addr len rkey : Nat)
  | alert
  | pmbus (code : Nat) (value : Nat)
  | jtag (dr : Nat)
deriving DecidableEq, Repr, Inhabited

/-! ### Memory engines (07_memory.md) -/

/-- A guard entry (R269): the units covered, those STALE, the units whose write is held with its bytes, the
tile and actors named, the acknowledgements still due, the owner. -/
structure Guard where
  id : Nat := 0
  q : Nat := 0
  tile : Nat := 0
  /-- runs of covered units: first and count -/
  spans : List (Nat × Nat) := []
  stale : List Nat := []
  held : List (Nat × List Byte) := []
  acks : List Nat := []
  actors : List (Nat × Nat) := []
  /-- the actor whose firing took it, and its descriptor -/
  owner : Nat := 0
  desc : Nat := 0
  bytes : List Byte := []
  /-- the firing has sent its tokens; the tokens still to reach each named actor, as ((tile, actor), how many) -/
  done : Bool := false
  coming : List ((Nat × Nat) × Nat) := []
deriving DecidableEq, Repr, Inhabited

/-- A far-cache line (R264): its interleave unit, whether it is dirty. Sets list their most recently used line first. -/
structure CacheLine where
  unit : Nat := 0
  dirty : Bool := false
deriving DecidableEq, Repr, Inhabited

/-- A far-store channel (R284): state 0 NOT_FITTED, 1 ACTIVE, 2 REPAIRED, 3 FENCED, 4 RETIRED. -/
structure Chan where
  state : Nat := 0
  spares : Nat := 0
deriving DecidableEq, Repr, Inhabited

/-- The far-store engine (R260 to R273, R280). `active` lists the channels of the interleave, ascending. -/
structure FarStore where
  chans : Tab Chan := []
  active : List Nat := []
  lost : Bool := false
  draining : Bool := false
  cache : Tab (List CacheLine) := []
  setsOff : List Nat := []
  guards : List Guard := []
  nextGuard : Nat := 0
  /-- requests that hold a slot, and requests that wait for one, oldest first (R271) -/
  issued : List FsReq := []
  waiting : List FsReq := []
  /-- guarded descriptors that found no guard entry free, as (tile, descriptor), oldest first (R269) -/
  guardWait : List (Nat × Nat) := []
  updFailed : BitVec 12 := 0
  /-- the far-store engine failed its test (R484) -/
  failed : Bool := false
  resetting : Bool := false
deriving DecidableEq, Repr, Inhabited

/-! ### Check-value units (09_check_values.md) -/

/-- A parameter slot of a unit (R336, R349, R350). -/
structure CvSlot where
  width : Nat := 0
  refin : Bool := false
  refout : Bool := false
  mode : Nat := 0
  verify : Bool := false
  cont : Bool := false
  hold : Bool := false
  poly : Word := 0
  init : Word := 0
  xorout : Word := 0
  run : Word := 0
  expect : Word := 0
  result : Word := 0
deriving DecidableEq, Repr, Inhabited

/-- A check-value unit: the slot CVU_SEL shows and its sixteen slots. -/
structure Cvu where
  sel : Nat := 0
  slots : Tab CvSlot := []
  /-- the stream that a general unit runs over several steps, as (partition, tile, descriptor) (R341) -/
  busy : Option (Nat × Nat × Nat) := none
  /-- slots whose running value's stored parity is wrong, not yet met (R347) -/
  badRuns : List Nat := []
  absent : Bool := false
deriving DecidableEq, Repr, Inhabited

/-! ### Management, trust, module (14_faults_and_recovery.md to 16_module.md) -/

/-- A test waiting or running (R481, R501): kind, index, the command that asked for it (none: targeted), RETIRE. -/
structure TestRun where
  kind : Nat := 0
  idx : Nat := 0
  host : Option (Nat × Nat) := none
  retire : Bool := true
  started : Bool := false
  afterPurge : Bool := false
  part : Nat := 0xFF
deriving DecidableEq, Repr, Inhabited

/-- A reset under way (R486): domain code, index (tile, group or partition), the command waiting on it. -/
structure ResetRun where
  domain : Nat := 0
  idx : Nat := 0
  host : Option (Nat × Nat) := none
  /-- the reset follows a fault, not a command -/
  fault : Bool := false
deriving DecidableEq, Repr, Inhabited

/-- A dump walk (R496 to R500): its command (host slot 4 where no record can be sent), its destination, the units left as (kind,
index), the directory as (unit key, status, record offset, record length, trace offset), and the bytes laid out so far. -/
structure DumpRun where
  host : Nat := 0
  seq : Nat := 0
  toHost : Bool := false
  addr : Nat := 0
  rkey : Nat := 0
  slot : Nat := 0
  todo : List (Nat × Nat) := []
  dir : List (Nat × Nat × Nat × Nat × Nat) := []
  bytes : Nat := 0
  from_ : DevState := .ready
deriving DecidableEq, Repr, Inhabited

/-- The firmware image held by the controller (R514, R517, R518). -/
structure Firmware where
  version : Nat := 0
  svn : Nat := 0
  keySlot : Nat := 0
  imageKeys : List (List Byte) := []
  digest : List Byte := []
  commit : Bool := false
  appendix : List Byte := []
deriving DecidableEq, Repr, Inhabited

/-- What the early-warning monitors have counted in their present windows, with counters of their own (R452): corrected far-store and
near-store errors, corrected codewords and retry requests by port, the smallest thermal margin seen. -/
structure Monitors where
  fsCe : Nat := 0
  nsCe : Nat := 0
  fec : Tab Nat := []
  retry : Tab Nat := []
  margin : Option Int := none
deriving DecidableEq, Repr, Inhabited

/-- The management controller and trust block (R371, R478, R492, R504 to R531). -/
structure Mgt where
  fw : Firmware := {}
  mon : Monitors := {}
  running : Bool := false
  fromSource : Bool := false
  romWait : Bool := false
  /-- a verified image waiting to be started, with the FW_RESTART that brought it -/
  next : Option Firmware := none
  fwCmd : Option (Nat × Nat) := none
  source : Option (Nat × Nat × Nat × Nat × List Byte) := none
  refetching : Bool := false
  restarting : Bool := false
  /-- error log entries held, oldest first -/
  log : List (List Byte) := []
  logWritten : Nat := 0
  tests : List TestRun := []
  dump : Option DumpRun := none
  dumpValid : List Bool := [false, false]
  marked : List (Nat × Nat) := []
  gcFailed : BitVec 16 := 0
  gcEpoch : Tab Nat := []
  refLossPending : Bool := false
  bistPending : Bool := false
  /-- trace rings by unit kind·2048 + index (R499), newest first: tick, event, argument -/
  trace : Tab (List (Nat × Nat × Nat)) := []
  /-- domains whose deferred reset is due 1 ms after its command (R373) -/
  deferred : List Nat := []
  resets : List ResetRun := []
deriving DecidableEq, Repr, Inhabited

/-- Fuses and straps (R2, R516, R519, R526, R530, R548). -/
structure Fuses where
  variant : Variant := .dj4096H
  stepping : Nat := 1
  serial : Word := Config.deviceSerial
  rootDigests : List (List Byte) := (List.range 4).map Config.rootDigest
  revoked : BitVec 4 := 0
  minSvn : Nat := 0
  requireSigned : Bool := false
  fdTagStrap : BitVec 16 := 0xFFFF
deriving DecidableEq, Repr, Inhabited

/-- A column map (R17 to R20): SHIFT_ROW, NEXT_SHIFT_ROW, LOST_TILE, RETIRED_SITES. -/
structure ColMap where
  shift : Nat := 32
  next : Nat := 32
  lost : Bool := false
  retired : BitVec 33 := 0
deriving DecidableEq, Repr, Inhabited

/-- The tick generator (R211, R212, R235 to R238, R309, R550, R558). Times in reference cycles; `time16` in 1/16. -/
structure TickGen where
  period : Nat := 125000
  pendingPeriod : Nat := 0
  pendingAt : Nat := 0
  count : Nat := 0
  master : Bool := true
  locked : Bool := false
  /-- bound to a timing tree and not yet disciplined by its parent (R211) -/
  armed : Bool := false
  time16 : Int := 0
  /-- the discipline of the tick time (R309): the cycle of the last steering, the time steered to, the rate in 2^-32, whether there was one -/
  steeredAt : Nat := 0
  steeredTo : Int := 0
  rate : Int := 0
  disciplined : Bool := false
  /-- the cycle in which the current tick began -/
  began : Nat := 0
  refEnable : Bool := false
  refInUse : Bool := false
  edgeTicks : Nat := 1
  goodEdges : Nat := 0
  badRun : Nat := 0
deriving DecidableEq, Repr, Inhabited

/-- The governor, input, rails, PMBus and pins (16_module.md). -/
structure Power where
  droop : Nat := 0
  cap : Nat := 0
  therm : Nat := 0
  uvWarn : Bool := false
  capW : Nat := 3000
  margin : Int := 0
  vinMv : Nat := 0
  pinW : Nat := 0
  iinCa : Nat := 0
  dieHot : Int := 0
  memHot : Int := 0
  coolIn : Int := 0
  coolOut : Int := 0
  /-- rails in regulation, 0 to 8 (R536) -/
  rails : Nat := 8
  switchOpen : Bool := false
  /-- the switch stays open until MOD_EN has been low and rises (R532) -/
  faultLatched : Bool := false
  modEn : Bool := true
  modResetN : Bool := true
  refclk : Bool := true
  /-- JTAG EXTEST holds the die in reset (R551) -/
  extest : Bool := false
  pmPage : Nat := 0
  /-- STATUS_WORD low and upper bits, and the manufacturer-specific cause byte (R538) -/
  pmStatus : BitVec 16 := 0
  pmCause : Nat := 0
deriving DecidableEq, Repr, Inhabited

/-- The whole module. -/
structure State where
  /-- commands waiting, first in first out -/
  pending : List Instr
  /-- what the block has sent, newest first -/
  out : List Emission
  /-- near stores, tills and far store by device-local address (R242), canonical: rising, no zero byte listed -/
  mem : List Host.Cell
  /-- poisoned 64-byte lines, by line number (R248, R262) -/
  poison : List Nat
  /-- stored words (by address) holding a single-bit (false) or double-bit (true) error not yet met (R142, R248) -/
  upsets : List (Nat × Bool)
  /-- tokens under way on the data mesh (R205), each with its sender: a tile, or engine e as 1024 + e; oldest first (R26) -/
  tokens : List (Nat × BitVec 128)
  /-- on-die replies under way, each with the unit that sent it; oldest first (R26) -/
  replies : List (Nat × MeshReply)
  /-- on-die replies that reached their requesters, newest first -/
  delivered : List MeshReply
  /-- stored register bits by device-local address; unlisted registers hold their reset value -/
  regs : Tab Word
  /-- reference cycles since entry into BOOT (R211) -/
  cycle : Nat
  /-- the model's own counter from which free values are drawn -/
  fresh : Nat
  fuses : Fuses
  dev : DevState
  devId : Nat
  devIdValid : Bool
  fdTag : BitVec 16
  cols : List ColMap
  tick : TickGen
  parts : Tab Part
  tiles : Tab Tile
  fs : FarStore
  cvus : Tab Cvu
  ports : Tab Port
  trees : Tab TreeCtx
  flows : List Flow
  slots : List ReqSlot
  /-- the generation each request slot was last issued under (R223) -/
  slotGen : Tab Nat
  fencesSeen : List (Nat × Nat)
  conns : List Conn
  eths : Tab EthPort
  bootPort : Option Nat
  hosts : List HostSlot
  cmds : List Cmd
  incarnation : Nat
  eventNo : Nat
  /-- reset epochs of the far-store, fabric, Ethernet and management engines (R487) -/
  engineEpoch : List Nat
  /-- the model's own record of the contexts saved, by the number their bytes go by (R228 leaves the layout private) -/
  ctxBook : List CtxRec
  mgt : Mgt
  pwr : Power
deriving DecidableEq, Repr

/-- The module at entry into BOOT after power-on, with every register at its reset value (R537, R374). -/
def State.reset : State where
  pending := []
  out := []
  mem := []
  poison := []
  upsets := []
  tokens := []
  replies := []
  delivered := []
  regs := []
  cycle := 0
  fresh := 0
  fuses := {}
  dev := .boot
  devId := 0
  devIdValid := false
  fdTag := 0xFFFF
  cols := List.replicate 32 {}
  tick := {}
  parts := []
  tiles := []
  fs := {}
  cvus := []
  ports := []
  trees := []
  flows := []
  slots := []
  slotGen := []
  fencesSeen := []
  conns := []
  eths := [(0, { state := 1 }), (1, { state := 1 }), (2, { state := 1 }), (3, { state := 1 })]
  bootPort := none
  hosts := [{}, {}, {}, {}]
  cmds := []
  incarnation := 0
  eventNo := 0
  engineEpoch := [0, 0, 0, 0]
  ctxBook := []
  mgt := {}
  pwr := {}

end Sys2Proof.Machine
end

