-- ==== Sys2Proof/Machine/Bits.lean ====
section
/-! DEFINITION. Bit fields, byte strings, sparse tables and the canonical sparse memory. -/

namespace Sys2Proof.Machine

/-! ### Bits and bytes -/

/-- Bits [lo + n − 1 : lo] of a number. -/
def field (v lo n : Nat) : Nat := (v >>> lo) % 2 ^ n

/-- Bit i of a number. -/
def bitOf (v i : Nat) : Bool := v.testBit i

/-- One or zero. -/
def b2n (b : Bool) : Nat := if b then 1 else 0

/-- An n-bit two's-complement field as an integer. -/
def signed (n v : Nat) : Int :=
  let u := v % 2 ^ n
  if u < 2 ^ (n - 1) then u else (u : Int) - 2 ^ n

/-- An integer as an n-bit two's-complement field. -/
def unsigned (n : Nat) (v : Int) : Nat := (v % (2 ^ n : Int)).toNat

/-- A little-endian byte string as a number. -/
def leNat : List Byte → Nat
  | [] => 0
  | b :: bs => b.toNat + 256 * leNat bs

/-- A number as n little-endian bytes. -/
def toLe : Nat → Nat → List Byte
  | 0, _ => []
  | n + 1, v => BitVec.ofNat 8 v :: toLe n (v / 256)

/-- n bytes of a string from offset o, zero bytes standing for those past its end. -/
def slice (bs : List Byte) (o n : Nat) : List Byte :=
  let r := (bs.drop o).take n
  r ++ List.replicate (n - r.length) 0

/-- The little-endian number of n bytes at offset o. -/
def le (bs : List Byte) (o n : Nat) : Nat := leNat (slice bs o n)

/-- A word's bits as 64. -/
def word (v : Nat) : Word := BitVec.ofNat 64 v

/-- The position of the lowest set bit of a non-zero number. -/
def lowBit (n : Nat) : Nat := Nat.log2 (n ^^^ (n - 1))

/-- floor(log2 n) for a non-zero number. -/
def topBit (n : Nat) : Nat := Nat.log2 n

/-- ceil(log2 n), with 0 for n ≤ 1. -/
def clog2 (n : Nat) : Nat := if n ≤ 1 then 0 else Nat.log2 (n - 1) + 1

/-- clamp(v, lo, hi) of the spec's pseudocode. -/
def clamp (v lo hi : Int) : Int := if v < lo then lo else if hi < v then hi else v

/-- v rounded up to a multiple of m. -/
def alignUp (v m : Nat) : Nat := (v + m - 1) / m * m

/-- A 16-bit count that wraps. -/
def next16 (v : Nat) : Nat := (v + 1) % 65536

/-- The integers x, x + 1, … of count n. -/
def countFrom (x n : Nat) : List Nat := (List.range n).map (x + ·)

/-- The i-th entry of a list, or a default. -/
def nth {α : Type} (l : List α) (i : Nat) (d : α) : α := l.getD i d

/-- A list with entry i replaced; unchanged where the list has no entry i. -/
def setNth {α : Type} (l : List α) (i : Nat) (a : α) : List α := l.set i a

/-- The entries with their positions. -/
def withPos {α : Type} (l : List α) : List (Nat × α) := (List.range l.length).zip l

/-- A list cut into pieces of k, k positive; the fuel bounds the number of pieces. -/
def piecesF {α : Type} : Nat → Nat → List α → List (List α)
  | 0, _, _ => []
  | fuel + 1, k, l => if l.isEmpty then [] else l.take k :: piecesF fuel k (l.drop k)

/-- A list cut into pieces of k, the last one possibly shorter. -/
def pieces {α : Type} (k : Nat) (l : List α) : List (List α) := piecesF l.length k l

/-- f applied n times. -/
def iter {α : Type} (f : α → α) : Nat → α → α
  | 0, a => a
  | n + 1, a => iter f n (f a)

/-- The largest of a list of numbers, 0 for none. -/
def maxNat (l : List Nat) : Nat := l.foldl max 0

/-! ### Sparse tables -/

/-- An entry of a table, if listed. -/
def Tab.find {α : Type} : Tab α → Nat → Option α
  | [], _ => none
  | (k, v) :: t, i => if k = i then some v else Tab.find t i

/-- An entry of a table, or its default. -/
def Tab.at {α : Type} (t : Tab α) (i : Nat) (d : α) : α := (t.find i).getD d

/-- A table with an entry set, its keys in rising order. -/
def Tab.put {α : Type} : Tab α → Nat → α → Tab α
  | [], i, a => [(i, a)]
  | (k, v) :: t, i, a =>
    if k = i then (i, a) :: t
    else if i < k then (i, a) :: (k, v) :: t
    else (k, v) :: Tab.put t i a

/-- A table without an entry. -/
def Tab.drop {α : Type} (t : Tab α) (i : Nat) : Tab α := t.filter (fun p => p.1 != i)

/-! ### Memory: canonical sparse bytes -/

/-- The byte at an address: what is listed there, or zero. -/
def readCells : List Host.Cell → Nat → Byte
  | [], _ => 0
  | (k, b) :: t, a => if k = a then b else readCells t a

/-- Memory with one byte written; a zero byte is not listed. -/
def writeCells : List Host.Cell → Nat → Byte → List Host.Cell
  | [], a, b => if b = 0 then [] else [(a, b)]
  | (k, v) :: t, a, b =>
    if k = a then (if b = 0 then t else (a, b) :: t)
    else if a < k then (if b = 0 then (k, v) :: t else (a, b) :: (k, v) :: t)
    else (k, v) :: writeCells t a b

/-- The canonical form: addresses strictly rising, no zero byte listed. -/
def Memory.wf : List Host.Cell → Bool
  | [] => true
  | [(_, b)] => b != 0
  | (k, b) :: (k', b') :: t => b != 0 && decide (k < k') && Memory.wf ((k', b') :: t)

/-- n bytes from an address. -/
def readBytes (m : List Host.Cell) (a n : Nat) : List Byte := (List.range n).map (fun i => readCells m (a + i))

/-- Memory with a byte string written at an address. -/
def writeBytes (m : List Host.Cell) (a : Nat) : List Byte → List Host.Cell
  | [] => m
  | b :: bs => writeBytes (writeCells m a b) (a + 1) bs

/-- Memory with n bytes from an address cleared: only listed bytes need removing. -/
def clearBytes (m : List Host.Cell) (a n : Nat) : List Host.Cell :=
  m.filter (fun c => decide (c.1 < a ∨ a + n ≤ c.1))

/-- Whether a sorted list without repeats holds x. -/
def insertNat : List Nat → Nat → List Nat
  | [], x => [x]
  | y :: l, x => if x = y then y :: l else if x < y then x :: y :: l else y :: insertNat l x

end Sys2Proof.Machine
end

