-- ==== Sys2Proof/Machine/Ops.lean ====
section
/-! DEFINITION. Named operations over the state: geometry, access to units, stored register bits, events, the error
log, votes. -/

namespace Sys2Proof.Machine

/-! ### Status codes (R358) -/

def stOk : Nat := 0
def stWrongState : Nat := 1
def stBadLength : Nat := 2
def stBadField : Nat := 3
def stAbsent : Nat := 4
def stNoResource : Nat := 5
def stTargetReset : Nat := 6
def stStaleEpoch : Nat := 7
def stDenied : Nat := 8
def stBadSignature : Nat := 9
def stSourceLost : Nat := 10
def stTimeout : Nat := 11

/-! ### Geometry (R1, R16 to R20, R229) -/

/-- Logical height H of the grid. -/
def gridRows (s : State) : Nat := if s.fuses.variant = .dj3072H then 24 else 32

/-- Logical tiles. -/
def tileCount (s : State) : Nat := 32 * gridRows s

/-- Tile group of a tile. -/
def groupOf (t : Nat) : Nat := 4 * (t / 32 / 8) + t % 32 / 8

/-- Number of tile groups. -/
def groupCount (s : State) : Nat := 4 * (gridRows s / 8)

/-- Tiles of a group, in ascending order. -/
def groupTiles (g : Nat) : List Nat :=
  (List.range 8).flatMap (fun y => (List.range 8).map (fun x => 32 * (8 * (g / 4) + y) + 8 * (g % 4) + x))

/-- The column map of a column. -/
def colAt (s : State) (c : Nat) : ColMap := s.cols.getD c {}

/-- Physical row of logical tile t under the column map (R17). -/
def siteRow (s : State) (t : Nat) : Nat :=
  let y := t / 32
  if y < (colAt s (t % 32)).shift then y else y + 1

/-- Whether the tile's site is retired. -/
def siteRetired (s : State) (t : Nat) : Bool := (colAt s (t % 32)).retired.getLsbD (siteRow s t)

/-- Whether tile t is present: within the grid and on a healthy site (R3, R18, R19). -/
def tilePresent (s : State) (t : Nat) : Bool := decide (t < tileCount s) && !siteRetired s t

/-- Link ports fitted (R1). -/
def portCount (s : State) : Nat := if s.fuses.variant = .dj3072H then 12 else 16

/-- Far-store capacity in GiB as built. -/
def fsGib (s : State) : Nat :=
  match s.fuses.variant with | .dj4096H => 576 | .dj3072H => 384 | .dj4096G => 48

/-- Whether the far store is HBM4 (R1). -/
def isHbm (s : State) : Bool := decide (s.fuses.variant ≠ .dj4096G)

/-- Whether the sparsity predictor and the Gwynis unit are present (R1, R2). -/
def hasPredictor (s : State) : Bool := decide (s.fuses.variant ≠ .dj3072H)

/-- Whether a second escrow partner may be bound (R1). -/
def hasDualEscrow (s : State) : Bool := decide (s.fuses.variant ≠ .dj4096G)

/-! ### Addresses (R242) -/

def tileBase (t : Nat) : Nat := t * 0x800000

/-- Base of the far store. -/
def fsBase : Nat := 0x10000000000

/-- Address of a control-window offset. -/
def ctl (off : Nat) : Nat := 0xFF000000000 + off

/-- Address of a tile register by tile-window offset. -/
def tileReg (t off : Nat) : Nat := tileBase t + off

/-- Address of a partition register of the scheduler (R239). -/
def schReg (q off : Nat) : Nat := ctl (0x20000 + 0x100 * q + off)

/-- Address of a far-store partition register (R285). -/
def fsReg (q off : Nat) : Nat := ctl (0x30000 + 0x100 * q + off)

/-- Address of a link-port register (R322). -/
def lnkReg (p off : Nat) : Nat := ctl (0x40000 + 0x100 * p + off)

/-- Address of an Ethernet-port register (R331). -/
def ethReg (e off : Nat) : Nat := ctl (0x50000 + 0x100 * e + off)

/-- Address of a check-value-unit register (R348). -/
def cvuReg (u off : Nat) : Nat := ctl (0x60000 + 0x80 * u + off)

/-- Address of an update-engine partition register (R403). -/
def updReg (q off : Nat) : Nat := ctl (0x70000 + 0x100 * q + off)

/-- Address of a checkpoint partition register (R474). -/
def ckpReg (q off : Nat) : Nat := ctl (0x80000 + 0x100 * q + off)

/-- Bytes of the working reserve (R275). -/
def reserveBytes (s : State) : Nat := if isHbm s then 45 * 2 ^ 30 else 8 * 2 ^ 30

/-! ### Units -/

def tileAt (s : State) (t : Nat) : Tile := s.tiles.at t {}
def setTile (s : State) (t : Nat) (x : Tile) : State := { s with tiles := s.tiles.put t x }
def modTile (s : State) (t : Nat) (f : Tile → Tile) : State := setTile s t (f (tileAt s t))
def modArr (s : State) (t : Nat) (f : Arr → Arr) : State := modTile s t (fun x => { x with arr := f x.arr })
def modDrain (s : State) (t : Nat) (f : Drain → Drain) : State := modTile s t (fun x => { x with drain := f x.drain })
def modVec (s : State) (t : Nat) (f : Vec → Vec) : State := modTile s t (fun x => { x with vec := f x.vec })
def modSched (s : State) (t : Nat) (f : Sched → Sched) : State := modTile s t (fun x => { x with sched := f x.sched })

def partAt (s : State) (q : Nat) : Part := s.parts.at q {}
def setPart (s : State) (q : Nat) (x : Part) : State := { s with parts := s.parts.put q x }
def modPart (s : State) (q : Nat) (f : Part → Part) : State := setPart s q (f (partAt s q))
def modCtx (s : State) (q : Nat) (f : StepCtx → StepCtx) : State := modPart s q (fun p => { p with ctx := f p.ctx })
def modSettle (s : State) (q : Nat) (f : Settle → Settle) : State := modPart s q (fun p => { p with settle := f p.settle })
def modJoin (s : State) (q : Nat) (f : Join → Join) : State := modPart s q (fun p => { p with join := f p.join })
def modCkpt (s : State) (q : Nat) (f : Ckpt → Ckpt) : State := modPart s q (fun p => { p with ckpt := f p.ckpt })
def modBinding (s : State) (q : Nat) (f : Binding → Binding) : State := modPart s q (fun p => { p with binding := p.binding.map f })

def portAt (s : State) (p : Nat) : Port := s.ports.at p {}
def modPort (s : State) (p : Nat) (f : Port → Port) : State := { s with ports := s.ports.put p (f (portAt s p)) }
def treeAt (s : State) (k : Nat) : TreeCtx := s.trees.at k {}
def modTree (s : State) (k : Nat) (f : TreeCtx → TreeCtx) : State := { s with trees := s.trees.put k (f (treeAt s k)) }
def ethAt (s : State) (e : Nat) : EthPort := s.eths.at e {}
def modEth (s : State) (e : Nat) (f : EthPort → EthPort) : State := { s with eths := s.eths.put e (f (ethAt s e)) }
def cvuAt (s : State) (u : Nat) : Cvu := s.cvus.at u {}
def modCvu (s : State) (u : Nat) (f : Cvu → Cvu) : State := { s with cvus := s.cvus.put u (f (cvuAt s u)) }
def hostAt (s : State) (h : Nat) : HostSlot := s.hosts.getD h {}
def modHost (s : State) (h : Nat) (f : HostSlot → HostSlot) : State := { s with hosts := setNth s.hosts h (f (hostAt s h)) }
def modMgt (s : State) (f : Mgt → Mgt) : State := { s with mgt := f s.mgt }
def modMon (s : State) (f : Monitors → Monitors) : State := modMgt s (fun m => { m with mon := f m.mon })
def modFs (s : State) (f : FarStore → FarStore) : State := { s with fs := f s.fs }
def modPwr (s : State) (f : Power → Power) : State := { s with pwr := f s.pwr }

/-- The stretch level: the largest of the governor's three demands (R539). -/
def stretch (p : Power) : Nat := max (max p.droop p.cap) p.therm

def chanAt (s : State) (c : Nat) : Chan := s.fs.chans.at c {}

/-- An open connection by its local queue pair number. -/
def connAt (s : State) (qpn : Nat) : Option Conn := s.conns.find? (fun c => c.qpn = qpn)

/-- A connection changed. -/
def modConn (s : State) (qpn : Nat) (f : Conn → Conn) : State :=
  { s with conns := s.conns.map (fun c => if c.qpn = qpn then f c else c) }

/-- A connection on which an acknowledgement has come: its retries count anew (R320). -/
def ackedConn (s : State) (qpn : Nat) : State := modConn s qpn (fun c => { c with retries := 0 })

/-- A new connection as it is set: its settings are free values (log entry 49). -/
def Conn.set (c : Conn) (draw : Nat) : Conn :=
  { c with
    tagged := decide (Config.connSetting 0 draw % 2 = 1)
    dscp := Config.connSetting 1 draw % 64
    ackTimeout := Config.connSetting 2 draw % 32
    rnrRetry := Config.connSetting 3 draw % 8
    retryMax := Config.connSetting 4 draw % 8 }

/-- Something the block sends. -/
def emit (s : State) (e : Emission) : State := { s with out := e :: s.out }

/-- The items of a list with the first that meets a condition and has no item of its own path before it taken out. Items of one path
leave in the order they came (R26). -/
def takeOldestGo {α : Type} (same : α → α → Bool) (want : α → Bool) : List α → List α → Option (α × List α)
  | _, [] => none
  | old, x :: l =>
    if want x && !old.any (fun y => same y x) then some (x, old ++ l) else takeOldestGo same want (old ++ [x]) l

/-- The same from the head of the list. -/
def takeOldest {α : Type} (same : α → α → Bool) (want : α → Bool) (l : List α) : Option (α × List α) := takeOldestGo same want [] l

/-- A number drawn from the model's counter of free values. -/
def drawFresh (s : State) : Nat × State := (s.fresh, { s with fresh := s.fresh + 1 })

/-- The current tick (R237). -/
def now (s : State) : Nat := s.tick.count

/-! ### Partitions (R229) -/

/-- Whether tile t lies in a partition's rectangle. -/
def inRect (p : Part) (t : Nat) : Bool :=
  let x := t % 32
  let y := t / 32
  let x0 := 8 * (p.origin % 4)
  let y0 := 8 * (p.origin / 4)
  decide (x0 ≤ x ∧ x < x0 + 8 * p.gw ∧ y0 ≤ y ∧ y < y0 + 8 * p.gh)

/-- Device tile of a partition-local index (R229). -/
def tileOfLocal (p : Part) (l : Nat) : Nat :=
  32 * (8 * (p.origin / 4) + l / (8 * p.gw)) + 8 * (p.origin % 4) + l % (8 * p.gw)

/-- Partition-local index of a tile. -/
def localOfTile (p : Part) (t : Nat) : Nat :=
  (t / 32 - 8 * (p.origin / 4)) * (8 * p.gw) + (t % 32 - 8 * (p.origin % 4))

/-- Number of tiles of a partition. -/
def localCount (p : Part) : Nat := 64 * p.gw * p.gh

/-- Tiles of a partition in the order of their local indices. -/
def partTiles (p : Part) : List Nat := (List.range (localCount p)).map (tileOfLocal p)

/-- Groups of a partition. -/
def partGroups (p : Part) : List Nat :=
  (List.range p.gh).flatMap (fun y => (List.range p.gw).map (fun x => p.origin + 4 * y + x))

/-- The partition a tile belongs to. -/
def partOfTile (s : State) (t : Nat) : Option Nat :=
  (List.range 16).find? (fun q => decide ((partAt s q).state ≠ .empty) && inRect (partAt s q) t)

/-- Whether a partition answers TARGET_RESET: it has faulted, or is being reset (R232, R303). -/
def partGone (p : Part) : Bool := decide (p.state = .faulted) || ((p.purge.map Purge.faulted).getD false) || p.resetting

/-- Whether a tile answers TARGET_RESET to a requester, a tile by its number and an engine e as 1024 + e (R232, R490). -/
def tileGone (s : State) (t requester : Nat) : Bool :=
  (tileAt s t).resetting
    || (match partOfTile s t with
        | some q => partGone (partAt s q) && (1024 ≤ requester || decide (partOfTile s requester ≠ some q))
        | none => false)

/-- The partition of a tile as a number, 16 for none. -/
def partNum (s : State) (t : Nat) : Nat := (partOfTile s t).getD 16

/-- The partitions' image, or an empty one. -/
def imageOf (p : Part) : Image := p.image.getD {}

/-- The layer record of a layer slot. -/
def layerOf (p : Part) (slot : Nat) : Option LayerRec := (imageOf p).layers.find? (fun l => l.slot = slot)

/-- The layer tag of a slot, 0 where none is assigned. -/
def layerTagOf (p : Part) (slot : Nat) : Nat := ((layerOf p slot).map LayerRec.tag).getD 0

/-- The actor record of an actor on a tile. -/
def actorRec (s : State) (t a : Nat) : Option ActorRec := (tileAt s t).conf.actors[a]?

/-- The reference form of a partition's state (R239). -/
def PartState.code : PartState → Nat
  | .empty => 0 | .loaded => 1 | .running => 2 | .held => 3 | .aborting => 4 | .faulted => 5

/-- DEV_STATE's code (R374). -/
def DevState.code : DevState → Nat
  | .off => 0 | .boot => 1 | .ready => 2 | .degraded => 3 | .fenced => 4 | .dump => 5

/-- The job epoch of a partition, 0 when unbound. -/
def jobEpochOf (p : Part) : Nat := (p.binding.map Binding.jobEpoch).getD 0

/-- The job of a partition, 0 when unbound. -/
def jobIdOf (p : Part) : Nat := (p.binding.map Binding.jobId).getD 0

/-- Whether a job is bound to a partition. -/
def isBound (p : Part) : Bool := p.binding.isSome

/-- Whether a partition shadows a member (R449: modes SHADOWING and QUALIFIED). -/
def isShadowing (p : Part) : Bool := decide (p.join.mode = 1 ∨ p.join.mode = 2)

/-- Whether a cold newcomer's state is still incomplete (R443). -/
def isIncomplete (p : Part) : Bool := decide (p.join.mode = 3 ∨ p.join.mode = 4)

/-- Absolute address of a region of a partition, with its size in bytes (R277, R285). -/
def regionOf (p : Part) (k : Nat) : Nat × Nat :=
  let r := p.regions.getD k (0, 0)
  (p.carve + r.1 * 2 ^ 20, r.2 * 2 ^ 20)

/-! ### Stored register bits -/

/-- The reset value of a stored register (R452's defaults are set by `resetRegs`). -/
def regGet (s : State) (a : Nat) : Nat := (s.regs.at a 0).toNat

def regPut (s : State) (a v : Nat) : State := { s with regs := s.regs.put a (word v) }

/-- A field of a stored register. -/
def regField (s : State) (a lo n : Nat) : Nat := field (regGet s a) lo n

/-- A number with bits [lo + n − 1 : lo] replaced. -/
def withField (r lo n v : Nat) : Nat := r - field r lo n * 2 ^ lo + v % 2 ^ n * 2 ^ lo

/-- A stored register with a field replaced. -/
def regSet (s : State) (a lo n v : Nat) : State := regPut s a (withField (regGet s a) lo n v)

/-- A stored flag set. -/
def regFlag (s : State) (a i : Nat) : State := regSet s a i 1 1

/-- A stored flag cleared. -/
def regUnflag (s : State) (a i : Nat) : State := regSet s a i 1 0

/-- A stored count raised by k, holding at its maximum. -/
def regBump (s : State) (a lo n k : Nat) : State := regSet s a lo n (min (regField s a lo n + k) (2 ^ n - 1))

/-- A stored count raised by k, modulo its width. -/
def regCount (s : State) (a lo n k : Nat) : State := regSet s a lo n (regField s a lo n + k)

/-- A packet or token of another abort epoch discarded, and counted in STALE_ABORT of LNK_FABRIC (R226, R329). -/
def dropStale (s : State) : State := regBump s (ctl 0x600) 32 16 1

/-! ### Traces (R499) -/

/-- A unit of the dump walk: kind (0 management, 1 Ethernet, 2 far store, 3 fabric, 4 check-value, 5 group, 6 tile)
and index, as a key. -/
def unitKey (kind idx : Nat) : Nat := kind * 2048 + idx

/-- One event entered in a unit's trace ring of 4,096 entries (R499). -/
def trace (s : State) (unit ev arg : Nat) : State :=
  modMgt s (fun m => { m with trace := m.trace.put unit (((now s, Config.traceCode ev, arg) :: m.trace.at unit []).take 4096) })

/-! ### Events and states (R357, R370) -/

/-- A status record (R357). -/
def statusBytes (s : State) (opcode part status seq flags host r0 r1 detail bulk : Nat) : List Byte :=
  let p := partAt s part
  let inP := decide (part < 16)
  toLe 2 opcode ++ toLe 1 part ++ toLe 1 status ++ toLe 4 seq
    ++ toLe 1 s.dev.code ++ toLe 1 (if inP then p.state.code else 0xFF)
    ++ toLe 1 (flags + (if inP then b2n (isBound p) * 4 + b2n (isShadowing p) * 8 else 0)) ++ toLe 1 host
    ++ toLe 4 (if inP then jobEpochOf p else 0) ++ toLe 8 r0 ++ toLe 8 r1 ++ toLe 8 (now s)
    ++ toLe 4 detail ++ toLe 4 bulk ++ List.replicate 16 0

/-- An event sent on every management connection (R370); part is 0xFF for a device event. -/
def sendEvent (s : State) (code part r0 r1 : Nat) : State :=
  let s' := (List.range 4).foldl (fun s h =>
    if (hostAt s h).attached then emit s (.status h (statusBytes s code part 0 s.eventNo 2 h r0 r1 0 0)) else s) s
  { s' with eventNo := s'.eventNo + 1 }

/-- The device state changed, with its event. -/
def setDev (s : State) (d : DevState) : State :=
  if s.dev = d then s else sendEvent (trace { s with dev := d } 0 1 d.code) 0x8001 0xFF s.dev.code d.code

/-- The partition state changed, with its event. -/
def setPartState (s : State) (q : Nat) (st : PartState) : State :=
  let old := (partAt s q).state
  if old = st then s
  else sendEvent (trace (modPart s q (fun p => { p with state := st })) 0 2 (q * 16 + st.code)) 0x8002 q old.code st.code

/-- Whether a resource is retired or a tile lost (R374). -/
def retiredAny (s : State) : Bool :=
  s.cols.any (fun c => c.lost || decide (c.retired ≠ 0))
    || s.fs.chans.any (fun c => decide (c.2.state = 3 ∨ c.2.state = 4))
    || s.ports.any (fun p => p.2.lanes.any (fun l => l.state = 3))

/-- READY becomes DEGRADED (R363). -/
def degrade (s : State) : State := if s.dev = .ready then setDev s .degraded else s

/-! ### The error log (R478 to R480) -/

/-- Entries the log ring holds (R478). -/
def logCapacity (s : State) : Nat := if isHbm s then 8388608 else 1048576

/-- Test kind that an entry code triggers, 0 for none (R480). -/
def testOfCode (code : Nat) : Nat :=
  if code = 0x01 || code = 0x03 || code = 0x04 then 1
  else if code = 0x02 then 2
  else if code = 0x07 then 5
  else if code = 0x08 then 6
  else if code = 0x09 || code = 0x0A then 4
  else if code = 0x0B then 8
  else if code = 0x0D then 7
  else 0

/-- One entry written to the error log (R479). -/
def logWith (s : State) (code test verdict index part : Nat) (d : List Nat) : State :=
  let rec_ := toLe 8 (now s) ++ toLe 4 s.mgt.logWritten ++ toLe 2 code ++ toLe 1 test ++ toLe 1 verdict
    ++ toLe 4 index ++ toLe 1 (if part < 16 then part else 0xFF) ++ List.replicate 3 0
    ++ toLe 8 (if part < 16 then jobIdOf (partAt s part) else 0)
    ++ ((List.range 4).flatMap (fun i => toLe 8 (d.getD i 0)))
  let l := s.mgt.log ++ [rec_]
  modMgt s (fun m => { m with log := l.drop (l.length - logCapacity s), logWritten := m.logWritten + 1 })

/-- An entry whose test follows from its code: VERDICT 0, or 3 SOFTWARE for CONFIG (R480). -/
def logEntry (s : State) (code index part : Nat) (d : List Nat) : State :=
  logWith s code (testOfCode code) (if code = 5 then 3 else 0) index part d

/-- Whether a test of this target waits or runs. -/
def testKnown (s : State) (kind idx : Nat) : Bool := s.mgt.tests.any (fun t => t.kind = kind && t.idx = idx)

/-- A targeted test is due (R481); a test already known covers this error too (R480). -/
def queueTest (s : State) (kind idx : Nat) (afterPurge : Bool) (part : Nat) : State :=
  if kind = 0 || testKnown s kind idx then s
  else modMgt s (fun m => { m with tests := m.tests ++ [{ kind := kind, idx := idx, afterPurge := afterPurge, part := part }] })

/-- An error entry with its targeted test; VERDICT 4 PENDING when the unit's error is already being handled. -/
def logError (s : State) (code index testIdx part : Nat) (afterPurge : Bool) (d : List Nat) : State :=
  let k := testOfCode code
  let v := if code = 5 then 3 else if k ≠ 0 && testKnown s k testIdx then 4 else 0
  queueTest (trace (logWith s code k v index part d) 0 3 code) k testIdx afterPurge part

/-! ### Votes (R306) -/

/-- Vote bits by position. -/
def voteAbort : Nat := 0
def voteNonfinite : Nat := 1
def voteOverdraft : Nat := 2
def voteCkpt : Nat := 3
def voteWarn : Nat := 4
def voteDispute : Nat := 5
def voteHold : Nat := 6
def voteSkip : Nat := 7

/-- Raise a bit in the current tick's vote, which is the next vote to go out; a shadow raises nothing (R440). -/
def raiseVote (s : State) (q i : Nat) : State :=
  if isShadowing (partAt s q) then s
  else modCtx s q (fun c => { c with votes := c.votes ||| BitVec.ofNat 8 (2 ^ i) })

/-- A cause flag of the tick (R217). -/
def addCause (s : State) (q v : Nat) : State := modCtx s q (fun c => { c with causes := c.causes ||| BitVec.ofNat 8 v })

/-- A NUMLOG record's place and count (R401, R403). -/
def numlogWritten (s : State) (q : Nat) : Nat := regField s (updReg q 0) 32 32

end Sys2Proof.Machine
end

