-- ==== Sys2Proof/Machine/Check.lean ====
section
/-! DEFINITION. Check values (09_check_values.md): the CRC arithmetic, trailers, parameter slots and their streams. -/

namespace Sys2Proof.Machine

/-- Bit i of an n-bit value moved to bit n − 1 − i (R334). -/
def reflect (n v : Nat) : Nat :=
  (List.range n).foldl (fun a i => if v.testBit i then a + 2 ^ (n - 1 - i) else a) 0

/-- A parameter set (R334). -/
structure CvParams where
  width : Nat
  poly : Nat
  init : Nat
  xorout : Nat
  refin : Bool
  refout : Bool
deriving DecidableEq, Repr, Inhabited

/-- One data byte taken into the running value: cv_byte of R334. -/
def cvByte (p : CvParams) (run : Nat) (b : Byte) : Nat :=
  let v := if p.refin then reflect 8 b.toNat else b.toNat
  iter (fun r =>
    let sh := (r <<< 1) % 2 ^ p.width
    if r.testBit (p.width - 1) then sh ^^^ p.poly else sh) 8 (run ^^^ (v <<< (p.width - 8)))

/-- The final value: cv_final of R334. -/
def cvFinal (p : CvParams) (run : Nat) : Nat :=
  (if p.refout then reflect p.width run else run) ^^^ p.xorout

/-- The running value after a byte string. -/
def cvRun (p : CvParams) (run : Nat) (bs : List Byte) : Nat := bs.foldl (cvByte p) run

/-- The check value of a byte string. -/
def cvOf (p : CvParams) (bs : List Byte) : Nat := cvFinal p (cvRun p p.init bs)

/-- The running value that a final value came from: cv_final undone. -/
def cvUnfinal (p : CvParams) (v : Nat) : Nat :=
  let x := v ^^^ p.xorout
  if p.refout then reflect p.width x else x

/-- A combine (R346): the final value of the concatenated stream from two final values and the second piece's byte length. The first
piece's running value, less INIT, is carried through that many zero bytes. -/
def cvCombine (p : CvParams) (v1 v2 len2 : Nat) : Nat :=
  cvFinal p (cvRun p (cvUnfinal p v1 ^^^ p.init) (List.replicate len2 0) ^^^ cvUnfinal p v2)

/-- CRC-64/XZ, the fingerprints' set (R345). -/
def crc64xz : CvParams := ⟨64, 0x42F0E1EBA9EA3693, 0xFFFFFFFFFFFFFFFF, 0xFFFFFFFFFFFFFFFF, true, true⟩

/-- CRC-64/WE, the flits' set (R293). -/
def crc64we : CvParams := ⟨64, 0x42F0E1EBA9EA3693, 0xFFFFFFFFFFFFFFFF, 0xFFFFFFFFFFFFFFFF, false, false⟩

/-- The CHECK field's CRC-16 of a far-store line (R262). -/
def crc16line : CvParams := ⟨16, 0x8BB7, 0, 0, false, false⟩

/-- CHECK of the line at an address that holds 64 data bytes (R262). -/
def lineCheck (a : Nat) (data : List Byte) : Nat := cvOf crc16line (data ++ toLe 8 (a / 64))

/-- The symbols' CRC-16 (R304). -/
def crc16sym : CvParams := ⟨16, 0x1021, 0xFFFF, 0, false, false⟩

/-- The CRC-16 over bits [47:0] of a symbol (R304). -/
def symCrc (sym : Nat) : Nat := cvOf crc16sym (toLe 6 sym)

/-- A symbol's 48 low bits with their CRC in bits [63:48] (R304). -/
def withSymCrc (low : Nat) : Word := word (low % 2 ^ 48 + symCrc (low % 2 ^ 48) * 2 ^ 48)

/-- Validity of a parameter set (R334). -/
def CvParams.valid (p : CvParams) : Bool :=
  decide (8 ≤ p.width ∧ p.width ≤ 64 ∧ p.poly % 2 = 1 ∧ p.poly < 2 ^ p.width ∧ p.init < 2 ^ p.width ∧ p.xorout < 2 ^ p.width)

/-- The parameter set of a slot. -/
def CvSlot.params (c : CvSlot) : CvParams :=
  ⟨c.width, c.poly.toNat, c.init.toNat, c.xorout.toNat, c.refin, c.refout⟩

/-- VALID of a slot (R349): its set meets R334 and its MODE is not 3. -/
def CvSlot.valid (c : CvSlot) : Bool := c.params.valid && decide (c.mode ≠ 3)

/-- Whether a check-value unit exists on the variant and is in service (R333, R484). -/
def cvuPresent (s : State) (u : Nat) : Bool :=
  decide (u < 48) && !(decide (s.fuses.variant = .dj3072H) && decide (24 ≤ u ∧ u < 32)) && !(cvuAt s u).absent

/-- A slot of a unit. -/
def cvSlotAt (s : State) (u q : Nat) : CvSlot := (cvuAt s u).slots.at q {}

/-- A slot changed. -/
def modCvSlot (s : State) (u q : Nat) (f : CvSlot → CvSlot) : State :=
  modCvu s u (fun c => { c with slots := c.slots.put q (f (c.slots.at q {})) })

/-- Whether a unit is one of the general units G[0] to G[7]. -/
def isGeneral (u : Nat) : Bool := decide (40 ≤ u ∧ u < 48)

/-- A mismatch counted at a unit and slot (R351). -/
def cvMismatch (s : State) (u q : Nat) : State :=
  let a := cvuReg u 0x40
  regFlag (regSet (regBump s a 16 16 1) a 32 4 q) a 36

/-- What a finished stream tells the descriptor that ran it. -/
inductive StreamEnd where
  | held            -- HOLD: unfinalised
  | value (v : Nat) -- the final value
deriving DecidableEq, Repr, Inhabited

/-- A stream completed: RUN, RESULT and STREAMS (R350, R351). -/
def cvDone (s : State) (u q run v : Nat) : State :=
  regBump (modCvSlot s u q (fun c => { c with run := word run, result := word v })) (cvuReg u 0x40) 0 16 1

/-- A whole stream through slot q of general unit u (R334, R342, R344): its end, and the slot and counts after it. -/
def cvStream (s : State) (u q : Nat) (bs : List Byte) : StreamEnd × State :=
  let c := cvSlotAt s u q
  let run := cvRun c.params (if c.cont then c.run.toNat else c.init.toNat) bs
  if c.hold then
    (.held, modCvSlot s u q (fun c => { c with run := word run, hold := false, cont := false }))
  else
    let v := cvFinal c.params run
    (.value v, cvDone (modCvSlot s u q (fun c => { c with cont := false })) u q run v)

/-- The transmit and receive units of link port p, and of Ethernet port e. -/
def txUnit (p : Nat) : Nat := 2 * p
def rxUnit (p : Nat) : Nat := 2 * p + 1
def ethTxUnit (e : Nat) : Nat := 32 + 2 * e
def ethRxUnit (e : Nat) : Nat := 33 + 2 * e

/-- The part of a message's stream that one packet carries through slot q of a link unit, from a running value (R338): the running value
after it, the value its trailer holds, and the slot and counts after it. -/
def linkStream (s : State) (u q : Nat) (from_ : Option Word) (bs : List Byte) (last : Bool) : Nat × Nat × State :=
  let ps := (cvSlotAt s u q).params
  let run := cvRun ps ((from_.getD (word ps.init)).toNat) bs
  let v := cvFinal ps run
  if last then (run, v, cvDone s u q run v) else (run, run, modCvSlot s u q (fun c => { c with run := word run }))

/-- A pool object's stream through slot q of an Ethernet unit, whole (R340): its final value, and the slot and counts after it. -/
def ethStream (s : State) (u q : Nat) (bs : List Byte) : Nat × State :=
  let ps := (cvSlotAt s u q).params
  let run := cvRun ps ps.init bs
  (cvFinal ps run, cvDone s u q run (cvFinal ps run))

/-- Whether a stream of slot q of a unit is open (R349): a message of the partition partly sent, or partly received, by the unit's port, or
the stream that a general unit is running. -/
def streamOpen (s : State) (u q : Nat) : Bool :=
  (cvuAt s u).busy.any (fun b => b.1 = q)
    || s.flows.any (fun f => f.q = q && ((f.txRun.isSome && f.txPort.any (fun p => txUnit p = u))
        || (f.rxRun.isSome && f.rxPort.any (fun p => rxUnit p = u))))

/-- An open stream of slot q of a unit abandoned: no result, the running value back to INIT. -/
def abandonStream (s : State) (u q : Nat) : State :=
  modCvu s u (fun c => { c with
    busy := c.busy.filter (fun b => b.1 ≠ q)
    slots := c.slots.put q { c.slots.at q {} with run := (c.slots.at q {}).init } })

/-- The partition's open streams abandoned (R343). -/
def cvAbandon (s : State) (q : Nat) : State :=
  ((List.range 48).filter (fun u => streamOpen s u q)).foldl (fun s u => abandonStream s u q) s

/-- The stream of a descriptor abandoned: DEDUCED from R343 (log entry 74), a descriptor that fails gives up its own. -/
def abandonOf (s : State) (t k : Nat) : State :=
  ((List.range 8).filter (fun i => (cvuAt s (40 + i)).busy.any (fun b => b.2 = (t, k)))).foldl
    (fun s i => abandonStream s (40 + i) (((cvuAt s (40 + i)).busy.map Prod.fst).getD 0)) s

/-- Whether a running-value parity error has stopped a unit (R351). -/
def cvuStopped (s : State) (u : Nat) : Bool := (regGet s (cvuReg u 0x40)).testBit 37

/-- Whether the running value of slot q of a unit fails its parity as a stream takes it up (R347). -/
def runBad (s : State) (u q : Nat) : Bool := (cvuAt s u).badRuns.contains q

/-- A trailer compared with a final value (R335): bits at or above W make it a mismatch. -/
def trailerMatches (v : Nat) (trailer : Nat) : Bool := decide (trailer = v)

end Sys2Proof.Machine
end

