-- ==== Sys2Proof/Machine/Flit.lean ====
section
/-! DEFINITION. Flits, packets as bytes, and control slots on a link port (R293 to R295, R300, R304). -/

namespace Sys2Proof.Machine

/-! ### Packets as bytes (R300) -/

/-- A packet's 32-byte header. -/
def packetHeader (k : Packet) : List Byte :=
  toLe 32 (k.typ % 16 + b2n k.comp * 2 ^ 4 + b2n k.cval * 2 ^ 5 + b2n k.spec * 2 ^ 6 + b2n k.last * 2 ^ 7
    + k.flow % 2 ^ 18 * 2 ^ 8 + k.srcDev % 2 ^ 16 * 2 ^ 32 + k.dstDev % 2 ^ 16 * 2 ^ 48 + k.jobEpoch % 2 ^ 32 * 2 ^ 64
    + k.abortEpoch % 2 ^ 16 * 2 ^ 96 + k.tick % 2 ^ 24 * 2 ^ 112 + k.slot % 2 ^ 19 * 2 ^ 136 + k.gen % 2 ^ 8 * 2 ^ 155
    + k.length % 2 ^ 12 * 2 ^ 168 + k.status % 16 * 2 ^ 180 + k.addr % 2 ^ 44 * 2 ^ 192)

/-- A packet as it crosses the link. -/
def packetBytes (k : Packet) : List Byte := packetHeader k ++ k.data ++ (if k.cval then toLe 8 k.trailer.toNat else [])

/-- Data bytes that follow a header: LENGTH, but none after a READ_REQ, whose LENGTH says what it asks for. -/
def dataLen (h : Nat) : Nat := if field h 0 4 = 2 then 0 else field h 168 12

/-- Bytes of the packet a header begins. -/
def packetLen (h : Nat) : Nat := 32 + dataLen h + (if h.testBit 5 then 8 else 0)

/-- The packet at the front of a byte string that holds it whole. -/
def parsePacket (bs : List Byte) : Packet :=
  let h := le bs 0 32
  let n := dataLen h
  { typ := field h 0 4
    comp := h.testBit 4
    cval := h.testBit 5
    spec := h.testBit 6
    last := h.testBit 7
    flow := field h 8 18
    srcDev := field h 32 16
    dstDev := field h 48 16
    jobEpoch := field h 64 32
    abortEpoch := field h 96 16
    tick := field h 112 24
    slot := field h 136 19
    gen := field h 155 8
    length := field h 168 12
    status := field h 180 4
    addr := field h 192 44
    reserved := field h 26 6 ||| field h 163 5 ||| field h 184 8 ||| field h 236 20
    data := slice bs 32 n
    trailer := if h.testBit 5 then word (le bs (32 + n) 8) else 0 }

/-- The packets whole in a byte string and what is left of it. A zero TYPE where a packet would begin is padding to the
flit's end. The fuel bounds the number of packets. -/
def takePackets : Nat → List Byte → List Packet × List Byte
  | 0, bs => ([], bs)
  | fuel + 1, bs =>
    if bs.isEmpty || field (le bs 0 1) 0 4 = 0 then ([], [])
    else if bs.length < 32 || bs.length < packetLen (le bs 0 32) then ([], bs)
    else
      let r := takePackets fuel (bs.drop (packetLen (le bs 0 32)))
      (parsePacket bs :: r.1, r.2)

/-- Credits of 64 bytes a packet takes (R295). -/
def packetCredits (k : Packet) : Nat := ((packetBytes k).length + 63) / 64

/-- Whether a packet is of the reply class: READ_DATA and ACK. -/
def isReply (k : Packet) : Bool := decide (k.typ = 3 ∨ k.typ = 4)

/-! ### Flits (R293) -/

/-- Whether a port is UP. -/
def portUp (s : State) (p : Nat) : Bool := decide ((portAt s p).state = 2)

/-- The flit control word. -/
def flitCtrl (x : Port) (seq ftype : Nat) : Nat :=
  seq % 4096 + x.rxSeq % 4096 * 2 ^ 12 + ftype % 4 * 2 ^ 24 + min x.owedReq 255 * 2 ^ 26 + min x.owedRsp 255 * 2 ^ 34

/-- A flit's 256 bytes. -/
def flitBytes (body : List Byte) (ctrl : Nat) : List Byte :=
  let b := slice body 0 242 ++ toLe 6 ctrl
  b ++ toLe 8 (cvOf crc64we b)

/-- A data or control flit sent and kept for replay; idle flits (type 2) and retry requests (type 3) are not kept and
carry the last SEQ sent. -/
def sendFlit (s : State) (p ftype : Nat) (body : List Byte) : State :=
  let x := portAt s p
  let seq := if ftype ≤ 1 then (x.txSeq + 1) % 4096 else x.txSeq
  let bytes := flitBytes body (flitCtrl x seq ftype)
  modPort (emit s (.flit p bytes)) p (fun x =>
    { x with
      txSeq := seq
      replay := if ftype ≤ 1 then x.replay ++ [(seq, bytes)] else x.replay
      owedReq := x.owedReq - min x.owedReq 255
      owedRsp := x.owedRsp - min x.owedRsp 255 })

/-- A control slot's 12 bytes (R304). -/
def slotBytes (c : CtlSlot) : List Byte := toLe 1 c.typ ++ toLe 1 c.tree ++ toLe 2 c.epoch ++ toLe 8 c.sym.toNat

/-- A control slot sent on a port that is UP, in a control flit; it waits while the replay buffer is full (R294). -/
def sendSymbol (s : State) (p : Nat) (c : CtlSlot) : State :=
  if !portUp s p then s
  else if 512 ≤ (portAt s p).replay.length then modPort s p (fun x => { x with ctlWait := x.ctlWait ++ [c] })
  else sendFlit (emit s (.symbol p c)) p 1 (slotBytes c)

/-- The control slots of a control flit's body. -/
def parseSlots (body : List Byte) : List CtlSlot :=
  (List.range 20).map (fun i =>
    { typ := le body (12 * i) 1
      tree := le body (12 * i + 1) 1
      epoch := le body (12 * i + 2) 2
      sym := word (le body (12 * i + 4) 8) })

/-- A packet put on the wire: its bytes follow those of the packets before it, through data flits of 242 body bytes; what does not fill a
flit stays for the next (R293). -/
def sendPacket (s : State) (p : Nat) (k : Packet) : State :=
  let bs := (portAt s p).txTail ++ packetBytes k
  let n := bs.length / 242
  let s1 := (pieces 242 (bs.take (242 * n))).foldl (fun s b => sendFlit s p 0 b) (emit s (.packet p k))
  modPort s1 p (fun x => { x with txTail := bs.drop (242 * n) })

/-- The tail of the packets sent, in a data flit filled up with zeros. DESIGN CHOICE (log entry 76): a zero TYPE where a packet would begin
is padding to the flit's end. -/
def sendTail (s : State) (p : Nat) : State :=
  let x := portAt s p
  if x.txTail.isEmpty then s else sendFlit (modPort s p (fun x => { x with txTail := [] })) p 0 x.txTail

end Sys2Proof.Machine
end

