-- ==== Sys2Proof/Machine/Host.lean ====
section
/-! DEFINITION. Command records, sequence numbers, order, legality and completion (10_host_control.md), and the meaning of
COMMAND_RECORD. -/

namespace Sys2Proof.Machine

/-- The place of a status in the order of R11, STALE_EPOCH after them all (R358). -/
def statusRank (st : Nat) : Nat :=
  if st = stBadField then 0
  else if st = stBadLength then 1
  else if st = stAbsent then 2
  else if st = stWrongState then 3
  else if st = stBadSignature then 4
  else if st = stDenied then 5
  else if st = stNoResource then 6
  else 7

/-- One check: where it fails, its status and the offset of its field. -/
def check (fails : Bool) (st detail : Nat) : List (Nat × Nat) := if fails then [(st, detail)] else []

/-- The failed check that decides (R11, R357): the first in the order of statuses, and among equals that of the first field. -/
def decideFail (l : List (Nat × Nat)) : Option (Nat × Nat) :=
  l.foldl (fun best f =>
    match best with
    | none => some f
    | some b =>
      if statusRank f.1 < statusRank b.1 ∨ (statusRank f.1 = statusRank b.1 ∧ f.2 < b.2) then some f else some b) none

/-! ### Opcodes (R365) -/

def opIdentify : Nat := 0x01
def opReadLog : Nat := 0x02
def opAttest : Nat := 0x03
def opLoadImage : Nat := 0x10
def opUnload : Nat := 0x11
def opStart : Nat := 0x12
def opHold : Nat := 0x13
def opResume : Nat := 0x14
def opAbortStep : Nat := 0x15
def opCtxSave : Nat := 0x16
def opCtxRestore : Nat := 0x17
def opDma : Nat := 0x18
def opReset : Nat := 0x20
def opSelfTest : Nat := 0x21
def opDump : Nat := 0x22
def opBindJob : Nat := 0x30
def opUnbindJob : Nat := 0x31
def opShadowBegin : Nat := 0x32
def opShadowEnd : Nat := 0x33
def opFence : Nat := 0x40
def opExpel : Nat := 0x41
def opAdmit : Nat := 0x42
def opCheckpoint : Nat := 0x50
def opRestore : Nat := 0x51
def opConnect : Nat := 0x60
def opDisconnect : Nat := 0x61
def opFwRestart : Nat := 0x70

/-- Every opcode of the command table. -/
def opcodes : List Nat :=
  [opIdentify, opReadLog, opAttest, opLoadImage, opUnload, opStart, opHold, opResume, opAbortStep, opCtxSave,
    opCtxRestore, opDma, opReset, opSelfTest, opDump, opBindJob, opUnbindJob, opShadowBegin, opShadowEnd, opFence,
    opExpel, opAdmit, opCheckpoint, opRestore, opConnect, opDisconnect, opFwRestart]

/-- Read-only commands (R360). -/
def isReadOnly (op : Nat) : Bool := decide (op = opIdentify ∨ op = opReadLog ∨ op = opAttest)

/-- Whether a command is a device command (R365, R366); SELF_TEST takes either scope. -/
def isDeviceCmd (c : Cmd) : Bool :=
  if c.opcode = opReset then decide (4 ≤ c.arg0 ∧ c.arg0 ≤ 8)
  else if c.opcode = opSelfTest then decide (c.partition = 0xFF)
  else [opIdentify, opReadLog, opAttest, opDump, opConnect, opDisconnect, opFwRestart].contains c.opcode

/-- Whether a RESET names no domain (R365): its scope is then open. -/
def noDomain (c : Cmd) : Bool := decide (c.opcode = opReset ∧ (c.arg0 = 0 ∨ 8 < c.arg0))

/-- Commands that take a payload. -/
def takesPayload (op : Nat) : Bool :=
  [opAttest, opDma, opBindJob, opShadowBegin, opFence, opExpel, opAdmit, opCheckpoint, opRestore, opConnect].contains op

/-- Commands that may use a bulk region. -/
def takesBulk (op : Nat) : Bool :=
  [opReadLog, opAttest, opLoadImage, opDump, opBindJob, opFwRestart].contains op

/-! ### Accepted commands -/

/-- The accepted command of a slot and SEQ. -/
def cmdAt (s : State) (h seq : Nat) : Option Cmd := s.cmds.find? (fun c => c.host = h && c.seq = seq)

/-- An accepted command changed. -/
def modCmd (s : State) (h seq : Nat) (f : Cmd → Cmd) : State :=
  { s with cmds := s.cmds.map (fun c => if c.host = h && c.seq = seq then f c else c) }

/-- An accepted command taken off. -/
def dropCmd (s : State) (h seq : Nat) : State :=
  { s with cmds := s.cmds.filter (fun c => !(c.host = h && c.seq = seq)) }

/-- The commands accepted before one. -/
def cmdsBefore (s : State) (c : Cmd) : List Cmd := s.cmds.takeWhile (fun d => !(d.host = c.host && d.seq = c.seq))

/-- The order of R360: whether a command may start now; none does once a reset of domain 6 or 8 is due (R373). -/
def mayStart (s : State) (c : Cmd) : Bool :=
  s.mgt.deferred.isEmpty && (isReadOnly c.opcode ||
    (cmdsBefore s c).all (fun d =>
      isReadOnly d.opcode || !(isDeviceCmd c || isDeviceCmd d || decide (c.partition = d.partition))))

/-- The command a row starts: accepted, of the row's opcode, not yet started, its turn come. -/
def starting (s : State) (h seq op : Nat) : Option Cmd :=
  (cmdAt s h seq).filter (fun c => decide (c.opcode = op ∧ c.phase = 0) && mayStart s c)

/-- The status record of a command: its PARTITION byte is the command's; of a device command it shows no partition's state (R357). -/
def recordOf (s : State) (c : Cmd) (st r0 r1 detail bulk : Nat) : List Byte :=
  setNth (statusBytes s c.opcode (if isDeviceCmd c then 0xFF else c.partition) st c.seq 0 c.host r0 r1 detail bulk) 2
    (BitVec.ofNat 8 c.partition)

/-- The records of the SEQs from H − 255 to H (R359). -/
def keptRecords (h : Nat) (l : List (Nat × List Byte)) : List (Nat × List Byte) :=
  l.filter (fun x => decide ((h + 2 ^ 32 - x.1) % 2 ^ 32 ≤ 255))

/-- A command taken off with its one status record, which is cached and sent (R359, R360). -/
def finishCmd (s : State) (c : Cmd) (st r0 r1 detail bulk : Nat) : State :=
  let rec_ := recordOf s c st r0 r1 detail bulk
  let s1 := modHost (dropCmd s c.host c.seq) c.host (fun x => { x with cache := keptRecords x.h ((c.seq, rec_) :: x.cache) })
  if (hostAt s c.host).attached then emit s1 (.status c.host rec_) else s1

/-- Commands of an opcode that the table does not have complete with BAD_FIELD, each when its turn to start comes (R360, R365); the fuel
bounds them. -/
def endUnknown : Nat → State → State
  | 0, s => s
  | fuel + 1, s =>
    match s.cmds.find? (fun c => !opcodes.contains c.opcode && mayStart s c) with
    | none => s
    | some c => endUnknown fuel (finishCmd s c stBadField 0 0 0 0)

/-- A command completed; those of unknown opcodes whose turn it was to wait for it follow. -/
def complete (s : State) (c : Cmd) (st r0 r1 detail bulk : Nat) : State :=
  let s1 := finishCmd s c st r0 r1 detail bulk
  endUnknown s1.cmds.length s1

/-- A command completed by a failed check: no effect, and WRONG_STATE is logged (R368). -/
def refuseCmd (s : State) (c : Cmd) (f : Nat × Nat) : State :=
  complete (if f.1 = stWrongState then logEntry s 0x0E 0 c.partition [c.opcode, c.host, c.seq] else s) c f.1 0 0
    (if f.1 = stBadField ∨ f.1 = stBadLength then f.2 else 0) c.bulk.length

/-! ### Checks every command meets (R356, R362, R366) -/

/-- The checks of the header's own fields. -/
def headerFails (c : Cmd) : List (Nat × Nat) :=
  check (if noDomain c then decide (15 < c.partition ∧ c.partition ≠ 0xFF)
    else !isDeviceCmd c && decide (15 < c.partition) || isDeviceCmd c && decide (c.partition ≠ 0xFF)) stBadField 2
  ++ check (decide (1 < c.flags)) stBadField 3
  ++ check (decide (65536 < c.payloadLen) || !takesPayload c.opcode && decide (0 < c.payloadLen)) stBadField 8
  ++ check (c.short || decide (c.payloadLen ≠ c.payload.length)) stBadLength 8
  ++ check (decide (c.flags % 2 = 0 ∧ c.jobEpoch ≠ 0)) stBadField 12
  ++ check (!takesBulk c.opcode && decide (c.bulkAddr ≠ 0)) stBadField 32
  ++ check (decide (c.reserved ≠ 0)) stBadField 56

/-- CHECK_EPOCH (R356). -/
def epochFails (s : State) (c : Cmd) : List (Nat × Nat) :=
  let p := partAt s c.partition
  check (decide (c.flags % 2 = 1) && !(decide (c.partition < 16) && isBound p && decide (c.jobEpoch = jobEpochOf p))) stStaleEpoch 0

/-- Whether a partition's job has fenced the module (R315). -/
def isFencedPart (p : Part) : Bool := (p.binding.map Binding.fenced).getD false

/-- Whether a partition shadows, in the sense of the SHADOWING qualifier. -/
def anyShadowing (s : State) : Bool := s.parts.any (fun x => isShadowing x.2)

/-- The partition states in which SELF_TEST's target allows it (R369). -/
def isIdle (p : Part) : Bool := decide (p.state = .empty ∨ p.state = .faulted)

/-- Whether the target of SELF_TEST is free for it: the partition of a tile, bank or group target, every partition for
a shared unit. -/
def testTargetIdle (s : State) (kind idx : Nat) : Bool :=
  let free (ts : List Nat) : Bool := ts.all (fun t => match partOfTile s t with | none => true | some q => isIdle (partAt s q))
  match kind with
  | 1 => free [idx]
  | 2 => free [idx / 32]
  | 3 => free (groupTiles idx)
  | _ => s.parts.all (fun x => isIdle x.2)

/-- The partition states of R369 for a command. -/
def partLegal (s : State) (c : Cmd) : Bool :=
  let p := partAt s c.partition
  let st := p.state
  let op := c.opcode
  if op = opLoadImage then decide (st = .empty ∨ st = .faulted) || (decide (st = .loaded) && !isBound p)
  else if op = opUnload then decide (st = .loaded ∨ st = .held ∨ st = .faulted) && !isBound p
  else if op = opStart then decide (st = .loaded) && isBound p && !isShadowing p
  else if op = opHold || op = opAbortStep then decide (st = .running) && !isShadowing p
  else if op = opResume || op = opCtxSave then decide (st = .held)
  else if op = opCtxRestore then decide (st = .loaded ∨ st = .held)
  else if op = opDma then decide (st = .loaded ∨ st = .held ∨ st = .faulted)
  else if op = opReset then decide (3 < c.arg0 ∨ st ≠ .empty)
  else if op = opSelfTest then testTargetIdle s (c.arg0 % 256) c.arg1
  else if op = opBindJob then decide (st = .loaded) && !isBound p
  else if op = opUnbindJob then decide (st = .loaded ∨ st = .held ∨ st = .faulted) && isBound p
  else if op = opShadowBegin then decide (st = .loaded) && isBound p && !anyShadowing s
  else if op = opShadowEnd then decide (st = .running) && isShadowing p
  else if op = opFence || op = opExpel then decide (st = .running ∨ st = .held ∨ st = .aborting ∨ st = .faulted) && isBound p
  else if op = opAdmit then
    if isShadowing p then decide (st = .running ∧ c.arg0 = 0)
    else (decide (st = .running ∨ st = .held ∨ st = .aborting) && isBound p) || (decide (st = .loaded ∧ c.arg0 ≠ 0) && isBound p)
  else if op = opCheckpoint then decide (st = .running ∨ st = .held) && isBound p
  else if op = opRestore then decide (st = .loaded) && isBound p
  else true

/-- Whether a command is legal in the present state (R369, R512). -/
def legal (s : State) (c : Cmd) : Bool :=
  let op := c.opcode
  let ready := partLegal s c
  let inFenced := op = opIdentify || op = opReadLog || op = opAttest || op = opUnload || op = opReset || op = opSelfTest
    || op = opDump || op = opUnbindJob || op = opConnect || op = opDisconnect || op = opFwRestart
  match s.dev with
  | .off => false
  | .boot => op = opIdentify || op = opFwRestart
  | .ready | .degraded => ready
  | .fenced => ready && (inFenced || (!isDeviceCmd c && !isFencedPart (partAt s c.partition)))
  | .dump => op = opIdentify || op = opReadLog || (op = opReset && decide (c.arg0 = 8))

/-- The outcome of every check of a command (R11), its own ones given. -/
def judge (s : State) (c : Cmd) (own : List (Nat × Nat)) : Option (Nat × Nat) :=
  decideFail (headerFails c ++ own ++ check (!legal s c) stWrongState 0 ++ epochFails s c)

/-- A command that passes its checks goes on; one that fails completes with no effect. -/
def withChecks (s : State) (c : Cmd) (own : List (Nat × Nat)) (go : State → State) : State :=
  match judge s c own with
  | some f => refuseCmd s c f
  | none => go s

/-- A row's command started, if it may. -/
def startCmd (s : State) (h seq op : Nat) (go : State → Cmd → State) : State :=
  match starting s h seq op with
  | some c => go s c
  | none => s

/-! ### Bulk regions (R361) -/

/-- A command's bulk input asked for, once, before any effect. -/
def askBulk (s : State) (c : Cmd) : State :=
  modCmd (emit s (.bulkRead c.host c.seq c.bulkAddr c.bulkLen c.bulkRkey)) c.host c.seq (fun c => { c with phase := 1 })

/-- A command that reads a bulk region: a field that fails ends it at once, as does any failure where it has no bulk; another
failure waits for the checks of what the region holds (R11). -/
def askJudged (s : State) (c : Cmd) (own : List (Nat × Nat)) : State :=
  match judge s c own with
  | some f =>
    if f.1 = stBadField || c.bulkLen = 0 then refuseCmd s c f
    else askBulk (modCmd s c.host c.seq (fun c => { c with r0 := f.1, r1 := f.2 })) c
  | none => askBulk s c

/-- The failure that waits. -/
def heldFail (c : Cmd) : List (Nat × Nat) := if c.r0 = 0 then [] else [(c.r0, c.r1)]

/-- DETAIL of a field in the bulk region (R357). -/
def inBulk : Nat := 0xFFFFFFFF

/-- A command's output written to its bulk region; the record follows the host's answer. -/
def giveBulk (s : State) (c : Cmd) (r0 r1 : Nat) (data : List Byte) : State :=
  modCmd (emit s (.bulkWrite c.host c.seq c.bulkAddr c.bulkRkey data)) c.host c.seq
    (fun c => { c with phase := 1, bulk := data, r0 := r0, r1 := r1 })

/-! ### COMMAND_RECORD (R354 to R359, R373) -/

/-- The record of a SEND. DESIGN CHOICE (log entry 78): the missing bytes of a header cut short read as zero; its PAYLOAD_LENGTH is never the
SEND length minus 64. -/
def parseCmd (h : Nat) (m : List Byte) : Cmd :=
  { host := h
    seq := le m 4 4
    opcode := le m 0 2
    partition := le m 2 1
    flags := le m 3 1
    payloadLen := le m 8 4
    jobEpoch := le m 12 4
    arg0 := le m 16 8
    arg1 := le m 24 8
    bulkAddr := le m 32 8
    bulkLen := le m 40 4
    bulkRkey := le m 44 4
    arg2 := le m 48 8
    reserved := le m 56 8
    payload := m.drop 64
    short := decide (m.length < 64) }

/-- Codes of a negative acknowledgement: an Invalid Request, a receiver not ready. -/
def nakInvalid : Nat := 1
def nakNotReady : Nat := 0

/-- A command accepted as new. -/
def acceptCmd (s : State) (c : Cmd) : State :=
  let s1 := modHost { s with cmds := s.cmds ++ [c] } c.host (fun x => { x with h := c.seq, anySeq := false, cache := keptRecords c.seq x.cache })
  if s.dev ≠ .boot && !s.mgt.running then complete s1 c stTimeout 0 0 0 0 else endUnknown 1 s1

/-- A cached record with DUPLICATE set. -/
def asDuplicate (r : List Byte) : List Byte := setNth r 10 (r.getD 10 0 ||| 1)

/-- A management connection in the error state: it is closed, and its slot is left (R354). -/
def dropManagement (s : State) (h : Nat) : State :=
  let n := (hostAt s h).qpn
  { modHost s h (fun x => { x with attached := false }) with conns := s.conns.filter (fun c => c.qpn ≠ n) }

/-- COMMAND_RECORD: a SEND on slot h's connection, judged by its SEQ (R354, R359). -/
def commandRecord (h : Nat) (m : List Byte) (s : State) : State :=
  let x := hostAt s h
  if !x.attached then s
  else if 65600 < m.length then logEntry (dropManagement (emit s (.nak x.qpn nakInvalid)) h) (Config.logCode 0) h 0xFF []
  else if 64 ≤ (s.cmds.filter (fun c => c.host = h)).length then emit s (.nak x.qpn nakNotReady)
  else
    let c := parseCmd h m
    let ahead := (c.seq + 2 ^ 32 - x.h) % 2 ^ 32
    let back := (x.h + 2 ^ 32 - c.seq) % 2 ^ 32
    if x.anySeq || (decide (1 ≤ ahead) && decide (ahead ≤ 2 ^ 31)) then acceptCmd s c
    else
      match if back ≤ 255 then x.cache.find? (fun r => r.1 = c.seq) else none with
      | some r => emit s (.status h (asDuplicate r.2))
      | none =>
        if back ≤ 255 && (cmdAt s h c.seq).isSome then s
        else emit s (.status h (recordOf s c stBadField 0 0 4 0))

def execCommandRecord (h : Nat) (m : List Byte) (s : State) : Host.Outcome State Fault Refusal := .next (commandRecord h m s)

/-- Every accepted and unanswered command but one completes with TIMEOUT (R373). -/
def timeoutCmds (s : State) (keep : Option (Nat × Nat)) : State :=
  s.cmds.foldl (fun s c => if keep = some (c.host, c.seq) then s else complete s c stTimeout 0 0 0 0) s

end Sys2Proof.Machine
end

