-- ==== Sys2Proof/Machine/Numbers.lean ====
section
/-! DEFINITION. Number formats and conversion (02_number_formats.md): rounding, IEEE formats, DB and MX blocks,
stochastic rounding bits, deposit elements. -/

namespace Sys2Proof.Machine

/-- An exact number: a NaN, an infinity, or (−1)^neg · m · 2^e, zero being signed. -/
inductive FVal where
  | nan
  | inf (neg : Bool)
  | fin (neg : Bool) (m : Nat) (e : Int)
deriving DecidableEq, Repr, Inhabited

/-- Positive zero. -/
def FVal.zero : FVal := .fin false 0 0

/-- Whether a value is finite. -/
def FVal.isFin : FVal → Bool
  | .fin .. => true
  | _ => false

/-- Whether a value is a zero of either sign. -/
def FVal.isZero : FVal → Bool
  | .fin _ m _ => m == 0
  | _ => false

/-- Whether a value is a NaN. -/
def FVal.isNan : FVal → Bool
  | .nan => true
  | _ => false

/-- The sign of a value, false for a NaN. -/
def FVal.neg : FVal → Bool
  | .nan => false
  | .inf s => s
  | .fin s _ _ => s

/-- The integer significand of a finite value with its sign; 0 otherwise. -/
def FVal.sig : FVal → Int
  | .fin s m _ => if s then -(m : Int) else m
  | _ => 0

/-- The exponent of a finite value; 0 otherwise. -/
def FVal.exp : FVal → Int
  | .fin _ _ e => e
  | _ => 0

/-- The value v · 2^e, zero being positive. -/
def FVal.ofInt (v e : Int) : FVal := .fin (decide (v < 0)) v.natAbs e

/-- floor(log2 |x|) of a non-zero finite value. -/
def FVal.top : FVal → Int
  | .fin _ m e => (topBit m : Int) + e
  | _ => 0

/-- The position of the lowest set bit of a non-zero finite value. -/
def FVal.low : FVal → Int
  | .fin _ m e => (lowBit m : Int) + e
  | _ => 0

/-! ### Rounding (R60, R61) -/

/-- Rounding codes RNE, RTZ, RUP, RDN, STOCH (R60). -/
def rne : Nat := 0
def rtz : Nat := 1
def rup : Nat := 2
def rdn : Nat := 3
def stoch : Nat := 4

/-- v · 2^k rounded to an integer in a mode with 32 random bits (R60, R61). -/
def roundScaled (mode rb : Nat) (v k : Int) : Int :=
  if 0 ≤ k then v * 2 ^ k.toNat
  else
    let s := (-k).toNat
    let fl := v / (2 ^ s : Int)
    let rem := (v % (2 ^ s : Int)).toNat
    if rem = 0 then fl
    else
      let up : Bool :=
        if mode = rne then decide (2 ^ s < 2 * rem) || (decide (2 * rem = 2 ^ s) && decide (fl % 2 ≠ 0))
        else if mode = rtz then decide (v < 0)
        else if mode = rup then true
        else if mode = rdn then false
        else decide (rb < rem * 2 ^ 32 / 2 ^ s)
      if up then fl + 1 else fl

/-- Whether v · 2^k is an integer. -/
def exactScaled (v k : Int) : Bool := decide (0 ≤ k) || decide (v % (2 ^ (-k).toNat : Int) = 0)

/-! ### Stochastic rounding bits (R62) -/

/-- The mixing function of R62. -/
def mix (z : Nat) : Nat :=
  let z1 := ((z ^^^ (z >>> 31)) * 0xA24BAED4963EE407) % 2 ^ 64
  let z2 := ((z1 ^^^ (z1 >>> 29)) * 0x9FB21C651E98DF25) % 2 ^ 64
  z2 ^^^ (z2 >>> 32)

/-- The 32 random bits of a key (R62): the step is its low 32 bits, the index 48 bits. -/
def rbits (seed step tag point index : Nat) : Nat :=
  let w := ((step % 2 ^ 32) <<< 32) ||| ((tag % 65536) <<< 16) ||| ((point % 256) <<< 8)
  let z := mix (seed ^^^ (index % 2 ^ 48))
  mix ((z + w + 0x5C3D91A70E26B4F1) % 2 ^ 64) >>> 32

/-! ### IEEE formats (R57) -/

/-- An IEEE format: exponent bits and fraction bits. -/
structure IeeeFmt where
  eb : Nat
  mb : Nat
deriving DecidableEq, Repr, Inhabited

def fp16 : IeeeFmt := ⟨5, 10⟩
def bf16 : IeeeFmt := ⟨8, 7⟩
def fp32 : IeeeFmt := ⟨8, 23⟩
def fp64 : IeeeFmt := ⟨11, 52⟩

/-- The exponent bias. -/
def IeeeFmt.bias (f : IeeeFmt) : Int := 2 ^ (f.eb - 1) - 1

/-- The exponent of the last place of the smallest normal number. -/
def IeeeFmt.minUlp (f : IeeeFmt) : Int := 1 - f.bias - f.mb

/-- Width in bits. -/
def IeeeFmt.width (f : IeeeFmt) : Nat := 1 + f.eb + f.mb

/-- The sign bit in place. -/
def IeeeFmt.signBit (f : IeeeFmt) (s : Bool) : Nat := if s then 2 ^ (f.eb + f.mb) else 0

/-- The infinity of a sign. -/
def IeeeFmt.infBits (f : IeeeFmt) (s : Bool) : Nat := f.signBit s + (2 ^ f.eb - 1) * 2 ^ f.mb

/-- The largest finite value of a sign. -/
def IeeeFmt.maxBits (f : IeeeFmt) (s : Bool) : Nat := f.infBits s - 1

/-- The canonical NaN (R54, R152). -/
def IeeeFmt.nanBits (f : IeeeFmt) : Nat := f.infBits false + 2 ^ (f.mb - 1)

/-- The value an encoding stands for. -/
def IeeeFmt.decode (f : IeeeFmt) (bits : Nat) : FVal :=
  let s := bits.testBit (f.eb + f.mb)
  let ex := field bits f.mb f.eb
  let fr := bits % 2 ^ f.mb
  if ex = 2 ^ f.eb - 1 then (if fr = 0 then .inf s else .nan)
  else if ex = 0 then .fin s fr f.minUlp
  else .fin s (2 ^ f.mb + fr) (f.minUlp + (ex - 1 : Nat))

/-- Whether an encoding is a signalling NaN: its fraction's top bit is clear. -/
def IeeeFmt.isSnan (f : IeeeFmt) (bits : Nat) : Bool :=
  (f.decode bits).isNan && !bits.testBit (f.mb - 1)

/-- The outcome of rounding to an IEEE format: the rounded integer with its last place, whether it differs from the
value, whether it left the finite range, whether it is tiny after rounding with an unbounded exponent (R156). -/
structure IeeeRnd where
  q : Int
  ulp : Int
  inexact : Bool
  ovf : Bool
  tiny : Bool
deriving DecidableEq, Repr, Inhabited

/-- A non-zero value v · 2^e rounded once to a format's precision, its exponent range unbounded above (R61). -/
def IeeeFmt.roundTo (f : IeeeFmt) (mode rb : Nat) (v e : Int) : IeeeRnd :=
  let top : Int := (topBit v.natAbs : Int) + e
  let ulp := max (top - f.mb) f.minUlp
  let q := roundScaled mode rb v (e - ulp)
  { q := q, ulp := ulp
    inexact := !exactScaled v (e - ulp)
    ovf := decide (f.bias < (topBit q.natAbs : Int) + ulp) && decide (q ≠ 0)
    tiny :=
      let u := roundScaled mode rb v (e - (top - f.mb))
      decide ((topBit u.natAbs : Int) + (top - f.mb) < 1 - f.bias) }

/-- The encoding of q · 2^ulp, a rounded value in range; zero takes the sign given. -/
def IeeeFmt.pack (f : IeeeFmt) (s : Bool) (q ulp : Int) : Nat :=
  let m := q.natAbs
  if m < 2 ^ f.mb then f.signBit s + m
  else
    let carry := decide (2 ^ (f.mb + 1) ≤ m)
    let m' := if carry then m / 2 else m
    let u := if carry then ulp + 1 else ulp
    f.signBit s + ((u - f.minUlp).toNat + 1) * 2 ^ f.mb + (m' - 2 ^ f.mb)

/-- What an overflowing result becomes under IEEE 754: an infinity, or the largest finite value where the direction
rounds toward zero; STOCH gives an infinity (R59, R61). -/
def IeeeFmt.overBits (f : IeeeFmt) (mode : Nat) (s : Bool) : Nat :=
  if mode = rtz || (mode = rup && s) || (mode = rdn && !s) then f.maxBits s else f.infBits s

/-- The drain's conversion of V · 2^e: one rounding, saturating at the largest finite value (R58). -/
def drainIeee (f : IeeeFmt) (mode rb : Nat) (v e : Int) : Nat × Bool :=
  if v = 0 then (0, false)
  else
    let r := f.roundTo mode rb v e
    let s := decide (v < 0)
    if r.ovf then (f.maxBits s, true)
    else (f.pack s r.q r.ulp, false)

/-! ### Format codes (R35) -/

def isDb (c : Nat) : Bool := decide (1 ≤ c ∧ c ≤ 8)
def isMx (c : Nat) : Bool := decide (0x10 ≤ c ∧ c ≤ 0x15)

/-- The IEEE format of a code among FP16, BF16, FP32. -/
def ieeeOf : Nat → Option IeeeFmt
  | 0x20 => some fp16
  | 0x21 => some bf16
  | 0x22 => some fp32
  | _ => none

/-- Formats a feed, weight load or drain output may name (R35). -/
def isBlockFmt (c : Nat) : Bool := isDb c || isMx c || (ieeeOf c).isSome

/-- Bytes of one block's element field (R40). -/
def fieldBytes (c : Nat) : Nat :=
  if isDb c then 16 * c
  else if c = 0x10 || c = 0x11 || c = 0x15 then 32
  else if c = 0x12 || c = 0x13 then 24
  else if c = 0x14 then 16
  else if c = 0x20 || c = 0x21 then 64
  else if c = 0x22 then 128
  else 0

/-- Distance between consecutive blocks in an element plane (R40). -/
def blockStride (c : Nat) : Nat := if c = 0x12 || c = 0x13 then 32 else fieldBytes c

/-- Whether a format has a scale plane. -/
def hasScale (c : Nat) : Bool := isDb c || isMx c

/-! ### DB blocks (R37 to R43) -/

/-- A block in flight: its integers and its block tag (R41). -/
structure Blk where
  q : List Int := []
  /-- stored exponent E -/
  e : Nat := 0
  d : Nat := 0
  nonfinite : Bool := false
  inexact : Bool := false
  sat : Bool := false
deriving DecidableEq, Repr, Inhabited

/-- The block tag's 16 bits (R41). -/
def Blk.tag (b : Blk) : Nat :=
  b.e + b.d * 2 ^ 8 + b2n b.nonfinite * 2 ^ 12 + b2n b.inexact * 2 ^ 13 + b2n b.sat * 2 ^ 14

/-- A non-finite block (R54). -/
def nonfiniteBlk : Blk := { q := List.replicate 32 0, e := 255, nonfinite := true }

/-- A zero block (R46). -/
def zeroBlk : Blk := { q := List.replicate 32 0 }

/-- Whether an integer lies in the range of c signed digits. -/
def inDigits (c : Nat) (q : Int) : Bool := decide (-(2 ^ (4 * c - 1) : Int) ≤ q ∧ q ≤ 2 ^ (4 * c - 1) - 1)

/-- The smallest d from 1 to 8 whose range holds every element (R43). -/
def digitsOf (q : List Int) : Nat :=
  ((countFrom 1 8).find? (fun d => q.all (inDigits d))).getD 8

/-- How many times every element can be halved: the least lowest-set-bit position. -/
def commonTwos (q : List Int) : Nat :=
  q.foldl (fun a x => if x = 0 then a else min a (lowBit x.natAbs)) 300

/-- Canonical form and denomination of a block (R42, R43). -/
def denomination (q : List Int) (e : Nat) : Blk :=
  if e = 255 then { q := q, e := 255, nonfinite := true }
  else if q.all (· = 0) then { q := q, e := 0 }
  else
    let h := min (commonTwos q) (254 - e)
    let q' := q.map (fun x => x / (2 ^ h : Int))
    { q := q', e := e + h, d := digitsOf q' }

/-- Conversion of 32 exact values into a block of at most c digits (R45 to R50). -/
def convertBlock (v : List FVal) (c mode : Nat) (rb : List Nat) : Blk :=
  if !(v.all FVal.isFin) then nonfiniteBlk
  else if v.all FVal.isZero then zeroBlk
  else
    let nz := v.filter (fun x => !x.isZero)
    let t := nz.foldl (fun a x => max a x.top) (-100000)
    let f := nz.foldl (fun a x => min a x.low) 100000
    let e0 := min f 127
    let at_ (e : Int) : List Int := (v.zip rb).map (fun p => roundScaled mode p.2 p.1.sig (p.1.exp - e))
    let q0 := at_ e0
    if decide (-127 ≤ f) && q0.all (inDigits c) then denomination q0 (e0 + 127).toNat
    else
      let hi : Int := 2 ^ (4 * c - 1) - 1
      let lo : Int := -(2 ^ (4 * c - 1))
      let e1 := max (t + 2 - 4 * c) (-127)
      let raise := (at_ e1).any (fun x => decide (hi < x))
      let e2 := if raise then e1 + 1 else e1
      let sat := decide (127 < e2)
      let e := if sat then 127 else e2
      let q := if sat then (at_ 127).map (clamp · lo hi) else at_ e
      let inexact := (v.zip q).any (fun p =>
        !exactScaled p.1.sig (p.1.exp - e) || decide (roundScaled rtz 0 p.1.sig (p.1.exp - e) ≠ p.2))
      if q.all (· = 0) then { zeroBlk with inexact := inexact, sat := sat }
      else { denomination q (e + 127).toNat with inexact := inexact, sat := sat }

/-- Elements of a DBn element field (R39). -/
def dbUnpack (n : Nat) (bytes : List Byte) : List Int :=
  let v := leNat (bytes.take (16 * n))
  (List.range 32).map (fun i => signed (4 * n) (v >>> (4 * n * i)))

/-- A DBn element field. -/
def dbPack (n : Nat) (q : List Int) : List Byte :=
  toLe (16 * n) ((withPos q).foldl (fun a p => a + unsigned (4 * n) p.2 * 2 ^ (4 * n * p.1)) 0)

/-! ### MX blocks (R55, R56) -/

/-- An MX element type: width, exponent bits (0: INT8), fraction bits, bias, emax of R56, largest finite encoding. -/
structure MxTy where
  w : Nat
  eb : Nat
  mb : Nat
  bias : Int
  emax : Int
  maxCode : Nat
deriving DecidableEq, Repr, Inhabited

/-- The element type of an MX code. -/
def mxTy : Nat → MxTy
  | 0x10 => ⟨8, 4, 3, 7, 8, 0x7E⟩
  | 0x11 => ⟨8, 5, 2, 15, 15, 0x7B⟩
  | 0x12 => ⟨6, 3, 2, 3, 4, 0x1F⟩
  | 0x13 => ⟨6, 2, 3, 1, 2, 0x1F⟩
  | 0x14 => ⟨4, 2, 1, 1, 2, 0x07⟩
  | _ => ⟨8, 0, 0, 0, 0, 0x7F⟩

/-- The value of one MX element, scale 1. -/
def mxElem (c bits : Nat) : FVal :=
  let t := mxTy c
  if t.eb = 0 then .ofInt (signed 8 bits) (-6)
  else
    let s := bits.testBit (t.w - 1)
    let ex := field bits t.mb t.eb
    let fr := bits % 2 ^ t.mb
    if c = 0x10 && ex = 15 && fr = 7 then .nan
    else if c = 0x11 && ex = 31 then (if fr = 0 then .inf s else .nan)
    else if ex = 0 then .fin s fr (1 - t.bias - t.mb)
    else .fin s (2 ^ t.mb + fr) ((ex : Int) - t.bias - t.mb)

/-- The 32 values of an MX block; scale byte 0xFF makes each a NaN (R45, R55). -/
def mxUnpack (c : Nat) (bytes : List Byte) (scale : Nat) : List FVal :=
  if scale = 255 then List.replicate 32 .nan
  else
    let v := leNat (bytes.take (fieldBytes c))
    let t := mxTy c
    (List.range 32).map (fun i => match mxElem c (field v (t.w * i) t.w) with
      | .fin s m e => .fin s m (e + scale - 127)
      | x => x)

/-- The magnitude's encoding of one finite non-zero value at scale 2^x, its exponent range unbounded above (R56). -/
def mxCode (c mode rb : Nat) (v : FVal) (x : Int) : Nat :=
  let t := mxTy c
  let m := v.sig
  let e := v.exp - x
  let top : Int := (topBit m.natAbs : Int) + e
  let ulp := max (top - t.mb) (1 - t.bias - t.mb)
  let q := (roundScaled mode rb m (e - ulp)).natAbs
  if q < 2 ^ t.mb then q
  else
    let carry := decide (2 ^ (t.mb + 1) ≤ q)
    let q' := if carry then q / 2 else q
    let u := if carry then ulp + 1 else ulp
    (u - (1 - t.bias - t.mb) + 1).toNat * 2 ^ t.mb + (q' - 2 ^ t.mb)

/-- One finite value encoded at scale 2^x (R56). -/
def mxRound (c mode rb : Nat) (v : FVal) (x : Int) : Nat :=
  let t := mxTy c
  if t.eb = 0 then unsigned 8 (clamp (roundScaled mode rb v.sig (v.exp - x + 6)) (-128) 127)
  else
    let s := if v.neg then 2 ^ (t.w - 1) else 0
    if v.sig = 0 then s else s + min (mxCode c mode rb v x) t.maxCode

/-- Whether a finite value is clamped at scale 2^x. -/
def mxClamps (c mode rb : Nat) (v : FVal) (x : Int) : Bool :=
  if !v.isFin || v.isZero then false
  else if (mxTy c).eb = 0 then
    let q := roundScaled mode rb v.sig (v.exp - x + 6)
    decide (q < -128 ∨ 127 < q)
  else decide ((mxTy c).maxCode < mxCode c mode rb v x)

/-- A block written in a block format: element field, scale byte, SAT (R45 to R50, R54, R56). DESIGN CHOICE (log entry 85): the element field of a block
written whole as non-finite is zero bytes; R54 gives its scale byte alone. -/
def packBlock (c mode : Nat) (v : List FVal) (rb : List Nat) : List Byte × Nat × Bool :=
  if isDb c then
    let b := convertBlock v c mode rb
    if b.nonfinite then (List.replicate (fieldBytes c) 0, 255, false) else (dbPack c b.q, b.e, b.sat)
  else
    let t := mxTy c
    let mx8 := c = 0x10 || c = 0x11
    if v.any (fun x => !x.isFin) && !mx8 then (List.replicate (fieldBytes c) 0, 255, false)
    else
      let nz := v.filter (fun x => x.isFin && !x.isZero)
      let xs := nz.foldl (fun a x => max a x.top) (-100000) - t.emax
      let sat := !nz.isEmpty && decide (127 < xs)
      let x := if nz.isEmpty then -127 else clamp xs (-127) 127
      let nanCode := if c = 0x10 then 0x7F else 0x7E
      let codes := (v.zip rb).map (fun p => if p.1.isFin then mxRound c mode p.2 p.1 x else nanCode)
      let bits := (withPos codes).foldl (fun a p => a + p.2 * 2 ^ (t.w * p.1)) 0
      (toLe (fieldBytes c) bits, (x + 127).toNat, sat)

/-- How many of a block's values a conversion to a block format clamped, given its scale byte and SAT (R395). -/
def clampedCount (c mode : Nat) (v : List FVal) (rb : List Nat) (scale : Nat) (sat : Bool) : Nat :=
  ((v.zip rb).filter (fun p =>
    if isDb c then sat && p.1.isFin && !inDigits c (roundScaled mode p.2 p.1.sig (p.1.exp - 127))
    else decide (scale ≠ 255) && mxClamps c mode p.2 p.1 ((scale : Int) - 127))).length

/-- How many non-zero finite values a conversion turned into zero (R395). -/
def vanishedCount (v r : List FVal) : Nat :=
  ((v.zip r).filter (fun p => p.1.isFin && !p.1.isZero && p.2.isZero)).length

/-- The exact values of a stored block of any accepted format. -/
def blockValues (c : Nat) (bytes : List Byte) (scale : Nat) : List FVal :=
  if isDb c then
    if scale = 255 then List.replicate 32 .nan
    else (dbUnpack c bytes).map (fun q => FVal.ofInt q ((scale : Int) - 127))
  else if isMx c then mxUnpack c bytes scale
  else match ieeeOf c with
    | some f => (List.range 32).map (fun i => f.decode (le bytes (i * (f.width / 8)) (f.width / 8)))
    | none => []

/-- What the feeder streams for a stored block under a layer cap (R42 to R50). -/
def feedBlock (c : Nat) (bytes : List Byte) (scale cap mode : Nat) (rb : List Nat) : Blk :=
  if isDb c then
    let b := denomination (dbUnpack c bytes) scale
    if b.nonfinite then nonfiniteBlk
    else if b.d ≤ cap then b
    else convertBlock (blockValues c bytes scale) cap mode rb
  else convertBlock (blockValues c bytes scale) cap mode rb

/-- Digit j of an element streamed with d digits: the last one signed (R39). -/
def digitOf (q : Int) (j : Nat) : BitVec 4 := BitVec.ofNat 4 (unsigned 4 (q / (16 ^ j : Int)))

/-! ### Deposit elements (R66, R67) -/

/-- A value converted to a deposit element: the integer, whether it was clamped, whether it was non-finite (R67). -/
def depositElem (d64 : Bool) (w : Nat) (mode rb : Nat) (anchor : Int) (v : FVal) : Int × Bool × Bool :=
  match v with
  | .fin _ m e =>
    let l : Int := 2 ^ ((if d64 then 63 else 31) - w) - 1
    let q := if m = 0 then 0 else roundScaled mode rb v.sig (e - anchor)
    (clamp q (-l) l, decide (q < -l ∨ l < q), false)
  | _ => (0, false, true)

/-- Bytes of one element of a deposit block. -/
def depositWidth (d64 : Bool) : Nat := if d64 then 8 else 4

/-- A deposit block's 8-byte header (R66); an EMPTY block is not a ZERO one (R384). -/
def depositHeader (d64 : Bool) (anchor : Int) (index : Nat) (b : DBlock) : Nat :=
  let zero := !b.empty && b.elems.all (· = 0)
  b2n b.nonfinite + b2n b.sat * 2 + b2n zero * 4 + b2n b.empty * 8
    + (if d64 then 2 else 1) * 2 ^ 8 + unsigned 10 anchor * 2 ^ 16 + index * 2 ^ 32

/-- A deposit block as bytes: its elements are omitted when every one is zero (R66). -/
def depositBytes (d64 : Bool) (anchor : Int) (index : Nat) (b : DBlock) : List Byte :=
  toLe 8 (depositHeader d64 anchor index b) ++
    (if b.elems.all (· = 0) then []
     else b.elems.flatMap (fun x => toLe (depositWidth d64) (unsigned (8 * depositWidth d64) x)))

end Sys2Proof.Machine
end

