-- ==== Sys2Proof/Machine/Flags.lean ====
section
/-! DEFINITION. IEEE arithmetic with its status flags (R152 to R157): every operation computes its exact result and
rounds once. -/

namespace Sys2Proof.Machine

/-- The five sticky conditions (R156). -/
structure Fl where
  inv : Bool := false
  dz : Bool := false
  ovf : Bool := false
  unf : Bool := false
  inx : Bool := false
deriving DecidableEq, Repr, Inhabited

/-- Both conditions. -/
def Fl.or (a b : Fl) : Fl :=
  ⟨a.inv || b.inv, a.dz || b.dz, a.ovf || b.ovf, a.unf || b.unf, a.inx || b.inx⟩

/-- The flags as VEC_STATUS bits [4:0]. -/
def Fl.bits (f : Fl) : Nat := b2n f.inv + 2 * b2n f.dz + 4 * b2n f.ovf + 8 * b2n f.unf + 16 * b2n f.inx

/-- A rounded result: its encoding and its flags. -/
structure FRes where
  bits : Nat
  fl : Fl := {}
deriving DecidableEq, Repr, Inhabited

/-- An exact result still to be rounded, with the flags the operation itself raises. -/
structure FVf where
  v : FVal
  fl : Fl := {}
deriving DecidableEq, Repr, Inhabited

/-- One rounding of an exact value to a format in a mode, with flush to zero (R152, R155, R156). -/
def roundF (f : IeeeFmt) (mode : Nat) (ftz : Bool) (rb : Nat) (x : FVal) : FRes :=
  match x with
  | .nan => { bits := f.nanBits }
  | .inf s => { bits := f.infBits s }
  | .fin s m _ =>
    if m = 0 then { bits := f.signBit s }
    else
      let r := f.roundTo mode rb x.sig x.exp
      if r.ovf then { bits := f.overBits mode s, fl := { ovf := true, inx := true } }
      else
        let b := f.pack s r.q r.ulp
        if ftz && r.q ≠ 0 && decide (b % 2 ^ (f.eb + f.mb) < 2 ^ f.mb) then
          { bits := f.signBit s, fl := { unf := true, inx := true } }
        else { bits := b, fl := { unf := r.tiny && r.inexact, inx := r.inexact } }

/-- A typed input: its value, read with subnormals as zeros under FTZ, and INVALID for a signalling NaN (R152, R155). -/
def readF (f : IeeeFmt) (ftz : Bool) (bits : Nat) : FVf :=
  let v := f.decode bits
  let sub := decide (field bits f.mb f.eb = 0)
  { v := if ftz && sub then .fin v.neg 0 0 else v, fl := { inv := f.isSnan bits } }

/-- The sign-changed value. -/
def FVal.negate : FVal → FVal
  | .nan => .nan
  | .inf s => .inf (!s)
  | .fin s m e => .fin (!s) m e

/-- The magnitude. -/
def FVal.abs : FVal → FVal
  | .nan => .nan
  | .inf _ => .inf false
  | .fin _ m e => .fin false m e

/-- The exact sum; an exact zero of operands of opposite sign is +0, or −0 under RDN (R152). -/
def addV (mode : Nat) (a b : FVal) : FVf :=
  match a, b with
  | .nan, _ => { v := .nan }
  | _, .nan => { v := .nan }
  | .inf s, .inf t => if s = t then { v := .inf s } else { v := .nan, fl := { inv := true } }
  | .inf s, _ => { v := .inf s }
  | _, .inf s => { v := .inf s }
  | .fin s m e, .fin t n g =>
    let l := min e g
    let sum := a.sig * 2 ^ (e - l).toNat + b.sig * 2 ^ (g - l).toNat
    if sum = 0 then
      { v := .fin (if m = 0 && n = 0 && s = t then s else decide (mode = rdn)) 0 0 }
    else { v := .ofInt sum l }

/-- The exact product. -/
def mulV (a b : FVal) : FVf :=
  match a, b with
  | .nan, _ => { v := .nan }
  | _, .nan => { v := .nan }
  | .inf s, .inf t => { v := .inf (s != t) }
  | .inf s, .fin t n _ => if n = 0 then { v := .nan, fl := { inv := true } } else { v := .inf (s != t) }
  | .fin s m _, .inf t => if m = 0 then { v := .nan, fl := { inv := true } } else { v := .inf (s != t) }
  | .fin s m e, .fin t n g => { v := .fin (s != t) (m * n) (e + g) }

/-- a × b + c exactly. -/
def fmaV (mode : Nat) (a b c : FVal) : FVf :=
  let p := mulV a b
  if p.v.isNan then
    { p with fl := { p.fl with inv := p.fl.inv && (!c.isNan || Config.fmaZeroInfNan) } }
  else
    let r := addV mode p.v c
    { r with fl := r.fl.or p.fl }

/-- A positive rational num / den as a value whose last bit is sticky: 130 bits of quotient decide every rounding. -/
def quotV (s : Bool) (num den : Nat) (e : Int) : FVal :=
  let k := 130 + topBit den
  let q := num * 2 ^ k / den
  let st := b2n (decide (num * 2 ^ k % den ≠ 0))
  .fin s (2 * q + st) (e - k - 1)

/-- The quotient (R154). -/
def divV (a b : FVal) : FVf :=
  match a, b with
  | .nan, _ => { v := .nan }
  | _, .nan => { v := .nan }
  | .inf _, .inf _ => { v := .nan, fl := { inv := true } }
  | .inf s, .fin t _ _ => { v := .inf (s != t) }
  | .fin s _ _, .inf t => { v := .fin (s != t) 0 0 }
  | .fin s m e, .fin t n g =>
    if n = 0 then (if m = 0 then { v := .nan, fl := { inv := true } } else { v := .inf (s != t), fl := { dz := true } })
    else if m = 0 then { v := .fin (s != t) 0 0 }
    else { v := quotV (s != t) m n (e - g) }

/-- floor of the square root, found bit by bit from bit i down. -/
def isqrtGo (n : Nat) : Nat → Nat → Nat
  | 0, r => if (r + 1) * (r + 1) ≤ n then r + 1 else r
  | i + 1, r => isqrtGo n i (if (r + 2 ^ (i + 1)) * (r + 2 ^ (i + 1)) ≤ n then r + 2 ^ (i + 1) else r)

/-- floor of the square root. -/
def isqrt (n : Nat) : Nat := isqrtGo n (topBit n / 2 + 1) 0

/-- The square root of m · 2^e with a sticky last bit. -/
def sqrtFin (m : Nat) (e : Int) : FVal :=
  let e2 := if e % 2 = 0 then e else e - 1
  let m2 := if e % 2 = 0 then m else 2 * m
  let n := m2 * 2 ^ 260
  let r := isqrt n
  .fin false (2 * r + b2n (decide (r * r ≠ n))) (e2 / 2 - 131)

/-- The square root (R154): −0 gives −0, other negative values are invalid. -/
def sqrtV : FVal → FVf
  | .nan => { v := .nan }
  | .inf s => if s then { v := .nan, fl := { inv := true } } else { v := .inf false }
  | .fin s m e =>
    if m = 0 then { v := .fin s 0 0 }
    else if s then { v := .nan, fl := { inv := true } }
    else { v := sqrtFin m e }

/-- The reciprocal square root, rSqrt of IEEE 754-2019: ±0 gives ±∞ with DIVZERO. -/
def rsqrtV : FVal → FVf
  | .nan => { v := .nan }
  | .inf s => if s then { v := .nan, fl := { inv := true } } else { v := .zero }
  | .fin s m e =>
    if m = 0 then { v := .inf s, fl := { dz := true } }
    else if s then { v := .nan, fl := { inv := true } }
    else
      let e2 := if e % 2 = 0 then e else e - 1
      let m2 := if e % 2 = 0 then m else 2 * m
      let k := 2 * (130 + topBit m2)
      let n := 2 ^ k / m2
      let r := isqrt n
      { v := .fin false (2 * r + b2n (decide (r * r * m2 ≠ 2 ^ k))) (-(e2 / 2) - (k / 2 : Nat) - 1) }

/-! ### Elementary functions, in fixed point with 300 fraction bits -/

/-- Fraction bits of the working precision. -/
def fxBits : Nat := 300

/-- A series of positive terms: each step multiplies the term by y and divides it by the next divisor. -/
def seriesGo (y : Nat) (step : Nat → Nat) : Nat → Nat → Nat → Nat → Nat
  | 0, _, _, acc => acc
  | fuel + 1, k, t, acc =>
    let t' := t * y / 2 ^ fxBits / step k
    seriesGo y step fuel (k + 1) t' (acc + t')

/-- e^y of a fixed-point y in 0 to 1, by its power series. -/
def expFx (y : Nat) : Nat := seriesGo y id 90 1 (2 ^ fxBits) (2 ^ fxBits)

/-- 2·atanh(z) of a fixed-point z in 0 to 1/3: twice the sum of z^(2j+1)/(2j+1). -/
def atanhGo (z2 : Nat) : Nat → Nat → Nat → Nat → Nat
  | 0, _, _, acc => 2 * acc
  | fuel + 1, j, p, acc =>
    let p' := p * z2 / 2 ^ fxBits
    atanhGo z2 fuel (j + 1) p' (acc + p' / (2 * j + 1))

/-- ln(a / b) for b ≤ a ≤ 2·b, in fixed point. -/
def lnFx (a b : Nat) : Nat :=
  let z := (a - b) * 2 ^ fxBits / (a + b)
  atanhGo (z * z / 2 ^ fxBits) 110 1 z z

/-- ln 2 in fixed point. -/
def ln2Fx : Nat := lnFx 2 1

/-- 2^x, correctly rounded afterwards: an integer x is exact, any other is irrational and carries a sticky bit. -/
def exp2V : FVal → FVf
  | .nan => { v := .nan }
  | .inf s => { v := if s then .zero else .inf false }
  | .fin s m e =>
    let x : FVal := .fin s m e
    if m = 0 then { v := .fin false 1 0 }
    else if 11 ≤ x.top then { v := .fin false 1 (if s then -3000 else 3000) }
    else if x.top < -280 then { v := .fin false (if s then 2 ^ 281 - 1 else 2 ^ 281 + 1) (-281) }
    else
      let fx : Int := if 0 ≤ e + fxBits then x.sig * 2 ^ (e + fxBits).toNat else x.sig / 2 ^ (-(e + fxBits)).toNat
      let n := fx / (2 ^ fxBits : Int)
      let f := (fx % (2 ^ fxBits : Int)).toNat
      if f = 0 then { v := .fin false 1 n }
      else { v := .fin false (2 * expFx (f * ln2Fx / 2 ^ fxBits) + 1) (n - fxBits - 1) }

/-- log2 x: exact at powers of two. -/
def log2V : FVal → FVf
  | .nan => { v := .nan }
  | .inf s => if s then { v := .nan, fl := { inv := true } } else { v := .inf false }
  | .fin s m e =>
    if m = 0 then { v := .inf true, fl := { dz := true } }
    else if s then { v := .nan, fl := { inv := true } }
    else
      let t := topBit m
      let n : Int := t + e
      if m = 2 ^ t then { v := .ofInt n 0 }
      else
        let fr := lnFx m (2 ^ t) * 2 ^ fxBits / ln2Fx
        let v : Int := n * 2 ^ fxBits + fr
        { v := .ofInt (2 * v + 1) (-fxBits - 1) }

/-- tanh x, by (e^2|x| − 1) / (e^2|x| + 1). -/
def tanhV : FVal → FVf
  | .nan => { v := .nan }
  | .inf s => { v := .fin s 1 0 }
  | .fin s m e =>
    let x : FVal := .fin s m e
    if m = 0 then { v := .fin s 0 0 }
    else if 6 ≤ x.top then { v := .fin s (2 ^ 180 - 1) (-180) }
    else if x.top < -60 then { v := .fin s (m * 2 ^ 180 - 1) (e - 180) }
    else
      let y : Nat := if 0 ≤ e + 1 + fxBits then m * 2 ^ (e + 1 + fxBits).toNat else m / 2 ^ (-(e + 1 + fxBits)).toNat
      let n := y / ln2Fx
      let ex := expFx (y % ln2Fx) * 2 ^ n
      let q := (ex - 2 ^ fxBits) * 2 ^ fxBits / (ex + 2 ^ fxBits)
      { v := .fin s (2 * q + 1) (-fxBits - 1) }

/-! ### Ordering (R153) -/

/-- A value as a comparison key over exact integers: sign, then magnitude; −0 below +0. -/
def ltNum (a b : FVal) : Bool :=
  match a, b with
  | .inf s, .inf t => s && !t
  | .inf s, _ => s
  | _, .inf t => !t
  | .fin s m e, .fin t n g =>
    let l := min e g
    let x := a.sig * 2 ^ (e - l).toNat
    let y := b.sig * 2 ^ (g - l).toNat
    if m = 0 && n = 0 then s && !t else decide (x < y)
  | _, _ => false

/-- Equality as numbers, the zeros being equal. -/
def eqNum (a b : FVal) : Bool :=
  if a.isZero && b.isZero then true
  else !a.isNan && !b.isNan && !ltNum a b && !ltNum b a

/-- minimumNumber (R153). -/
def minV (a b : FVal) : FVal :=
  if a.isNan then b else if b.isNan then a else if ltNum b a then b else a

/-- maximumNumber (R153). -/
def maxV (a b : FVal) : FVal :=
  if a.isNan then b else if b.isNan then a else if ltNum a b then b else a

/-- Condition SUB of FCMP on two values (R149): EQ NE LT LE GT GE UN OR. -/
def cmpV (sub : Nat) (a b : FVal) : Bool :=
  let un := a.isNan || b.isNan
  let eq := eqNum a b
  let lt := ltNum a b && !eq
  if un then sub = 1 || sub = 6
  else match sub with
    | 0 => eq | 1 => !eq | 2 => lt | 3 => lt || eq | 4 => !(lt || eq) | 5 => !lt | 6 => false | _ => true

/-- Condition SUB of ICMP (R149). -/
def cmpI (sub : Nat) (a b : Int) : Bool :=
  match sub with
  | 0 => decide (a = b) | 1 => decide (a ≠ b) | 2 => decide (a < b) | 3 => decide (a ≤ b) | 4 => decide (b < a) | _ => decide (b ≤ a)

/-! ### Whole operations on encodings -/

/-- One rounded operation on typed inputs: flags of the inputs and of the operation joined. -/
def opF (f : IeeeFmt) (mode : Nat) (ftz : Bool) (rb : Nat) (ins : List Nat) (g : List FVal → FVf) : FRes :=
  let xs := ins.map (readF f ftz)
  let r := g (xs.map FVf.v)
  let out := roundF f mode ftz rb r.v
  { out with fl := xs.foldl (fun a x => a.or x.fl) (out.fl.or r.fl) }

/-- binary64 arithmetic with RNE, as the update engines use it (R412). -/
def op64 (g : List FVal → FVf) (xs : List FVal) : FVal := fp64.decode (roundF fp64 rne false 0 (g xs).v).bits

/-- The same with both roundings of R412: to binary64 after each operation, then once to binary32. -/
def to32 (x : FVal) : Nat := (roundF fp32 rne false 0 x).bits

/-- Rounding of a finite value to a 32-bit integer with saturation (FTOI, R157). -/
def ftoiV (mode rb : Nat) (x : FVal) : Int × Fl :=
  match x with
  | .nan => (0, { inv := true })
  | .inf s => (if s then -(2 ^ 31) else 2 ^ 31 - 1, { inv := true })
  | .fin _ _ e =>
    let q := roundScaled mode rb x.sig e
    if q < -(2 ^ 31) then (-(2 ^ 31), { inv := true })
    else if 2 ^ 31 - 1 < q then (2 ^ 31 - 1, { inv := true })
    else (q, { inx := !exactScaled x.sig e })

/-- Rounding to an integral value, the sign of a zero result kept (FRINT, R157). -/
def frintV (mode rb : Nat) (x : FVal) : FVal × Fl :=
  match x with
  | .fin s _ e =>
    let q := roundScaled mode rb x.sig e
    (.fin s q.natAbs 0, { inx := !exactScaled x.sig e })
  | y => (y, {})

end Sys2Proof.Machine
end

