-- ==== Sys2Proof/Machine/Memory.lean ====
section
/-! DEFINITION. The address map and its accesses (04_accumulation.md, 07_memory.md): the accumulator window, near
stores and tills with poison and ECC, the far store with its interleave, cache lines, guards and regulators. -/

namespace Sys2Proof.Machine

/-! ### The accumulator window (R109 to R114) -/

/-- Accumulator i of a tile. -/
def accAt (d : Drain) (i : Nat) : Acc := d.accs.at i {}

/-- Accumulator tag bits (R109). -/
def tagOverdraft : Nat := 0
def tagWide : Nat := 1
def tagLong : Nat := 2
def tagInvalid : Nat := 3
def tagNonfinite : Nat := 4
def tagInexact : Nat := 5

/-- A tag bit of an accumulator. -/
def Acc.has (a : Acc) (i : Nat) : Bool := a.tag.getLsbD i

/-- An accumulator with a tag bit set. -/
def Acc.setTag (a : Acc) (i : Nat) : Acc := { a with tag := a.tag ||| BitVec.ofNat 8 (2 ^ i) }

/-- An accumulator with a tag bit cleared. -/
def Acc.dropTag (a : Acc) (i : Nat) : Acc := { a with tag := a.tag &&& ~~~(BitVec.ofNat 8 (2 ^ i)) }

/-- The A64 reading: W / 2^32 to the nearest, ties to even, clamped, for a WIDE accumulator (R112). -/
def accRead64 (a : Acc) : Int :=
  if a.has tagWide then clamp (roundScaled rne 0 a.val (-32)) (-(2 ^ 63)) (2 ^ 63 - 1) else a.val

/-- The A128 reading (R112). -/
def accRead128 (a : Acc) : Int := if a.has tagWide then a.val else a.val * 2 ^ 32

/-- DRN_WINDOW's LAYOUT of a tile (R139): true is A128. -/
def windowWide (s : State) (t : Nat) : Bool := (regGet s (tileReg t 0x780608)).testBit 0

/-- The unit of the accumulator window that holds an offset (from 0x60_0000): its kind (0 value, 1 tag, 2 count word,
3 reserved), number, first offset and length (R111). -/
def accUnit (wide : Bool) (o : Nat) : Nat × Nat × Nat × Nat :=
  if wide then (0, o / 16, o / 16 * 16, 16)
  else if o < 0x80000 then (0, o / 8, o / 8 * 8, 8)
  else if o < 0x90000 then (1, o - 0x80000, o, 1)
  else if o < 0x91000 then (2, (o - 0x90000) / 8, 0x90000 + (o - 0x90000) / 8 * 8, 8)
  else (3, 0, o, 1)

/-- A unit's bytes as they read in the layout in force (R112). -/
def accUnitBytes (d : Drain) (wide : Bool) (kind n : Nat) : List Byte :=
  match kind with
  | 0 => if wide then toLe 16 (unsigned 128 (accRead128 (accAt d n))) else toLe 8 (unsigned 64 (accRead64 (accAt d n)))
  | 1 => toLe 1 (accAt d n).tag.toNat
  | 2 => toLe 8 (d.blocks.at n 0)
  | _ => [0]

/-- A tag byte replaced (R112). DEDUCED (log entry 41) from R113, by which the tags restored after the values prevail and give back what was saved:
a value written in layout 1 whose WIDE flag the tag then clears keeps its A64 reading as V. A WIDE flag that is set leaves the stored number
as it is, now read as W. -/
def Acc.retag (a : Acc) (tag : BitVec 8) : Acc :=
  { val := if tag.getLsbD tagWide then a.val else accRead64 a, tag := tag }

/-- A whole unit stored (R112): a value write fixes WIDE by the layout, a tag write replaces the six flags. -/
def accUnitStore (d : Drain) (wide : Bool) (kind n : Nat) (v : Nat) : Drain :=
  match kind with
  | 0 =>
    let a := accAt d n
    if wide then { d with accs := d.accs.put n { (a.setTag tagWide) with val := signed 128 v } }
    else { d with accs := d.accs.put n { (a.dropTag tagWide) with val := signed 64 v } }
  | 1 => { d with accs := d.accs.put n ((accAt d n).retag (BitVec.ofNat 8 (v % 64))) }
  | 2 => { d with blocks := d.blocks.put n (v % 2 ^ 40) }
  | _ => d

/-- One byte read through the window. -/
def accByte (d : Drain) (wide : Bool) (o : Nat) : Byte :=
  let u := accUnit wide o
  (accUnitBytes d wide u.1 u.2.1).getD (o - u.2.2.1) 0

/-- n bytes read through the window from an offset (from 0x60_0000). -/
def accRead (d : Drain) (wide : Bool) (o n : Nat) : List Byte := (List.range n).map (fun i => accByte d wide (o + i))

/-- A byte string written through the window: each unit it touches is read, merged and stored whole (R112). The fuel
bounds the number of units. -/
def accWriteF : Nat → Drain → Bool → Nat → List Byte → Drain
  | 0, d, _, _, _ => d
  | fuel + 1, d, wide, o, bs =>
    if bs.isEmpty then d
    else
      let u := accUnit wide o
      let k := u.2.2.1 + u.2.2.2 - o
      let old := accUnitBytes d wide u.1 u.2.1
      let merged := old.take (o - u.2.2.1) ++ bs.take k ++ old.drop (o - u.2.2.1 + (bs.take k).length)
      accWriteF fuel (accUnitStore d wide u.1 u.2.1 (leNat merged)) wide (o + k) (bs.drop k)

/-- A byte string written through the window. -/
def accWrite (d : Drain) (wide : Bool) (o : Nat) (bs : List Byte) : Drain := accWriteF bs.length d wide o bs

/-! ### Windows and regions (R242) -/

/-- The part of a tile window an offset lies in: 0 near store, 1 accumulator window, 2 till, 3 reserved, 4 control. -/
def windowPart (off : Nat) : Nat :=
  if off < 0x600000 then 0 else if off < 0x700000 then 1 else if off < 0x740000 then 2 else if off < 0x780000 then 3 else 4

/-- First offset past a window part. -/
def partEnd (k : Nat) : Nat :=
  match k with | 0 => 0x600000 | 1 => 0x700000 | 2 => 0x740000 | 3 => 0x780000 | _ => 0x800000

/-- Whether an address lies in the tile windows. -/
def isTileAddr (a : Nat) : Bool := decide (a < 0x200000000)

/-- The tile of a tile-window address. -/
def tileOf (a : Nat) : Nat := a / 0x800000

/-- The offset of a tile-window address. -/
def offOf (a : Nat) : Nat := a % 0x800000

/-- Number of active far-store channels. -/
def activeCount (s : State) : Nat := s.fs.active.length

/-- MiB of one channel (R258, R259). -/
def chanMib (s : State) : Nat := if isHbm s then 1536 else 768

/-- Available far-store bytes (R261). -/
def fsCapacity (s : State) : Nat := activeCount s * chanMib s * 2 ^ 20

/-- Whether an address is a far-store address below the available capacity. -/
def isFsAddr (s : State) (a : Nat) : Bool := decide (fsBase ≤ a ∧ a < fsBase + fsCapacity s)

/-- Whether an address lies in the control window. -/
def isCtlAddr (a : Nat) : Bool := decide (0xFF000000000 ≤ a ∧ a < 0xFF100000000)

/-- fs_locate of R260: the channel and the byte offset in it. -/
def fsLocate (s : State) (a : Nat) : Nat × Nat :=
  let o := a - fsBase
  let l := o / 256
  let n := activeCount s
  let r := l / n
  (s.fs.active.getD ((l + 97 * r) % n) 0, r * 256 + o % 256)

/-- Whether the channel of a far-store address is fenced (R261). -/
def isFenced (s : State) (a : Nat) : Bool := decide ((chanAt s (fsLocate s a).1).state = 3)

/-! ### Poison (R248, R254, R262) -/

/-- The 64-byte line numbers a span touches. -/
def linesOf (a n : Nat) : List Nat := if n = 0 then [] else countFrom (a / 64) ((a + n - 1) / 64 + 1 - a / 64)

/-- Whether a line reads poisoned: its poison bit, or a fenced channel behind it. -/
def linePoisoned (s : State) (l : Nat) : Bool :=
  s.poison.contains l || (isFsAddr s (64 * l) && isFenced s (64 * l))

/-- Whether a span meets a poisoned line. -/
def spanPoisoned (s : State) (a n : Nat) : Bool := (linesOf a n).any (linePoisoned s)

/-- A line marked poisoned. -/
def poisonLine (s : State) (l : Nat) : State := { s with poison := insertNat s.poison l }

/-- Every line of a span marked poisoned. -/
def poisonSpan (s : State) (a n : Nat) : State := (linesOf a n).foldl poisonLine s

/-- The poison bits of the lines a span covers whole cleared (R248). -/
def curePoison (s : State) (a n : Nat) : State :=
  { s with
    poison := s.poison.filter (fun l => !decide (a ≤ 64 * l ∧ 64 * l + 64 ≤ a + n))
    upsets := s.upsets.filter (fun u => !decide (a ≤ 8 * u.1 ∧ 8 * u.1 + 8 ≤ a + n)) }

/-! ### Stored errors met on a read (R142, R248) -/

/-- A near-store error: counted, and on a double-bit error the line poisoned, the first error held and logged. -/
def nsUpset (s : State) (w : Nat) (double : Bool) : State :=
  let a := 8 * w
  let t := tileOf a
  let o := offOf a
  let r := tileReg t 0x780300
  if !double then modMon (regBump s r 0 16 1) (fun m => { m with nsCe := m.nsCe + 1 })
  else
    let bank := o / 64 % 32
    let s1 := poisonLine (regBump s r 16 16 1) (a / 64)
    let s2 := if (regGet s1 r).testBit 37 then s1
      else regFlag (regSet (regSet s1 r 32 5 bank) r 38 12 (o / 2048)) r 37
    logError s2 0x02 t (32 * t + regField s2 r 32 5) (partNum s2 t) true [a]

/-- The stored errors of a near-store span met by whoever the banks serve. -/
def nsErrors (s : State) (a n : Nat) : State :=
  s.upsets.foldl (fun s u => if decide (a / 8 ≤ u.1 ∧ 8 * u.1 < a + n) then nsUpset s u.1 u.2 else s) s

/-- A till error: counted, and on a double-bit error TILL_UE set and logged (R142); `at_` is FIRST_ADDR, the bundle's offset.
DESIGN CHOICE (log entry 7): an access by the host, the DMA engine or the agent runs no bundle and stores 0 there. -/
def tillUpset (s : State) (w : Nat) (double : Bool) (at_ : Nat) : State :=
  let t := tileOf (8 * w)
  let r := tileReg t 0x780808
  if !double then regBump s r 32 16 1
  else
    let s1 := if regField s r 0 4 = 0 then regSet s r 8 23 at_ else s
    logError (regFlag s1 r 3) 0x03 t t (partNum s t) true [8 * w]

/-- The stored errors of a till span met by a read: whether one was double-bit, and the state after. -/
def tillTouch (s : State) (a n at_ : Nat) : Bool × State :=
  s.upsets.foldl (fun r u =>
    if decide (a / 8 ≤ u.1 ∧ 8 * u.1 < a + n) then (r.1 || u.2, tillUpset r.2 u.1 u.2 at_) else r) (false, s)

/-! ### The near-store banks (R21, R246, R248) -/

/-- The bank of a near-store address. -/
def bankOf (a : Nat) : Nat := offOf a / 64 % 32

/-- The mesh port among a tile's 13 requester ports. -/
def meshPort : Nat := 12

/-- Requests a port holds in the bank queues. -/
def portHeld (x : Tile) (port : Nat) : Nat :=
  (List.range 32).foldl (fun n b => n + ((x.banks.at b []).filter (fun r => r.port = port)).length) 0

/-- A request joins its bank, or waits while its port holds 16. -/
def joinBank (x : Tile) (r : BankReq) : Tile :=
  let k := if portHeld x r.port < 16 && (x.banks.at 32 []).all (fun y => y.port ≠ r.port) then bankOf r.addr else 32
  { x with banks := x.banks.put k (x.banks.at k [] ++ [r]) }

/-- Requests that waited for their port join their banks while there is room. -/
def admitPorts (x : Tile) : Tile :=
  (x.banks.at 32 []).foldl joinBank { x with banks := x.banks.put 32 [] }

/-- The request a bank grants: the oldest, and among equals the first port. -/
def oldestReq (l : List BankReq) : Option BankReq :=
  l.foldl (fun b r =>
    match b with
    | none => some r
    | some y => if r.age < y.age ∨ (r.age = y.age ∧ r.port < y.port) then some r else some y) none

/-- Whether two waiting parts belong to one request. -/
def sameReq (a b : BankReq) : Bool := a.req.requester = b.req.requester && a.req.tag = b.req.tag && a.req.addr = b.req.addr

/-- A reply of a unit put on its way to the requester, with the epochs its request carried (R224, R489). -/
def meshAnswer (s : State) (src : Nat) (r : MeshReq) (status : Nat) (poisoned : Bool) (data : List Byte) : State :=
  { s with replies := s.replies ++ [(src, {
      requester := r.requester
      epoch := r.epoch
      part := r.part
      abortEpoch := r.abortEpoch
      tag := r.tag
      status := status
      poisoned := poisoned
      data := data })] }

/-- A near-store span read by whoever its banks serve: its bytes, whether a line was poisoned, the errors met. -/
def nsFetch (s : State) (a n : Nat) : List Byte × Bool × State :=
  let s1 := nsErrors s a n
  (readBytes s1.mem a n, spanPoisoned s1 a n, s1)

/-- A near-store or till span written by whoever its banks serve. -/
def nsStore (s : State) (a : Nat) (bs : List Byte) : State := curePoison { s with mem := writeBytes s.mem a bs } a bs.length

/-- A granted part served: the row written, or read into the request; the reply leaves with the request's last part. -/
def serveRow (s : State) (t : Nat) (b : BankReq) : State :=
  let others (x : Tile) : Bool := x.banks.any (fun k => k.2.any (fun r => sameReq r b))
  if b.req.isWrite then
    let s1 := nsStore s b.addr (slice b.req.data (b.addr - b.req.addr) b.len)
    if others (tileAt s1 t) then s1 else meshAnswer s1 t b.req stOk false []
  else
    let r := nsFetch s b.addr b.len
    let o := b.addr - b.req.addr
    let data := b.req.data.take o ++ r.1 ++ b.req.data.drop (o + b.len)
    let bad := b.poisoned || r.2.1
    let s1 := modTile r.2.2 t (fun x => { x with banks := x.banks.map (fun k => (k.1, k.2.map (fun y =>
      if sameReq y b then { y with req := { y.req with data := data }, poisoned := bad } else y))) })
    if others (tileAt s1 t) then s1 else meshAnswer s1 t b.req stOk bad data

/-- A bank's waiting request served: it leaves its queue, its port has room again. -/
def serveBank (s : State) (t bank : Nat) (b : BankReq) : State :=
  serveRow (modTile s t (fun x => admitPorts { x with banks := x.banks.put bank ((x.banks.at bank []).erase b) })) t b

/-- The requests of a bank that are older than one that joins it now are served first (R246); the fuel bounds them. -/
def serveOlder : Nat → State → Nat → Nat → State
  | 0, s, _, _ => s
  | fuel + 1, s, t, bank =>
    match oldestReq ((tileAt s t).banks.at bank []) with
    | none => s
    | some b => if b.age < s.cycle then serveOlder fuel (serveBank s t bank b) t bank else s

/-- A unit's own access comes to the banks of a span: it is the youngest there, and by the list of R246 it precedes a mesh request
of its own age. DESIGN CHOICE (log entry 81): a step of a unit is whole, so its accesses are granted within it, each once the older
requests of its bank have been. -/
def bankTurn (s : State) (a n : Nat) : State :=
  if (tileAt s (tileOf a)).banks.isEmpty then s
  else (linesOf a n).foldl (fun s l => serveOlder 64 s (tileOf a) (bankOf (64 * l))) s

/-- A unit's read comes to the near store: its turn at the banks, and the stored errors it meets. -/
def nsTouch (s : State) (a n : Nat) : State := nsErrors (bankTurn s a n) a n

/-! ### The far cache (R264, R265) -/

/-- The set a unit lies in. -/
def fcSet (l : Nat) : Nat := (l ^^^ (l / 65536)) % 65536

/-- The lines of a set, most recently used first. -/
def fcLines (s : State) (l : Nat) : List CacheLine := s.fs.cache.at (fcSet l) []

/-- Whether a unit is held. -/
def fcHit (s : State) (l : Nat) : Bool := (fcLines s l).any (fun c => c.unit = l)

/-- A unit used: a write, or a read that allocates, leaves it most recently used; the sixteenth older line leaves
its set, and a dirty one is written back as it leaves. A set out of service holds nothing. -/
def fcUse (s : State) (l : Nat) (write noalloc : Bool) : State :=
  modFs s (fun f =>
    let ls := f.cache.at (fcSet l) []
    let hit := ls.any (fun c => c.unit = l)
    let dirty := ls.any (fun c => c.unit = l && c.dirty)
    if f.setsOff.contains (fcSet l) || (!hit && !write && noalloc) then f
    else
      let line : CacheLine := { unit := l, dirty := dirty || write }
      let rest := line :: ls.filter (fun c => c.unit ≠ l)
      { f with cache := f.cache.put (fcSet l) (rest.take 16) })

/-- Base and bytes of a pool of the working reserve (R275): 0 journal, 1 outbound retention, 2 checkpoint staging, 3 activation stash. -/
def poolSpan (s : State) (k : Nat) : Nat × Nat :=
  let gib := if isHbm s then [(13, 12), (25, 8), (33, 8), (41, 4)] else [(3, 2), (5, 1), (6, 1), (7, 1)]
  let x := gib.getD k (0, 1)
  (fsBase + x.1 * 2 ^ 30, x.2 * 2 ^ 30)

/-- The address of an entry in a pool: a free value within the pool, since no rule gives the layout of entries (R416). -/
def poolAddr (s : State) (k q entry : Nat) : Nat :=
  let x := poolSpan s k
  x.1 + Config.poolPlace k q entry % x.2

/-- Every unit of a far-store span used; an address below the far store names none of its units. -/
def fcUseSpan (s : State) (a n : Nat) (write noalloc : Bool) : State :=
  if n = 0 || a < fsBase then s
  else (countFrom ((a - fsBase) / 256) ((a + n - 1 - fsBase) / 256 + 1 - (a - fsBase) / 256)).foldl
    (fun s l => fcUse s l write noalloc) s

/-- Dirty lines held (R283). -/
def dirtyLines (s : State) : Nat := (s.fs.cache.map (fun p => (p.2.filter CacheLine.dirty).length)).foldl (· + ·) 0

/-- The cache written back and emptied (R266). -/
def fcWriteBack (s : State) : State := modFs s (fun f => { f with cache := [], draining := false })

/-! ### Guards (R269) -/

/-- Whether a guard covers a unit. -/
def Guard.covers (g : Guard) (l : Nat) : Bool := g.spans.any (fun x => decide (x.1 ≤ l ∧ l < x.1 + x.2))

/-- Whether an open guard covers a unit. -/
def unitGuarded (s : State) (l : Nat) : Bool := s.fs.guards.any (fun g => g.covers l)

/-- A guard with a unit's write held and the unit STALE; the named schedulers are still to acknowledge. -/
def Guard.hold (g : Guard) (l a : Nat) (bs : List Byte) : Guard :=
  { g with stale := insertNat g.stale l, acks := insertNat g.acks l, held := g.held ++ [(a, bs)] }

/-- A write to a guarded unit: held by the first guard that covers it, the unit STALE in every one. -/
def guardHold (s : State) (l a : Nat) (bs : List Byte) : State :=
  modFs s (fun f =>
    let first := (f.guards.find? (fun g => g.covers l)).map Guard.id
    { f with guards := f.guards.map (fun g =>
        if !g.covers l then g
        else if some g.id = first then g.hold l a bs
        else { g with stale := insertNat g.stale l, acks := insertNat g.acks l }) })

/-- Whether a named actor is held by a STALE unit (R269). -/
def guardStops (s : State) (t actor : Nat) : Bool :=
  s.fs.guards.any (fun g => g.actors.contains (t, actor) && !g.stale.isEmpty)

/-! ### Spans -/

/-- n bytes from an address that lies in one region (R242). -/
def spanRead (s : State) (a n : Nat) : List Byte :=
  if isTileAddr a then
    match windowPart (offOf a) with
    | 1 => accRead (tileAt s (tileOf a)).drain (windowWide s (tileOf a)) (offOf a - 0x600000) n
    | 3 => List.replicate n 0
    | _ => readBytes s.mem a n
  else readBytes s.mem a n

/-- An uncorrected far-store error entered in FS_FIRST_ERR where that holds none (R282). -/
def fsFirstErr (s : State) (a kind : Nat) : State :=
  let r := ctl 0x410
  if (regGet s r).testBit 48 then s else regFlag (regSet (regSet s r 0 44 (a / 64 * 64)) r 49 3 kind) r 48

/-- Poisoned and fenced lines of a far-store span met by a read (R261, R263). -/
def fsReadMark (s : State) (a n : Nat) : State :=
  (linesOf a n).foldl (fun s l =>
    if isFenced s (64 * l) then fsFirstErr s (64 * l) 3
    else if s.poison.contains l then regBump s (ctl 0x408) 48 16 1 else s) s

/-- A far-store write within one unit: discarded at a fenced channel, held at a guard, else landed (R261, R269). -/
def farWriteUnit (s : State) (a : Nat) (bs : List Byte) : State :=
  let l := (a - fsBase) / 256
  if isFenced s a then fsFirstErr s a 3
  else if unitGuarded s l then guardHold s l a bs
  else fcUse (curePoison { s with mem := writeBytes s.mem a bs } a bs.length) l true false

/-- A far-store write, unit by unit; the fuel bounds the number of units. -/
def farWriteF : Nat → State → Nat → List Byte → State
  | 0, s, _, _ => s
  | fuel + 1, s, a, bs =>
    if bs.isEmpty then s
    else
      let k := 256 - a % 256
      farWriteF fuel (farWriteUnit s a (bs.take k)) (a + k) (bs.drop k)

/-! ### Guards that end (R269, R270, R279) -/

/-- Guards that meet a condition freed; their held writes come to their places again, past the guards that still stand. -/
def freeGuards (s : State) (gone : Guard → Bool) : State :=
  let held := (s.fs.guards.filter gone).flatMap Guard.held
  let s1 := modFs s (fun f => { f with guards := f.guards.filter (fun g => !gone g) })
  held.foldl (fun s w => farWriteUnit s w.1 w.2) s1

/-- Whether a guard has been released by every actor it names. -/
def Guard.ended (g : Guard) : Bool := g.done && g.actors.isEmpty

/-- A named actor's firing releases the guards whose firing's tokens have all reached it; a guard with no named actor left is freed. -/
def guardRelease (s : State) (t actor : Nat) : State :=
  let due (g : Guard) : Bool := g.done && !g.coming.any (fun x => x.1 = (t, actor) && 0 < x.2)
  let strip (g : Guard) : Guard := if due g then { g with actors := g.actors.filter (fun x => x ≠ (t, actor)) } else g
  freeGuards (modFs s (fun f => { f with guards := f.guards.map strip })) Guard.ended

/-- Every guard of a partition freed (R270). -/
def guardsFree (s : State) (q : Nat) : State := freeGuards s (fun g => g.q = q)

/-- A token from a tile reaches an actor: those that guards of that tile await there are one fewer. -/
def guardReached (s : State) (src t actor : Nat) : State :=
  modFs s (fun f => { f with guards := f.guards.map (fun g =>
    if g.tile = src && g.done then
      { g with coming := g.coming.map (fun x => if x.1 = (t, actor) then (x.1, x.2 - 1) else x) }
    else g) })

/-! ### Whole spans -/

/-- A byte string written at an address, within one region. -/
def spanWrite (s : State) (a : Nat) (bs : List Byte) : State :=
  if isTileAddr a then
    match windowPart (offOf a) with
    | 1 => modDrain s (tileOf a) (fun d => accWrite d (windowWide s (tileOf a)) (offOf a - 0x600000) bs)
    | 0 => nsStore (bankTurn s a bs.length) a bs
    | 2 => nsStore s a bs
    | _ => s
  else farWriteF bs.length s a bs

/-- Zero bytes written over a span. -/
def spanClear (s : State) (a n : Nat) : State :=
  if isTileAddr a && windowPart (offOf a) ≠ 1 then
    if windowPart (offOf a) = 0 then
      let s1 := bankTurn s a n
      curePoison { s1 with mem := clearBytes s1.mem a n } a n
    else if windowPart (offOf a) = 2 then curePoison { s with mem := clearBytes s.mem a n } a n
    else s
  else spanWrite s a (List.replicate n 0)

/-- A read by a unit that carries poison: the bytes, whether any line was poisoned or unreadable, the state after (stored
errors met, far-cache lines used). -/
def spanFetch (s : State) (a n : Nat) (noalloc : Bool) : List Byte × Bool × State :=
  if isTileAddr a then
    match windowPart (offOf a) with
    | 0 =>
      let s1 := nsTouch s a n
      (spanRead s1 a n, spanPoisoned s1 a n, s1)
    | 2 =>
      let r := tillTouch s a n 0
      (spanRead r.2 a n, r.1, r.2)
    | _ => (spanRead s a n, false, s)
  else
    let s1 := fsReadMark (fcUseSpan s a n false noalloc) a n
    (spanRead s1 a n, spanPoisoned s1 a n, s1)

/-- The parts of a span that lie in poisoned lines, as (offset, bytes) (R254). -/
def poisonedParts (s : State) (a n : Nat) : List (Nat × Nat) :=
  (linesOf a n).filterMap (fun l =>
    let lo := max (64 * l) a
    let hi := min (64 * l + 64) (a + n)
    if spanPoisoned s lo (hi - lo) || (isTileAddr lo && decide (windowPart (offOf lo) = 2) && (tillTouch s lo (hi - lo) 0).1) then some (lo - a, hi - lo) else none)

/-- A copy of a span carrying poison line by line to its destination (R254). -/
def copySpan (s : State) (src dst n : Nat) (noalloc : Bool) : State :=
  let r := spanFetch s src n noalloc
  let s1 := spanWrite r.2.2 dst r.1
  if !r.2.1 then s1
  else (linesOf dst n).foldl (fun s l =>
    let lo := max (64 * l) dst
    let hi := min (64 * l + 64) (dst + n)
    if spanPoisoned r.2.2 (src + (lo - dst)) (hi - lo) || (tillTouch s (src + (lo - dst)) (hi - lo) 0).1 then poisonLine s l else s) s1

/-! ### Regulators (R273, R274) -/

/-- Far-store requests made for a partition, to be admitted by its regulator. -/
def regulate (s : State) (q source addr bytes : Nat) : State :=
  if bytes = 0 then s
  else modPart s q (fun p => { p with regWait := p.regWait ++ [{ bytes := bytes, source := source, addr := addr }] })

/-- Sources of far-store requests: tile t's descriptor k, or operation id of an engine (0 update, 1 journal, 2 retention, 3 escrow,
4 checkpoint, 5 remote, 6 staging, 7 stash, 8 a guard's read again, 9 the fabric engine's buckets). -/
def srcDma (t k : Nat) : Nat := t * 65536 + k
def srcEngine (e id : Nat) : Nat := 2 ^ 40 + id * 16 + e
def engUpdate : Nat := 0
def engJournal : Nat := 1
def engRetention : Nat := 2
def engEscrow : Nat := 3
def engCheckpoint : Nat := 4
def engRemote : Nat := 5
def engStaging : Nat := 6
def engStash : Nat := 7
def engGuard : Nat := 8
def engBucket : Nat := 9

/-- The interleave units that a span touches. -/
def trafficUnits (a n : Nat) : Nat := if n = 0 then 0 else (a + n - 1) / 256 + 1 - a / 256

/-- Requests waiting at a regulator: one per unit of 256 bytes (R271, R287). -/
def regWaiting (p : Part) : Nat := p.regWait.foldl (fun n w => n + trafficUnits w.addr w.bytes) 0

/-- Whether a source is a descriptor of a tile's list; an engine's requests are served in the operation's own step. -/
def dmaSource (source : Nat) : Bool := decide (source < 2 ^ 40)

/-- A partition's oldest waiting request enters the far-store engine when its bucket covers it (R273). -/
def enterOne (s : State) (q : Nat) : Option State :=
  let p := partAt s q
  match p.regWait with
  | [] => none
  | w :: rest =>
    let b := min w.bytes (256 - w.addr % 256)
    if p.bucketTokens < b then none
    else
      let w' := { w with bytes := w.bytes - b, addr := w.addr + b }
      let s1 := modPart s q (fun p => { p with
        bucketTokens := p.bucketTokens - b
        regWait := if w'.bytes = 0 then rest else w' :: rest })
      some (if dmaSource w.source then modFs s1 (fun f => { f with waiting := f.waiting ++ [{ source := w.source, addr := w.addr, bytes := b }] })
        else s1)

/-- The waiting requests enter in age order as far as the bucket goes; the fuel bounds them. -/
def enterAll : Nat → State → Nat → State
  | 0, s, _ => s
  | fuel + 1, s, q =>
    match enterOne s q with
    | none => s
    | some s1 => enterAll fuel s1 q

/-! ### Request slots (R271) -/

/-- Slots that a bank's requests hold. -/
def bankHeld (s : State) (bank : Nat) : Nat := (s.fs.issued.filter (fun r => Config.dramBank r.addr = bank)).length

/-- Whether a request at an address finds a slot: one of the 65,536, within the 4,096 of its bank. -/
def slotFree (s : State) (a : Nat) : Bool :=
  decide (s.fs.issued.length < 65536) && (s.fs.issued.isEmpty || decide (bankHeld s (Config.dramBank a) < 4096))

/-- Whether each unit of a span finds a slot in its turn. -/
def spanSlots (s : State) (a n : Nat) : Bool :=
  s.fs.issued.isEmpty || (List.range (trafficUnits a n)).all (fun i => slotFree s (a / 256 * 256 + 256 * i))

/-- The spans of a list that lie in the far store and are not empty. -/
def farSpans (l : List (Nat × Nat)) : List (Nat × Nat) := l.filter (fun x => decide (fsBase ≤ x.1) && decide (0 < x.2))

/-- An engine's operation entered, its requests made; they enter as the bucket allows. -/
def makeOp (s : State) (q : Nat) (o : RegOp) : State :=
  let s1 := o.spans.foldl (fun s x => regulate s q (srcEngine o.engine o.id) x.1 x.2)
    (modPart s q (fun p => { p with regOps := p.regOps ++ [o], nextOp := o.id + 1 }))
  enterAll (regWaiting (partAt s1 q)) s1 q

/-- An engine's operation over. -/
def dropOp (s : State) (q id : Nat) : State := modPart s q (fun p => { p with regOps := p.regOps.filter (fun o => o.id ≠ id) })

/-- Whether an operation's requests have all entered and find their slots. -/
def opReady (s : State) (q : Nat) (o : RegOp) : Bool :=
  !(partAt s q).regWait.any (fun w => w.source = srcEngine o.engine o.id) && o.spans.all (fun x => spanSlots s x.1 x.2)

/-- An engine's operation for a partition: its requests are made once, enter as the bucket allows, and find their slots; then it is
done. Until then the operation waits, and leaves everything else as it is (R271, R273, R274). DESIGN CHOICE (log entry 82): it is one
step, in which its requests hold their slots one after another. -/
def charged (s : State) (q engine : Nat) (all : List (Nat × Nat)) (work : State → State) : State :=
  let p := partAt s q
  let spans := farSpans all
  let done (o : RegOp) (s : State) : State := if opReady s q o then work (dropOp s q o.id) else s
  if p.image.isNone || spans.isEmpty then work s
  else
    match p.regOps.find? (fun o => o.engine = engine && o.spans = spans && o.served.isNone) with
    | some o => done o s
    | none =>
      let o : RegOp := { id := p.nextOp, engine := engine, spans := spans }
      done o (makeOp s q o)

/-- Requests of an engine whose work is part of a step already taken: they take their tokens in their turn (log entry 82). -/
def chargeNow (s : State) (q engine : Nat) (all : List (Nat × Nat)) : State :=
  let p := partAt s q
  let spans := farSpans all
  if p.image.isNone || spans.isEmpty then s
  else dropOp (makeOp s q { id := p.nextOp, engine := engine, spans := spans }) q p.nextOp

/-- One reference cycle's credit: REG_RATE · 10^6 bytes per second is REG_RATE · 8 / 10^4 bytes per 0.8 ns cycle, kept
exactly with a fraction in units of 10^-4 byte. -/
def creditPart (p : Part) : Part :=
  match p.image with
  | none => p
  | some i =>
    let f := p.bucketFrac + i.regRate * 8
    let b := p.bucketTokens + f / 10000
    let cap := i.regBurst * 1024
    if cap ≤ b then { p with bucketTokens := cap, bucketFrac := 0 } else { p with bucketTokens := b, bucketFrac := f % 10000 }

/-- One reference cycle with nothing commanded: the cycle counter advances and every regulator is credited (R211, R273). -/
def oneCycle (s : State) : State :=
  { s with
    cycle := s.cycle + 1
    parts := s.parts.map (fun p => (p.1, creditPart p.2)) }

end Sys2Proof.Machine
end

