-- ==== Sys2Proof/Machine/Update.lean ====
section
/-! DEFINITION. The update recipe of the update engines (R410 to R414), narrow weights, escrow copies and holds (R421 to
R424), and state fingerprints (R345). -/

namespace Sys2Proof.Machine

/-! ### One parameter (R412) -/

def mul64 (a b : FVal) : FVal := op64 (fun x => mulV (x.getD 0 .nan) (x.getD 1 .nan)) [a, b]
def add64 (a b : FVal) : FVal := op64 (fun x => addV rne (x.getD 0 .nan) (x.getD 1 .nan)) [a, b]
def sub64 (a b : FVal) : FVal := add64 a b.negate
def div64 (a b : FVal) : FVal := op64 (fun x => divV (x.getD 0 .nan) (x.getD 1 .nan)) [a, b]
def sqrt64 (a : FVal) : FVal := op64 (fun x => sqrtV (x.getD 0 .nan)) [a]

/-- The number 1. -/
def one64 : FVal := .fin false 1 0

/-- b^k by squaring and multiplying over the bits of k, from the most significant down. -/
def powBits (b : FVal) (k : Nat) : Nat → FVal → FVal
  | 0, r => r
  | i + 1, r => powBits b k i (if k.testBit i then mul64 (mul64 r r) b else mul64 r r)

/-- b^k for a positive k (R412). -/
def pow64 (b : FVal) (k : Nat) : FVal := if k = 0 then one64 else powBits b k (topBit k) b

/-- A binary32 pattern's value. -/
def val32 (b : Nat) : FVal := fp32.decode b

/-- The recipe's update of one parameter: binary32 patterns of w, m, v and the gradient (R412). -/
def updateParam (r : Recipe) (lrScale k w m v g : Nat) : Nat × Nat × Nat :=
  let lr := val32 r.lr.toNat
  let b1 := val32 r.beta1.toNat
  let b2 := val32 r.beta2.toNat
  let wd := val32 r.wd.toNat
  let gv := val32 g
  let wv := val32 w
  let sv := val32 (to32 (mul64 lr (val32 lrScale)))
  if r.opt = 1 then
    let m1 := to32 (add64 (mul64 b1 (val32 m)) (mul64 (sub64 one64 b1) gv))
    let v1 := to32 (add64 (mul64 b2 (val32 v)) (mul64 (mul64 (sub64 one64 b2) gv) gv))
    let mh := div64 (val32 m1) (sub64 one64 (pow64 b1 k))
    let vh := div64 (val32 v1) (sub64 one64 (pow64 b2 k))
    let q := div64 (mul64 sv mh) (add64 (sqrt64 vh) (val32 r.eps.toNat))
    (to32 (sub64 (sub64 wv q) (mul64 (mul64 sv wd) wv)), m1, v1)
  else
    let m1 := to32 (add64 (mul64 b1 (val32 m)) gv)
    (to32 (sub64 wv (mul64 sv (add64 (val32 m1) (mul64 wd wv)))), m1, v)

/-- The 12 bytes of a parameter after its update; unchanged where its gradient block is EMPTY (R413). -/
def updateBytes (r : Recipe) (lrScale k : Nat) (old : List Byte) (g : Nat) (flag : Byte) : List Byte :=
  if flag.getLsbD 2 then old
  else
    let x := updateParam r lrScale k (le old 0 4) (le old 4 4) (le old 8 4) g
    toLe 4 x.1 ++ toLe 4 x.2.1 ++ toLe 4 x.2.2

/-- The recipe record that covers a parameter (R411). -/
def recipeFor (rs : List Recipe) (n : Nat) : Recipe :=
  (rs.find? (fun r => decide (r.first ≤ n ∧ n < r.first + r.count))).getD {}

/-! ### Places (R277, R410, R421) -/

/-- Base of VERSION_v of a partition. -/
def versionBase (p : Part) (v : Nat) : Nat := (regionOf p v).1

/-- Address of parameter n's 12 bytes in VERSION_v. -/
def paramAddr (p : Part) (v n : Nat) : Nat := versionBase p v + 65536 + 12 * n

/-- Base of ESCROW_k. -/
def escrowBase (p : Part) (k : Nat) : Nat := (regionOf p (2 + k)).1

/-- Address of parameter n's copy in ESCROW_k. -/
def copyAddr (p : Part) (k n : Nat) : Nat := escrowBase p k + 65536 + 12 * n

/-- Parameters of owner k. -/
def ownerParams (p : Part) (k : Nat) : Nat :=
  ((p.binding.bind (fun b => b.slots[2 + k]?)).map EscrowSlot.params).getD 0

/-- Address of the hold's block b in ESCROW_k with owner's shard of m parameters (R421). -/
def holdAddr (p : Part) (k b : Nat) : Nat := escrowBase p k + 65536 + 12 * ownerParams p k + 132 * b

/-- Bytes of ESCROW_k's layout for m parameters. -/
def escrowBytes (m : Nat) : Nat := 65536 + 12 * m + 132 * ((m + 31) / 32)

/-- The alternate version's number. -/
def altVer (p : Part) : Nat := 1 - p.settle.settledVer

/-- Shard size N of a partition's binding. -/
def shardSize (p : Part) : Nat := (p.binding.map Binding.params).getD 0

/-- The partition's own recipe. -/
def ownRecipes (p : Part) : List Recipe := (p.binding.map Binding.recipes).getD []

/-- The partition's escrow slot i (keepers 0, 1; owners 2, 3). -/
def escrowSlot (p : Part) (i : Nat) : EscrowSlot := ((p.binding.bind (fun b => b.slots[i]?))).getD {}

/-- An escrow slot changed. -/
def modEscrow (s : State) (q i : Nat) (f : EscrowSlot → EscrowSlot) : State :=
  modBinding s q (fun b => { b with slots := setNth b.slots i (f (b.slots.getD i {})) })

/-- An image address (R380): what bits [61:60] name, then the offset. -/
def imageAddr (p : Part) (a : Nat) : Nat :=
  let o := field a 0 44
  match field a 60 2 with
  | 0 => tileBase (tileOfLocal p (o / 0x800000)) + o % 0x800000
  | 1 => p.carve + o
  | _ => p.stashBase + o

/-- The bucket record of an index. -/
def bucketRec (p : Part) (b : Nat) : Option BucketRec := (imageOf p).buckets[b]?

/-- The gradient of a recipe's parameter and its block's flag byte (R387, R411). -/
def gradientOf (s : State) (p : Part) (r : Recipe) (n : Nat) : Nat × Byte :=
  match bucketRec p r.bucket with
  | none => (0, 4)
  | some bk =>
    let i := n - r.first
    let blk := r.block + i / 32
    (le (spanRead s (imageAddr p bk.dst + 128 * r.block + 4 * i) 4) 0 4,
      (spanRead s (imageAddr p bk.flagsAddr + blk) 1).getD 0 0)

/-! ### Narrow weights (R413, R429) -/

/-- The 16-bit narrow form of a master weight (R413). -/
def narrowBits (fmt seed step tag n w : Nat) : Nat :=
  (roundF (if fmt = 0x20 then fp16 else bf16) stoch false (rbits seed step tag 6 n) (val32 w)).bits

/-- Narrow weights of parameters [lo, hi) of a recipe converted from VERSION_v with a step's key. -/
def writeNarrow (s : State) (q : Nat) (r : Recipe) (v step lo hi : Nat) : State :=
  if !r.narrowOut then s
  else
    let p := partAt s q
    (countFrom lo (hi - lo)).foldl (fun s n =>
      spanWrite s (r.narrowAddr + 2 * (n - r.first))
        (toLe 2 (narrowBits r.narrowFmt p.ctx.seed.toNat step r.layerTag n (le (readBytes s.mem (paramAddr p v n) 4) 0 4)))) s

/-- The narrow weights that the attempt wrote, rebuilt from the settled version with the key of the step that produced
it (R429). -/
def rebuildNarrow (s : State) (q : Nat) : State :=
  let p := partAt s q
  let rs := ownRecipes p
  (p.settle.narrowWritten).foldl (fun s i =>
    match rs[i]? with
    | some r => writeNarrow s q r p.settle.settledVer p.settle.producedBy r.first (r.first + r.count)
    | none => s)
    (modSettle s q (fun x => { x with narrowWritten := [] }))

/-- Every range's narrow weights converted from a version (R439, R469). -/
def rebuildAllNarrow (s : State) (q v step : Nat) : State :=
  (ownRecipes (partAt s q)).foldl (fun s r => writeNarrow s q r v step r.first (r.first + r.count)) s

/-! ### Sums of squares (R392) -/

/-- The square of a binary32 difference or value in units of 2^-298; −1 stands for infinity and −2 for a NaN. -/
def squareOf (x : FVal) : Int :=
  match x with
  | .nan => -2
  | .inf _ => -1
  | .fin _ m e => ((m * m : Nat) : Int) * 2 ^ (2 * e + 298).toNat

/-- The sum of two such sums. -/
def addSquares (a b : Int) : Int :=
  if a = -2 ∨ b = -2 then -2 else if a = -1 ∨ b = -1 then -1 else a + b

/-- A sum rounded once to binary64 (R392). -/
def squaresBits (a : Int) : Nat :=
  if a = -2 then fp64.nanBits else if a = -1 then fp64.infBits false else (roundF fp64 rne false 0 (FVal.ofInt a (-298))).bits

/-- The exact difference of two binary32 values, with IEEE's outcome where either is not finite. -/
def diffOf (a b : FVal) : FVal := (addV rne a b.negate).v

/-! ### A range applied (R413) -/

/-- One parameter of recipe record i read from the settled version and written to the alternate: its squares are added, and the bytes
as written enter the running value of the record's piece (R346). -/
def applyOne (q i : Nat) (r : Recipe) (s : State) (n : Nat) : State :=
  let p := partAt s q
  let old := readBytes s.mem (paramAddr p p.settle.settledVer n) 12
  let g := gradientOf s p r n
  let new := updateBytes r p.ctx.lrScale.toNat (p.settle.updateCount + 1) old g.1 g.2
  let w := val32 (le old 0 4)
  let z := p.ctx.norms.at r.layerTag (0, 0, 0)
  let z' := (addSquares z.1 (squareOf w), addSquares z.2.1 (squareOf (val32 g.1)),
    addSquares z.2.2 (squareOf (diffOf (val32 (le new 0 4)) w)))
  let s1 := modSettle s q (fun x => { x with pieces := x.pieces.put i (cvRun crc64xz (x.pieces.at i crc64xz.init) new) })
  modCtx (spanWrite s1 (paramAddr p (altVer p) n) new) q (fun c => { c with norms := c.norms.put r.layerTag z' })

/-- Recipe record i of the partition applied: state of S + 1 into the alternate version, narrow weights in place. -/
def applyRange (s : State) (q i : Nat) : State :=
  match (ownRecipes (partAt s q))[i]? with
  | none => s
  | some r =>
    let s1 := (countFrom r.first r.count).foldl (applyOne q i r) (modSettle s q (fun x => { x with pieces := x.pieces.put i crc64xz.init }))
    let p := partAt s1 q
    let s2 := writeNarrow s1 q r (altVer p) p.ctx.step r.first (r.first + r.count)
    modSettle s2 q (fun x => { x with
      rangesDone := insertNat x.rangesDone i
      narrowWritten := if r.narrowOut then insertNat x.narrowWritten i else x.narrowWritten })

/-! ### Fingerprints (R345, R346, R423) -/

/-- The state fingerprint of a version. -/
def stateFprint (s : State) (p : Part) (v : Nat) : Nat := cvOf crc64xz (readBytes s.mem (paramAddr p v 0) (12 * shardSize p))

/-- The fingerprint of the step's alternate version: the update engines' pieces combined in parameter order (R346). A version that no
engine wrote in the step is read instead. -/
def alternateFprint (s : State) (p : Part) : Nat :=
  let rs := withPos (ownRecipes p)
  if rs.all (fun x => p.settle.pieces.any (fun y => y.1 = x.1)) then
    rs.foldl (fun v x => cvCombine crc64xz v (cvFinal crc64xz (p.settle.pieces.at x.1 crc64xz.init)) (12 * x.2.count)) (cvOf crc64xz [])
  else stateFprint s p (altVer p)

/-- The settled version's fingerprint: as combined at its settlement, or read where no update engine wrote it. -/
def settledFprint (s : State) (p : Part) : Nat := p.settle.settledPrint.getD (stateFprint s p p.settle.settledVer)

/-- The forward values an owner last wrote in the header of ESCROW_k: its step, k and lr_scale (R422). -/
def forwardValues (s : State) (p : Part) (k : Nat) : Nat × Nat × Nat :=
  let b := escrowBase p k
  (le (readBytes s.mem (b + Config.forwardStepAt.val) 8) 0 8, le (readBytes s.mem (b + Config.forwardCountAt.val) 4) 0 4,
    le (readBytes s.mem (b + Config.forwardScaleAt.val) 4) 0 4)

/-- Owner k's recipes. -/
def ownerRecipes (p : Part) (k : Nat) : List Recipe := ((p.binding.bind (fun b => b.ownerRecipes[k]?))).getD []

/-- Owner k's parameter n advanced by its held gradient: its 12 bytes in the represented state's next step. -/
def escrowNext (s : State) (p : Part) (k n : Nat) : List Byte :=
  let fv := forwardValues s p k
  let h := holdAddr p k (n / 32)
  updateBytes (recipeFor (ownerRecipes p k) n) fv.2.2 fv.2.1 (readBytes s.mem (copyAddr p k n) 12)
    (le (readBytes s.mem (h + 4 * (n % 32)) 4) 0 4) (readCells s.mem (h + 128))

/-- The escrow fingerprint of owner k's next state: units below WATERMARK are in it already (R423, R424). -/
def escrowFprint (s : State) (p : Part) (k : Nat) : Nat :=
  cvOf crc64xz ((List.range (ownerParams p k)).flatMap (fun n => escrowNext s p k n))

/-- Parameters of one unit of catch-up (R424). -/
def unitParams : Nat := 32768

/-- Units of a shard. -/
def unitsOf (m : Nat) : Nat := (m + unitParams - 1) / unitParams

/-- Owner k's unit u represented at a step: the copy, advanced by the hold where the copy lags (R424). -/
def representedUnit (s : State) (p : Part) (k u : Nat) : List Byte :=
  let e := escrowSlot p (2 + k)
  let m := ownerParams p k
  (countFrom (u * unitParams) (min unitParams (m - u * unitParams))).flatMap (fun n =>
    if e.catchUp && e.watermark ≤ u then escrowNext s p k n else readBytes s.mem (copyAddr p k n) 12)

/-- One unit of owner k's copy advanced in place by its hold. -/
def catchUpUnit (s : State) (q k u : Nat) : State :=
  let m := ownerParams (partAt s q) k
  (countFrom (u * unitParams) (min unitParams (m - u * unitParams))).foldl (fun s n =>
    let p := partAt s q
    spanWrite s (copyAddr p k n) (escrowNext s p k n)) s

/-- Catch-up's next unit in ESCROW_k: its hold applied and WATERMARK advanced; the last one completes COPY_STEP + 1 and frees the
hold (R424). -/
def catchUpStep (s : State) (q k : Nat) : State :=
  let e := escrowSlot (partAt s q) (2 + k)
  if !e.catchUp then s
  else
    let s1 := catchUpUnit s q k e.watermark
    let last := decide (unitsOf (ownerParams (partAt s q) k) ≤ e.watermark + 1)
    modEscrow s1 q (2 + k) (fun e =>
      { e with
        watermark := if last then 0 else e.watermark + 1
        copyStep := if last then e.copyStep + 1 else e.copyStep
        catchUp := !last })

/-- Catch-up carried on until n units are done: what comes for a later hold waits for it (R422). -/
def catchUpTo (s : State) (q k n : Nat) : State :=
  iter (fun s =>
    let e := escrowSlot (partAt s q) (2 + k)
    if e.catchUp && e.watermark < n then catchUpStep s q k else s) n s

/-! ### A shadow kept current (R439) -/

/-- Where a shadow holds its member's forwarded gradients: in its alternate version, which it does not use until it computes; the forward
values in that region's header. DESIGN CHOICE (log entry 83): R439 names no place. -/
def shadowHold (p : Part) (b : Nat) : Nat := paramAddr p (altVer p) 0 + 132 * b

/-- The forward values in a shadow's hold: step, k, lr_scale. -/
def shadowValues (s : State) (p : Part) : Nat × Nat × Nat :=
  let b := versionBase p (altVer p)
  (le (readBytes s.mem (b + Config.forwardStepAt.val) 8) 0 8, le (readBytes s.mem (b + Config.forwardCountAt.val) 4) 0 4,
    le (readBytes s.mem (b + Config.forwardScaleAt.val) 4) 0 4)

/-- One parameter of a shadow's settled version advanced in place by its held gradient. -/
def shadowAdvance (q : Nat) (fv : Nat × Nat × Nat) (s : State) (n : Nat) : State :=
  let p := partAt s q
  let a := paramAddr p p.settle.settledVer n
  let h := shadowHold p (n / 32)
  spanWrite s a (updateBytes (recipeFor (ownRecipes p) n) fv.2.2 fv.2.1 (readBytes s.mem a 12)
    (le (readBytes s.mem (h + 4 * (n % 32)) 4) 0 4) (readCells s.mem (h + 128)))

/-- A shadow's hold applied to its settled version once its step has settled clean, as a keeper's catch-up applies it. -/
def shadowCatchUp (s : State) (q : Nat) : State :=
  let p := partAt s q
  let fv := shadowValues s p
  if fv.2.1 = 0 then s
  else
    modSettle ((List.range (shardSize p)).foldl (shadowAdvance q fv) s) q (fun x =>
      { x with producedBy := fv.1, updateCount := fv.2.1, settledPrint := none })

/-- A forward value k that reaches a shadow not yet computing: one that has risen tells that the held step settled clean; the same one,
that it was skipped. -/
def shadowCount (s : State) (q a : Nat) (data : List Byte) : State :=
  let p := partAt s q
  let old := (shadowValues s p).2.1
  if !isShadowing p || p.join.computing || a ≠ versionBase p (altVer p) + Config.forwardCountAt.val then s
  else
    let s1 := if old ≠ 0 && le data 0 4 ≠ old then shadowCatchUp s q else s
    modSettle s1 q (fun x => { x with updateCount := (le data 0 4 + 2 ^ 32 - 1) % 2 ^ 32 })

/-- A write that reaches ESCROW_0 or ESCROW_1: the header's forward values wait for every unit of catch-up, a hold block for its
own (R422, R424). -/
def passCatchUp (s : State) (q a n : Nat) : State :=
  (List.range 2).foldl (fun s k =>
    let p := partAt s q
    let base := escrowBase p k
    let hold := holdAddr p k 0
    let size := (regionOf p (2 + k)).2
    if n = 0 || a + n ≤ base || base + size ≤ a then s
    else if a < base + 65536 then catchUpTo s q k (unitsOf (ownerParams p k))
    else if a + n ≤ hold then s
    else catchUpTo s q k (32 * ((a + n - 1 - hold) / 132) / unitParams + 1)) s

end Sys2Proof.Machine
end

