-- ==== Sys2Proof/Machine/Records.lean ====
section
/-! DEFINITION. The records a partition writes in its far-store rings: tick and step records (R218), balance-sheet records
(R394) and numerics-log records (R401). -/

namespace Sys2Proof.Machine

/-- Offset of tick t in the schedule of the partition's attempt (R213), ticks spent HELD left out. -/
def offsetOf (p : Part) (t : Nat) : Nat := t - (p.ctx.firstTick + p.ctx.shift)

/-- The settlement tick of the attempt: the last of its schedule (R195). -/
def settlementTick (p : Part) : Nat := p.ctx.firstTick + p.ctx.shift + (imageOf p).ticksPerStep - 1

/-- PHASE of a tick offset (R195, R376). -/
def phaseOf (p : Part) (off : Nat) : Nat := (((imageOf p).schedule[off]?).map SchedRec.phase).getD 0

/-- A record of a partition written as the i-th of a ring of n records at an address, on the partition's account (R274). -/
def ringWrite (s : State) (q base n i : Nat) (rec_ : List Byte) : State :=
  if n = 0 then s
  else
    let a := base + i % n * rec_.length
    chargeNow (spanWrite s a rec_) q engUpdate [(a, rec_.length)]

/-- A record of a region's ring, n bytes each, as the i-th written. -/
def regionRing (s : State) (q k i : Nat) (rec_ : List Byte) : State :=
  let r := regionOf (partAt s q) k
  ringWrite s q r.1 (r.2 / 64) i rec_

/-- A numerics-log record of an event of tick t (R401). -/
def numlogAt (s : State) (q t kind tag bucket : Nat) (d : List Nat) : State :=
  let p := partAt s q
  let off := offsetOf p t
  let rec_ := toLe 2 kind ++ toLe 2 tag ++ toLe 4 bucket ++ toLe 8 p.ctx.step ++ toLe 8 t ++ toLe 4 p.ctx.attempt
    ++ toLe 1 (phaseOf p off) ++ List.replicate 3 0 ++ ((List.range 4).flatMap (fun i => toLe 8 (d.getD i 0)))
  regCount (regionRing s q 6 (regField s (updReg q 0) 32 32) rec_) (updReg q 0) 32 32 1

/-- A numerics-log record of the current tick. -/
def numlog (s : State) (q kind tag bucket : Nat) (d : List Nat) : State := numlogAt s q (now s) kind tag bucket d

/-- A balance-sheet record (R394). -/
def balanceRecord (s : State) (q : Nat) (rec_ : List Byte) : State :=
  regCount (regionRing s q 5 (regField s (updReg q 0) 0 32) rec_) (updReg q 0) 0 32 1

/-- A tick record (R218), with SCH_SLACK and the count. -/
def tickRecord (s : State) (q tick finish off flags : Nat) : State :=
  let p := partAt s q
  let rec_ := toLe 8 tick ++ toLe 4 finish ++ toLe 2 off ++ toLe 1 flags ++ [0]
  let s1 := ringWrite s q p.carve 32768 (regField s (schReg q 0x20) 0 32) rec_
  regPut (regCount s1 (schReg q 0x20) 0 32 1) (schReg q 0x18) (finish % 2 ^ 32 + tick % 2 ^ 32 * 2 ^ 32)

/-- A step record (R218). -/
def stepRecord (s : State) (q step first duration attempts : Nat) : State :=
  let p := partAt s q
  let rec_ := toLe 8 step ++ toLe 8 first ++ toLe 8 duration ++ toLe 4 attempts ++ List.replicate 4 0
  regCount (ringWrite s q (p.carve + 0x80000) 2048 (regField s (schReg q 0x20) 32 32) rec_) (schReg q 0x20) 32 32 1

/-- The audit counts of the attempt that ends in tick t written and cleared (R396). -/
def writeAudits (s : State) (q t : Nat) : State :=
  let p := partAt s q
  let s1 := p.ctx.audits.foldl (fun s a =>
    if a.converted = 0 ∧ a.overflowed = 0 ∧ a.vanished = 0 then s
    else if a.point = 5 then numlogAt s q t 8 0xFFFF a.layer [a.point + 256 * a.fmt, a.converted, a.overflowed, a.vanished]
    else numlogAt s q t 8 a.layer 0xFFFFFFFF [a.point + 256 * a.fmt, a.converted, a.overflowed, a.vanished]) s
  modCtx s1 q (fun c => { c with audits := [] })

/-- The tiles' spot counts of one layer slot added up (R399). -/
def spotTotal (s : State) (p : Part) (slot : Nat) : SpotCount :=
  (partTiles p).foldl (fun a t =>
    let c := (tileAt s t).spots.at slot {}
    { done := a.done + c.done
      skipped := a.skipped + c.skipped
      largest := max a.largest c.largest
      sum := a.sum + c.sum
      atWarn := a.atWarn + c.atWarn }) {}

/-- The SPOT records of the attempt that ends in tick t written, and WARN raised where a sample reached the threshold (R399). -/
def writeSpots (s : State) (q t : Nat) : State :=
  let p := partAt s q
  let s1 := (imageOf p).layers.foldl (fun s l =>
    let c := spotTotal s p l.slot
    if c.done = 0 ∧ c.skipped = 0 then s
    else
      let s1 := numlogAt s q t 9 l.tag 0xFFFFFFFF [c.done % 2 ^ 32 + c.skipped * 2 ^ 32, c.largest, c.sum, c.atWarn]
      if c.atWarn = 0 then s1 else raiseVote s1 q voteWarn) s
  (partTiles p).foldl (fun s k => modTile s k (fun x => { x with spots := [] })) s1

/-- Whether audits are on for a layer or bucket (R396). -/
def auditOn (p : Part) (established : Bool) : Bool :=
  !established || decide ((imageOf p).numerics.auditMode = 1) || p.ctx.wide

/-- A conversion's counts added (R395). -/
def audit (s : State) (q layer point fmt converted overflowed vanished : Nat) : State :=
  modCtx s q (fun c =>
    let hit (a : AuditCount) : Bool := a.layer = layer && a.point = point && a.fmt = fmt
    match c.audits.find? hit with
    | some _ =>
      { c with audits := c.audits.map (fun a =>
          if hit a then { a with
            converted := a.converted + converted
            overflowed := a.overflowed + overflowed
            vanished := a.vanished + vanished }
          else a) }
    | none =>
      { c with audits := c.audits ++ [{
          layer := layer
          point := point
          fmt := fmt
          converted := converted
          overflowed := overflowed
          vanished := vanished }] })

/-- The latched anchor of a layer slot in the attempt (R117). -/
def latchedAnchor (p : Part) (slot : Nat) : Anchor := p.ctx.latched.at slot {}

/-- Conversions of a layer slot counted, where audits are on (R395, R396). -/
def auditCounts (s : State) (q slot point fmt converted overflowed vanished : Nat) : State :=
  let p := partAt s q
  if (layerOf p slot).isSome && auditOn p (latchedAnchor p slot).established then
    audit s q (layerTagOf p slot) point fmt converted overflowed vanished
  else s

/-- An audited conversion of a layer slot counted. -/
def auditLayer (s : State) (q slot point fmt : Nat) (v r : List FVal) (over_ : Nat) : State :=
  auditCounts s q slot point fmt v.length over_ (vanishedCount v r)

/-- The narrow conversions of a recipe's range counted at point 0x06, for the layer that its tag names, where audits are on at every point: R120 puts an
unestablished layer's audits at its feeder, drain and output points alone (R395, R396; log entry 40). -/
def auditNarrow (s : State) (q i : Nat) : State :=
  let p := partAt s q
  match (ownRecipes p)[i]? with
  | none => s
  | some r =>
    if !r.narrowOut then s
    else
      let f := if r.narrowFmt = 0x20 then fp16 else bf16
      let masters := (countFrom r.first r.count).map (fun n => val32 (le (readBytes s.mem (paramAddr p (altVer p) n) 4) 0 4))
      let rs := (masters.zip (countFrom r.first r.count)).map (fun x =>
        roundF f stoch false (rbits p.ctx.seed.toNat p.ctx.step r.layerTag 6 x.2) x.1)
      let vanished := vanishedCount masters (rs.map (fun x => f.decode x.bits))
      let over_ := (rs.filter (fun x => x.fl.ovf)).length
      if auditOn p true then audit s q r.layerTag 6 r.narrowFmt r.count over_ vanished else s

/-- The partition's first non-finite layer, kept from the first report of the attempt, of reports in one cycle that of the lowest
layer slot (R390). -/
def reportNonfinite (s : State) (q t slot : Nat) : State :=
  let d := (tileAt s t).drain
  if d.nfSeen.contains slot then s
  else
    let s1 := modDrain s t (fun d => { d with nfSeen := insertNat d.nfSeen slot })
    modCtx s1 q (fun c =>
      if c.firstNf = 0xFFFF || (decide (c.nfReport.1 = s.cycle) && decide (slot < c.nfReport.2)) then
        { c with firstNf := layerTagOf (partAt s q) slot, nfReport := (s.cycle, slot) }
      else c)

end Sys2Proof.Machine
end

