-- ==== Sys2Proof/Machine/Abort.lean ====
section
/-! DEFINITION. The abort of a step: what it raises, floods and purges (R33, R99, R134, R172, R176, R224 to R226, R232, R233,
R312, R313, R389, R419, R429), and the meaning of STEP_ABORT. -/

namespace Sys2Proof.Machine

/-! ### Cause codes (R312) -/

def causeFault : Nat := 1
def causeOverrun : Nat := 2
def causeDispute : Nat := 3
def causeTransfer : Nat := 4
def causeHost : Nat := 5
def causeSuspect : Nat := 6
def causeEpoch : Nat := 7
def causeTimeout : Nat := 8

/-! ### Tree contexts and floods -/

/-- The tree context bound to a partition's job. -/
def treeOf (p : Part) : Option Nat := p.binding.map Binding.tree

/-- The ports of a tree context: its parent's and its children's (R307). -/
def treePorts (x : TreeCtx) : List Nat :=
  (List.range 16).filter (fun p => x.valid && (x.childMask.getLsbD p || (!x.root && decide (x.parent = p))))

/-- The ports of a partition's flows. -/
def flowPorts (s : State) (q : Nat) : List Nat :=
  (List.range 16).filter (fun p => s.flows.any (fun f => f.q = q && f.portMask.testBit p))

/-- The ports that carry a job's tree or flows and are UP. -/
def jobPorts (s : State) (q : Nat) : List Nat :=
  let tp := match treeOf (partAt s q) with | some k => treePorts (treeAt s k) | none => []
  (List.range 16).filter (fun p => (tp.contains p || (flowPorts s q).contains p) && decide ((portAt s p).state = 2))

/-- A control-flit slot of a partition's tree context (R304). -/
def treeSlot (p : Part) (typ low : Nat) : CtlSlot :=
  { typ := typ, tree := (treeOf p).getD 0, epoch := jobEpochOf p % 65536, sym := withSymCrc low }

/-- A symbol sent on every port of a job (R313, R314); a fenced or shadowing partition sends none (R315, R440). -/
def flood (s : State) (q : Nat) (c : CtlSlot) : State :=
  let p := partAt s q
  if !isBound p || isFencedPart p || isShadowing p then s
  else (jobPorts s q).foldl (fun s port => sendSymbol s port c) s

/-- The ABORT symbol (R312). -/
def abortSlot (p : Part) (epoch a cause : Nat) : CtlSlot :=
  treeSlot p 2 (a % 2 ^ 24 + cause % 256 * 2 ^ 24 + epoch % 65536 * 2 ^ 32)

/-! ### What an abort does to a tile -/

/-- The sets of a plan that every column of the drain has entered whole. -/
def Plan.drainSet (x : Plan) : Nat := if x.rows = 0 then 0 else x.entered.foldl min (x.entered.head?.getD 0) / x.rows

/-- Whether a plan's pass is in progress: a segment has taken its swap and the drain has not finished it. -/
def passLive (x : Plan) : Bool := x.opened && x.issued.any (fun n => decide (x.drainSet < n))

/-- A FEED record of a tile. -/
def feedRec (s : State) (t i : Nat) : FeedRec := (tileAt s t).conf.feeds.getD i {}

/-- The element row of the accumulator file that window row m of set j takes (R559). -/
def accRow (windowRows : Nat) (continued : Bool) (j m : Nat) : Nat :=
  if continued then windowRows * j + m else windowRows * (j % (512 / max windowRows 1)) + m

/-- Whether a layer slot's plans continue one accumulation. -/
def layerContinues (p : Part) (slot : Nat) : Bool := ((layerOf p slot).map LayerRec.continue_).getD false

/-- The accumulator rows that a plan's passes in progress enter. -/
def liveRows (s : State) (t : Nat) (x : Plan) : List Nat :=
  let w := (feedRec s t x.feed).windowRows
  let cont := layerContinues (partAt s (partNum s t)) x.layerSlot
  (countFrom x.drainSet (maxNat x.issued - x.drainSet)).flatMap (fun j => (List.range x.rows).map (accRow w cont j))

/-- The 128 accumulators of an element row tagged INVALID (R99). -/
def invalidate (d : Drain) (m : Nat) : Drain :=
  (List.range 128).foldl (fun d n => { d with accs := d.accs.put (128 * m + n) ((accAt d (128 * m + n)).setTag tagInvalid) }) d

/-- The array's fault stop (R99). PASS_COUNT stands until the purge (R101). DESIGN CHOICE (log entry 84): with no set active ACTIVE_LAYER keeps the tag it
showed, since R101 names no value for that. -/
def arrayStop (s : State) (t : Nat) : State :=
  let rows := ((tileAt s t).arr.plans.filter passLive).flatMap (liveRows s t)
  modArr (modDrain s t (fun d => rows.foldl invalidate { d with late := [] })) t (fun a =>
    { a with
      cells := []
      laneIn := []
      digitStage := []
      forming := []
      combine := []
      tags := []
      expActive := []
      expShadow := []
      issue := []
      loads := []
      plans := []
      keptClose := []
      intakeQ := []
      swapTags := []
      faultStop := true })

/-- Every open stream closed, its tally keeping its value (R176, R186). -/
def Vec.closeStreams (v : Vec) : Vec :=
  { v with
    tags := v.streams.foldl (fun g x => g.put x.1 (g.at x.1 0 &&& ~~~(BitVec.ofNat 8 16))) v.tags
    streams := [] }

/-- The vector engine's and reduction unit's stop (R176): open streams close, trees are abandoned. -/
def engineStop (s : State) (t : Nat) : State :=
  modVec s t (fun v => { v.closeStreams with netOpen := [], body := none, stopped := true })

/-- A fault stop of the array leaves the queue's entries INVALID (R172). -/
def queueInvalid (s : State) (t : Nat) : State :=
  modDrain s t (fun d => { d with queue := d.queue.map (fun e => { e with hdr := e.hdr ||| BitVec.ofNat 96 (2 ^ 27) }) })

/-- Whether a purge from tick a takes a descriptor list (R225): every actor's, its firing being gone with the scheduler state, and a host
command's that was stamped, when it started, at or after a. -/
def purgesRun (a : Nat) (r : DmaRun) : Bool := r.actor.isSome || decide (a ≤ r.tick)

/-- A host command whose descriptor list is purged completes. DESIGN CHOICE (log entry 71): with TARGET_RESET; the spec names no status. -/
def endPurgedRun (s : State) (r : DmaRun) : State :=
  match r.host with
  | some (h, seq) =>
    match cmdAt s h seq with
    | some c => complete s c stTargetReset ((r.descs.filter (fun d => d.phase = 3 && d.status = stOk)).length)
        (((r.descs.takeWhile (fun d => d.phase = 3 && d.status = stOk))).length) 0 0
    | none => s
  | none => s

/-- A tile's whole purge from tick a (R101, R225): array, queue, engines, scheduler state, suspense, transfers. -/
def purgeTile (a : Nat) (s : State) (t : Nat) : State :=
  let s1 := modArr (engineStop (arrayStop s t) t) t (fun a => { a with passCount := 0 })
  let s2 := modDrain s1 t (fun d => { d with queue := [] })
  let s3 := modTile s2 t (fun x =>
    { x with
      dma := x.dma.filter (fun r => !purgesRun a r)
      sched := { x.sched with
        ctx := []
        ready := []
        running := []
        hold := []
        suspense := []
        specDone := []
        updates := []
        stopped := true } })
  ((tileAt s t).dma.filter (purgesRun a)).foldl endPurgedRun s3

/-! ### The fabric's part -/

/-- A held request slot let go; it is issued again only under a new generation (R223). -/
def releaseSlot (s : State) (n : Nat) : State :=
  { s with
    slots := s.slots.filter (fun x => x.num ≠ n)
    slotGen := s.slotGen.put n ((s.slotGen.at n 0 + 1) % 256) }

/-- Slots of a partition that satisfy a condition let go. -/
def releaseSlots (s : State) (q : Nat) (f : ReqSlot → Bool) : State :=
  (s.slots.filter (fun x => x.q = q && f x)).foldl (fun s x => releaseSlot s x.num) s

/-- Whether a packet's 24-bit tick stands for a tick at or after a, near the present tick (R305's rule). -/
def fullTick (cur low : Nat) : Nat :=
  let base := cur / 2 ^ 24 * 2 ^ 24 + low
  if base < cur then (if cur - base ≤ 2 ^ 23 then base else base + 2 ^ 24)
  else (if base - cur ≤ 2 ^ 23 ∨ base < 2 ^ 24 then base else base - 2 ^ 24)

/-- Whether the list that a tile's DMA engine runs is purged from tick a. -/
def headPurged (s : State) (t a : Nat) : Bool := ((tileAt s t).dma.head?).any (purgesRun a)

/-- Whether a purge from tick a takes what waits for a request: a purged list's transfers, and every exchange's. -/
def purgesUse (s : State) (a : Nat) : SlotUse → Bool
  | .dma t _ => headPurged s t a
  | .read t _ _ _ | .trailer t _ => headPurged s t a
  | .deposit _ _ => true
  | _ => false

/-- The fabric's purge: sends, slots and flow contexts of the partition from tick a on (R225). -/
def purgeFabric (s : State) (q a : Nat) : State :=
  let keep (x : OutPkt) : Bool :=
    decide (x.q ≠ q) || (decide (fullTick (now s) x.pkt.tick < a) && !purgesUse s a x.usage)
  let s1 := { s with
    ports := s.ports.map (fun x => (x.1, { x.2 with sendReq := x.2.sendReq.filter keep, sendRsp := x.2.sendRsp.filter keep }))
    flows := s.flows.map (fun f =>
      if f.q = q then { f with
        queue := f.queue.filter keep
        sentIdx := []
        rcvdIdx := []
        txRun := none
        txPort := none
        rxRun := none
        rxPort := none
        rxBad := false
        rxLines := [] }
      else f)
    tokens := s.tokens.filter (fun k => partNum s (field k.2.toNat 16 10) ≠ q || decide (fullTick (now s) (field k.2.toNat 32 24) < a)) }
  releaseSlots s1 q (fun x => decide (a ≤ x.tick) || purgesUse s a x.usage)

/-- Journal and retention entries stamped at or after a purged (R225); all of them for a wide replay (R419). What is
kept of retention remembers what had been acknowledged before the abort. -/
def purgeMessages (s : State) (q a : Nat) (wide : Bool) : State :=
  modSettle s q (fun x =>
    { x with
      journal := (x.journal.filter (fun m => !wide && decide (m.tick < a))).map (fun m => { m with acked := false })
      retention := x.retention.filter (fun m => !wide && decide (m.tick < a)) })

/-! ### The step context at an abort -/

/-- The presets of R134: each layer that repeated before it closed, and each that was running, at its rung. -/
def presetLayers (c : StepCtx) : Tab Nat :=
  c.layers.foldl (fun t x =>
    let r := max (if x.2.running then x.2.rung + 1 else 0) x.2.top
    if r = 0 then t else t.put x.1 (max (t.at x.1 0) (r - 1))) c.presets

/-- The buckets preset to D64 (R389). -/
def presetBuckets (c : StepCtx) (bs : List BucketRun) : List Nat :=
  bs.foldl (fun l b => if b.d64 then insertNat l b.b else l) c.presetD64

/-- The step context once its attempt is given up. -/
def abandonAttempt (c : StepCtx) (bs : List BucketRun) (wide : Bool) : StepCtx :=
  { c with
    active := false
    presets := presetLayers c
    presetD64 := presetBuckets c bs
    layers := []
    bucketNext := []
    waitResult := false
    holding := false
    norms := []
    wide := c.wide || wide }

/-- Tiles of a partition whose agents have a purge to report. -/
def purgeTiles (s : State) (q : Nat) : List Nat := (partTiles (partAt s q)).filter (fun t => tilePresent s t)

/-- The purge as the broadcast reaches the tile agents (R33); it waits while the controller is not running (R491). -/
def broadcastPurge (s : State) (q : Nat) : State :=
  let a := (((partAt s q).purge).map Purge.abortTick).getD (now s)
  let s1 := (partTiles (partAt s q)).foldl (purgeTile a) s
  modPart s1 q (fun p => { p with purge := p.purge.map (fun x => { x with sent := true }) })

/-- Whether a purge from tick a leaves a source's far-store requests: those of a host list that is kept, and those of the escrow,
checkpoint, staging and stash engines, whose work is no tick's (R225). -/
def keepsRequest (s : State) (a source : Nat) : Bool :=
  if dmaSource source then !headPurged s (source / 65536) a else [3, 4, 6, 7].contains (source % 16)

/-- The far-store requests of the partition's purged transfers dropped, waiting or under way; their slots are free (R225, R271). -/
def purgeRequests (s : State) (q a : Nat) : State :=
  let tiles := partTiles (partAt s q)
  let keep (r : FsReq) : Bool := !dmaSource r.source || !tiles.contains (r.source / 65536) || !headPurged s (r.source / 65536) a
  let s1 := modFs s (fun f => { f with
    waiting := f.waiting.filter keep
    issued := f.issued.filter keep
    guardWait := f.guardWait.filter (fun x => !tiles.contains x.1 || !headPurged s x.1 a) })
  modPart s1 q (fun p => { p with
    regWait := p.regWait.filter (fun w => keepsRequest s a w.source)
    regOps := p.regOps.filter (fun o => keepsRequest s a (srcEngine o.engine o.id)) })

/-- Everything of the partition that an abort purges outside the step context. -/
def purgePart (s : State) (q a : Nat) (wide : Bool) : State :=
  let s1 := guardsFree (purgeMessages (purgeRequests (purgeFabric (cvAbandon s q) q a) q a) q a wide) q
  let s2 := rebuildNarrow s1 q
  let s3 := modPart s2 q (fun p => { p with buckets := [], earlyDeposits := [], trees := [], spoilt := [] })
  let s4 := modSettle s3 q (fun x => { x with rangesDone := [], pieces := [], posted := [] })
  modBinding s4 q (fun b => { b with slots := b.slots.map (fun e =>
    { e with passDone := 0, fprintSent := false, arrived := e.arrived.filter (fun r => !wide && decide (r.2.2 < a)) }) })

/-- The attempt of a partition given up and purged from tick a on, its replay to begin RESUME_GAP after a (R225, R227). -/
def beginPurge (s : State) (q a : Nat) (faulted wide : Bool) : State :=
  let s1 := modPart s q (fun x =>
    { x with
      ctx := abandonAttempt x.ctx x.buckets wide
      replayAt := if x.state = .held then x.replayAt else some (a + (imageOf x).resumeGap)
      replay := true
      preemptDue := false
      purge := some {
        tiles := purgeTiles s q
        abortTick := a
        faulted := faulted || ((x.purge.map Purge.faulted).getD false)
        sent := false } })
  let s2 := purgePart s1 q a wide
  let s3 := if s2.mgt.running then broadcastPurge s2 q else s2
  if (partAt s q).state = .running then setPartState s3 q .aborting else s3

/-- The abort of a partition's step with abort tick a (R225): epoch, vote, flood, purge, state. -/
def doAbort (s : State) (q cause a : Nat) (faulted wide : Bool) : State :=
  let p := partAt s q
  let s1 := flood s q (abortSlot p p.abortEpoch a cause)
  let s2 := if isFencedPart p then s1 else raiseVote s1 q voteAbort
  let s3 := modPart s2 q (fun x => { x with aborted := some (x.abortEpoch, a), abortEpoch := next16 x.abortEpoch })
  beginPurge (trace s3 (unitKey 3 0) 4 (q * 256 + cause)) q a faulted wide

/-- An earlier abort tick adopted (R234, R313). -/
def extendAbort (s : State) (q a : Nat) : State :=
  let s1 := modPart s q (fun p =>
    { p with
      aborted := p.aborted.map (fun x => (x.1, a))
      replayAt := p.replayAt.map (fun _ => a + (imageOf p).resumeGap)
      purge := p.purge.map (fun x => { x with abortTick := a }) })
  purgeMessages (purgeFabric s1 q a) q a false

/-- The abort tick recorded with the last abort. -/
def abortTickOf (p : Part) : Nat := (p.aborted.map Prod.snd).getD 0

/-- An abort raised in a partition: its step aborts; while a purge is in progress it is the same abort, for the earlier
tick (R234, R503). -/
def stepAbort (s : State) (q cause a : Nat) (faulted wide : Bool) : State :=
  let p := partAt s q
  match p.state with
  | .running | .held | .aborting =>
    if p.purge.isSome then
      let s1 := if a < abortTickOf p then extendAbort s q a else s
      modPart s1 q (fun x => { x with purge := x.purge.map (fun y => { y with faulted := y.faulted || faulted }) })
    else doAbort s q cause a faulted wide
  | _ => s

/-- A fault confined to a partition (R232): abort now; the partition is reset once purged and tested. -/
def partFault (s : State) (q : Nat) : State := stepAbort s q causeFault (now s) true false

/-- A fault of a tile. -/
def tileFault (s : State) (t : Nat) : State :=
  match partOfTile s t with
  | some q => partFault s q
  | none => s

/-- A fault of a shared unit (R233, R364): every RUNNING or HELD partition aborts and ends FAULTED, as does one already ABORTING. -/
def sharedFault (s : State) : State := (List.range 16).foldl partFault s

/-- A parity error of a running value as a stream takes it up: PARITY stops the unit, and the fault is one of a shared unit (R233, R347). -/
def cvuParity (s : State) (u q : Nat) : State :=
  let s1 := modCvu s u (fun c => { c with badRuns := c.badRuns.filter (fun x => x ≠ q) })
  let purges := decide ((partAt s q).state = .running ∨ (partAt s q).state = .held ∨ (partAt s q).state = .aborting)
  sharedFault (logError (regFlag s1 (cvuReg u 0x40) 37) 0x0B u u q purges [])

/-- A flag of ARR_ERR set, the FIRST_ fields loaded while all seven are 0 (R102). -/
def arrErr (s : State) (t flag row col seg : Nat) : State :=
  let r := tileReg t 0x780408
  let s1 := if regField s r 0 7 = 0 then regSet (regSet (regSet s r 8 7 row) r 16 7 col) r 24 2 seg else s
  regFlag s1 r flag

/-- The array of a tile stops as a fault: a flag of ARR_ERR, an entry in the log, the stop, the abort (R99, R480). -/
def arrayFault (s : State) (t flag row col seg code : Nat) : State :=
  let s1 := logError (arrErr s t flag row col seg) code t t (partNum s t) true [regGet (arrErr s t flag row col seg) (tileReg t 0x780408)]
  tileFault (queueInvalid (arrayStop s1 t) t) t

/-- The vector engine and reduction unit stop as a fault: a flag of VEC_ERR with the bundle's offset (R176, R179). -/
def vectorFault (s : State) (t flag at_ code : Nat) : State :=
  let r := tileReg t 0x780808
  let s1 := if regField s r 0 4 = 0 then regSet s r 8 23 at_ else s
  tileFault (engineStop (logError (regFlag s1 r flag) code t t (partNum s t) true [at_]) t) t

/-- The same for a flag of RDU_STATUS: 0 NET_MISMATCH, 1 TALLY_PARITY (R184). -/
def reductionFault (s : State) (t flag code : Nat) : State :=
  tileFault (engineStop (logError (regFlag s (tileReg t 0x780A00) flag) code t t (partNum s t) true []) t) t

/-- A pre-emption request (R98): it takes effect at the first boundary after it, or after the purge. -/
def requestPreempt (s : State) (q : Nat) : State := modPart s q (fun p => { p with preempt := true })

def execStepAbort (q cause : Nat) (s : State) : Host.Outcome State Fault Refusal :=
  .next (stepAbort s q cause (now s) (decide (cause = causeFault ∨ cause = 0 ∨ 8 < cause)) false)

end Sys2Proof.Machine
end

