-- ==== Sys2Proof/Machine/Sched.lean ====
section
/-! DEFINITION. Actors, tokens and firings (R205 to R215, R219 to R223): the scoreboard, the unit queues, speculation, and
the meanings of SPECULATIVE_FIRE, FIRE_SYNC and FIRE_CLOSE. -/

namespace Sys2Proof.Machine

/-! ### Contexts -/

/-- Actor a's context on a tile. -/
def ctxOf (s : State) (t a : Nat) : ActorSt := (tileAt s t).sched.ctx.at a {}

/-- An actor context changed. -/
def modActor (s : State) (t a : Nat) (f : ActorSt → ActorSt) : State :=
  modSched s t (fun x => { x with ctx := x.ctx.put a (f (x.ctx.at a {})) })

/-- COND, SPECULABLE, GATE_CLOSE, TOLERATE, REMOTE (R197). -/
def ActorRec.cond (r : ActorRec) : Bool := r.flags.testBit 0
def ActorRec.speculable (r : ActorRec) : Bool := r.flags.testBit 1
def ActorRec.gateClose (r : ActorRec) : Bool := r.flags.testBit 2
def ActorRec.tolerate (r : ActorRec) : Bool := r.flags.testBit 3
def ActorRec.remote (r : ActorRec) : Bool := r.flags.testBit 4

/-- KIND codes. -/
def kindBody : Nat := 1
def kindPass : Nat := 2
def kindDma : Nat := 3
def kindSync : Nat := 4
def kindClose : Nat := 5

/-- Whether an edge or a bucket's done token feeds a slot (R206). -/
def isFed (s : State) (q t a slot : Nat) : Bool :=
  let p := partAt s q
  let l := localOfTile p t
  (partTiles p).any (fun u => (tileAt s u).conf.edges.any (fun e => e.tile = l && e.actor = a && e.slot = slot))
    || (imageOf p).buckets.any (fun b => b.doneTile = l && b.doneActor = a && b.doneSlot = slot)

/-- The assigned tick of an actor (R213). -/
def assignedTick (p : Part) (r : ActorRec) : Nat := p.ctx.firstTick + p.ctx.shift + r.tickOffset

/-- Whether an actor's run-ahead window is open (R213, R428). -/
def windowOpen (s : State) (p : Part) (r : ActorRec) : Bool :=
  decide (p.state = .running) && p.ctx.active && !p.ctx.waitResult && !p.preemptDue
    && decide (max p.ctx.firstTick (assignedTick p r - r.runahead) ≤ now s)

/-- Whether slot i of an actor holds its NEED (R206). -/
def slotFull (s : State) (q t a : Nat) (r : ActorRec) (i : Nat) : Bool :=
  decide (r.need.getD i 0 ≤ (ctxOf s t a).counts.getD i 0) || (!r.remote && !isFed s q t a i)

/-- Whether an actor is ready (R206). -/
def isReady (s : State) (q t a : Nat) (r : ActorRec) : Bool :=
  windowOpen s (partAt s q) r && decide ((ctxOf s t a).fired < r.firings) && !(ctxOf s t a).specOpen
    && (List.range r.slots).all (slotFull s q t a r)

/-- The actors that have become ready join their queues in order (R209). -/
def refresh (s : State) (t : Nat) : State :=
  match partOfTile s t with
  | none => s
  | some q =>
    if (tileAt s t).sched.stopped then s
    else
      (withPos (tileAt s t).conf.actors).foldl (fun s x =>
        if isReady s q t x.1 x.2 && !(tileAt s t).sched.ready.any (fun f => f.actor = x.1) then
          modSched s t (fun c => { c with
            ready := c.ready ++ [{ actor := x.1, tick := assignedTick (partAt s q) x.2, order := c.order }]
            order := c.order + 1 })
        else s) s

/-! ### Tokens (R205) -/

/-- A token's 128 bits. -/
def tokenBits (actor slot : Nat) (taken : Bool) (tile tick epoch : Nat) : BitVec 128 :=
  BitVec.ofNat 128 (actor % 2 ^ 11 + slot % 8 * 2 ^ 11 + b2n taken * 2 ^ 14 + tile % 2 ^ 10 * 2 ^ 16
    + tick % 2 ^ 24 * 2 ^ 32 + epoch % 2 ^ 16 * 2 ^ 64)

/-- A firing's tokens: one per edge of its actor, each TAKEN bit by position (R208). -/
def firingTokens (s : State) (q t : Nat) (r : ActorRec) (f : Firing) : List (BitVec 128) :=
  let p := partAt s q
  (withPos (((tileAt s t).conf.edges.drop r.outFirst).take r.outCount)).map (fun x =>
    tokenBits x.2.actor x.2.slot (f.taken.getD x.1 false) (tileOfLocal p x.2.tile) f.tick p.abortEpoch)

/-- Tokens put on the mesh by a unit: a tile, or engine e as 1024 + e. -/
def sendTokens (s : State) (src : Nat) (l : List (BitVec 128)) : State := { s with tokens := s.tokens ++ l.map (fun k => (src, k)) }

/-- The fabric engine as a unit of the data mesh. -/
def fabricUnit : Nat := 1025

/-- The destination tile of a token. -/
def tokenTile (k : BitVec 128) : Nat := field k.toNat 16 10

/-- Whether two tokens under way go from one unit to one tile. -/
def sameRoute (x y : Nat × BitVec 128) : Bool := decide (x.1 = y.1) && decide (tokenTile x.2 = tokenTile y.2)

/-! ### Layers (R130 to R134) -/

/-- The last rung of a layer's ladder. -/
def lastRung (p : Part) (slot : Nat) : Nat := (((layerOf p slot).map LayerRec.rungs).getD []).length - 1

/-- The rung a layer starts at: the higher of the latched START_RUNG and its preset (R134). -/
def firstRung (p : Part) (slot : Nat) : Nat :=
  min (max (latchedAnchor p slot).startRung (p.ctx.presets.at slot 0)) (lastRung p slot)

/-- A layer's course in the attempt. -/
def layerRunOf (p : Part) (slot : Nat) : LayerRun := p.ctx.layers.at slot { rung := firstRung p slot }

/-- A layer's course changed. -/
def modLayer (s : State) (q slot : Nat) (f : LayerRun → LayerRun) : State :=
  modCtx s q (fun c => { c with layers := c.layers.put slot (f (layerRunOf (partAt s q) slot)) })

/-- A layer is running once a firing of it does its work. -/
def layerRuns (s : State) (t : Nat) (r : ActorRec) (work : Bool) : State :=
  match partOfTile s t with
  | some q =>
    if work && (layerOf (partAt s q) r.layerSlot).isSome then modLayer s q r.layerSlot (fun l => { l with running := true }) else s
  | none => s

/-! ### Firing (R207, R209) -/

/-- The TAKEN bit that a firing of a COND actor reads: the last slot-0 token it consumes. -/
def readsTaken (s : State) (t a : Nat) (r : ActorRec) : Bool :=
  (ctxOf s t a).takens.getD (r.need.getD 0 1 - 1) Config.freeTaken

/-- A firing's tokens consumed. -/
def consume (s : State) (t a : Nat) (r : ActorRec) : State :=
  modActor s t a (fun c =>
    { c with
      counts := (List.range 8).map (fun i => c.counts.getD i 0 - r.need.getD i 0)
      takens := c.takens.drop (r.need.getD 0 0)
      fired := c.fired + 1 })

/-- The kinds that share a unit's queue: the scheduler serves SYNC and CLOSE. -/
def sameQueue (k k' : Nat) : Bool := decide (k = k') || (decide (4 ≤ k) && decide (4 ≤ k'))

/-- Whether firing f is served before g. -/
def servedBefore (f g : Firing) : Bool :=
  decide (f.tick < g.tick ∨ (f.tick = g.tick ∧ ((!f.spec && g.spec) = true ∨ (f.spec = g.spec ∧ f.order < g.order))))

/-- Firings so far of the PASS actors that name a plan, or none where no actor names it. -/
def planFired (s : State) (t i : Nat) : Option Nat :=
  ((withPos (tileAt s t).conf.actors).find? (fun x => x.2.kind = kindPass && x.2.arg = i)).map (fun x => (ctxOf s t x.1).fired)

/-- The turn of a plan of a layer that continues its accumulation: such plans fire in FEED-record order (R559). -/
def passTurn (s : State) (t : Nat) (f : Firing) (r : ActorRec) : Bool :=
  let slot := (feedRec s t r.arg).layerSlot
  let mine := (ctxOf s t f.actor).fired
  !layerContinues (partAt s (partNum s t)) slot || f.rerun
    || (withPos (tileAt s t).conf.feeds).all (fun x =>
        decide (x.2.kind ≠ 2 ∨ x.2.layerSlot ≠ slot) || decide (x.1 = r.arg)
          || (match planFired s t x.1 with
              | none => true
              | some n => if x.1 < r.arg then decide (mine < n) else decide (mine ≤ n)))

/-- The kind of a firing's actor, 0 for none. -/
def kindOf (s : State) (t : Nat) (f : Firing) : Nat := ((actorRec s t f.actor).map ActorRec.kind).getD 0

/-- Whether a speculative firing may be served: no other firing of the same or a lower assigned tick waits in its queue (R209). -/
def specTurn (s : State) (t : Nat) (f : Firing) : Bool :=
  !f.spec || !((tileAt s t).sched.ready).any (fun g => !g.spec && sameQueue (kindOf s t g) (kindOf s t f) && decide (g.tick ≤ f.tick))

/-- The firing a unit's queue serves next: no guard stops it (R209, R269). -/
def nextFiring (s : State) (t kind : Nat) : Option Firing :=
  let fit (f : Firing) : Bool :=
    (match actorRec s t f.actor with
      | some r => sameQueue r.kind kind && (decide (r.kind ≠ kindPass) || passTurn s t f r)
      | none => false) && !guardStops s t f.actor && specTurn s t f
  (((tileAt s t).sched.ready).filter fit).foldl (fun b f =>
    match b with
    | none => some f
    | some g => if servedBefore f g then some f else some g) none

/-- A firing taken from its queue by its unit: its tokens are consumed, and it reads whether it does its work. A speculative
firing reserves its tokens and consumes none (R219). -/
def takeFiring (s : State) (t : Nat) (f : Firing) (r : ActorRec) : Firing × State :=
  let s00 := modSched s t (fun c => { c with ready := c.ready.filter (fun g => g.order ≠ f.order) })
  let s0 := if f.spec then s00 else guardRelease s00 t f.actor
  let work := f.spec || f.rerun || !r.cond || readsTaken s t f.actor r
  let f1 := { f with
    work := work
    finished := !work
    taken := List.replicate r.outCount work }
  let s1 := if f.spec || f.rerun then s0 else consume s0 t f.actor r
  (f1, refresh (modSched (layerRuns s1 t r (work && !f.spec)) t (fun c => { c with running := c.running ++ [f1] })) t)

/-- The first entry of a list that meets a condition, changed. -/
def modFirst {α : Type} (c : α → Bool) (f : α → α) : List α → List α
  | [] => []
  | x :: l => if c x then f x :: l else x :: modFirst c f l

/-- An actor's oldest running firing changed. -/
def modFiring (s : State) (t a : Nat) (f : Firing → Firing) : State :=
  modSched s t (fun c => { c with running := modFirst (fun x => x.actor = a && !x.finished) f c.running })

/-- A running firing's work done. -/
def finishFiring (s : State) (t a : Nat) : State := modFiring s t a (fun f => { f with finished := true })

/-- A unit's next firing of a kind, taken, where the tile may fire. -/
def fireOf (s : State) (t kind : Nat) : Option (Firing × ActorRec × State) :=
  if (tileAt s t).sched.stopped then none
  else
    match nextFiring s t kind with
    | none => none
    | some f =>
      match actorRec s t f.actor with
      | none => none
      | some r =>
        if r.kind = kind then
          let x := takeFiring s t f r
          some (x.1, r, x.2)
        else none

/-! ### Work of a tick (R215) -/

/-- Whether a tile's work for a tick offset is complete. -/
def workDone (s : State) (t off : Nat) : Bool :=
  (withPos (tileAt s t).conf.actors).all (fun x =>
    decide (x.2.tickOffset ≠ off)
      || (decide ((ctxOf s t x.1).completed = x.2.firings)
          && (isIncomplete (partAt s (partNum s t)) || (tileAt s t).sched.updates.all (fun u => u.1 ≠ x.1))))

/-- The tile's finish cycle noted where its work of the current tick, incomplete in the state before, has become complete (R215). -/
def noteFinish (old s : State) (t : Nat) : State :=
  match partOfTile s t with
  | none => s
  | some q =>
    let p := partAt s q
    let off := offsetOf p (now s)
    if p.ctx.active && workDone s t off && !workDone old t off then
      modSched s t (fun c => { c with finish := s.cycle - s.tick.began })
    else s

/-! ### Speculation (R219 to R223) -/

/-- Whether a slot serves a transfer of the list that a tile's DMA engine runs. -/
def SlotUse.ofTile (t : Nat) : SlotUse → Bool
  | .dma u _ => decide (u = t)
  | .read u _ _ _ | .trailer u _ => decide (u = t)
  | _ => false

/-- Whether the DMA engine of a tile runs a speculative list of an actor. -/
def specRun (s : State) (t a : Nat) : Bool := ((tileAt s t).dma.head?).any (fun d => d.spec && decide (d.actor = some a))

/-- The transfers of a tile's list let go: its queued requests are dropped, its slots and credits released (R223). -/
def dropTransfers (s : State) (q t : Nat) : State :=
  let keep (o : OutPkt) : Bool := !(o.usage.ofTile t)
  let s1 := { s with
    flows := s.flows.map (fun f => { f with queue := f.queue.filter keep })
    ports := s.ports.map (fun x => (x.1, { x.2 with sendReq := x.2.sendReq.filter keep })) }
  let mine (n : Nat) : Bool := decide (n / 65536 = t)
  let s2 := modPart s1 q (fun p => { p with regWait := p.regWait.filter (fun w => !mine w.source) })
  releaseSlots (modFs s2 (fun f => { f with guardWait := f.guardWait.filter (fun x => x.1 ≠ t), waiting := f.waiting.filter (fun w => !mine w.source), issued := f.issued.filter (fun w => !mine w.source) }))
    q (fun x => x.usage.ofTile t)

/-- A speculative firing given up (R221, R223): its held tokens and withheld effects are discarded, its transfers are let go. -/
def cancelSpec (s : State) (q t a : Nat) : State :=
  let mine (f : Firing) : Bool := f.actor = a && f.spec
  let s1 := modSched s t (fun c =>
    { c with
      hold := c.hold.filter (fun x => x.1 ≠ a)
      suspense := c.suspense.drop a
      specDone := c.specDone.filter (fun f => !mine f)
      ready := c.ready.filter (fun f => !mine f)
      running := c.running.filter (fun f => !mine f) })
  let s2 := if specRun s t a then modTile (dropTransfers s1 q t) t (fun x => { x with dma := x.dma.drop 1 }) else s1
  let s3 := modVec s2 t (fun v => if v.body.any (fun b => b.spec && b.actor = a) then { v with body := none } else v)
  modActor (regBump s3 (schReg q 0x38) 0 32 1) t a (fun c => { c with specOpen := false })

/-- The tokens that a tile's unchecked speculative firings hold or will hold (R220). -/
def heldTokens (s : State) (t : Nat) : Nat :=
  let c := (tileAt s t).sched
  ((c.ready ++ c.running).filter Firing.spec).foldl (fun n f => n + ((actorRec s t f.actor).map ActorRec.outCount).getD 0) c.hold.length

/-- SPECULATIVE_FIRE: an actor predicted TAKEN joins its queue on reserved tokens (R219, R220). -/
def speculativeFire (t a confidence : Nat) (predictTaken : Bool) (s : State) : State :=
  match partOfTile s t, actorRec s t a with
  | some q, some r =>
    let p := partAt s q
    let c := ctxOf s t a
    let rule := (imageOf p).predict.find? (fun x => x.kind = 2 && x.tile = localOfTile p t && x.target = a)
    let named := match rule with | some x => decide (x.confidence ≤ confidence) | none => false
    if r.speculable && predictTaken && named && hasPredictor s && windowOpen s p r && !c.specOpen && decide (c.fired < r.firings)
        && (List.range r.slots).all (fun i => decide (i = 0) || slotFull s q t a r i)
        && decide (c.counts.getD 0 0 < r.need.getD 0 0)
        && decide (heldTokens s t + r.outCount ≤ 256) && !(tileAt s t).sched.stopped
        && !(tileAt s t).sched.ready.any (fun f => f.actor = a) then
      modActor (modSched s t (fun x => { x with
        ready := x.ready ++ [{ actor := a, tick := assignedTick p r, order := x.order, spec := true }]
        order := x.order + 1 })) t a (fun c => { c with specOpen := true })
    else s
  | _, _ => s

def execSpeculativeFire (t a confidence : Nat) (predictTaken : Bool) (s : State) : Host.Outcome State Fault Refusal :=
  .next (speculativeFire t a confidence predictTaken s)

/-! ### SYNC and CLOSE -/

/-- FIRE_SYNC: a join of tokens with no work. -/
def fireSync (t : Nat) (s : State) : State :=
  match fireOf s t kindSync with
  | some x => finishFiring x.2.2 t x.1.actor
  | none => s

def execFireSync (t : Nat) (s : State) : Host.Outcome State Fault Refusal := .next (fireSync t s)


/-- FIRE_CLOSE: the tile's part of its layer is finished (R130). -/
def fireClose (t : Nat) (s : State) : State :=
  match fireOf s t kindClose with
  | some x =>
    if !x.1.work then x.2.2
    else
      match partOfTile s t with
      | some q => modLayer x.2.2 q x.2.1.layerSlot (fun l =>
          { l with tilesDone := insertNat l.tilesDone (localOfTile (partAt s q) t) })
      | none => x.2.2
  | none => s

def execFireClose (t : Nat) (s : State) : Host.Outcome State Fault Refusal := .next (fireClose t s)

end Sys2Proof.Machine
end

