-- ==== Sys2Proof/Machine/Fabric.lean ====
section
/-! DEFINITION. The fabric engine's sending side: messages, request slots, outbound retention, credits (R214, R222, R272, R295,
R299 to R301, R315, R335, R338, R415 to R420, R440), and the meanings of FABRIC_REQUEST_ISSUE and PACKET_SEND. -/

namespace Sys2Proof.Machine

/-- Flow i of a partition. -/
def flowAt (s : State) (q i : Nat) : Option Flow := s.flows.find? (fun f => f.q = q && f.idx = i)

/-- A flow changed. -/
def modFlow (s : State) (q i : Nat) (f : Flow → Flow) : State :=
  { s with flows := s.flows.map (fun x => if x.q = q && x.idx = i then f x else x) }

/-- A count kept by tick offset. -/
def countAt (l : List (Nat × Nat)) (off : Nat) : Nat := ((l.find? (fun x => x.1 = off)).map Prod.snd).getD 0

/-- The same, one higher. -/
def countUp (l : List (Nat × Nat)) (off : Nat) : List (Nat × Nat) := (off, countAt l off + 1) :: l.filter (fun x => x.1 ≠ off)

/-! ### Limits of the journal and of retention (R420) -/

/-- Entries a partition may hold. -/
def entryLimit (s : State) : Nat := if isHbm s then 4194304 else 524288

/-- Bytes of the largest message. -/
def messageLimit (s : State) : Nat := if isHbm s then 2 ^ 30 else 2 ^ 28

/-- Bytes of a list of messages. -/
def msgBytes (l : List Msg) : Nat := l.foldl (fun a m => a + m.pkt.data.length) 0

/-- Whole messages of a list; each packet of a message is held under its own index, the last marked LAST. -/
def wholeMessages (l : List Msg) : Nat := (l.filter (fun m => m.pkt.last)).length

/-- Bytes of a flow's message that a list holds in part. -/
def openBytes (l : List Msg) (flow : Nat) : Nat :=
  msgBytes ((l.filter (fun m => m.flow = flow)).reverse.takeWhile (fun m => !m.pkt.last))

/-- A message over the limits: the partition aborts and sets its flag, 4 JOURNAL_FULL or 5 RETENTION_FULL; meeting the
limit again in a replay of the step faults it. -/
def messageFull (s : State) (q flag : Nat) : State :=
  let again := (partAt s q).settle.journalFullOnce
  let s1 := regFlag (modSettle s q (fun x => { x with journalFullOnce := true })) (updReg q 0x18) flag
  stepAbort s1 q causeFault (now s) again false

/-! ### Messages (R300, R415) -/

/-- Whether a flow's messages carry trailers: CVU_MODE 1 (R299, R338). DESIGN CHOICE (log entry 75): a LOOPBACK flow goes by no port, so
no unit makes trailers for it. -/
def linkChecked (f : Flow) : Bool := decide (f.cfg.cvuMode = 1 ∧ f.cfg.kind ≠ 2)

/-- The parts of [lo, lo + n) among given parts, counted from lo. -/
def cutParts (l : List (Nat × Nat)) (lo n : Nat) : List (Nat × Nat) :=
  l.filterMap (fun x =>
    let a := max x.1 lo
    let b := min (x.1 + x.2) (lo + n)
    if a < b then some (a - lo, b - a) else none)

/-- A message's packets queue at its flow: data in pieces of 2,048 bytes from an address, the last marked LAST. A message
that retention shows acknowledged before the abort is not sent again (R419); a shadow sends nothing (R440). A message over a link is
posted for the tick fingerprint (R345), but for what a member sends its shadow, which the shadow itself does not send (R440). `poison` names the parts of the data from poisoned lines. -/
def enqueue (s : State) (q i typ addr tick : Nat) (data : List Byte) (poison : List (Nat × Nat)) (comp spec retain : Bool)
    (usage : SlotUse) : State :=
  match flowAt s q i with
  | none => s
  | some f =>
    let p := partAt s q
    let ps := if data.isEmpty then [[]] else pieces 2048 data
    let off := tick - (p.ctx.firstTick + p.ctx.shift)
    let s0 := if f.cfg.kind = 2 || p.join.serves = some i then s else modSettle s q (fun x => { x with posted := x.posted ++ [(tick, i, data)] })
    if messageLimit s < data.length && retain then messageFull s q 5
    else
      (withPos ps).foldl (fun s x =>
        let n := ((flowAt s q i).map (fun f => countAt f.sentIdx off)).getD 0
        let pk : Packet := {
          typ := typ
          comp := comp
          cval := linkChecked f
          spec := spec
          last := decide (x.1 + 1 = ps.length)
          flow := f.cfg.remoteFlow
          srcDev := s.devId
          dstDev := f.dstDev
          jobEpoch := jobEpochOf p
          abortEpoch := p.abortEpoch
          tick := tick % 2 ^ 24
          slot := 0
          gen := 0
          length := x.2.length
          status := 0
          addr := if typ = 6 then addr else addr + 2048 * x.1
          reserved := 0
          data := x.2
          trailer := 0
          poison := cutParts poison (2048 * x.1) x.2.length }
        let had := p.settle.retention.any (fun m => m.flow = i && m.off = off && m.idx = n && m.acked)
        let out : OutPkt := { q := q, flow := i, usage := usage, ident := if retain then some (off, n) else none, pkt := pk }
        modFlow s q i (fun f => { f with
          queue := if (retain && had) || isShadowing p then f.queue else f.queue ++ [out]
          sentIdx := if retain then countUp f.sentIdx off else f.sentIdx })) s0

/-- A READ_REQ of n bytes on a flow. -/
def readPacket (s : State) (p : Part) (f : Flow) (addr n tick : Nat) (spec : Bool) : Packet :=
  { typ := 2
    comp := false
    cval := false
    spec := spec
    last := true
    flow := f.cfg.remoteFlow
    srcDev := s.devId
    dstDev := f.dstDev
    jobEpoch := jobEpochOf p
    abortEpoch := p.abortEpoch
    tick := tick % 2 ^ 24
    slot := 0
    gen := 0
    length := n
    status := 0
    addr := addr
    reserved := 0
    data := []
    trailer := 0 }

/-- A packet put at the end of a flow's queue. -/
def queueOut (s : State) (q i : Nat) (usage : SlotUse) (k : Packet) : State :=
  modFlow s q i (fun f => { f with queue := f.queue ++ [{ q := q, flow := i, usage := usage, pkt := k }] })

/-- A read of n bytes at an address on the flow's partner queues at the flow; it is issued anew in every attempt. -/
def enqueueRead (s : State) (q i addr n tick : Nat) (spec : Bool) (usage : SlotUse) : State :=
  match flowAt s q i with
  | none => s
  | some f =>
    let p := partAt s q
    if isShadowing p then s else queueOut s q i usage (readPacket s p f addr n tick spec)

/-! ### Request slots and retention (R272, R299, R301, R417) -/

/-- Slots held for a destination. -/
def slotsTo (s : State) (dest : Nat) : Nat := (s.slots.filter (fun x => x.dst = dest)).length

/-- Reads of other modules being served: each holds one of the server's own slots (R222, R303). -/
def servedReads (s : State) : Nat :=
  s.parts.foldl (fun n p => n + (p.2.regOps.filter (fun o => (o.served.map (fun x => x.pkt.typ)) = some 2)).length) 0

/-- Request slots held (R330). -/
def slotsInUse (s : State) : Nat := s.slots.length + servedReads s

/-- The lowest slot number not held. -/
def freeSlot (s : State) : Nat := ((List.range (s.slots.length + 1)).find? (fun n => !s.slots.any (fun x => x.num = n))).getD 0

/-- Bytes a flow has unacknowledged. -/
def unackedBytes (s : State) (q i : Nat) : Nat :=
  (s.slots.filter (fun x => x.q = q && x.flow = i)).foldl (fun a x => a + x.bytes) 0

/-- Slots a flow holds. -/
def heldSlots (s : State) (q i : Nat) : Nat := (s.slots.filter (fun x => x.q = q && x.flow = i)).length

/-- The port a flow's packet goes on: the lowest of its mask that is UP, else the lowest of its mask; 16 for loopback, whose packets go to row operand 16 + q of
the destination partition q. -/
def portFor (s : State) (f : Flow) : Nat :=
  if f.cfg.kind = 2 then 16
  else
    match (List.range 16).find? (fun p => f.portMask.testBit p && portUp s p) with
    | some p => p
    | none => ((List.range 16).find? (fun p => f.portMask.testBit p)).getD 16

/-- Whether the head of a flow's queue may take a slot. -/
def mayIssue (s : State) (f : Flow) : Bool :=
  match f.queue with
  | [] => false
  | o :: _ =>
    let p := partAt s f.q
    !f.closed && !isFencedPart p && decide (heldSlots s f.q f.idx < f.cfg.slotLimit)
      && decide ((s.slots.filter (fun x => x.q = f.q)).length < (imageOf p).slotQuota)
      && decide (unackedBytes s f.q f.idx + o.pkt.data.length ≤ f.cfg.creditKib * 1024)
      && (!linkChecked f || f.txRun.isSome || decide (heldSlots s f.q f.idx = 0))
      && !(o.pkt.cval && cvuStopped s (txUnit (f.txPort.getD (portFor s f))))

/-- Where a retained packet lies in the retention pool (R275, R417). -/
def retainPlace (s : State) (q flow off n : Nat) : Nat := poolAddr s 1 q (flow * 2 ^ 40 + off * 2 ^ 20 + n)

/-- A sent packet entered in its partition's outbound retention; none where the limits are met. -/
def retain (s : State) (o : OutPkt) : Option State :=
  match o.ident with
  | none => some s
  | some (off, n) =>
    let p := partAt s o.q
    if !isBound p then some s
    else
      let others := p.settle.retention.filter (fun m => !(m.flow = o.flow && m.off = off && m.idx = n))
      if entryLimit s ≤ wholeMessages others || p.quota.getD 1 0 * 2 ^ 20 < msgBytes others + o.pkt.data.length then none
      else some (modSettle (fcUseSpan s (retainPlace s o.q o.flow off n) (32 + o.pkt.data.length) true false) o.q (fun x => { x with retention := others ++ [{
        flow := o.flow
        step := p.ctx.step
        off := off
        idx := n
        tick := fullTick (now s) o.pkt.tick
        pkt := o.pkt }] }))

/-- The far-store write that retaining a packet makes, in the retention pool (R274, R275, R417). -/
def retainSpans (s : State) (q : Nat) (o : OutPkt) : List (Nat × Nat) :=
  match o.ident with
  | some (off, n) => if isBound (partAt s q) then [(retainPlace s q o.flow off n, 32 + o.pkt.data.length)] else []
  | none => []

/-- The trailer of a flow's next packet: the value it holds, the running value the message goes on with, and the unit after it (R338). -/
def nextTrailer (s : State) (f : Flow) (port : Nat) (k : Packet) : Nat × Option Word × State :=
  if !k.cval then (0, none, s)
  else
    let r := linkStream s (txUnit port) f.q f.txRun k.data k.last
    (r.2.1, if k.last then none else some (word r.1), r.2.2)

/-- The head of a flow's queue takes a slot and waits at its port; over loopback it is retained and goes at once. -/
def issueHead (s : State) (f : Flow) (o : OutPkt) : State :=
  let n := freeSlot s
  let port := f.txPort.getD (portFor s f)
  let tr := nextTrailer s f port o.pkt
  let k := { o.pkt with
    slot := n
    gen := s.slotGen.at n 0
    trailer := word tr.1 }
  let s1 := modFlow tr.2.2 f.q f.idx (fun f => { f with
    queue := f.queue.drop 1
    txRun := tr.2.1
    txPort := tr.2.1.map (fun _ => port) })
  let s2 := { s1 with slots := s1.slots ++ [{
    num := n
    gen := s.slotGen.at n 0
    q := f.q
    flow := f.idx
    usage := o.usage
    bytes := k.data.length
    dst := f.dstDev
    spec := k.spec
    tick := fullTick (now s) k.tick
    ident := o.ident }] }
  if port = 16 then
    match retain s2 { o with pkt := k } with
    | none => messageFull s2 f.q 5
    | some s3 => emit s3 (.packet (16 + f.cfg.dstPart) k)
  else modPort s2 port (fun x => { x with sendReq := x.sendReq ++ [{ o with pkt := k }] })

/-- FABRIC_REQUEST_ISSUE: a request to a destination that may go takes a slot within its shares and waits at its port. A running value whose
parity is wrong is met as the packet takes it up (R347). -/
def fabricIssue (dest : Nat) (s : State) : State :=
  if 65536 ≤ slotsTo s dest || 524288 ≤ slotsInUse s then s
  else
    match s.flows.find? (fun f => f.dstDev = dest && mayIssue s f) with
    | none => s
    | some f =>
      match f.queue with
      | [] => s
      | o :: _ =>
        let u := txUnit (f.txPort.getD (portFor s f))
        if o.pkt.cval && f.txRun.isSome && runBad s u f.q then cvuParity s u f.q
        else charged s f.q engRetention (if f.cfg.kind = 2 then retainSpans s f.q o else []) (fun s => issueHead s f o)

def execFabricRequestIssue (dest : Nat) (s : State) : Host.Outcome State Fault Refusal := .next (fabricIssue dest s)

/-! ### PACKET_SEND (R214, R295) -/

/-- Whether a packet's assigned tick has begun (R214); replies carry no wait. -/
def tickBegun (s : State) (k : Packet) : Bool := decide (fullTick (now s) k.tick ≤ now s) || isReply k

/-- The packet a port may send next: the head of its reply queue where credits cover it, else its oldest request whose
tick has begun, where credits cover that (R295). -/
def nextOut (s : State) (p : Nat) : Option OutPkt :=
  let x := portAt s p
  match x.sendRsp.head?.filter (fun o => decide (packetCredits o.pkt ≤ x.creditRsp)) with
  | some o => some o
  | none => (x.sendReq.find? (fun o => tickBegun s o.pkt)).filter (fun o => decide (packetCredits o.pkt ≤ x.creditReq))

/-- A packet off its port's queue, its credits taken. -/
def takeOut (x : Port) (o : OutPkt) : Port :=
  if isReply o.pkt then { x with sendRsp := x.sendRsp.erase o, creditRsp := x.creditRsp - packetCredits o.pkt }
  else { x with sendReq := x.sendReq.erase o, creditReq := x.creditReq - packetCredits o.pkt }

/-- The flits that fill up as a packet's bytes follow the tail of those before it; they find room in the replay buffer (R293, R294). -/
def roomFor (x : Port) (k : Packet) : Bool :=
  decide (x.replay.length + (x.txTail.length + (packetBytes k).length + 241) / 242 ≤ 512)

/-- The tail of the packets sent leaves in a flit of its own where no packet may follow it (R293). -/
def flushTail (s : State) (p : Nat) : State :=
  if (portAt s p).txTail.isEmpty || (nextOut s p).isSome then s else sendTail s p

/-- PACKET_SEND: a port that is UP, with room in its replay buffer, sends its next packet, whose bytes follow those of the packet before
it; a request enters outbound retention as it goes, which is charged to its partition. -/
def packetSend (p : Nat) (s : State) : State :=
  if !portUp s p then s
  else
    match nextOut s p with
    | none => if (portAt s p).replay.length < 512 then flushTail s p else s
    | some o =>
      if !roomFor (portAt s p) o.pkt then s
      else
        charged s o.q engRetention (retainSpans s o.q o) (fun s =>
          match retain s o with
          | none => messageFull (modPort s p (fun x => { x with sendReq := x.sendReq.erase o })) o.q 5
          | some s1 => flushTail (sendPacket (modPort s1 p (fun x => takeOut x o)) p o.pkt) p)

def execPacketSend (p : Nat) (s : State) : Host.Outcome State Fault Refusal := .next (packetSend p s)

end Sys2Proof.Machine
end

