-- ==== Sys2Proof/Machine/Operands.lean ====
section
/-! DEFINITION. Operand forms of DMA descriptors and compressed block streams (R244, R249 to R251, R255 to R257): fields,
addresses, extents and validation. -/

namespace Sys2Proof.Machine

/-! ### Compressed block streams (R255 to R257) -/

/-- A stored DBn block's record: its tag, then its elements in as many digits as it needs. -/
def compRecord (n : Nat) (b : List Byte × Nat) : List Byte :=
  let k := denomination (dbUnpack n b.1) b.2
  toLe 2 k.tag ++ dbPack k.d k.q

/-- Whether a record's tag is malformed for a stream of n digits (R257). -/
def badTag (n tag : Nat) : Bool :=
  decide (min n 8 < field tag 8 4) || tag.testBit 15 || (tag.testBit 12 && decide (tag % 256 ≠ 255))

/-- The stored block of a record. -/
def recordBlock (n tag : Nat) (elems : List Byte) : List Byte × Nat :=
  let d := field tag 8 4
  if tag.testBit 12 || d = 0 then (List.replicate (16 * n) 0, if tag.testBit 12 then 255 else tag % 256)
  else (dbPack n (dbUnpack d elems), tag % 256)

/-- Up to k records of a stream: the blocks, whether every record was well formed, and the bytes after them. -/
def takeRecords (n : Nat) : Nat → List Byte → List (List Byte × Nat) × Bool × List Byte
  | 0, bs => ([], true, bs)
  | k + 1, bs =>
    let tag := le bs 0 2
    let len := 16 * field tag 8 4
    if bs.length < 2 || badTag n tag || bs.length < 2 + len then ([], false, bs)
    else
      let r := takeRecords n k (bs.drop (2 + len))
      (recordBlock n tag ((bs.drop 2).take len) :: r.1, r.2)

/-- Offset and length of each of up to k records of a body. -/
def recordSpans : Nat → Nat → List Byte → List (Nat × Nat)
  | 0, _, _ => []
  | k + 1, o, bs =>
    let len := 2 + 16 * field (le bs 0 2) 8 4
    (o, len) :: recordSpans k (o + len) (bs.drop len)

/-- Whether a byte string is whole records and nothing else; the fuel bounds their number. -/
def wholeRecords : Nat → List Byte → Bool
  | 0, bs => bs.isEmpty
  | fuel + 1, bs =>
    let tag := le bs 0 2
    let len := 16 * field tag 8 4
    bs.isEmpty || (decide (2 + len ≤ bs.length) && !badTag 8 tag && wholeRecords fuel (bs.drop (2 + len)))

/-- The largest body of a stream of k blocks of n digits. -/
def compMax (n k : Nat) : Nat := alignUp (k * (2 + 16 * n)) 64

/-- A stream: its header and its padded body. -/
def compStream (n k : Nat) (body : List Byte) : List Byte :=
  let len := alignUp body.length 64
  toLe 1 n ++ toLe 3 0 ++ toLe 4 k ++ toLe 8 len ++ List.replicate 48 0 ++ slice body 0 len

/-- Whether a stream's header breaks its own rules, or does not fit a descriptor of k blocks in n digits. -/
def badStream (n k : Nat) (h : List Byte) : Bool :=
  decide (le h 0 1 ≠ n ∨ le h 1 3 ≠ 0 ∨ le h 16 48 ≠ 0 ∨ le h 8 8 % 64 ≠ 0 ∨ compMax n (le h 4 4) < le h 8 8 ∨ le h 4 4 < k)

/-! ### Descriptors (R249) -/

/-- A descriptor's fields. -/
structure DescF where
  op : Nat
  flags : Nat
  fmt : Nat
  cvu : Nat
  count : Nat
  src : Nat
  srcScale : Nat
  dst : Nat
  dstScale : Nat
  rows : Nat
  srcStride : Nat
  dstStride : Nat
  layerSlot : Nat
  segment : Nat
  index0 : Nat
  reserved : Nat
  reserved2 : Nat
deriving DecidableEq, Repr, Inhabited

/-- The fields of a descriptor's 64 bytes. -/
def descOf (b : List Byte) : DescF :=
  { op := le b 0 1
    flags := le b 1 1
    fmt := le b 2 1
    cvu := le b 3 1
    count := le b 4 4
    src := le b 8 8
    srcScale := le b 16 8
    dst := le b 24 8
    dstScale := le b 32 8
    rows := le b 40 4
    srcStride := le b 44 4
    dstStride := le b 48 4
    layerSlot := le b 52 2
    segment := le b 54 1
    index0 := le b 56 6
    reserved := le b 55 1
    reserved2 := le b 62 2 }

def DescF.guarded (d : DescF) : Bool := d.flags.testBit 0
def DescF.fence (d : DescF) : Bool := d.flags.testBit 1
def DescF.noalloc (d : DescF) : Bool := d.flags.testBit 2
def DescF.check (d : DescF) : Bool := d.flags.testBit 3
def DescF.srcComp (d : DescF) : Bool := d.flags.testBit 4
def DescF.dstComp (d : DescF) : Bool := d.flags.testBit 5
/-- FEED and WEIGHT. -/
def DescF.isBlock (d : DescF) : Bool := decide (d.op = 2 ∨ d.op = 3)
/-- A COPY in block mode. -/
def DescF.isStream (d : DescF) : Bool := decide (d.op = 1) && (d.srcComp || d.dstComp)
/-- Whether the operation reads a source, and whether it writes a destination. -/
def DescF.hasSrc (d : DescF) : Bool := decide (d.op ≠ 5)
def DescF.hasDst (d : DescF) : Bool := decide (d.op = 1 ∨ d.op = 2 ∨ d.op = 3 ∨ d.op = 5)

/-! ### Addresses (R244) -/

/-- The remote device a field names, or none where it is local. -/
def remoteDev (s : State) (a : Nat) : Option Nat :=
  if a.testBit 63 && decide (field a 44 16 ≠ s.devId) then some (field a 44 16) else none

/-- The device-local part of an address field. -/
def localAddr (a : Nat) : Nat := a % 2 ^ 44

/-- Whether an address field has a bit set that must be zero. -/
def badAddr (a : Nat) : Bool := if a.testBit 63 then decide (field a 60 3 ≠ 0) else decide (field a 44 19 ≠ 0)

/-- The flow of a partition to a device. -/
def flowTo (s : State) (q dev : Nat) : Option Flow :=
  s.flows.find? (fun f => f.q = q && f.cfg.kind = 1 && f.dstDev = dev && !f.closed)

/-! ### Extents (R243, R251, R367, R378) -/

/-- Whether [a, a + n) lies in a range of m bytes from b. -/
def within (a n b m : Nat) : Bool := decide (b ≤ a ∧ a + n ≤ b + m)

/-- The failed checks of a local extent of n bytes, n positive, for a descriptor field at an offset. DEDUCED (log entry 28): the window
of a tile that is not there gives ABSENT_UNIT (R3, R243) and is not judged as an address outside the partition's tiles (R251), which would
hide that status on a device with fewer tiles. -/
def extentFails (s : State) (p : Part) (host : Bool) (a n off : Nat) : List (Nat × Nat) :=
  let e := a + n - 1
  if isTileAddr a then
    let t := tileOf a
    let fits := isTileAddr e && decide (tileOf e = t) && decide (windowPart (offOf a) < 3)
      && decide (windowPart (offOf e) = windowPart (offOf a)) && (inRect p t || !tilePresent s t)
    check (!fits) stBadLength off ++ check (!tilePresent s t) stAbsent off
  else
    let fits := within a n fsBase (fsCapacity s)
      && (host || within a n p.carve ((imageOf p).carveGib * 2 ^ 30) || within a n p.stashBase (p.quota.getD 3 0 * 2 ^ 20))
    check (!fits) stBadLength off

/-- Bytes from the first row's base to the last row's end. -/
def rowsExtent (rows stride per : Nat) : Nat := (rows - 1) * stride + per

/-- Blocks a FEED or WEIGHT reads. -/
def DescF.blocks (d : DescF) : Nat := if d.op = 3 then 512 * d.count else d.count

/-- The planes of a descriptor as validated: address field's offset, address, bytes. -/
def planesOf (s : State) (d : DescF) : List (Nat × Nat × Nat) :=
  let hdr := readBytes s.mem (localAddr d.src) 64
  if d.isBlock then
    (if d.srcComp then [(8, d.src, 64 + le hdr 8 8)]
     else [(8, d.src, d.blocks * blockStride d.fmt)] ++ (if hasScale d.fmt then [(16, d.srcScale, d.blocks)] else []))
      ++ [(24, d.dst, if d.op = 3 then 33280 * d.count else 1)]
  else if d.isStream then
    if d.srcComp then [(8, d.src, 64 + le hdr 8 8), (24, d.dst, 16 * d.fmt * d.count), (32, d.dstScale, d.count)]
    else [(8, d.src, 16 * d.fmt * d.count), (16, d.srcScale, d.count), (24, d.dst, 64 + compMax d.fmt d.count)]
  else
    (if d.hasSrc then [(8, d.src, rowsExtent d.rows d.srcStride d.count)] else [])
      ++ (if d.hasDst then [(24, d.dst, rowsExtent d.rows d.dstStride d.count)] else [])

/-- The 8 bytes of a trailer that a checked descriptor adds to an extent: to the destination of a generating COPY, to the
source of a verifying stream (R342). -/
def trailerExtra (s : State) (q : Nat) (d : DescF) (off : Nat) : Nat :=
  let c := cvSlotAt s (40 + d.cvu % 8) q
  if !d.check || c.mode ≠ 1 || c.hold then 0
  else if c.verify then (if off = 8 then 8 else 0)
  else (if off = 24 && d.op = 1 then 8 else 0)

/-- Whether a partition's tile has a feed ring for a layer slot and segment. -/
def hasRing (s : State) (t slot seg : Nat) : Bool := ((tileAt s t).arr.rings.find (4 * slot + seg)).isSome

/-! ### Validation (R250, R251, R341, R346) -/

/-- The BAD_FIELD checks of the fields alone. -/
def descFieldFails (s : State) (q : Nat) (d : DescF) : List (Nat × Nat) :=
  let p := partAt s q
  let bad (f : Bool) (o : Nat) : List (Nat × Nat) := check f stBadField o
  let remote (a : Nat) : Bool := (remoteDev s a).isSome
  let flagsOk : Nat :=
    if d.op = 1 then 0x3F else if d.isBlock then 0x17 else if d.op = 6 then 0x0E else if d.op = 4 then 0x06 else 0x06
  bad (d.op = 0 || decide (6 < d.op)) 0
  ++ bad (decide (d.flags &&& (0xFF - flagsOk) ≠ 0) || (d.srcComp && d.dstComp)) 1
  ++ bad (d.op = 6 && !d.check) 1
  ++ bad (d.isStream && d.check) 1
  ++ bad (d.guarded && (remote d.src || !isFsAddr s (localAddr d.src))) 1
  ++ bad (if d.isBlock then !isBlockFmt d.fmt || (d.srcComp && !isDb d.fmt) else if d.isStream then !isDb d.fmt else d.fmt ≠ 0) 2
  ++ bad (decide (8 ≤ d.cvu)) 3
  ++ bad (d.check && (cvSlotAt s (40 + d.cvu % 8) q).mode = 0) 3
  ++ bad (d.check && !(cvSlotAt s (40 + d.cvu % 8) q).valid) 3
  ++ bad (d.hasSrc && badAddr d.src) 8
  ++ bad (d.hasSrc && remote d.src && !(d.op = 1 && !d.isStream)) 8
  ++ bad (d.isBlock && !d.srcComp && decide (localAddr d.src % 16 ≠ 0)) 8
  ++ bad (d.isStream && d.dstComp && decide (localAddr d.src % 16 ≠ 0)) 8
  ++ bad (d.srcComp && (d.isBlock || d.isStream) && (isTileAddr (localAddr d.src) || isFsAddr s (localAddr d.src + 63))
        && badStream d.fmt d.blocks (readBytes s.mem (localAddr d.src) 64)) 8
  ++ bad (decide (d.srcScale ≠ 0) && !(d.isBlock && hasScale d.fmt) && !d.isStream) 16
  ++ bad ((d.isBlock || d.isStream) && badAddr d.srcScale) 16
  ++ bad ((d.isBlock || d.isStream) && remote d.srcScale) 16
  ++ bad (d.hasDst && badAddr d.dst) 24
  ++ bad (d.hasDst && remote d.dst && !(d.op = 1 && !d.isStream)) 24
  ++ bad (d.op = 1 && remote d.src && remote d.dst) 24
  ++ bad (d.op = 2 && !(isTileAddr (localAddr d.dst) && decide (offOf (localAddr d.dst) = 0))) 24
  ++ bad (d.op = 3 && !(isTileAddr (localAddr d.dst) && decide (windowPart (offOf (localAddr d.dst)) = 0 ∧ localAddr d.dst % 64 = 0))) 24
  ++ bad (d.isStream && d.srcComp && decide (localAddr d.dst % 16 ≠ 0)) 24
  ++ bad (decide (d.dstScale ≠ 0) && !(d.isBlock || d.isStream)) 32
  ++ bad (d.isStream && (badAddr d.dstScale || remote d.dstScale)) 32
  ++ bad (decide (65536 < d.rows) || ((d.isBlock || d.isStream) && d.rows ≠ 1)) 40
  ++ bad (d.isBlock && d.srcStride ≠ 0) 44
  ++ bad ((decide (1 < d.rows) && decide (d.dstStride < d.count)) || (d.isBlock && d.dstStride ≠ 0)) 48
  ++ bad (d.isBlock && (layerOf p d.layerSlot).isNone) 52
  ++ bad (d.op = 2 && isTileAddr (localAddr d.dst) && inRect p (tileOf (localAddr d.dst))
        && !hasRing s (tileOf (localAddr d.dst)) d.layerSlot d.segment) 52
  ++ bad (d.op = 2 && decide (3 < d.segment)) 54
  ++ bad (d.reserved ≠ 0) 55
  ++ bad (!d.isBlock && d.index0 ≠ 0) 56
  ++ bad (d.reserved2 ≠ 0) 62

/-- The checks of the extents and units of a descriptor that moves something. -/
def descUnitFails (s : State) (q : Nat) (host : Bool) (d : DescF) : List (Nat × Nat) :=
  let p := partAt s q
  (planesOf s d).flatMap (fun x =>
    match remoteDev s x.2.1 with
    | some dev => check (flowTo s q dev).isNone stNoResource x.1
    | none => extentFails s p host (localAddr x.2.1) (x.2.2 + trailerExtra s q d x.1) x.1)
  ++ check (d.check && !cvuPresent s (40 + d.cvu % 8)) stAbsent 3
  ++ check (d.check && decide (6 ≤ d.cvu % 8) && s.parts.any (fun x => isBound x.2)) stNoResource 3

/-- Every failed check of a descriptor; one that moves nothing meets the field checks alone (R251). -/
def descFails (s : State) (q : Nat) (host : Bool) (d : DescF) : List (Nat × Nat) :=
  descFieldFails s q d ++ (if d.count * d.rows = 0 then [] else descUnitFails s q host d)

end Sys2Proof.Machine
end

