-- ==== Sys2Proof/Machine/Dma.lean ====
section
/-! DEFINITION. The DMA engine (R52, R80, R88, R223, R249 to R257, R267 to R270, R342, R367): starting a descriptor, moving its
data, completing it, and the meanings of COPY, FEED, WEIGHT, PREFETCH, FILL, SCAN and DESCRIPTOR_COMPLETE. -/

namespace Sys2Proof.Machine

/-! ### The engine's lists -/

/-- The list the engine runs: its oldest. -/
def headRun (s : State) (t : Nat) : Option DmaRun := (tileAt s t).dma.head?

/-- The list the engine runs, changed. -/
def modHeadRun (s : State) (t : Nat) (f : DmaRun → DmaRun) : State :=
  modTile s t (fun x => { x with dma := match x.dma with | [] => [] | r :: rest => f r :: rest })

/-- Descriptor k of that list changed. -/
def modDesc (s : State) (t k : Nat) (f : Desc → Desc) : State :=
  modHeadRun s t (fun r => { r with descs := r.descs.modify k f })

/-- Whether descriptor k may start (R252): every earlier one has started, and with FENCE every earlier one is complete. -/
def mayStartDesc (r : DmaRun) (k : Nat) (fence : Bool) : Bool :=
  (r.descs.take k).all (fun d => decide (1 ≤ d.phase) && (!fence || d.phase = 3))
    && !(r.actor.isSome && r.descs.any (fun d => d.phase ≠ 0 && d.status ≠ 0))

/-- Whether a descriptor writes outside a tile's suspense region (R220), the trailer that a checked COPY may add included; a FEED hands
its blocks to an intake. DEDUCED (log entry 72): a checked stream leaves its value in a unit's registers, which R222 shuts out. -/
def descLeaves (s : State) (t : Nat) (c : TileConf) (d : DescF) : Bool :=
  d.hasDst && d.count * d.rows ≠ 0
    && ((remoteDev s d.dst).isSome
        || (planesOf s d).any (fun x => decide (24 ≤ x.1)
            && !within (localAddr x.2.1) (x.2.2 + (if d.check && d.op = 1 then 8 else 0)) (tileBase t + c.susBase) c.susSize)
        || d.op = 2)
    || d.check

/-- Where a speculative descriptor would write outside the tile's suspense region. -/
def descEscapes (s : State) (t : Nat) (d : DescF) : Bool := descLeaves s t (tileAt s t).conf d

/-- A speculative firing that would write outside its suspense buffer stops the tile as a fault (R220). -/
def specEscape (s : State) (t : Nat) : State :=
  let s1 := logError (regFlag s (tileReg t 0x780200) 15) 0x05 t t (partNum s t) true [2]
  tileFault (engineStop (queueInvalid (arrayStop s1 t) t) t) t

/-! ### Guards (R269) -/

/-- The runs of 256-byte units of a descriptor's local far-store source. -/
def guardSpans (s : State) (d : DescF) : List (Nat × Nat) :=
  ((planesOf s d).filter (fun x => x.1 < 24)).map (fun x =>
    let a := localAddr x.2.1
    let lo := (a - fsBase) / 256
    (lo, (a + x.2.2 - 1 - fsBase) / 256 + 1 - lo))

/-- The destination actors on a firing's edges, as (tile, actor). -/
def edgeActors (s : State) (q t a : Nat) : List (Nat × Nat) :=
  match actorRec s t a with
  | none => []
  | some r => ((((tileAt s t).conf.edges.drop r.outFirst).take r.outCount).map (fun e =>
      (tileOfLocal (partAt s q) e.tile, e.actor))).eraseDups

/-- Whether a guarded descriptor finds a free entry; those that find none wait in age order (R269). -/
def guardFree (s : State) (t k : Nat) : Bool :=
  decide (s.fs.guards.length < 8192) && (s.fs.guardWait.isEmpty || decide (s.fs.guardWait.head? = some (t, k)))

/-- A guarded descriptor waits for an entry. -/
def awaitGuard (s : State) (t k : Nat) : State :=
  modFs s (fun f => if f.guardWait.contains (t, k) then f else { f with guardWait := f.guardWait ++ [(t, k)] })

/-- A guard entry taken for a descriptor. -/
def takeGuard (s : State) (q t k : Nat) (d : DescF) (actor : Option Nat) : State :=
  let id := s.fs.nextGuard
  let g : Guard := {
    id := id
    q := q
    tile := t
    spans := guardSpans s d
    actors := match actor with | some a => edgeActors s q t a | none => []
    owner := actor.getD 2048
    desc := k
    bytes := (((headRun s t).bind (fun r => r.descs[k]?)).map Desc.bytes).getD [] }
  modDesc (modFs s (fun f => { f with
    guards := f.guards ++ [g]
    nextGuard := id + 1
    guardWait := f.guardWait.filter (· ≠ (t, k)) })) t k (fun x => { x with guardIdx := some id })

/-- Tokens under way from a tile to an actor. -/
def tokensComing (s : State) (src t a : Nat) : Nat :=
  (s.tokens.filter (fun k => k.1 = src && decide (tokenTile k.2 = t ∧ field k.2.toNat 0 11 = a))).length

/-- The firing that took guards has sent its tokens: a named actor releases them at its first firing once those sent to it have
arrived. A guard that names no actor is freed. -/
def guardTokens (s : State) (t a : Nat) : State :=
  freeGuards (modFs s (fun f => { f with guards := f.guards.map (fun g =>
    if g.tile = t && g.owner = a && !g.done then
      { g with done := true, coming := g.actors.map (fun x => (x, tokensComing s t x.1 x.2)) }
    else g) })) Guard.ended

/-- A guard freed, its held writes let go. -/
def freeGuard (s : State) (id : Nat) : State := freeGuards s (fun g => g.id = id)

/-! ### Data -/

/-- Byte offset of cell (k, n) in a weight set (R87). -/
def weightOffset (k n : Nat) : Nat :=
  let r := k % 32
  let δ := r + n
  let i :=
    if δ ≤ 31 then δ * (δ + 1) / 2 + r
    else if δ ≤ 127 then 528 + 32 * (δ - 32) + r
    else 3600 + (δ - 128) * (191 - δ) / 2 + r - (δ - 127)
  8192 * (k / 32) + 2 * i

/-- A layer slot's overdraft flag set on a tile, with DRN_STATUS (R106, R138). -/
def raiseOverdraft (s : State) (t slot : Nat) : State :=
  let r := tileReg t 0x780600
  let tag := layerTagOf (partAt s (partNum s t)) slot
  regSet (regFlag (modDrain s t (fun d => { d with ovf := insertNat d.ovf slot })) r 0) r 8 16 tag

/-- Random bits of one conversion key for a list of element indices (R62). -/
def bitsAt (p : Part) (tag point : Nat) (idx : List Nat) : List Nat :=
  idx.map (rbits p.ctx.seed.toNat p.ctx.step tag point)

/-- Whether a stored block is converted on its way into the array, not streamed as it stands (R44 to R50). -/
def feedConverts (b : SrcBlk) (cap : Nat) : Bool :=
  !isDb b.fmt || decide (cap < (denomination (dbUnpack b.fmt b.bytes) b.scale).d)

/-- The audit of a feeder's or weight loader's conversion to a cap (R395): its target format is the DB format of the cap. -/
def auditFeed (s : State) (q slot point : Nat) (b : SrcBlk) (cap mode : Nat) (rb : List Nat) (blk : Blk) : State :=
  if !feedConverts b cap then s
  else
    let v := blockValues b.fmt b.bytes b.scale
    auditLayer s q slot point cap v (if blk.nonfinite then v else blk.q.map (fun x => FVal.ofInt x 0)) (clampedCount cap mode v rb 0 blk.sat)

/-- Block i of a descriptor's planes: element field, scale byte, whether either was poisoned, the state after the reads. -/
def fetchBlock (s : State) (d : DescF) (i : Nat) : SrcBlk × State :=
  let e := spanFetch s (localAddr d.src + i * blockStride d.fmt) (fieldBytes d.fmt) d.noalloc
  let c := if hasScale d.fmt then spanFetch e.2.2 (localAddr d.srcScale + i) 1 d.noalloc else ([0], false, e.2.2)
  ({ fmt := d.fmt, bytes := e.1, scale := (c.1.getD 0 0).toNat, poisoned := e.2.1 || c.2.1 }, c.2.2)

/-- The body of a compressed source: its bytes, its block count, whether its header's line is poisoned. -/
def fetchStream (s : State) (d : DescF) : List Byte × Nat × Bool × State :=
  let a := localAddr d.src
  let h := readBytes s.mem a 64
  let r := spanFetch s a (64 + le h 8 8) d.noalloc
  (r.1.drop 64, le h 4 4, r.2.1 && spanPoisoned r.2.2 a 64, r.2.2)

/-- Whether each record of a compressed source lies on a poisoned line, or its header does (R254). -/
def recordPoison (s : State) (d : DescF) (k : Nat) (f : List Byte × Nat × Bool × State) : List Bool :=
  (recordSpans k 0 f.1).map (fun x => f.2.2.1 || spanPoisoned s (localAddr d.src + 64 + x.1) x.2)

/-- The blocks of a descriptor from first on, n of them, and whether its stream was well formed so far as they go. -/
def sourceBlocks (s : State) (d : DescF) (first n : Nat) : List SrcBlk × Bool × State :=
  if d.srcComp then
    let f := fetchStream s d
    let r := takeRecords d.fmt (first + n) f.1
    let tailOk := decide (first + n < f.2.1) || r.2.2.all (· = 0)
    let bad := recordPoison f.2.2.2 d (first + n) f
    ((((r.1.zip bad).drop first).map (fun b => { fmt := d.fmt, bytes := b.1.1, scale := b.1.2, poisoned := b.2 })),
      r.2.1 && tailOk, f.2.2.2)
  else
    let r := (countFrom first n).foldl (fun a i => let x := fetchBlock a.2 d i; (x.1 :: a.1, x.2)) (([] : List SrcBlk), s)
    (r.1.reverse, true, r.2)

/-- A weight block converted at a cap of 4 digits and written into set number k of a descriptor (R88). -/
def writeWeightBlock (q : Nat) (d : DescF) (l : LayerRec) (k : Nat) (s : State) (x : Nat × SrcBlk) : State :=
  let p := partAt s q
  let t := tileOf (localAddr d.dst)
  let b := x.1 / 128
  let n := x.1 % 128
  let base := localAddr d.dst + 33280 * k
  let idx := (List.range 32).map (fun e => d.index0 + 128 * k + (32 * b + e) * l.outWidth + n)
  let rb := bitsAt p l.tag 2 idx
  let blk := feedBlock x.2.fmt x.2.bytes x.2.scale 4 l.rndIn rb
  let zero := blk.nonfinite || blk.d = 0
  let m := (List.range 32).foldl (fun m e =>
    writeBytes m (base + weightOffset (32 * b + e) n) (toLe 2 (if zero then 0 else unsigned 16 (blk.q.getD e 0)))) s.mem
  let m1 := writeBytes m (base + 0x8000 + 128 * b + n) (toLe 1 (if blk.nonfinite then 255 else if zero then 0 else blk.e))
  let s1 := { s with mem := m1 }
  let s2 := if blk.sat then raiseOverdraft s1 t d.layerSlot else s1
  let s3 := auditFeed s2 q d.layerSlot 2 x.2 4 l.rndIn rb blk
  if x.2.poisoned then poisonSpan s3 (base + 0x8000 + 128 * b + n) 1 else s3

/-- Weight set k of a descriptor written (R87, R88); false where its compressed source is malformed. -/
def moveWeightSet (q : Nat) (d : DescF) (l : LayerRec) (r : Bool × State) (k : Nat) : Bool × State :=
  if !r.1 then r
  else
    let x := sourceBlocks r.2 d (512 * k) 512
    let s1 := curePoison x.2.2 (localAddr d.dst + 33280 * k) 33280
    (x.2.1, (withPos x.1).foldl (writeWeightBlock q d l k) s1)

/-- The blocks of a FEED handed to its intake (R80); false where its source is malformed. DESIGN CHOICE (log entry 85): elements stored past K in a row's
last block are taken as they are stored (R38 has the compiler store zeros there and names no masking). -/
def moveFeed (s : State) (d : DescF) (l : LayerRec) : Bool × State :=
  let x := sourceBlocks s d 0 d.count
  let t := tileOf (localAddr d.dst)
  let key := 4 * d.layerSlot + d.segment
  let blks := (withPos x.1).map (fun b => { b.2 with index := d.index0 + b.1 * l.inWidth })
  (x.2.1, modArr x.2.2 t (fun a => { a with intakeQ := a.intakeQ.put key (a.intakeQ.at key [] ++ blks) }))

/-- The rows of a byte-mode operation: source and destination address of each. -/
def rowsOf (d : DescF) : List (Nat × Nat) :=
  (List.range d.rows).map (fun r => (localAddr d.src + r * d.srcStride, localAddr d.dst + r * d.dstStride))

/-- The source bytes of a checked stream, whether any was poisoned, the state after the reads. -/
def streamBytes (s : State) (d : DescF) : List Byte × State :=
  (rowsOf d).foldl (fun a r => let x := spanFetch a.2 r.1 d.count d.noalloc; (a.1 ++ x.1, x.2.2)) ([], s)

/-- The general unit of a descriptor. -/
def DescF.unit (d : DescF) : Nat := 40 + d.cvu % 8

/-- Where the trailer after a descriptor's last source row lies, and where the one after its last destination row goes (R342). -/
def srcTrailer (d : DescF) : Nat := localAddr d.src + (d.rows - 1) * d.srcStride + d.count
def dstTrailer (d : DescF) : Nat := localAddr d.dst + (d.rows - 1) * d.dstStride + d.count

/-- The end of a checked stream of given bytes and, for VERIFY, a given trailer (R342, R344): the mismatch that poisons, the trailer to
write, the state. -/
def endStream (s : State) (q : Nat) (d : DescF) (bs : List Byte) (tr : Nat) : Bool × Option Nat × State :=
  let c := cvSlotAt s d.unit q
  let r := cvStream s d.unit q bs
  match r.1 with
  | .held => (false, none, r.2)
  | .value v =>
    if c.mode = 2 then
      if v = c.expect.toNat then (false, none, r.2)
      else (false, none, sendEvent (cvMismatch r.2 d.unit q) 0x8003 q d.unit q)
    else if c.verify then (if trailerMatches v tr then (false, none, r.2) else (true, none, cvMismatch r.2 d.unit q))
    else (false, some v, r.2)

/-- Whether a descriptor's stream ends with a trailer of its source. -/
def trailerAfter (s : State) (q : Nat) (d : DescF) : Bool :=
  let c := cvSlotAt s d.unit q
  d.check && decide (c.mode = 1) && c.verify

/-- A checked descriptor's stream over a source of this module, through its general unit. -/
def checkStream (s : State) (q : Nat) (d : DescF) : Bool × Option Nat × State :=
  let b := streamBytes s d
  endStream b.2 q d b.1 (if trailerAfter s q d then le (spanRead b.2 (srcTrailer d) 8) 0 8 else 0)

/-- A byte-mode COPY or SCAN, both sides local: its mismatch, the state after. -/
def moveRows (s : State) (q : Nat) (d : DescF) : Bool × State :=
  let c := if d.check then checkStream s q d else (false, none, s)
  if d.op = 6 then (c.1, c.2.2)
  else
    let s1 := (rowsOf d).foldl (fun s r => copySpan s r.1 r.2 d.count d.noalloc) c.2.2
    let s2 := if c.1 then (rowsOf d).foldl (fun s r => poisonSpan s r.2 d.count) s1 else s1
    let s3 := match c.2.1 with
      | some v => spanWrite s2 (dstTrailer d) (toLe 8 v)
      | none => s2
    (false, s3)

/-- A decompressing COPY (R257): false where the stream is malformed, the lines before it written. -/
def moveExpand (s : State) (d : DescF) : Bool × State :=
  let x := sourceBlocks s d 0 d.count
  let dst := localAddr d.dst
  let s1 := spanWrite x.2.2 dst (x.1.flatMap SrcBlk.bytes)
  let s2 := spanWrite s1 (localAddr d.dstScale) (x.1.map (fun b => BitVec.ofNat 8 b.scale))
  let s3 := (withPos x.1).foldl (fun s b =>
    if b.2.poisoned then poisonSpan (poisonSpan s (dst + 16 * d.fmt * b.1) (16 * d.fmt)) (localAddr d.dstScale + b.1) 1 else s) s2
  (x.2.1, s3)

/-- A compressing COPY (R256). -/
def moveCompress (s : State) (d : DescF) : State :=
  let x := sourceBlocks s d 0 d.count
  let recs := x.1.map (fun b => (compRecord d.fmt (b.bytes, b.scale), b.poisoned))
  let s1 := spanWrite x.2.2 (localAddr d.dst) (compStream d.fmt d.count (recs.flatMap Prod.fst))
  (recs.foldl (fun a r => (a.1 + r.1.length, if r.2 then poisonSpan a.2 a.1 r.1.length else a.2)) (localAddr d.dst + 64, s1)).2

/-- The requests of a COPY from another module (R253): reads of at most 2,048 bytes. A checked one holds its general unit until its data
have come, and reads the trailer that it verifies (R341, R342). -/
def readRemote (s : State) (q t k : Nat) (d : DescF) (f : Flow) (tick : Nat) (spec : Bool) : State :=
  let s1 := (withPos (rowsOf d)).foldl (fun s r =>
    (List.range ((d.count + 2047) / 2048)).foldl (fun s i =>
      let n := min 2048 (d.count - 2048 * i)
      enqueueRead s q f.idx (r.2.1 + 2048 * i) n tick spec (.read t k (r.2.2 + 2048 * i) (d.count * r.1 + 2048 * i))) s) s
  if !d.check then s1
  else
    let s2 := modCvu s1 d.unit (fun c => { c with busy := some (q, t, k) })
    if trailerAfter s q d then enqueueRead s2 q f.idx (srcTrailer d) 8 tick spec (.trailer t k) else s2

/-- The messages of a COPY to another module, one a row (R253). A checked one's stream is run over the source first: the trailer that it
generates follows the last row, and a mismatch that it finds poisons every line written (R342). -/
def writeRemote (s : State) (q t k : Nat) (d : DescF) (f : Flow) (tick : Nat) (spec : Bool) : State :=
  let c := if d.check then checkStream s q d else (false, none, s)
  let s1 := (rowsOf d).foldl (fun s r =>
    let x := spanFetch s r.1 d.count d.noalloc
    enqueue x.2.2 q f.idx 1 r.2 tick x.1 (if c.1 then [(0, d.count)] else poisonedParts s r.1 d.count) false spec true (.dma t k)) c.2.2
  match c.2.1 with
  | some v => enqueue s1 q f.idx 1 (dstTrailer d) tick (toLe 8 v) [] false spec true (.dma t k)
  | none => s1

/-- The requests of a COPY from or to another module. -/
def moveRemote (s : State) (q t k : Nat) (d : DescF) (tick : Nat) (spec : Bool) : State :=
  match remoteDev s d.src with
  | some dev =>
    match flowTo s q dev with
    | none => s
    | some f => readRemote s q t k d f tick spec
  | none =>
    match (remoteDev s d.dst).bind (flowTo s q) with
    | none => s
    | some f => writeRemote s q t k d f tick spec

/-- A checked COPY from another module, all of whose data have come, ends its stream (R342): its unit is free, the trailer it generates is
written, and a mismatch poisons every line written. -/
def endRemote (s : State) (q t k : Nat) (d : DescF) (x : Desc) : State :=
  if !d.check || !(cvuAt s d.unit).busy.any (fun b => b.2 = (t, k)) then s
  else
    let bs := ((List.range (d.count * d.rows)).map (fun i =>
      ((x.got.find? (fun g => decide (g.1 ≤ i ∧ i < g.1 + g.2.length))).map (fun g => g.2.getD (i - g.1) 0)).getD 0))
    let c := endStream (modCvu s d.unit (fun c => { c with busy := none })) q d bs x.trailer
    let s1 := if c.1 then (rowsOf d).foldl (fun s r => poisonSpan s r.2 d.count) c.2.2 else c.2.2
    match c.2.1 with
    | some v => spanWrite s1 (dstTrailer d) (toLe 8 v)
    | none => s1

/-- A descriptor's data moved: its status, a SCAN's mismatch, the state after. -/
def moveDesc (s : State) (q t k : Nat) (d : DescF) (tick : Nat) (spec : Bool) : Nat × Bool × State :=
  let fin (r : Bool × State) : Nat × Bool × State := (if r.1 then stOk else stBadField, false, r.2)
  let l := (layerOf (partAt s q) d.layerSlot).getD {}
  if d.op = 1 then
    if (remoteDev s d.src).isSome || (remoteDev s d.dst).isSome then (stOk, false, moveRemote s q t k d tick spec)
    else if d.srcComp then fin (moveExpand s d)
    else if d.dstComp then (stOk, false, moveCompress s d)
    else let r := moveRows s q d; (stOk, r.1, r.2)
  else if d.op = 2 then fin (moveFeed s d l)
  else if d.op = 3 then fin ((List.range d.count).foldl (moveWeightSet q d l) (true, s))
  else if d.op = 4 then (stOk, false, (rowsOf d).foldl (fun s r => fcUseSpan s r.1 d.count false false) s)
  else if d.op = 5 then (stOk, false, (rowsOf d).foldl (fun s r => spanClear s r.2 d.count) s)
  else let r := moveRows s q d; (stOk, r.1, r.2)

/-! ### Far-store traffic (R273, R274) -/

/-- Bytes that a compressing COPY writes: its header and its body (R255, R256). -/
def compBytes (s : State) (d : DescF) : Nat :=
  (compStream d.fmt d.count ((sourceBlocks s d 0 d.count).1.flatMap (fun b => compRecord d.fmt (b.bytes, b.scale)))).length

/-- The far-store requests a descriptor makes, as addresses with their bytes: each row's of a byte-mode operation, else each plane's. -/
def farTraffic (s : State) (d : DescF) : List (Nat × Nat) :=
  let far (remote : Bool) (x : Nat × Nat) : Bool := !remote && isFsAddr s x.1
  if !d.isBlock && !d.isStream then
    let rs := rowsOf d
    (if d.hasSrc then (rs.map (fun r => (r.1, d.count))).filter (far (remoteDev s d.src).isSome) else [])
      ++ (if d.hasDst then (rs.map (fun r => (r.2, d.count))).filter (far (remoteDev s d.dst).isSome) else [])
  else ((planesOf s d).map (fun x =>
    (localAddr x.2.1, if d.isStream && d.dstComp && x.1 = 24 then compBytes s d else x.2.2))).filter (far false)

/-- The runs of addresses that a descriptor writes on this module. -/
def destSpans (s : State) (d : DescF) : List (Nat × Nat) :=
  if d.op = 2 then []
  else ((planesOf s d).filter (fun x => decide (24 ≤ x.1) && (remoteDev s x.2.1).isNone)).map (fun x => (localAddr x.2.1, x.2.2 + 8))

/-- Whether an earlier descriptor of a list is still to write a line that descriptor k writes: k then waits, and so the later one's bytes
prevail (R252, R279). -/
def awaitsEarlier (s : State) (r : DmaRun) (k : Nat) (d : DescF) : Bool :=
  let meets (x y : Nat × Nat) : Bool := decide (x.1 / 64 ≤ (y.1 + y.2) / 64 ∧ y.1 / 64 ≤ (x.1 + x.2) / 64)
  (r.descs.take k).any (fun e => decide (e.phase ≠ 3 ∧ e.status = stOk)
    && (decide (e.phase < 2) || (remoteDev s (descOf e.bytes).src).isSome)
    && (destSpans s (descOf e.bytes)).any (fun x => (destSpans s d).any (meets x)))

/-- Whether a descriptor's requests are still to enter the far-store engine or to take a slot (R271, R273). -/
def requestsWait (s : State) (q t k : Nat) : Bool :=
  (partAt s q).regWait.any (fun w => w.source = srcDma t k) || s.fs.waiting.any (fun w => w.source = srcDma t k)

/-- Whether a checked descriptor waits for its general unit: it runs another stream, or a parity error has stopped it (R341, R351). -/
def unitWaits (s : State) (d : DescF) : Bool := d.check && ((cvuAt s d.unit).busy.isSome || cvuStopped s d.unit)

/-- The slots that a descriptor's requests hold given back as they are served. -/
def serveRequests (s : State) (t k : Nat) : State := modFs s (fun f => { f with issued := f.issued.filter (fun r => r.source ≠ srcDma t k) })

/-- Whether a unit that a descriptor of tile t addresses answers TARGET_RESET: the far-store engine being reset, or a tile that is being
reset or that belongs to another partition that has faulted (R232, R490). -/
def targetResetting (s : State) (t : Nat) (d : DescF) : Bool :=
  (planesOf s d).any (fun x =>
    let a := localAddr x.2.1
    if (remoteDev s x.2.1).isSome then false
    else if isTileAddr a then tileGone s (tileOf a) t else s.fs.resetting)

/-! ### The operations' rows -/

/-- A descriptor whose far-store requests have entered moves its data. -/
def tryMove (s : State) (q t k : Nat) : State :=
  match headRun s t with
  | none => s
  | some r =>
    match r.descs[k]? with
    | none => s
    | some x =>
      let d := descOf x.bytes
      if x.phase ≠ 1 || requestsWait s q t k || awaitsEarlier s r k d || unitWaits s d then s
      else if d.check && (cvSlotAt s d.unit q).cont && runBad s d.unit q then cvuParity s d.unit q
      else if targetResetting s t d then modDesc s t k (fun x => { x with phase := 2, status := stTargetReset })
      else
        let m := moveDesc (serveRequests s t k) q t k d r.tick r.spec
        modDesc m.2.2 t k (fun x => { x with phase := 2, status := m.1, mismatch := m.2.1 })

/-- A descriptor started: validated, guarded, its far-store requests made (R251, R269, R273). -/
def startDesc (s : State) (q t k : Nat) (r : DmaRun) (d : DescF) : State :=
  let fail := if r.actor.isSome then decideFail (descFails s q false d) else none
  match fail with
  | some f => modDesc s t k (fun x => { x with phase := 2, status := f.1 })
  | none =>
    if d.count * d.rows = 0 then modDesc s t k (fun x => { x with phase := 2 })
    else if r.spec && descEscapes s t d then specEscape s t
    else if d.guarded && !guardFree s t k then awaitGuard s t k
    else
      let s1 := if d.guarded then takeGuard s q t k d r.actor else s
      let s2 := (farTraffic s1 d).foldl (fun s x => regulate s q (srcDma t k) x.1 x.2) s1
      tryMove (modDesc s2 t k (fun x => { x with phase := 1 })) q t k

/-- The list was fetched from a poisoned line (R254). -/
def listPoison (s : State) (t : Nat) : State :=
  let s1 := logError (regFlag s (tileReg t 0x780308) 7) 0x06 t t (partNum s t) true []
  tileFault (engineStop (queueInvalid (arrayStop s1 t) t) t) t

/-- Descriptors of a reserved OP that may start: they fail at once, or stop the tile where they were fetched poisoned (R250, R254). -/
def startReserved (q t : Nat) (s : State) : State :=
  match headRun s t with
  | none => s
  | some r =>
    (List.range r.descs.length).foldl (fun s k =>
      match headRun s t with
      | none => s
      | some r =>
        match r.descs[k]? with
        | none => s
        | some x =>
          let d := descOf x.bytes
          if decide (1 ≤ d.op ∧ d.op ≤ 6) || x.phase ≠ 0 || !mayStartDesc r k d.fence then s
          else if x.poisoned then listPoison s t
          else startDesc s q t k r d) s

/-- One row of an operation: descriptor k of tile t's list starts, or moves once its requests have entered. -/
def runDesc (op t k : Nat) (s : State) : State :=
  match partOfTile s t, headRun s t with
  | some q, some r =>
    match r.descs[k]? with
    | none => s
    | some x =>
      let d := descOf x.bytes
      if d.op ≠ op then s
      else if x.phase = 1 then tryMove s q t k
      else if x.phase = 0 && mayStartDesc r k d.fence then
        if x.poisoned then listPoison s t else startReserved q t (startDesc s q t k r d)
      else s
  | _, _ => s

def execCopy (t k : Nat) (s : State) : Host.Outcome State Fault Refusal := .next (runDesc 1 t k s)
def execFeed (t k : Nat) (s : State) : Host.Outcome State Fault Refusal := .next (runDesc 2 t k s)
def execWeight (t k : Nat) (s : State) : Host.Outcome State Fault Refusal := .next (runDesc 3 t k s)
def execPrefetch (t k : Nat) (s : State) : Host.Outcome State Fault Refusal := .next (runDesc 4 t k s)
def execFill (t k : Nat) (s : State) : Host.Outcome State Fault Refusal := .next (runDesc 5 t k s)
def execScan (t k : Nat) (s : State) : Host.Outcome State Fault Refusal := .next (runDesc 6 t k s)

/-! ### DESCRIPTOR_COMPLETE (R209, R210, R252, R254, R289, R367) -/

/-- Whether a request of a descriptor is still on its way. -/
def remotePending (s : State) (t k : Nat) : Bool :=
  let mine (u : SlotUse) : Bool := match u with | .dma a b | .read a b _ _ | .trailer a b => a = t && b = k | _ => false
  s.slots.any (fun x => mine x.usage) || s.flows.any (fun f => f.queue.any (fun o => mine o.usage))

/-- Whether a FEED's blocks still wait at their intake. -/
def feedPending (s : State) (d : DescF) : Bool :=
  d.op = 2 && d.count ≠ 0 && !((tileAt s (tileOf (localAddr d.dst))).arr.intakeQ.at (4 * d.layerSlot + d.segment) []).isEmpty

/-- NS_DMA after a descriptor (R289). -/
def countDesc (s : State) (t k : Nat) (r : DmaRun) (x : Desc) : State :=
  let a := tileReg t 0x780308
  let s1 := regBump s a 32 32 1
  if x.status = stOk then s1
  else regSet (regSet (regSet s1 a 0 4 x.status) a 8 23 (if r.host.isSome then 64 * k else x.off)) a 31 1 (b2n r.host.isSome)

/-- A transfer of an actor's list failed: the status is logged, and without TOLERATE the step aborts (R210). -/
def failList (s : State) (q t a st : Nat) : State :=
  let s1 := logWith s (Config.logCode 2) 0 0 t q [a, st]
  if ((actorRec s t a).map ActorRec.tolerate).getD false then s1
  else stepAbort (addCause s1 q 0x80) q causeTransfer (now s1) false false

/-- An actor's list ended: its firing is finished, with TAKEN clear where a transfer failed (R210). What else a failure brings is
withheld from a speculative firing until it is confirmed (R222). -/
def finishList (s : State) (q t a st : Nat) (spec mismatch : Bool) : State :=
  let bad := st ≠ stOk || mismatch
  let s1 := modFiring s t a (fun f => { f with
    finished := true
    status := st
    taken := if bad then f.taken.map (fun _ => false) else f.taken })
  if bad && !spec then failList s1 q t a st else s1

/-- A list ended: its run leaves the engine, its firing or its command ends. -/
def endRun (s : State) (q t : Nat) (r : DmaRun) : State :=
  let s1 := modTile s t (fun x => { x with dma := x.dma.drop 1 })
  let firstBad := (withPos r.descs).find? (fun x => x.2.status ≠ stOk)
  let st := (firstBad.map (fun x => x.2.status)).getD stOk
  match r.actor, r.host with
  | some a, _ => finishList s1 q t a st r.spec (r.descs.any Desc.mismatch)
  | none, some (h, seq) =>
    match cmdAt s1 h seq with
    | none => s1
    | some c => complete s1 c st ((r.descs.filter (fun d => d.status = stOk)).length)
        ((firstBad.map Prod.fst).getD 0xFFFFFFFF) 0 0
  | none, none => s1

/-- Whether a list has ended: every descriptor complete, or after a failure of an actor's, none on its way. -/
def runEnded (r : DmaRun) : Bool :=
  r.descs.all (fun d => d.phase = 3)
    || (r.actor.isSome && r.descs.any (fun d => d.phase = 3 && d.status ≠ stOk) && r.descs.all (fun d => d.phase = 0 || d.phase = 3))

/-- A list that has ended is taken off. -/
def closeRun (s : State) (q t : Nat) : State :=
  match headRun s t with
  | some r => if runEnded r then endRun s q t r else startReserved q t s
  | none => s

/-- DESCRIPTOR_COMPLETE: every write of descriptor k is acknowledged. -/
def descriptorComplete (t k : Nat) (s : State) : State :=
  match partOfTile s t, headRun s t with
  | some q, some r =>
    match r.descs[k]? with
    | none => s
    | some x =>
      if x.phase ≠ 2 || remotePending s t k || feedPending s (descOf x.bytes) then s
      else
        let s0 := if x.status = stOk then endRemote s q t k (descOf x.bytes) x else abandonOf s t k
        let s1 := countDesc (modDesc s0 t k (fun x => { x with phase := 3, got := [] })) t k r x
        let s2 := match x.guardIdx with
          | some id => if x.status ≠ stOk || r.actor.isNone then freeGuard s1 id else s1
          | none => s1
        closeRun s2 q t
  | _, _ => s

def execDescriptorComplete (t k : Nat) (s : State) : Host.Outcome State Fault Refusal := .next (descriptorComplete t k s)

end Sys2Proof.Machine
end

