-- ==== Sys2Proof/Machine/Vector.lean ====
section
/-! DEFINITION. The vector engine's instructions (R140 to R159, R173, R174): what one instruction reads, and what it will
write once every source of its bundle has been read. -/

namespace Sys2Proof.Machine

/-! ### The till and an instruction's fields -/

/-- Address of a till line (R140). -/
def tillAddr (t l : Nat) : Nat := tileBase t + 0x700000 + 512 * l

/-- A till line. -/
def tillLine (s : State) (t l : Nat) : List Byte := readBytes s.mem (tillAddr t l) 512

/-- Bytes of an element of a TYPE: 2 for FP16 and BF16, else 4. -/
def typBytes (typ : Nat) : Nat := if typ = 0x20 || typ = 0x21 then 2 else 4

/-- The format of a typed instruction. -/
def fmtOf (typ : Nat) : IeeeFmt := (ieeeOf typ).getD fp32

/-- A line as elements of w bytes. -/
def lineElems (w : Nat) (l : List Byte) : List Nat := (pieces w l).map leNat

/-- Elements of w bytes as a line. -/
def elemsLine (w : Nat) (l : List Nat) : List Byte := l.flatMap (toLe w)

/-- Source k (0 A, 1 B, 2 C) of an instruction as elements of w bytes: its line, or the immediate in every lane (R146). -/
def srcElems (s : State) (t : Nat) (i : VIns) (k w : Nat) : List Nat :=
  if i.srcsel.testBit k then List.replicate (512 / w) (i.imm.toNat % 2 ^ (8 * w))
  else lineElems w (tillLine s t (if k = 0 then i.srcA else if k = 1 then i.srcB else i.srcC))

/-- A predicate mask; P0 reads as all ones (R147). -/
def maskOf (s : State) (t p : Nat) : BitVec 256 :=
  if p = 0 then BitVec.allOnes 256 else (tileAt s t).vec.preds.getD p 0

/-- The first n bits of the mask that governs an instruction. -/
def laneMask (s : State) (t : Nat) (i : VIns) (n : Nat) : List Bool :=
  (List.range n).map (fun k => (maskOf s t i.pred).getLsbD k)

/-- Lanes merged with the destination's, or zeroed, where the mask is 0 (R148). -/
def mergeLanes (i : VIns) (m : List Bool) (old new : List Nat) : List Nat :=
  (m.zip (old.zip new)).map (fun x => if x.1 then x.2.2 else if i.zero then 0 else x.2.1)

/-- The partition and layer slot of the running actor. -/
def bodyLayer (s : State) (t : Nat) : Option (Nat × Nat) :=
  match (tileAt s t).vec.body, partOfTile s t with
  | some b, some q => (actorRec s t b.actor).map (fun r => (q, r.layerSlot))
  | _, _ => none

/-- The layer tag of the running actor, 0 for none. -/
def bodyTag (s : State) (t : Nat) : Nat :=
  match bodyLayer s t with
  | some x => layerTagOf (partAt s x.1) x.2
  | none => 0

/-- An index register (R181). -/
def idxReg (s : State) (t k : Nat) : Nat := ((tileAt s t).vec.idx.getD k 0).toNat

/-- The random bits of lanes 0 to n − 1 under STOCH (R158). -/
def stochBits (s : State) (t : Nat) (i : VIns) (n : Nat) : List Nat :=
  if i.rnd = stoch then
    let c := (partAt s (partNum s t)).ctx
    (countFrom (idxReg s t i.idxr) n).map (rbits c.seed.toNat c.step (bodyTag s t) 4)
  else List.replicate n 0

/-! ### What an instruction will write -/

/-- An audited conversion of a body: target format, values, results, how many overflowed (R395). -/
structure VAudit where
  fmt : Nat
  v : List FVal
  r : List FVal
  over_ : Nat
deriving DecidableEq, Repr

/-- The writes of one slot, held until both slots have read (R144): lines, a mask, an index register, near-store bytes at an
offset, tallies with their tags and open streams, the sticky conditions, SAT of a block conversion, NONFINITE set by a
reduction, whether the queue's head leaves, a contribution (tree, contribution, destination tally), the mode of the tallies' reduction, a
mismatch. -/
structure Fx where
  lines : List (Nat × List Byte) := []
  pred : Option (Nat × BitVec 256) := none
  idx : Option (Nat × BitVec 48) := none
  near : Option (Nat × List Byte) := none
  tallies : List (Nat × BitVec 128 × BitVec 8 × Option Stream) := []
  fl : Fl := {}
  sat : Bool := false
  nonfinite : Bool := false
  audit : Option VAudit := none
  pop : Bool := false
  net : Option (Nat × Contrib × Nat) := none
  mode : Nat := 0
  mismatch : Bool := false
deriving DecidableEq, Repr

/-- The conditions of the unmasked lanes together (R156). -/
def lanesFl (m : List Bool) (rs : List FRes) : Fl :=
  (m.zip rs).foldl (fun a x => if x.1 then a.or x.2.fl else a) {}

/-- The results of lanes of w bytes into line DST, with the lanes' conditions. -/
def writeLanes (s : State) (t : Nat) (i : VIns) (w : Nat) (rs : List FRes) : Fx :=
  let m := laneMask s t i (512 / w)
  let old := lineElems w (tillLine s t i.dst)
  { lines := [(i.dst, elemsLine w (mergeLanes i m old (rs.map FRes.bits)))], fl := lanesFl m rs }

/-- 128 results into half h of a line of 16-bit elements, the other half unchanged (R157). -/
def writeHalf (s : State) (t : Nat) (i : VIns) (h : Nat) (rs : List FRes) : Fx :=
  let m := laneMask s t i 128
  let old := lineElems 2 (tillLine s t i.dst)
  let mid := mergeLanes i m ((old.drop (128 * h)).take 128) (rs.map FRes.bits)
  { lines := [(i.dst, elemsLine 2 (old.take (128 * h) ++ mid ++ old.drop (128 * h + 128)))], fl := lanesFl m rs }

/-- Condition bits into the named mask under PRED and ZERO; past the n bits, those of a 32-bit comparison are cleared
(R147, R148). -/
def writeMask (s : State) (t : Nat) (i : VIns) (n : Nat) (bits : List Bool) (fl : Fl) : Fx :=
  let old := maskOf s t i.dst
  let m := laneMask s t i n
  let v := (withPos (m.zip bits)).foldl (fun a x =>
    let b := if x.2.1 then x.2.2 else if i.zero then false else old.getLsbD x.1
    a + b2n b * 2 ^ x.1) 0
  { pred := some (i.dst, BitVec.ofNat 256 v), fl := fl }

/-! ### Typed lane arithmetic (R149, R152 to R155) -/

/-- The exact operation of a typed opcode on its sources. -/
def floatFn (op mode : Nat) (x : List FVal) : FVf :=
  let a := x.getD 0 .nan
  let b := x.getD 1 .nan
  let c := x.getD 2 .nan
  match op with
  | 0x01 => addV mode a b
  | 0x02 => addV mode a b.negate
  | 0x03 => mulV a b
  | 0x04 => fmaV mode a b c
  | 0x05 => fmaV mode a b c.negate
  | 0x06 => fmaV mode a.negate b c
  | 0x07 => { v := minV a b }
  | 0x08 => { v := maxV a b }
  | 0x09 => { v := a.abs }
  | 0x0A => { v := a.negate }
  | 0x0B => divV a b
  | 0x0C => sqrtV a
  | 0x0D => divV (.fin false 1 0) a
  | 0x0E => rsqrtV a
  | 0x0F => exp2V a
  | 0x10 => log2V a
  | 0x11 => tanhV a
  | _ => { v := a }

/-- How many sources a typed opcode has. -/
def floatSrcs (op : Nat) : Nat :=
  if op = 0x04 || op = 0x05 || op = 0x06 then 3
  else if op = 0x01 || op = 0x02 || op = 0x03 || op = 0x07 || op = 0x08 || op = 0x0B then 2
  else 1

/-- Lane k of the sources. -/
def laneArgs (srcs : List (List Nat)) (k : Nat) : List Nat := srcs.map (fun l => l.getD k 0)

/-- FADD to FTANH over a line. -/
def floatFx (op : Nat) (s : State) (t : Nat) (i : VIns) : Fx :=
  let w := typBytes i.typ
  let f := fmtOf i.typ
  let srcs := (List.range (floatSrcs op)).map (fun k => srcElems s t i k w)
  writeLanes s t i w ((withPos (stochBits s t i (512 / w))).map (fun x =>
    opF f i.rnd i.ftz x.2 (laneArgs srcs x.1) (floatFn op i.rnd)))

/-- FRINT (R157). -/
def frintFx (s : State) (t : Nat) (i : VIns) : Fx :=
  let w := typBytes i.typ
  let f := fmtOf i.typ
  let a := srcElems s t i 0 w
  writeLanes s t i w ((a.zip (stochBits s t i (512 / w))).map (fun x =>
    opF f i.rnd i.ftz x.2 [x.1] (fun v => let r := frintV i.rnd x.2 (v.getD 0 .nan); { v := r.1, fl := r.2 })))

/-- FCMP (R149, R153). -/
def fcmpFx (s : State) (t : Nat) (i : VIns) : Fx :=
  let w := typBytes i.typ
  let f := fmtOf i.typ
  let n := 512 / w
  let xs := ((srcElems s t i 0 w).zip (srcElems s t i 1 w)).map (fun x => (readF f i.ftz x.1, readF f i.ftz x.2))
  let m := laneMask s t i n
  let fl := (m.zip xs).foldl (fun a x => if x.1 then (a.or x.2.1.fl).or x.2.2.fl else a) ({} : Fl)
  writeMask s t i n (xs.map (fun x => cmpV i.sub x.1.v x.2.v)) fl

/-! ### Conversions (R157) -/

/-- A value of one format converted to another. -/
def convF (f g : IeeeFmt) (mode : Nat) (ftz : Bool) (x rb : Nat) : FRes :=
  let v := readF f ftz x
  let r := roundF g mode ftz rb v.v
  { r with fl := r.fl.or v.fl }

/-- The audit of lanes: those unmasked, the values they had and the values they took. -/
def auditLanes (fmt : Nat) (m : List Bool) (v r : List FVal) (rs : List FRes) : VAudit :=
  let pick {α : Type} (l : List α) : List α := ((m.zip l).filter Prod.fst).map Prod.snd
  { fmt := fmt, v := pick v, r := pick r, over_ := ((pick rs).filter (fun x => x.fl.ovf)).length }

/-- CVT (R157). -/
def cvtFx (s : State) (t : Nat) (i : VIns) : Fx :=
  let w := typBytes i.typ
  let w2 := typBytes i.typ2
  let f := fmtOf i.typ
  let g := fmtOf i.typ2
  let h := i.sub % 2
  let a := srcElems s t i 0 w
  let a1 := if w = 2 && w2 = 4 then (a.drop (128 * h)).take 128 else a
  let rs := (a1.zip (stochBits s t i a1.length)).map (fun x => convF f g i.rnd i.ftz x.1 x.2)
  let fx := if w = 4 && w2 = 2 then writeHalf s t i h rs else writeLanes s t i w2 rs
  { fx with audit := some (auditLanes i.typ2 (laneMask s t i a1.length) (a1.map f.decode) (rs.map (fun r => g.decode r.bits)) rs) }

/-- ITOF (R157). -/
def itofFx (s : State) (t : Nat) (i : VIns) : Fx :=
  let f := fmtOf i.typ
  let v := (srcElems s t i 0 4).map (fun x => FVal.ofInt (signed 32 x) 0)
  let rs := (v.zip (stochBits s t i 128)).map (fun x => roundF f i.rnd i.ftz x.2 x.1)
  let fx := if typBytes i.typ = 2 then writeHalf s t i (i.sub % 2) rs else writeLanes s t i 4 rs
  { fx with audit := some (auditLanes i.typ (laneMask s t i 128) v (rs.map (fun r => f.decode r.bits)) rs) }

/-- FTOI (R157). -/
def ftoiFx (s : State) (t : Nat) (i : VIns) : Fx :=
  let w := typBytes i.typ
  let f := fmtOf i.typ
  let a := srcElems s t i 0 w
  let a1 := if w = 2 then (a.drop (128 * (i.sub % 2))).take 128 else a
  writeLanes s t i 4 ((a1.zip (stochBits s t i 128)).map (fun x =>
    let v := readF f i.ftz x.1
    let r := ftoiV i.rnd x.2 v.v
    { bits := unsigned 32 r.1, fl := r.2.or v.fl }))

/-- Offset of the four scale bytes in their line. -/
def scaleAt (i : VIns) : Nat := 4 * (i.imm.toNat % 128)

/-- Whether a stored element's value is its lane's. -/
def sameValue (a b : FVal) : Bool := (a.isNan && b.isNan) || eqNum a b

/-- One block of PACKB: its 128-byte slot, its scale byte, SAT, its conditions, its values as stored, clamped lanes. -/
def packOne (i : VIns) (m : List Bool) (x : List FVf) (rb : List Nat) : List Byte × Nat × Bool × Fl × List FVal × Nat :=
  let v := (m.zip x).map (fun y => if y.1 then y.2.v else FVal.zero)
  let r := packBlock i.typ2 i.rnd v rb
  let got := blockValues i.typ2 r.1 r.2.1
  let on := (m.zip (x.zip (v.zip got))).filter Prod.fst
  let fl : Fl := {
    inv := on.any (fun y => y.2.1.fl.inv)
    ovf := r.2.2
    inx := r.2.2 || on.any (fun y => !sameValue y.2.2.1 y.2.2.2) }
  (slice r.1 0 128, r.2.1, r.2.2, fl, got, clampedCount i.typ2 i.rnd v rb r.2.1 r.2.2)

/-- PACKB (R157). -/
def packbFx (s : State) (t : Nat) (i : VIns) : Fx :=
  let x := (srcElems s t i 0 4).map (readF fp32 i.ftz)
  let m := laneMask s t i 128
  let rb := stochBits s t i 128
  let part {α : Type} (l : List α) (j : Nat) : List α := (l.drop (32 * j)).take 32
  let bs := (List.range 4).map (fun j => packOne i (part m j) (part x j) (part rb j))
  let sl := tillLine s t i.srcC
  let scales := bs.flatMap (fun b => toLe 1 b.2.1)
  let v := (m.zip x).map (fun y => if y.1 then y.2.v else FVal.zero)
  { lines := [(i.dst, bs.flatMap Prod.fst), (i.srcC, sl.take (scaleAt i) ++ scales ++ sl.drop (scaleAt i + 4))]
    fl := bs.foldl (fun a b => a.or b.2.2.2.1) {}
    sat := bs.any (fun b => b.2.2.1)
    audit := some {
      fmt := i.typ2
      v := v
      r := bs.flatMap (fun b => b.2.2.2.2.1)
      over_ := bs.foldl (fun a b => a + b.2.2.2.2.2) 0 } }

/-- UNPACKB (R157). -/
def unpackbFx (s : State) (t : Nat) (i : VIns) : Fx :=
  let a := elemsLine 4 (srcElems s t i 0 4)
  let b := elemsLine 4 (srcElems s t i 1 4)
  let v := (List.range 4).flatMap (fun j =>
    blockValues i.typ2 (slice a (128 * j) (fieldBytes i.typ2)) (b.getD (scaleAt i + j) 0).toNat)
  let rs := (v.zip (stochBits s t i 128)).map (fun x => roundF fp32 i.rnd i.ftz x.2 x.1)
  { writeLanes s t i 4 rs with
    audit := some (auditLanes 0x22 (laneMask s t i 128) v (rs.map (fun r => fp32.decode r.bits)) rs) }

/-! ### Integer, logic, predicate and index operations (R149) -/

/-- An untyped two-source operation on 32-bit lanes. -/
def intFn (op a b : Nat) : Nat :=
  let x := signed 32 a
  let y := signed 32 b
  match op with
  | 0x20 => (a + b) % 2 ^ 32
  | 0x21 => unsigned 32 (x - y)
  | 0x22 => a * b % 2 ^ 32
  | 0x23 => if y < x then b else a
  | 0x24 => if x < y then b else a
  | 0x25 => a &&& b
  | 0x26 => a ||| b
  | 0x27 => a ^^^ b
  | 0x28 => (a <<< (b % 32)) % 2 ^ 32
  | 0x29 => a >>> (b % 32)
  | 0x2A => unsigned 32 (x / (2 ^ (b % 32) : Int))
  | _ => a

/-- IADD to SAR, and MOV, over a line. -/
def intFx (op : Nat) (s : State) (t : Nat) (i : VIns) : Fx :=
  let a := srcElems s t i 0 4
  let b := if op = 0x30 then a else srcElems s t i 1 4
  writeLanes s t i 4 ((a.zip b).map (fun x => { bits := intFn op x.1 x.2 }))

/-- ICMP. -/
def icmpFx (s : State) (t : Nat) (i : VIns) : Fx :=
  writeMask s t i 128 (((srcElems s t i 0 4).zip (srcElems s t i 1 4)).map (fun x =>
    cmpI i.sub (signed 32 x.1) (signed 32 x.2))) {}

/-- IOTA. -/
def iotaFx (s : State) (t : Nat) (i : VIns) : Fx :=
  writeLanes s t i 4 ((List.range 128).map (fun k => { bits := (k + i.imm.toNat) % 2 ^ 32 }))

/-- SEL: ZERO is ignored. -/
def selFx (s : State) (t : Nat) (i : VIns) : Fx :=
  let m := laneMask s t i 128
  let r := (m.zip ((srcElems s t i 0 4).zip (srcElems s t i 1 4))).map (fun x => if x.1 then x.2.1 else x.2.2)
  { lines := [(i.dst, elemsLine 4 r)] }

/-- LDL: 512 bytes of the tile's near store (R159). -/
def ldlFx (s : State) (t : Nat) (i : VIns) : Fx :=
  { lines := [(i.dst, readBytes s.mem (tileBase t + i.imm.toNat) 512)] }

/-- STL (R159). -/
def stlFx (s : State) (t : Nat) (i : VIns) : Fx :=
  { near := some (i.imm.toNat, elemsLine 4 (srcElems s t i 0 4)) }

/-- SETIDX. -/
def setidxFx (i : VIns) : Fx := { idx := some (i.dst, BitVec.ofNat 48 i.imm.toNat) }

/-- ADDIDX. -/
def addidxFx (s : State) (t : Nat) (i : VIns) : Fx :=
  { idx := some (i.dst, BitVec.ofNat 48 (idxReg s t i.dst + unsigned 48 i.imm.toInt)) }

/-- PAND, POR, PXOR, PNOT, PSET over 256 mask bits. -/
def predFx (op : Nat) (s : State) (t : Nat) (i : VIns) : Fx :=
  let a := maskOf s t i.srcA
  let b := maskOf s t i.srcB
  let v : BitVec 256 := match op with
    | 0x40 => a &&& b
    | 0x41 => a ||| b
    | 0x42 => a ^^^ b
    | 0x43 => ~~~a
    | _ => BitVec.ofNat 256 (2 ^ i.imm.toNat - 1)
  writeMask s t i 256 ((List.range 256).map v.getLsbD) {}

/-! ### The Gwynis functions (R173, R174) -/

/-- Coefficient k of an entry. -/
def gwCoef (table entry k : Nat) : FVal := fp32.decode (Config.gwynis table entry k).toNat

/-- binary32 rounding, ties to even, with flush to zero. -/
def gwRound (x : FVal) : FVal := fp32.decode (roundF fp32 rne true 0 x).bits

/-- p = fma(fma(c2, r, c1), r, c0). -/
def gwPoly (table entry : Nat) (r : FVal) : FVal :=
  let p := gwRound (fmaV rne (gwCoef table entry 2) r (gwCoef table entry 1)).v
  gwRound (fmaV rne p r (gwCoef table entry 0)).v

/-- x · 2^n. -/
def FVal.scale (x : FVal) (n : Int) : FVal :=
  match x with
  | .fin s m e => .fin s m (e + n)
  | y => y

/-- EXP2: n = floor(x), entry and argument from x − n. -/
def gwExp2 (x : FVal) : FVal :=
  match x with
  | .nan => .nan
  | .inf s => if s then .zero else .inf false
  | .fin _ _ e =>
    let l := min e 0
    let d : Nat := 2 ^ (-l).toNat
    let v : Int := x.sig * 2 ^ (e - l).toNat
    if 128 * (d : Int) ≤ v then .inf false
    else if v < -126 * (d : Int) then .zero
    else
      let n := v / (d : Int)
      let f := (v % (d : Int)).toNat
      (gwPoly 0 (128 * f / d) (.fin false (128 * f % d) (l - 7))).scale n

/-- Exponent and 23-bit fraction of a finite non-zero value of at most 24 significant bits. -/
def gwParts (x : FVal) : Int × Nat :=
  match x with
  | .fin _ m e => ((topBit m : Int) + e, m * 2 ^ (23 - topBit m) - 2 ^ 23)
  | _ => (0, 0)

/-- The five functions on a flushed input. -/
def gwFn (sub : Nat) (x : FVal) : FVal :=
  let e := (gwParts x).1
  let m := (gwParts x).2
  let r16 : FVal := .fin false (m % 65536) (-23)
  match sub with
  | 0 => gwExp2 x
  | 4 => gwExp2 (gwRound (mulV x (fp32.decode 0x3FB8AA3B)).v)
  | 1 =>
    if x.isNan then .nan
    else if x.isZero then .inf true
    else if x.neg then .nan
    else if !x.isFin then .inf false
    else (addV rne (.ofInt e 0) (gwPoly 1 (m / 65536) r16)).v
  | 2 =>
    if x.isNan then .nan
    else if x.isZero then .inf x.neg
    else if !x.isFin then .fin x.neg 0 0
    else
      let p := (gwPoly 2 (m / 65536) r16).scale (-e)
      if x.neg then p.negate else p
  | _ =>
    if x.isNan then .nan
    else if x.isZero then .inf x.neg
    else if x.neg then .nan
    else if !x.isFin then .zero
    else
      let k := e % 2
      (gwPoly 3 (k.toNat * 64 + m / 131072) (.fin false (m % 131072) (-23))).scale (-((e - k) / 2))

/-- GFN (R173): RND and FTZ of the instruction are ignored and only INVALID is recorded. -/
def gfnFx (s : State) (t : Nat) (i : VIns) : Fx :=
  let w := typBytes i.typ
  let f := fmtOf i.typ
  writeLanes s t i w ((srcElems s t i 0 w).map (fun b =>
    let x := readF f true b
    let y := gwRound (gwFn i.sub x.v)
    let neg := !x.v.isNan && x.v.neg && !x.v.isZero && (i.sub = 1 || i.sub = 3)
    { bits := (roundF f rne true 0 y).bits, fl := { inv := x.fl.inv || neg } }))

/-! ### Dispatch and the lines read -/

/-- What a vector-slot instruction will write. -/
def vecFx (op : Nat) (s : State) (t : Nat) (i : VIns) : Fx :=
  if 0x01 ≤ op ∧ op ≤ 0x11 then floatFx op s t i
  else match op with
    | 0x12 => fcmpFx s t i
    | 0x13 => frintFx s t i
    | 0x18 => cvtFx s t i
    | 0x19 => packbFx s t i
    | 0x1A => unpackbFx s t i
    | 0x2B => icmpFx s t i
    | 0x2C => iotaFx s t i
    | 0x2D => itofFx s t i
    | 0x2E => ftoiFx s t i
    | 0x31 => selFx s t i
    | 0x38 => ldlFx s t i
    | 0x39 => stlFx s t i
    | 0x3C => setidxFx i
    | 0x3D => addidxFx s t i
    | 0x48 => gfnFx s t i
    | _ =>
      if 0x20 ≤ op ∧ op ≤ 0x30 then intFx op s t i
      else if 0x40 ≤ op ∧ op ≤ 0x44 then predFx op s t i
      else {}

/-- How many line sources a vector-slot instruction has. -/
def vecSrcs (op : Nat) : Nat :=
  if 0x01 ≤ op ∧ op ≤ 0x11 then floatSrcs op
  else if op = 0x12 || op = 0x1A || op = 0x31 || (0x20 ≤ op && op ≤ 0x2B) then 2
  else if op = 0x13 || op = 0x18 || op = 0x19 || op = 0x2D || op = 0x2E || op = 0x30 || op = 0x39 || op = 0x48 then 1
  else 0

/-- Whether an instruction writes only a part of line DST, its old bytes being kept. -/
def keepsPart (op : Nat) (s : State) (t : Nat) (i : VIns) : Bool :=
  let n := if op = 0x2E || op = 0x1A then 128 else if op = 0x18 then 512 / typBytes i.typ2 else 512 / typBytes i.typ
  let half := (op = 0x18 && typBytes i.typ = 4 && typBytes i.typ2 = 2) || (op = 0x2D && typBytes i.typ = 2)
  let masked := !i.zero && (laneMask s t i n).any (fun b => !b)
  let writes := decide ((0x01 ≤ op ∧ op ≤ 0x11) ∨ op = 0x13 ∨ op = 0x18 ∨ op = 0x1A ∨ op = 0x48 ∨ op = 0xCC)
    || decide (0x20 ≤ op ∧ op ≤ 0x2A) || decide (0x2C ≤ op ∧ op ≤ 0x30)
  writes && (half || masked)

/-- The till lines an instruction reads. -/
def vecReads (op : Nat) (s : State) (t : Nat) (i : VIns) : List Nat :=
  ((List.range (vecSrcs op)).filter (fun k => !i.srcsel.testBit k)).map (fun k =>
      if k = 0 then i.srcA else if k = 1 then i.srcB else i.srcC)
    ++ (if op = 0x19 then [i.srcC] else []) ++ (if keepsPart op s t i then [i.dst] else [])

/-- The till lines an instruction of either slot writes. -/
def linesWritten (op : Nat) (i : VIns) : List Nat :=
  if op = 0x19 then [i.dst, i.srcC]
  else if decide ((0x01 ≤ op ∧ op ≤ 0x11) ∨ op = 0x13 ∨ op = 0x18 ∨ op = 0x1A ∨ (0x20 ≤ op ∧ op ≤ 0x2A)
      ∨ (0x2C ≤ op ∧ op ≤ 0x38) ∨ op = 0x48 ∨ op = 0xCC ∨ op = 0xCD) then [i.dst]
  else []

/-! ### Bundles (R145, R150) -/

/-- An instruction with its opcode from a 16-byte slot; none where a reserved bit is set. -/
def readIns (b : List Byte) : Option (Nat × VIns) :=
  let v := leNat (b.take 16)
  if field v 30 2 ≠ 0 || field v 80 16 ≠ 0 then none
  else some (field v 0 8, {
    typ := field v 8 8
    rnd := field v 16 3
    zero := v.testBit 19
    pred := field v 20 3
    ftz := v.testBit 23
    srcsel := field v 24 3
    idxr := field v 27 3
    dst := field v 32 9
    srcA := field v 41 9
    srcB := field v 50 9
    srcC := field v 59 9
    sub := field v 68 4
    typ2 := field v 72 8
    imm := BitVec.ofNat 32 (field v 96 32) })

def isVecOp (op : Nat) : Bool :=
  decide (op ≤ 0x13 ∨ (0x18 ≤ op ∧ op ≤ 0x1A) ∨ (0x20 ≤ op ∧ op ≤ 0x2E) ∨ op = 0x30 ∨ op = 0x31 ∨ op = 0x38 ∨ op = 0x39
    ∨ op = 0x3C ∨ op = 0x3D ∨ (0x40 ≤ op ∧ op ≤ 0x44) ∨ op = 0x48)

def isRedOp (op : Nat) : Bool := decide (op = 0 ∨ (0xC0 ≤ op ∧ op ≤ 0xCE))

def isFloatTyp (typ : Nat) : Bool := (ieeeOf typ).isSome

/-- TYPE as the opcode allows it. -/
def typOk (op : Nat) (i : VIns) : Bool :=
  if (1 ≤ op && op ≤ 0x13) || op = 0x18 || op = 0x2D || op = 0x2E || op = 0xC9 || op = 0xCA then isFloatTyp i.typ
  else if op = 0x19 || op = 0x1A then i.typ = 0x22
  else if op = 0x48 then i.typ = 0x21 || i.typ = 0x22
  else if 0xC0 ≤ op && op ≤ 0xC5 then (if i.sub.testBit 2 then i.typ = 0 else isFloatTyp i.typ)
  else if op = 0xCC then i.typ = 0 || isFloatTyp i.typ
  else i.typ = 0

/-- TYPE2 as the opcode allows it. -/
def typ2Ok (op : Nat) (i : VIns) : Bool :=
  if op = 0x18 then isFloatTyp i.typ2
  else if op = 0x19 || op = 0x1A then isDb i.typ2 || isMx i.typ2
  else i.typ2 = 0

/-- RND as the opcode allows it (R146, R158). -/
def rndOk (op : Nat) (i : VIns) : Bool :=
  decide (i.rnd ≤ 4) && !(i.rnd = stoch && ((0xC0 ≤ op && op ≤ 0xC5) || op = 0xC9 || op = 0xCC))

/-- SUB as the opcode allows it. -/
def subOk (op : Nat) (i : VIns) : Bool :=
  if op = 0x12 then i.sub ≤ 7
  else if op = 0x2B then i.sub ≤ 5
  else if op = 0x18 then i.sub ≤ 1
  else if op = 0x2D || op = 0x2E then decide (i.sub ≤ (if i.typ = 0x22 then 0 else 1))
  else if op = 0x48 then i.sub ≤ 4
  else if 0xC0 ≤ op && op ≤ 0xC8 then i.sub ≤ 7
  else if op = 0xC9 then i.sub ≤ 3
  else i.sub = 0

/-- DST and sources within their ranges for the opcode. -/
def rangeOk (op : Nat) (i : VIns) : Bool :=
  let dst :=
    if op = 0x12 || op = 0x2B || (0x40 ≤ op && op ≤ 0x44) then decide (1 ≤ i.dst ∧ i.dst ≤ 7)
    else if op = 0x3C || op = 0x3D then decide (i.dst ≤ 7)
    else if (0xC0 ≤ op && op ≤ 0xCB) || op = 0xCE then decide (i.dst ≤ 63)
    else decide (i.dst ≤ 511)
  let srcA :=
    if 0x40 ≤ op && op ≤ 0x43 then decide (i.srcA ≤ 7)
    else if op = 0xCA || op = 0xCB || op = 0xCC then decide (i.srcA ≤ 63)
    else decide (i.srcA ≤ 511)
  let srcB := if 0x40 ≤ op && op ≤ 0x42 then decide (i.srcB ≤ 7) else decide (i.srcB ≤ 511)
  dst && srcA && srcB && decide (i.srcC ≤ 511) && decide (i.pred ≤ 7) && decide (i.idxr ≤ 7) && decide (i.srcsel ≤ 7)

/-- The checks of R150 whose status is BAD_FIELD, on one instruction. -/
def insField (op : Nat) (i : VIns) : Bool :=
  typOk op i && typ2Ok op i && rndOk op i && subOk op i && rangeOk op i
    && (decide (op ≠ 0x44) || decide (i.imm.toNat ≤ 256)) && (decide (op ≠ 0xCD) || decide (i.imm.toNat % 64 ≤ 62))
    && (decide (op ≠ 0x19) || decide (i.dst ≠ i.srcC))

/-- The check whose status is BAD_LENGTH. -/
def insLength (op : Nat) (i : VIns) : Bool :=
  (decide (op ≠ 0x38) && decide (op ≠ 0x39)) || (decide (i.imm.toNat % 64 = 0) && decide (i.imm.toNat + 512 ≤ 0x600000))

/-- The check whose status is ABSENT_UNIT. -/
def insUnit (s : State) (op : Nat) : Bool := decide (op ≠ 0x48) || hasPredictor s

/-- The checks of R150 on a bundle whose status is BAD_FIELD. -/
def bundleField (v r : Nat × VIns) : Bool :=
  isVecOp v.1 && isRedOp r.1 && insField v.1 v.2 && insField r.1 r.2 && (decide (v.1 ≠ 0x19) || (linesWritten r.1 r.2).isEmpty)

/-- Whether the two slots write one line (R144). -/
def slotsMeet (v r : Nat × VIns) : Bool := (linesWritten v.1 v.2).any (fun l => (linesWritten r.1 r.2).contains l)

/-- Whether a bundle writes outside a tile's suspense lines and region, or may not run speculatively at all (R220). -/
def bundleLeaves (c : TileConf) (v r : Nat × VIns) : Bool :=
  let inLines (l : Nat) : Bool := decide (c.susLine ≤ l ∧ l < c.susLine + c.susLines)
  let o := v.2.imm.toNat
  (linesWritten v.1 v.2 ++ linesWritten r.1 r.2).any (fun l => !inLines l)
    || (v.1 = 0x39 && !decide (c.susBase ≤ o ∧ o + 512 ≤ c.susBase + c.susSize))
    || v.1 = 0x19 || r.1 = 0xCB || r.1 = 0xCD

/-- Whether a fetched bundle keeps R150. -/
def bundleOk (s : State) (v r : Nat × VIns) : Bool := bundleField v r && insLength v.1 v.2 && insUnit s v.1

end Sys2Proof.Machine
end

