-- ==== Sys2Proof/Machine/Reduce.lean ====
section
/-! DEFINITION. The reduction unit (R160 to R171): the canonical tree, streams, exact sums, conversion and broadcast of tallies,
and the operation of a network tree. -/

namespace Sys2Proof.Machine

/-! ### Tallies and tags (R160, R186) -/

def tagEmpty : Nat := 0
def tagExact : Nat := 1
def tagSat : Nat := 2
def tagNonfin : Nat := 3
def tagStream : Nat := 4
def tagIndexed : Nat := 5

/-- A tag byte. -/
def tagOf (empty exact sat nonfinite stream indexed : Bool) : BitVec 8 :=
  BitVec.ofNat 8 (b2n empty + 2 * b2n exact + 4 * b2n sat + 8 * b2n nonfinite + 16 * b2n stream + 32 * b2n indexed)

/-- A tally's value and tag. -/
def tallyVal (s : State) (t k : Nat) : BitVec 128 := (tileAt s t).vec.tallies.at k 0
def tallyTag (s : State) (t k : Nat) : BitVec 8 := (tileAt s t).vec.tags.at k 0

/-! ### The operations (R162, R163) -/

/-- Whether an opcode works on integers under this TYPE and SUB. -/
def redInt (op : Nat) (typ : Nat) : Bool := decide (6 ≤ op - 0xC0 ∧ op - 0xC0 ≤ 8) || decide (typ = 0)

def isArg (op : Nat) : Bool := op = 0xC4 || op = 0xC5

/-- Rank of a value for the argument extremes: NaN below every number for the largest, above for the smallest. -/
def argLt (largest : Bool) (a b : FVal) : Bool :=
  if a.isNan then (if largest then !b.isNan else false)
  else if b.isNan then !largest
  else ltNum a b

/-- Whether the node r, at the higher positions, takes the place of l. `byPos` compares positions on equal values. -/
def argTakes (op : Nat) (int byPos : Bool) (l r : RNode) : Bool :=
  let lt : Bool := if int then decide (signed 32 l.val.toNat < signed 32 r.val.toNat)
    else argLt (op = 0xC4) (fp32.decode l.val.toNat) (fp32.decode r.val.toNat)
  let gt : Bool := if int then decide (signed 32 r.val.toNat < signed 32 l.val.toNat)
    else argLt (op = 0xC4) (fp32.decode r.val.toNat) (fp32.decode l.val.toNat)
  if op = 0xC4 then lt || (!gt && byPos && decide (r.pos < l.pos))
  else gt || (!lt && byPos && decide (r.pos < l.pos))

/-- Two integers added in A128, clamped (R64). -/
def addExact (l r : RNode) : RNode :=
  let v := l.val + r.val
  let c := clamp v (-(2 ^ 127)) (2 ^ 127 - 1)
  { val := c, nonfinite := l.nonfinite || r.nonfinite, sat := l.sat || r.sat || decide (c ≠ v) }

/-- One node of two (R161, R162). -/
def redNode (op mode : Nat) (ftz int byPos : Bool) (l r : RNode) : RNode × Fl :=
  let a := l.val.toNat
  let b := r.val.toNat
  let fl32 (x : FRes) : RNode × Fl := ({ val := (x.bits : Int) }, x.fl)
  let n32 (x : Nat) : RNode × Fl := ({ val := ((x % 2 ^ 32 : Nat) : Int) }, {})
  if op = 0xC9 then (addExact l r, {})
  else if isArg op then (if argTakes op int byPos l r then r else l, {})
  else if int then
    match op with
    | 0xC1 => n32 (a * b)
    | 0xC2 => n32 (if signed 32 a < signed 32 b then b else a)
    | 0xC3 => n32 (if signed 32 b < signed 32 a then b else a)
    | 0xC7 => n32 (a &&& b)
    | 0xC8 => n32 (a ||| b)
    | _ => n32 (a + b)
  else
    let f (xs : List FVal) : FVf :=
      let x := xs.getD 0 .nan
      let y := xs.getD 1 .nan
      match op with
      | 0xC0 => addV mode x y
      | 0xC1 => mulV x y
      | 0xC2 => { v := maxV x y }
      | _ => { v := minV x y }
    fl32 (opF fp32 mode ftz 0 [a, b] f)

/-- A node of two that may be absent (R161). -/
def redJoin (f : RNode → RNode → RNode × Fl) (l r : Option RNode) : Option RNode × Fl :=
  match l, r with
  | none, y => (y, {})
  | x, none => (x, {})
  | some x, some y => (some (f x y).1, (f x y).2)

/-- One level of the canonical tree. -/
def treeLevel (f : RNode → RNode → RNode × Fl) : List (Option RNode) → List (Option RNode) × Fl
  | [] => ([], {})
  | [x] => ([x], {})
  | x :: y :: l =>
    let r := treeLevel f l
    let j := redJoin f x y
    (j.1 :: r.1, j.2.or r.2)

/-- The canonical tree over leaves; the fuel bounds its levels (R161). -/
def treeOfLeaves (f : RNode → RNode → RNode × Fl) : Nat → List (Option RNode) → Option RNode × Fl
  | 0, l => (l.headD none, {})
  | fuel + 1, l =>
    if l.length ≤ 1 then (l.headD none, {})
    else
      let r := treeLevel f l
      let z := treeOfLeaves f fuel r.1
      (z.1, r.2.or z.2)

/-- The identity of an operation (R163), as a value; the position of an argument extreme is all ones. -/
def redIdentity (op : Nat) (int : Bool) : Int :=
  match op with
  | 0xC1 => if int then 1 else 0x3F800000
  | 0xC2 => if int then 0x80000000 else 0xFF800000
  | 0xC4 => if int then 0x80000000 else 0xFF800000
  | 0xC3 => if int then 0x7FFFFFFF else 0x7F800000
  | 0xC5 => if int then 0x7FFFFFFF else 0x7F800000
  | 0xC7 => 0xFFFFFFFF
  | _ => 0

/-- A node as a tally holds it (R160). -/
def tallyBits (op : Nat) (x : RNode) : BitVec 128 :=
  if op = 0xC9 then BitVec.ofNat 128 (unsigned 128 x.val)
  else if isArg op then BitVec.ofNat 128 (x.pos % 2 ^ 32 + x.val.toNat % 2 ^ 32 * 2 ^ 32)
  else BitVec.ofNat 128 (x.val.toNat % 2 ^ 32)

/-- The tally and tag of a closed reduction (R160 to R164). -/
def redResult (op : Nat) (int : Bool) (x : Option RNode) : BitVec 128 × BitVec 8 × Bool :=
  match x with
  | none =>
    (tallyBits op { val := redIdentity op int, pos := 0xFFFFFFFF }, tagOf true (op = 0xC9) false false false (isArg op), false)
  | some n =>
    let nf := if op = 0xC9 then n.nonfinite
      else (op = 0xC0 || op = 0xC1) && !int && !(fp32.decode n.val.toNat).isFin
    (tallyBits op n, tagOf false (op = 0xC9) n.sat nf false (isArg op), nf)

/-! ### Lines as leaves -/

/-- The source line of a reduction, element by element. -/
def redElems (s : State) (t : Nat) (i : VIns) (int : Bool) : List Nat :=
  srcElems s t i 0 (if int then 4 else typBytes i.typ)

/-- A float element as a leaf: widened exactly to binary32, a flushed subnormal as zero, a NaN canonical. -/
def floatLeaf (i : VIns) (x : Nat) : FRes :=
  let v := readF (fmtOf i.typ) i.ftz x
  { bits := (roundF fp32 rne false 0 v.v).bits, fl := v.fl }

/-- The exact leaf of RXSUM (R164): a NaN or infinity contributes nothing and marks the sum; an element past the A128 range
clamps. -/
def exactLeaf (i : VIns) (x : Nat) : RNode × Fl :=
  let v := readF (fmtOf i.typ) i.ftz x
  if !v.v.isFin then ({ nonfinite := true }, v.fl)
  else (addExact {} { val := if v.v.isZero then 0 else roundScaled rne 0 v.v.sig (v.v.exp - (signed 10 i.imm.toNat - 32)) }, v.fl)

/-- A leaf of an opcode and its conditions; `p` is its position. -/
def redLeaf (op : Nat) (i : VIns) (int : Bool) (p x : Nat) : RNode × Fl :=
  if op = 0xC9 then exactLeaf i x
  else if op = 0xC6 then ({ val := if x = 0 then 0 else 1 }, {})
  else if int then ({ val := (x : Int), pos := p }, {})
  else
    let r := floatLeaf i x
    ({ val := (r.bits : Int), pos := p }, r.fl)

/-- The leaves of a line from a position: masked lanes absent. -/
def redLeaves (s : State) (t op : Nat) (i : VIns) (int : Bool) (base : Nat) : List (Option RNode) × Fl :=
  let xs := redElems s t i int
  let m := laneMask s t i xs.length
  let ls := (withPos (m.zip xs)).map (fun y =>
    if y.2.1 then some (redLeaf op i int ((base + y.1) % 2 ^ 32) y.2.2) else none)
  (ls.map (fun l => l.map Prod.fst), ls.foldl (fun a l => match l with | some x => a.or x.2 | none => a) {})

/-! ### Streams (R161) -/

/-- A line's subtree pushed on a stack of completed subtrees, its top first. -/
def pushTree (f : RNode → RNode → RNode × Fl) : List (Nat × Option RNode) → Nat → Option RNode → List (Nat × Option RNode) × Fl
  | [], lev, x => ([(lev, x)], {})
  | (l, y) :: st, lev, x =>
    if l = lev then
      let j := redJoin f y x
      let r := pushTree f st (lev + 1) j.1
      (r.1, j.2.or r.2)
    else ((lev, x) :: (l, y) :: st, {})

/-- The fold of a stack from its smallest subtree upward. -/
def closeTree (f : RNode → RNode → RNode × Fl) (st : List (Nat × Option RNode)) : Option RNode × Fl :=
  st.foldl (fun a y => let j := redJoin f y.2 a.1; (j.1, a.2.or j.2)) (none, {})

/-- The stream that an instruction continues, or the one it opens (R161, R162). -/
def streamFor (s : State) (t op : Nat) (i : VIns) : Stream :=
  let new : Stream := { op := op, typ := i.typ, intLanes := i.sub.testBit 2, base := idxReg s t i.idxr }
  match (tileAt s t).vec.streams.find i.dst with
  | none => new
  | some x =>
    if (i.sub % 4 = 2 || i.sub % 4 = 3) && x.op = op && x.typ = i.typ && x.intLanes = i.sub.testBit 2 then x else new

/-- The rounding a reduction's instruction names, as a tally keeps it. -/
def modeOf (i : VIns) : Nat := i.rnd + 8 * b2n i.ftz

/-- RSUM to RXSUM: one line into a tally (R161 to R164). -/
def lineFx (op : Nat) (s : State) (t : Nat) (i : VIns) : Fx :=
  let int := redInt op i.typ
  let f := redNode op i.rnd i.ftz int false
  let st := streamFor s t op i
  let w := if int then 128 else 512 / typBytes i.typ
  let ls := redLeaves s t op i int (st.base + st.lines * w)
  let pushed : List (Nat × Option RNode) × Fl :=
    if op = 0xC9 then
      let old := match st.stack with | [] => none | x :: _ => x.2
      let r := ls.1.foldl (fun a l => (redJoin f a l).1) old
      ([(0, r)], {})
    else
      let x := treeOfLeaves f 8 ls.1
      let r := pushTree f st.stack.reverse (topBit w) x.1
      (r.1.reverse, x.2.or r.2)
  let phase := i.sub % 4
  if phase = 0 || phase = 3 then
    let c := if op = 0xC9 then ((pushed.1.headD (0, none)).2, {}) else closeTree f pushed.1.reverse
    let r := redResult op int c.1
    { tallies := [(i.dst, r.1, r.2.1, none)], fl := (ls.2.or pushed.2).or c.2, nonfinite := r.2.2, mode := modeOf i }
  else
    let bottom := match (pushed.1.headD (0, none)).2 with | some n => tallyBits op n | none => 0
    { tallies := [(i.dst, bottom, tagOf false (op = 0xC9) false false true (isArg op),
        some { st with stack := pushed.1, lines := st.lines + 1 })]
      fl := ls.2.or pushed.2
      mode := modeOf i }

/-! ### Conversion and broadcast (R164, R167) -/

/-- A tally's value rounded to TYPE: an EXACT one at the anchor in IMM, another read as binary32. -/
def tallyConv (s : State) (t : Nat) (i : VIns) : FRes × FVal :=
  let v := tallyVal s t i.srcA
  let g := tallyTag s t i.srcA
  let f := fmtOf i.typ
  let c := (partAt s (partNum s t)).ctx
  let rb := if i.rnd = stoch then rbits c.seed.toNat c.step (bodyTag s t) 4 (idxReg s t i.idxr) else 0
  if g.getLsbD tagExact then
    if g.getLsbD tagNonfin then ({ bits := f.nanBits }, .nan)
    else
      let x := FVal.ofInt (v.toInt) (signed 10 i.imm.toNat - 32)
      (roundF f i.rnd i.ftz rb x, x)
  else (convF fp32 f i.rnd i.ftz (v.toNat % 2 ^ 32) rb, fp32.decode (v.toNat % 2 ^ 32))

/-- RCVT. -/
def rcvtFx (s : State) (t : Nat) (i : VIns) : Fx :=
  let r := tallyConv s t i
  let g := tallyTag s t i.srcA
  let out := (fmtOf i.typ).decode r.1.bits
  { tallies := [(i.dst, BitVec.ofNat 128 r.1.bits,
      tagOf (g.getLsbD tagEmpty) false (g.getLsbD tagSat) (g.getLsbD tagNonfin || !out.isFin) false false, none)]
    fl := r.1.fl
    audit := some { fmt := i.typ, v := [r.2], r := [out], over_ := b2n r.1.fl.ovf } }

/-- RBCAST: an integer tally, and a binary32 one for FP32, as it stands; otherwise rounded. -/
def rbcastFx (s : State) (t : Nat) (i : VIns) : Fx :=
  let w := typBytes i.typ
  let asIs := i.typ = 0 || (i.typ = 0x22 && !(tallyTag s t i.srcA).getLsbD tagExact)
  let r : FRes × FVal := if asIs then ({ bits := (tallyVal s t i.srcA).toNat % 2 ^ 32 }, .nan) else tallyConv s t i
  let m := laneMask s t i (512 / w)
  let out := (fmtOf i.typ).decode r.1.bits
  { writeLanes s t i w (List.replicate (512 / w) r.1) with
    audit := if asIs || !m.any id then none else some { fmt := i.typ, v := [r.2], r := [out], over_ := b2n r.1.fl.ovf } }

/-! ### The queue (R171) -/

/-- POPQ: the head entry into a line and two tallies. -/
def popqFx (s : State) (t : Nat) (i : VIns) : Fx :=
  match (tileAt s t).drain.queue with
  | [] => {}
  | e :: _ =>
    let k := i.imm.toNat % 64
    let stats := if e.hdr.getLsbD 29 then e.rowMax.toNat + e.rowSum.toNat * 2 ^ 32 else 0
    { lines := [(i.dst, slice e.data 0 512)]
      tallies := [(k, BitVec.ofNat 128 e.hdr.toNat, 0, none), (k + 1, BitVec.ofNat 128 stats, 0, none)]
      pop := true }

/-! ### The network (R165, R200) -/

/-- The tree record a tile's RNET names, with the tile's contributor index. -/
def netTree (s : State) (t tree : Nat) : Option (Nat × TreeRec × Nat) :=
  match partOfTile s t with
  | none => none
  | some q =>
    let p := partAt s q
    match (imageOf p).trees.find? (fun x => x.tree = tree) with
    | none => none
    | some x =>
      match (withPos x.contrib).find? (fun c => c.2 = localOfTile p t) with
      | none => none
      | some c => some (q, x, c.1)

/-- Whether a tally's tag matches a tree's operation: EXACT and INDEXED as the operation leaves them. -/
def tagMatches (op : Nat) (g : BitVec 8) : Bool :=
  g.getLsbD tagExact == decide (op = 0xC9) && g.getLsbD tagIndexed == isArg op

/-- The assigned tick of the running body; outside a body the current tick. -/
def bodyTick (s : State) (t : Nat) : Nat :=
  match (tileAt s t).vec.body with
  | some b => (((tileAt s t).sched.running.find? (fun f => f.actor = b.actor && !f.finished)).map Firing.tick).getD (now s)
  | none => now s

/-- RNET's contribution. -/
def rnetFx (s : State) (t : Nat) (i : VIns) : Fx :=
  let v := tallyVal s t i.srcA
  let g := tallyTag s t i.srcA
  match netTree s t (i.imm.toNat % 256) with
  | none => { mismatch := true }
  | some x =>
    if tagMatches x.2.1.op g then
      let c : Contrib := {
        idx := x.2.2
        val := v
        tag := g
        mode := (tileAt s t).vec.modes.at i.srcA 0
        tick := bodyTick s t }
      { net := some (x.2.1.tree, c, i.dst) }
    else { mismatch := true }

/-- The tallies of a tile that open trees will write, each with its tree. -/
def netAwaited (s : State) (t : Nat) : List Nat :=
  ((tileAt s t).vec.netOpen.filter (fun x =>
    match netTree s t x.1 with
    | some y => y.2.1.bcast || decide (y.2.2 = y.2.1.root)
    | none => false)).map Prod.snd

/-- A contribution as a node, absent when EMPTY. -/
def netNode (op : Nat) (v : BitVec 128) (g : BitVec 8) : Option RNode :=
  if g.getLsbD tagEmpty then none
  else if op = 0xC9 then some { val := v.toInt, nonfinite := g.getLsbD tagNonfin, sat := g.getLsbD tagSat }
  else if isArg op then some { val := ((v.toNat / 2 ^ 32 % 2 ^ 32 : Nat) : Int), pos := v.toNat % 2 ^ 32 }
  else some { val := ((v.toNat % 2 ^ 32 : Nat) : Int) }

/-- The mode in which a tree rounds. DEDUCED (log entry 79): RNET is untyped and names no rounding, a TREES record none either, and R166 gives
the unsplit vector's bits whatever the pieces' RND and FTZ; so a contribution carries its reduction's, and contributor 0's governs. -/
def netMode (got : List Contrib) : Nat := ((got.find? (fun c => c.idx = 0)).map Contrib.mode).getD 0

/-- The result of a tree over its contributions by contributor index (R161, R165, R166). -/
def netResult (x : TreeRec) (got : List Contrib) : BitVec 128 × BitVec 8 :=
  let int := redInt x.op x.typ
  let m := netMode got
  let leaves := (List.range x.contrib.length).map (fun k =>
    match got.find? (fun c => c.idx = k) with | some c => netNode x.op c.val c.tag | none => none)
  let r := redResult x.op int (treeOfLeaves (redNode x.op (m % 8) (decide (8 ≤ m)) int true) 8 leaves).1
  (r.1, r.2.1)

/-! ### Dispatch and what is read -/

/-- What a reduction-slot instruction will write. -/
def redFx (op : Nat) (s : State) (t : Nat) (i : VIns) : Fx :=
  match op with
  | 0xCA => rcvtFx s t i
  | 0xCB => rnetFx s t i
  | 0xCC => rbcastFx s t i
  | 0xCD => popqFx s t i
  | 0xCE => { tallies := [(i.dst, 0, 0, none)] }
  | _ => if 0xC0 ≤ op ∧ op ≤ 0xC9 then lineFx op s t i else {}

/-- The till lines a reduction-slot instruction reads. -/
def redReads (op : Nat) (s : State) (t : Nat) (i : VIns) : List Nat :=
  (if 0xC0 ≤ op && op ≤ 0xC9 && !i.srcsel.testBit 0 then [i.srcA] else [])
    ++ (if op = 0xCC && keepsPart op s t i then [i.dst] else [])

/-- The tallies a reduction-slot instruction reads or writes. -/
def redTallies (op : Nat) (i : VIns) : List Nat :=
  if 0xC0 ≤ op && op ≤ 0xC9 then [i.dst]
  else match op with
    | 0xCA => [i.srcA, i.dst]
    | 0xCB => [i.srcA, i.dst]
    | 0xCC => [i.srcA]
    | 0xCD => [i.imm.toNat % 64, i.imm.toNat % 64 + 1]
    | 0xCE => [i.dst]
    | _ => []

/-- The tallies a reduction-slot instruction reads: a source, or the stream that it continues. -/
def redSources (op : Nat) (s : State) (t : Nat) (i : VIns) : List Nat :=
  if op = 0xCA || op = 0xCB || op = 0xCC then [i.srcA]
  else if 0xC0 ≤ op && op ≤ 0xC9 && !(streamFor s t op i).stack.isEmpty then [i.dst]
  else []

/-- Whether a parity error stands on a tally that an instruction reads (R176). -/
def tallyBad (op : Nat) (s : State) (t : Nat) (i : VIns) : Bool :=
  (redSources op s t i).any (fun k => (tileAt s t).vec.badTallies.contains k)

/-- Whether a reduction-slot instruction must wait: an empty queue, a tally that an open tree will write, sixteen open trees,
a tree the tile already takes part in (R144, R165, R171). -/
def redWaits (op : Nat) (s : State) (t : Nat) (i : VIns) : Bool :=
  (op = 0xCD && (tileAt s t).drain.queue.isEmpty)
    || (redTallies op i).any (fun k => (netAwaited s t).contains k)
    || (op = 0xCB && (decide (16 ≤ (tileAt s t).vec.netOpen.length)
        || (tileAt s t).vec.netOpen.any (fun x => x.1 = i.imm.toNat % 256)))

end Sys2Proof.Machine
end

