-- ==== Sys2Proof/Machine/Body.lean ====
section
/-! DEFINITION. Running bundles (R143, R144, R150, R176, R177, R220): their reads, faults, waits and writes; a body from its first
bundle to its last; the meanings of FIRE_BODY, REDUCTION_TREE_COMPLETE and RDU_TALLY_WRITE. -/

namespace Sys2Proof.Machine

/-! ### Writes -/

/-- A tally written with its tag, its parity fresh; another stream open on it is discarded (R161). -/
def Vec.setTally (x : Vec) (k : Nat) (v : BitVec 128) (g : BitVec 8) (st : Option Stream) (mode : Nat) : Vec :=
  { x with
    tallies := x.tallies.put k v
    tags := x.tags.put k g
    modes := x.modes.put k mode
    badTallies := x.badTallies.filter (· ≠ k)
    streams := match st with | some y => x.streams.put k y | none => x.streams.drop k }

/-- A tile's tally written so. -/
def setTally (s : State) (t k : Nat) (v : BitVec 128) (g : BitVec 8) (st : Option Stream) : State :=
  modVec s t (fun x => x.setTally k v g st 0)

/-- The part of a slot's writes that lies in the vector engine's and the reduction unit's own registers, or is reported (R222). -/
def Fx.held (fx : Fx) : HeldFx :=
  { pred := fx.pred
    idx := fx.idx
    tallies := fx.tallies
    mode := fx.mode
    sticky := fx.fl.bits
    sat := fx.sat
    nonfinite := fx.nonfinite
    audit := fx.audit.map (fun a => (a.fmt, a.v.length, a.over_, vanishedCount a.v a.r)) }

/-- Masks, index registers and tallies written. -/
def Vec.take (x : Vec) (h : HeldFx) : Vec :=
  let y := h.tallies.foldl (fun x w => x.setTally w.1 w.2.1 w.2.2.1 w.2.2.2 h.mode) x
  { y with
    preds := match h.pred with | some p => setNth y.preds p.1 p.2 | none => y.preds
    idx := match h.idx with | some p => setNth y.idx p.1 p.2 | none => y.idx }

/-- Sticky conditions recorded with the layer tag of the actor (R156, R178). -/
def recordSticky (s : State) (t tag bits : Nat) : State :=
  if bits = 0 then s
  else
    let r := tileReg t 0x780800
    regSet (regPut s r (regGet s r ||| bits)) r 16 16 tag

/-- What an instruction reports of its actor's layer: SAT, NONFINITE, the audited conversions. -/
def reportHeld (s : State) (t : Nat) (layer : Option (Nat × Nat)) (h : HeldFx) : State :=
  let tag := match layer with | some x => layerTagOf (partAt s x.1) x.2 | none => 0
  let s1 := recordSticky s t tag h.sticky
  match layer with
  | none => s1
  | some x =>
    let s2 := if h.sat then raiseOverdraft s1 t x.2 else s1
    let s3 := if h.nonfinite then reportNonfinite s2 x.1 t x.2 else s2
    match h.audit with
    | some a => auditCounts s3 x.1 x.2 4 a.1 a.2.1 a.2.2.1 a.2.2.2
    | none => s3

/-- Everything that a speculative body withheld, written and reported (R221). -/
def applyHeld (s : State) (t : Nat) (layer : Option (Nat × Nat)) (h : HeldFx) : State :=
  reportHeld (modVec s t (fun x => x.take h)) t layer h

/-- A contribution put in its tree (R165). -/
def contribute (s : State) (t : Nat) (n : Nat × Contrib × Nat) : State :=
  let s1 := modPart s (partNum s t) (fun p => { p with trees := p.trees.put n.1 (p.trees.at n.1 [] ++ [n.2.1]) })
  modVec s1 t (fun x => { x with netOpen := x.netOpen ++ [(n.1, n.2.2)] })

/-- The actor of the running body where that is speculative. -/
def specActor (s : State) (t : Nat) : Option Nat := ((tileAt s t).vec.body.filter Body.spec).map Body.actor

/-- What one slot writes, written: a speculative body's lines and near-store bytes lie in the suspense buffer, and its other writes
are withheld beside it (R222). -/
def applyFx (s : State) (t : Nat) (fx : Fx) : State :=
  let s1 := fx.lines.foldl (fun s l => spanWrite s (tillAddr t l.1) l.2) s
  let s2 := match fx.near with | some w => spanWrite s1 (tileBase t + w.1) w.2 | none => s1
  let s3 := if fx.pop then modDrain s2 t (fun d => { d with queue := d.queue.drop 1 }) else s2
  let s4 := match fx.net with | some n => contribute s3 t n | none => s3
  let s5 := modVec s4 t (fun x => x.take fx.held)
  match specActor s t with
  | some a => modSched s5 t (fun c => { c with suspense := c.suspense.put a (c.suspense.at a [] ++ [fx.held]) })
  | none => reportHeld s5 t (bodyLayer s5 t) fx.held

/-! ### One bundle -/

/-- Whether the running body is speculative and the bundle would write outside the suspense buffer (R220). -/
def bundleEscapes (s : State) (t : Nat) (v r : Nat × VIns) : Bool :=
  (tileAt s t).vec.body.any Body.spec && bundleLeaves (tileAt s t).conf v r

/-- The double-bit errors met by the lines a bundle reads (R142). -/
def touchLines (s : State) (t at_ : Nat) (l : List Nat) : Bool × State :=
  l.foldl (fun a n => let r := tillTouch a.2 (tillAddr t n) 512 at_; (a.1 || r.1, r.2)) (false, s)

/-- One bundle, its vector and reduction slots given; none where it must wait. -/
def runBundle (s : State) (t at_ : Nat) (v r : Nat × VIns) : Option State :=
  if !bundleOk s v r then some (vectorFault s t 0 at_ 0x05)
  else if bundleEscapes s t v r then some (specEscape s t)
  else if redWaits r.1 s t r.2 then none
  else
    let x := touchLines s t at_ (vecReads v.1 s t v.2 ++ redReads r.1 s t r.2)
    if x.1 then some (tileFault (engineStop x.2 t) t)
    else
      let a := tileBase t + v.2.imm.toNat
      let s1 := if v.1 = 0x38 then nsTouch x.2 a 512 else x.2
      if v.1 = 0x38 && spanPoisoned s1 a 512 then some (vectorFault s1 t 2 at_ 0x06)
      else
        let fr := redFx r.1 s1 t r.2
        if tallyBad r.1 s1 t r.2 then some (reductionFault s1 t 1 0x03)
        else if fr.mismatch then some (reductionFault s1 t 0 0x05)
        else some (applyFx (applyFx s1 t (vecFx v.1 s1 t v.2)) t fr)

/-- A slot that does nothing. -/
def nopSlot : Nat × VIns := (0, default)

/-- The bundle offset recorded with an error: the running body's next bundle. -/
def bundleAt (s : State) (t : Nat) : Nat :=
  match (tileAt s t).vec.body with
  | some b => b.addr + 32 * b.next
  | none => 0

/-- One instruction in a bundle of its own; a stopped engine, or a wait, leaves everything as it is. -/
def runOne (op t : Nat) (i : VIns) (s : State) : State :=
  if (tileAt s t).vec.stopped || !tilePresent s t then s
  else
    let b := if 0xC0 ≤ op then (nopSlot, (op, i)) else ((op, i), nopSlot)
    (runBundle s t (bundleAt s t) b.1 b.2).getD s

/-! ### Bodies -/

/-- The TAKEN bits of a body's edges: P7 as its last bundle leaves it (R208). -/
def bodyTaken (s : State) (t n : Nat) : List Bool := (List.range n).map (fun j => (maskOf s t 7).getLsbD j)

/-- The last bundle has retired. -/
def retireBody (s : State) (t : Nat) (b : Body) : State :=
  let n := ((actorRec s t b.actor).map ActorRec.outCount).getD 0
  let s1 := modFiring s t b.actor (fun f => { f with finished := true, taken := bodyTaken s t n })
  modVec s1 t (fun v => { v with body := none })

/-- The next bundle fetched and run; none where it waits (R143, R176). -/
def nextBundle (s : State) (t : Nat) (b : Body) : Option State :=
  let o := b.addr + 32 * b.next
  let a := tileBase t + o
  let s1 := nsTouch s a 32
  if spanPoisoned s1 a 32 then some (vectorFault s1 t 1 o 0x06)
  else
    let bytes := readBytes s1.mem a 32
    match readIns (bytes.take 16), readIns (bytes.drop 16) with
    | some v, some r =>
      (runBundle s1 t o v r).map (fun s2 =>
        modVec s2 t (fun x => { x with body := x.body.map (fun y => { y with next := y.next + 1 }) }))
    | _, _ => some (vectorFault s1 t 0 o 0x05)

/-- The body's bundles from the next one on, until one waits, stops the engine, or the last has retired. -/
def runBundles (t : Nat) : Nat → State → State
  | 0, s => s
  | fuel + 1, s =>
    match (tileAt s t).vec.body with
    | none => s
    | some b =>
      if b.len ≤ b.next then retireBody s t b
      else
        match nextBundle s t b with
        | none => s
        | some s1 => runBundles t fuel s1

/-- The registers of the engine as they stood before a speculative body ran; a stop has closed every stream. -/
def Vec.withRegs (x old : Vec) : Vec :=
  let y := { x with
    preds := old.preds
    idx := old.idx
    tallies := old.tallies
    tags := old.tags
    modes := old.modes
    badTallies := old.badTallies
    streams := old.streams }
  if x.stopped then y.closeStreams else y

/-- The body in progress goes on as far as it can. A speculative body works on the registers as what it withholds would leave them,
and leaves them as they stand (R222). -/
def resumeBody (t : Nat) (s : State) : State :=
  match (tileAt s t).vec.body with
  | none => s
  | some b =>
    if b.spec then
      let old := (tileAt s t).vec
      let s1 := modVec s t (fun x => ((tileAt s t).sched.suspense.at b.actor []).foldl Vec.take x)
      modVec (runBundles t (b.len + 1 - b.next) s1) t (fun x => x.withRegs old)
    else runBundles t (b.len + 1 - b.next) s

/-- FIRE_BODY: the engine takes its next firing, or goes on with a body that waited (R143, R209). -/
def fireBody (t : Nat) (s : State) : State :=
  if (tileAt s t).vec.stopped then s
  else if (tileAt s t).vec.body.isSome then resumeBody t s
  else
    match fireOf s t kindBody with
    | none => s
    | some x =>
      if !x.1.work then x.2.2
      else
        let b : Body := { actor := x.1.actor, addr := x.2.1.arg, len := x.2.1.len, spec := x.1.spec }
        resumeBody t (modVec x.2.2 t (fun v => { v with body := some b }))

def execFireBody (t : Nat) (s : State) : Host.Outcome State Fault Refusal := .next (fireBody t s)

/-! ### The network's result (R165) -/

/-- A tree's result delivered to one tile's tally. -/
def netDeliver (s : State) (tree t : Nat) (r : BitVec 128 × BitVec 8) : State :=
  match ((tileAt s t).vec.netOpen.find? (fun x => x.1 = tree)) with
  | some x => setTally s t x.2 r.1 r.2 none
  | none => s

/-- REDUCTION_TREE_COMPLETE: every contribution is in, and the result goes to its tallies; bodies that waited go on. -/
def treeComplete (q tree : Nat) (s : State) : State :=
  let p := partAt s q
  match (imageOf p).trees.find? (fun x => x.tree = tree) with
  | none => s
  | some x =>
    let got := p.trees.at tree []
    if (List.range x.contrib.length).any (fun k => !got.any (fun c => c.idx = k)) then s
    else
      let r := netResult x got
      let tiles := x.contrib.map (tileOfLocal p)
      let dests := if x.bcast then tiles else [tiles.getD x.root 0]
      let s1 := dests.foldl (fun s t => netDeliver s tree t r) s
      let s2 := modPart s1 q (fun p => { p with trees := p.trees.drop tree })
      let s3 := tiles.foldl (fun s t => modVec s t (fun v => { v with netOpen := v.netOpen.filter (fun y => y.1 ≠ tree) })) s2
      tiles.foldl (fun s t => resumeBody t s) s3

def execReductionTreeComplete (q tree : Nat) (s : State) : Host.Outcome State Fault Refusal := .next (treeComplete q tree s)

/-! ### RDU_TALLY_WRITE (R185) -/

/-- Whether the partition of a tile is RUNNING. -/
def tileRunning (s : State) (t : Nat) : Bool := (List.range 16).any (fun q => partOfTile s t = some q && (partAt s q).state = .running)

/-- A host write of half a tally: discarded while RUNNING, and closing an open stream otherwise. -/
def tallyWrite (t k half : Nat) (v : Word) (s : State) : State :=
  if tileRunning s t || !tilePresent s t || decide (64 ≤ k) then s
  else
    let old := tallyVal s t k
    let new := if half = 0 then old.extractLsb 127 64 ++ v else v ++ old.extractLsb 63 0
    setTally s t k (BitVec.ofNat 128 new.toNat) (tallyTag s t k &&& ~~~(BitVec.ofNat 8 16)) none

def execRduTallyWrite (t k half : Nat) (v : Word) (s : State) : Host.Outcome State Fault Refusal := .next (tallyWrite t k half v s)

end Sys2Proof.Machine
end

