-- ==== Sys2Proof/Machine/Array.lean ====
section
/-! DEFINITION. The cell array of a tile (R72 to R103, R559): feed intake, batch gate, issue stage, cells and column loaders,
and the meanings of FIRE_PASS, INTAKE_WRITE, GATE_OPEN, ISSUE_SLOT, CELL_FIRE and SHADOW_LOAD. -/

namespace Sys2Proof.Machine

/-! ### Parity and the weight layout (R72, R73, R87) -/

/-- Even parity of the low n bits of a number. -/
def parOf (n v : Nat) : Bool := decide (((List.range n).filter (fun i => v.testBit i)).length % 2 = 1)

/-- A lane element with its parity bit. -/
def laneEl (d : BitVec 4) (sign swap : Bool) : LaneEl :=
  { digit := d, sign := sign, swap := swap, par := parOf 4 d.toNat != (sign != swap) }

/-- The local row and column of cell number i of a segment's stream (R87), for the first half of the stream. -/
def streamLow (i : Nat) : Nat × Nat :=
  if i < 528 then
    let δ := ((List.range 32).filter (fun d => d * (d + 1) / 2 ≤ i)).length - 1
    let r := i - δ * (δ + 1) / 2
    (r, δ - r)
  else
    let r := (i - 528) % 32
    (r, 32 + (i - 528) / 32 - r)

/-- The local row and column of cell number i of a segment's stream: its last diagonals mirror its first. -/
def streamCell (i : Nat) : Nat × Nat :=
  if i < 3600 then streamLow i
  else let c := streamLow (4095 - i); (31 - c.1, 127 - c.2)

/-- Cell (k, n) of a tile's array. -/
def cellAt (a : Arr) (k n : Nat) : Cell := a.cells.at (128 * k + n) {}

/-- A cell changed. -/
def modCell (a : Arr) (k n : Nat) (f : Cell → Cell) : Arr := { a with cells := a.cells.put (128 * k + n) (f (cellAt a k n)) }

/-! ### The feed intake (R80 to R83) -/

/-- Key of a ring: layer slot and segment. -/
def ringKey (slot seg : Nat) : Nat := 4 * slot + seg

/-- A ring of a tile. -/
def ringOf (s : State) (t slot seg : Nat) : Ring := (tileAt s t).arr.rings.at (ringKey slot seg) {}

/-- A ring changed. -/
def modRing (s : State) (t key : Nat) (f : Ring → Ring) : State :=
  modArr s t (fun a => { a with rings := a.rings.put key (f (a.rings.at key {})) })

/-- Slots Ns and tags Nt of a ring. -/
def Ring.ns (r : Ring) : Nat := r.slotSize / 16
def Ring.nt (r : Ring) : Nat := r.tagSize / 2

/-- The line past the last one a row of d digits touches. -/
def Ring.lineEnd (r : Ring) (d : Nat) : Nat := (r.slotIn + d + 30) / 4 + 1

/-- Whether a row of d digits overwrites neither a slot nor a tag still in use (R83). -/
def Ring.room (r : Ring) (d : Nat) : Bool :=
  decide (r.denoms.length < r.nt) && (d = 0 || decide (4 * r.lineEnd d ≤ r.slotOut + r.ns))

/-- The lines of the stream that a row of d digits puts digits in. -/
def Ring.rowLines (r : Ring) (d : Nat) : List Nat := if d = 0 then [] else countFrom (r.slotIn / 4) (r.lineEnd d - r.slotIn / 4)

/-- The byte of slot σ for local rows 2·i and 2·i + 1 with a row's digits in it (R82): digit j of row r stands in slot T + j + r, and the
nibbles of other rows stay as they are. -/
def rowByte (b : Blk) (slotIn sigma i : Nat) (old : Byte) : Byte :=
  let nib (r : Nat) (was : Nat) : Nat :=
    if slotIn + r ≤ sigma ∧ sigma < slotIn + r + b.d then (digitOf (b.q.getD r 0) (sigma - slotIn - r)).toNat else was
  BitVec.ofNat 8 (nib (2 * i) (old.toNat % 16) + 16 * nib (2 * i + 1) (old.toNat / 16))

/-- A line's 64 bytes with a row's digits added to those written before. -/
def rowLine (b : Blk) (slotIn l : Nat) (old : List Byte) : List Byte :=
  (List.range 64).map (fun k => rowByte b slotIn (4 * l + k / 16) (k % 16) (old.getD k 0))

/-- The unfinished lines of a ring once a row is in it. -/
def Ring.linesWith (r : Ring) (b : Blk) : Tab (List Byte) :=
  (r.rowLines b.d).foldl (fun m l => m.put l (rowLine b r.slotIn l (m.at l []))) r.lines

/-- An element row written into its rings: each line it puts digits in written again whole, with the nibbles of every row so far, then its
tag (R82, R83, R254). A line no later row can reach is final. -/
def putRow (s : State) (t key : Nat) (r : Ring) (b : Blk) (src : SrcBlk) (run : Nat) : State :=
  let base := tileBase t + r.slotBase
  let lines := r.linesWith b
  let s1 := (r.rowLines b.d).foldl (fun s l => spanWrite s (base + 64 * (l % (r.ns / 4))) (lines.at l [])) s
  let ta := tileBase t + r.tagBase + 2 * (r.rowsIn % r.nt)
  let s2 := bankTurn s1 ta 2
  let s3 := { s2 with mem := writeBytes s2.mem ta (toLe 2 b.tag) }
  let s4 := if src.poisoned then poisonSpan s3 ta 2 else s3
  modRing s4 t key (fun r =>
    { r with
      rowsIn := r.rowsIn + 1
      slotIn := r.slotIn + b.d
      queuedAt := r.queuedAt ++ [run]
      denoms := r.denoms ++ [b.d]
      blocks := r.blocks ++ [src]
      lines := lines.filter (fun x => decide (r.slotIn + b.d < 4 * x.1 + 4)) })

/-- Whether the image has the tags of a layer's rings on a tile predicted (R202, R204). -/
def denomPredicted (s : State) (q t slot : Nat) : Bool :=
  hasPredictor s && (imageOf (partAt s q)).predict.any (fun x =>
    decide (x.kind = 1 ∧ x.tile = localOfTile (partAt s q) t ∧ x.target = slot))

/-- A guess of a row's denomination checked against its tag (R217, R240): a miss is a cause of the tick. The guess itself is the
predictor's and comes with the command (log entry 23); a wrong one costs only time. -/
def checkDenom (s : State) (q t slot d : Nat) (guess : Option Nat) : State :=
  match guess with
  | none => s
  | some g =>
    if !denomPredicted s q t slot then s
    else
      let s1 := regBump s (schReg q 0x30) 0 32 1
      if g = d then s1 else addCause (regBump s1 (schReg q 0x30) 32 32 1) q 8

/-- A block's row in a layer's denominations (R80, R81). -/
def intakeBlk (p : Part) (slot : Nat) (b : SrcBlk) : Blk × List Nat :=
  let l := (layerOf p slot).getD {}
  let rb := bitsAt p l.tag 1 (countFrom b.index 32)
  (feedBlock b.fmt b.bytes b.scale l.cap l.rndIn rb, rb)

/-- A block converted and written into its rings as queued in running tick run; none where they have no room. -/
def putBlock (s : State) (q t slot seg : Nat) (b : SrcBlk) (run : Nat) : Option State :=
  let r := ringOf s t slot seg
  let x := intakeBlk (partAt s q) slot b
  let l := (layerOf (partAt s q) slot).getD {}
  if !(r.room x.1.d) then none
  else
    let s1 := putRow s t (ringKey slot seg) r x.1 b run
    let s2 := if x.1.sat then raiseOverdraft s1 t slot else s1
    some (auditFeed s2 q slot 1 b l.cap l.rndIn x.2 x.1)

/-- INTAKE_WRITE: the segment's intake takes its next block for a layer slot, once its ring has room. -/
def intakeWrite (t seg slot : Nat) (guess : Option Nat) (s : State) : State :=
  let key := ringKey slot seg
  match partOfTile s t, (tileAt s t).arr.intakeQ.at key [] with
  | some q, b :: rest =>
    match putBlock s q t slot seg b (partAt s q).ctx.runTicks with
    | none => s
    | some s1 => checkDenom (modArr s1 t (fun a => { a with intakeQ := a.intakeQ.put key rest })) q t slot (intakeBlk (partAt s q) slot b).1.d guess
  | _, _ => s

def execIntakeWrite (t seg : Nat) (slot : Guessed) (s : State) : Host.Outcome State Fault Refusal :=
  .next (intakeWrite t seg slot.of slot.guess s)

/-! ### Pass plans and the batch gate (R85, R95, R559) -/

/-- A plan changed, by its number. -/
def modPlan (s : State) (t id : Nat) (f : Plan → Plan) : State :=
  modArr s t (fun a => { a with plans := a.plans.map (fun x => if x.id = id then f x else x) })

/-- The loads of a segment that meet a condition discarded: their cells' shadow registers and shadow exponents are free again (R96). -/
def discardSeg (a : Arr) (seg : Nat) (drop_ : Load → Bool) : Arr :=
  ((a.loads.at seg []).filter drop_).foldl (fun a x =>
    let b := (List.range x.next).foldl (fun a i =>
      let c := streamCell i
      modCell a (32 * seg + c.1) c.2 (fun y => { y with full := false })) a
    { b with
      expShadow := b.expShadow.filter (fun e => !decide (128 * seg ≤ e.1 ∧ e.1 < 128 * seg + x.scaleNext)) })
    { a with loads := a.loads.put seg ((a.loads.at seg []).filter (fun x => !drop_ x)) }

/-- Loads of all segments discarded. The dropped loads are the youngest, so every cell one of them wrote still holds what it wrote. -/
def discardLoads (s : State) (t : Nat) (drop_ : Load → Bool) : State :=
  modArr s t (fun a => (List.range 4).foldl (fun a seg => discardSeg a seg drop_) a)

/-- A plan over: it leaves the array and its firing's work is done. -/
def endPlan (s : State) (t : Nat) (x : Plan) : State :=
  finishFiring (modArr s t (fun a => { a with plans := a.plans.filter (fun y => y.id ≠ x.id) })) t x.actor

/-- Rows queued in a ring and in no window yet. -/
def Ring.waiting (r : Ring) : Nat := r.denoms.length - r.window

/-- The four rings of a plan's layer slot. -/
def planRings (s : State) (t : Nat) (x : Plan) : List Ring := (List.range 4).map (ringOf s t x.layerSlot)

/-- The rows queued for a plan's window: those whose tags are written in every segment. -/
def rowsQueued (s : State) (t : Nat) (x : Plan) : Nat :=
  (planRings s t x).foldl (fun a r => min a r.waiting) ((ringOf s t x.layerSlot 0).waiting)

/-- A plan's window fixed: the rows queued, up to WINDOW_ROWS (R95). -/
def openPlan (s : State) (t : Nat) (x : Plan) : State :=
  let rows := min (rowsQueued s t x) (feedRec s t x.feed).windowRows
  let rs := planRings s t x
  let out := x.rerun.getD ((tileAt s t).arr.planRows.at x.feed 0)
  let s1 := modPlan s t x.id (fun y =>
    { y with
      opened := true
      rows := rows
      outRow := out
      baseRows := rs.map (fun r => r.rowsOut + r.window)
      baseSlots := rs.map (fun r => r.slotOut + (r.denoms.take r.window).foldl (· + ·) 0) })
  let s2 := (List.range 4).foldl (fun s b => modRing s t (ringKey x.layerSlot b) (fun r => { r with window := r.window + rows })) s1
  let s3 := if x.rerun.isSome then s2 else modArr s2 t (fun a => { a with planRows := a.planRows.put x.feed (out + rows) })
  modFiring s3 t x.actor (fun f => { f with base := out })

/-- The plan of a tile that waits for its window. -/
def waitingPlan (s : State) (t : Nat) : Option Plan := (tileAt s t).arr.plans.find? (fun x => !x.opened)

/-- The tick count at which the window's first row was queued, in any segment. -/
def firstQueued (s : State) (t : Nat) (x : Plan) : Option Nat :=
  ((planRings s t x).filterMap (fun r => r.queuedAt[r.window]?)).foldl (fun a n =>
    match a with | none => some n | some m => some (min m n)) none

/-- Whether a plan's gate is open: by slots or rows, or (second) by its deadline (R95). -/
def gateOpens (s : State) (t : Nat) (x : Plan) : Bool × Bool :=
  let f := feedRec s t x.feed
  let run := (partAt s (partNum s t)).ctx.runTicks
  let full := decide (f.windowRows ≤ rowsQueued s t x)
  let slots := decide (f.gateSlots ≠ 0) && (planRings s t x).any (fun r =>
    decide (f.gateSlots ≤ (r.denoms.drop r.window).foldl (· + ·) 0))
  let late := decide (f.gateSlots ≠ 0)
    && (match firstQueued s t x with | some n => decide (n + f.gateTicks ≤ run) | none => false)
  if rowsQueued s t x = 0 then (false, false) else (full || slots, late)

/-- GATE_OPEN: the waiting plan's gate opens, fixing its window; a deadline is a cause of the tick (R95, R217). -/
def gateOpen (t : Nat) (s : State) : State :=
  match waitingPlan s t with
  | none => s
  | some x =>
    let g := gateOpens s t x
    if (tileAt s t).arr.faultStop then s
    else if g.1 then openPlan s t x
    else if g.2 then addCause (openPlan s t x) (partNum s t) 0x10
    else s

def execGateOpen (t : Nat) (s : State) : Host.Outcome State Fault Refusal := .next (gateOpen t s)

/-- A stream's close acts on a waiting plan: its window is the rows queued, and with none its firing ends (R95), and the weights loaded
for it are discarded, since it issues no pass. -/
def closeWindow (s : State) (t : Nat) (x : Plan) : State :=
  if rowsQueued s t x = 0 then endPlan (discardLoads s t (fun l => l.pred.isNone && l.plan = x.id)) t x else openPlan s t x

/-- A firing with GATE_CLOSE has completed: the close acts on the slot's waiting plan, or is kept (R95). -/
def gateClose (s : State) (t slot : Nat) : State :=
  match waitingPlan s t with
  | some x => if x.layerSlot = slot then closeWindow s t x
      else modArr s t (fun a => { a with keptClose := insertNat a.keptClose slot })
  | none => modArr s t (fun a => { a with keptClose := insertNat a.keptClose slot })

/-- The loads begun ahead meet the pass that fires (R96): those for its FEED record become its own, others are discarded and the right sets
are loaded before the swap. -/
def settleAhead (s : State) (t id feed : Nat) : State :=
  let s1 := discardLoads s t (fun l => match l.pred with | some f => f ≠ feed | none => false)
  let ahead (a : Arr) (seg : Nat) : Nat := ((a.loads.at seg []).filter (fun l => l.pred = some feed)).length
  modArr s1 t (fun a =>
    { a with
      plans := a.plans.map (fun x => if x.id = id then { x with loaded := (List.range 4).map (ahead a) } else x)
      loads := a.loads.map (fun p => (p.1, p.2.map (fun l => if l.pred = some feed then { l with pred := none, plan := id } else l))) })

/-- A plan begun; a kept close acts on one that would wait. -/
def beginPlan (s : State) (t : Nat) (f : Firing) (r : ActorRec) : State :=
  let a := (tileAt s t).arr
  let x : Plan := {
    id := a.nextPlan
    actor := f.actor
    feed := r.arg
    layerSlot := (feedRec s t r.arg).layerSlot
    tick := f.tick
    rerun := if f.rerun then some f.base else none }
  let s1 := settleAhead (modArr s t (fun a => { a with plans := a.plans ++ [x], nextPlan := a.nextPlan + 1 })) t x.id x.feed
  let g := gateOpens s1 t x
  if a.keptClose.contains x.layerSlot && !g.1 && !g.2 then
    closeWindow (modArr s1 t (fun a => { a with keptClose := a.keptClose.filter (fun k => k ≠ x.layerSlot) })) t x
  else s1

/-- FIRE_PASS: the array takes its next PASS firing, one waiting for its window at a time. -/
def firePass (t : Nat) (s : State) : State :=
  if (waitingPlan s t).isSome || (tileAt s t).arr.faultStop then s
  else
    match fireOf s t kindPass with
    | none => s
    | some x => if x.1.work then beginPlan x.2.2 t x.1 x.2.1 else x.2.2

def execFirePass (t : Nat) (s : State) : Host.Outcome State Fault Refusal := .next (firePass t s)

/-! ### Accumulations of a plan's sets (R108, R559) -/

/-- FEED indices of the pass plans of a layer slot on a tile, in order. -/
def layerPlans (s : State) (t slot : Nat) : List Nat :=
  ((withPos (tileAt s t).conf.feeds).filter (fun x => x.2.kind = 2 && x.2.layerSlot = slot)).map Prod.fst

/-- Whether a plan's layer continues one accumulation over its plans. -/
def planContinues (s : State) (t : Nat) (x : Plan) : Bool := layerContinues (partAt s (partNum s t)) x.layerSlot

/-- Whether a plan's sets begin accumulations, and whether they end them. -/
def planBegins (s : State) (t : Nat) (x : Plan) : Bool :=
  !planContinues s t x || decide ((layerPlans s t x.layerSlot).head? = some x.feed)
def planEnds (s : State) (t : Nat) (x : Plan) : Bool :=
  !planContinues s t x || decide ((layerPlans s t x.layerSlot).getLast? = some x.feed)

/-- The accumulator and output formats of a layer slot at the rung in force; A128 while ESTABLISHED is latched 0, and
throughout a REPLAY_WIDE attempt (R120, R129, R391). -/
def rungOf (p : Part) (slot : Nat) : Nat × Nat :=
  let r := (((layerOf p slot).map LayerRec.rungs).getD []).getD (layerRunOf p slot).rung (0x31, 0x22)
  (if !(latchedAnchor p slot).established || p.ctx.wide then 0x31 else r.1, r.2)

/-- Whether the accumulators of a plan's set j are free of outputs still to be converted. -/
def rowsFree (s : State) (t : Nat) (x : Plan) (j : Nat) : Bool :=
  let w := (feedRec s t x.feed).windowRows
  let earlier := (tileAt s t).arr.plans.filter (fun y => y.id < x.id)
  earlier.all (fun y => planContinues s t x && y.layerSlot = x.layerSlot && !planEnds s t y)
    && (planContinues s t x || decide (j < 512 / max w 1 + x.convSet))

/-- An element row's accumulators and count cleared (R108). -/
def clearRow (wide : Bool) (d : Drain) (m : Nat) : Drain :=
  let accs := d.accs.filter (fun x => x.1 / 128 ≠ m)
  { d with
    blocks := d.blocks.put m 0
    late := d.late.drop m
    accs := if wide then (List.range 128).foldl (fun a n => a.put (128 * m + n) { val := 0, tag := BitVec.ofNat 8 2 }) accs else accs }

/-- The accumulators of a plan's set j cleared, where it begins an accumulation and its rows are free; otherwise the drain
clears them when they become free, before it enters the set. -/
def clearSet (s : State) (t id j : Nat) : State :=
  match (tileAt s t).arr.plans.find? (fun x => x.id = id) with
  | none => s
  | some x =>
    if j < x.cleared || !rowsFree s t x j then s
    else
      let w := (feedRec s t x.feed).windowRows
      let wide := decide ((rungOf (partAt s (partNum s t)) x.layerSlot).1 = 0x31)
      let rows := (List.range x.rows).map (accRow w (planContinues s t x) j)
      let s1 := modPlan s t id (fun y => { y with cleared := j + 1 })
      if planBegins s t x then modDrain s1 t (fun d => rows.foldl (clearRow wide) d) else s1

/-! ### The issue stage (R86, R92 to R94) -/

/-- Where slot u of a window falls: the digit's place in its row and the row's digits. -/
def digitPos : List Nat → Nat → Option (Nat × Nat)
  | [], _ => none
  | d :: ds, u => if u < d then some (u, d) else digitPos ds (u - d)

/-- Window slots known of a pass. -/
def PassIssue.known (x : PassIssue) : Nat := x.denoms.foldl (· + ·) 0

/-- Whether every row's tag has been read. -/
def PassIssue.whole (x : PassIssue) : Bool := decide (x.denoms.length = x.rows)

/-- The lane element of local row r at a pass's present slot, from the bytes of its window slot. -/
def PassIssue.lane (x : PassIssue) (bytes : List Byte) (r : Nat) : Option LaneEl :=
  if x.sigma < r then none
  else if x.sigma = r then some (laneEl 0 false true)
  else
    (digitPos x.denoms (x.sigma - 1 - r)).map (fun p =>
      laneEl (BitVec.ofNat 4 (field (bytes.getD (r / 2) 0).toNat (4 * (r % 2)) 4)) (decide (p.1 + 1 = p.2)) false)

/-- Whether a pass still drives a row. -/
def PassIssue.live (x : PassIssue) : Bool := !x.whole || decide (x.sigma ≤ x.known + 31)

/-- Whether a pass needs its window slot's nibbles now. -/
def PassIssue.reads (x : PassIssue) : Bool := decide (0 < x.sigma ∧ x.sigma ≤ x.known + 31 ∧ 0 < x.known)

/-- The marker of a swap among a segment column's block tags. -/
def swapMark : Nat := 65536

/-- An item given to the drain ports of a segment's 128 columns. -/
def tellDrain (a : Arr) (seg item : Nat) : Arr :=
  { a with tags := (List.range 128).foldl (fun t n => t.put (128 * seg + n) (t.at (128 * seg + n) [] ++ [item])) a.tags }

/-- The segment's passes replaced. -/
def setIssue (s : State) (t seg : Nat) (l : List PassIssue) : State :=
  modArr s t (fun a => { a with issue := a.issue.put seg l })

/-- Tags read until the present window slot lies in a row, or the window ends; none where a tag stopped the array. The fuel
bounds the rows. -/
def readTags (t seg : Nat) : Nat → State → PassIssue → Option PassIssue × State
  | 0, s, x => (some x, s)
  | fuel + 1, s, x =>
    if x.whole || x.sigma = 0 || decide (x.sigma - 1 < x.known) then (some x, s)
    else
      let r := (tileAt s t).arr.rings.at x.ring {}
      let f := spanFetch s (tileBase t + r.tagBase + 2 * ((x.baseRow + x.denoms.length) % r.nt)) 2 false
      let tag := le f.1 0 2
      if f.2.1 then (none, arrayFault f.2.2 t 3 (32 * seg) 0 seg 6)
      else if decide (8 < field tag 8 4) || tag.testBit 15 then (none, arrayFault f.2.2 t 5 (32 * seg) 0 seg 5)
      else
        readTags t seg fuel (modArr f.2.2 t (fun a => tellDrain a seg tag)) { x with denoms := x.denoms ++ [field tag 8 4] }

/-- The next pass of a segment: the first opened plan with a set it has not issued. -/
def nextPass (s : State) (t seg : Nat) : Option (Plan × Nat) :=
  ((tileAt s t).arr.plans.find? (fun x => x.opened && decide (x.issued.getD seg 0 < (feedRec s t x.feed).setCount))).map
    (fun x => (x, x.issued.getD seg 0))

/-- A swap slot issued: a new pass of the segment. -/
def startPass (s : State) (t seg : Nat) (x : Plan) (j : Nat) : State :=
  let f := feedRec s t x.feed
  let y : PassIssue := {
    plan := x.id
    set := j
    last := decide (j + 1 = f.setCount)
    ring := ringKey x.layerSlot seg
    baseSlot := x.baseSlots.getD seg 0
    baseRow := x.baseRows.getD seg 0
    rows := x.rows }
  let loaded (l : Load) : Bool := decide (l.pred = none ∧ l.plan = x.id ∧ l.set = j ∧ l.next = 4096 ∧ l.scaleNext = 128)
  let s1 := modArr (modPlan s t x.id (fun p => { p with issued := setNth p.issued seg (j + 1) })) t (fun a =>
    let b := tellDrain { a with
      issue := a.issue.put seg (a.issue.at seg [] ++ [y])
      loads := a.loads.put seg ((a.loads.at seg []).filter (fun l => !loaded l)) } seg swapMark
    if seg = 0 then
      { b with
        passCount := (b.passCount + 1) % 2 ^ 24
        swapTags := b.swapTags ++ [layerTagOf (partAt s (partNum s t)) x.layerSlot] }
    else b)
  clearSet s1 t x.id j

/-- A pass's window slot read: 16 bytes of its slot ring. -/
def readSlot (s : State) (t : Nat) (x : PassIssue) : List Byte × Bool × State :=
  if !x.reads then ([], false, s)
  else
    let r := (tileAt s t).arr.rings.at x.ring {}
    spanFetch s (tileBase t + r.slotBase + 16 * ((x.baseSlot + (x.sigma - 1)) % r.ns)) 16 false

/-- Rows of a window whose last digit row 31 has issued by a slot. -/
def rowsIssued : List Nat → Nat → Nat → Nat
  | [], _, _ => 0
  | d :: ds, upto, now_ => if upto + d + 31 ≤ now_ then 1 + rowsIssued ds (upto + d) now_ else 0

/-- The rows that the last pass of a window has issued leave the ring (R83). -/
def releaseRows (s : State) (t : Nat) (x : PassIssue) : State × PassIssue :=
  let n := if x.last then rowsIssued x.denoms 0 x.sigma else 0
  if n ≤ x.freed then (s, x)
  else
    (modRing s t x.ring (fun r =>
      let k := n - x.freed
      { r with
        rowsOut := r.rowsOut + k
        slotOut := r.slotOut + (r.denoms.take k).foldl (· + ·) 0
        denoms := r.denoms.drop k
        blocks := r.blocks.drop k
        queuedAt := r.queuedAt.drop k
        window := r.window - k }), { x with freed := n })

/-- The passes after a slot: each a slot on, its issued rows let go, those that drive no row any more gone. -/
def advance (t : Nat) : State → List PassIssue → State × List PassIssue
  | s, [] => (s, [])
  | s, x :: l =>
    let y := { x with sigma := x.sigma + 1 }
    let a := releaseRows s t { y with sigma := x.sigma }
    let z := { a.2 with sigma := y.sigma }
    let rest := advance t a.1 l
    (rest.1, if z.live then z :: rest.2 else rest.2)

/-- The segment's slots read for its passes; none where a poisoned line stopped the array. -/
def readSlots (t seg : Nat) : State → List PassIssue → Option (List (PassIssue × List Byte)) × State
  | s, [] => (some [], s)
  | s, x :: l =>
    let f := readSlot s t x
    if f.2.1 then (none, arrayFault f.2.2 t 3 (32 * seg) 0 seg 6)
    else
      let r := readSlots t seg f.2.2 l
      (r.1.map (fun y => (x, f.1) :: y), r.2)

/-- One slot driven onto the segment's 32 row lanes. -/
def driveSlot (s : State) (t seg : Nat) : State :=
  let r := readSlots t seg s ((tileAt s t).arr.issue.at seg [])
  match r.1 with
  | none => r.2
  | some l =>
    let s1 := modArr r.2 t (fun a =>
      { a with laneIn := (List.range 32).foldl (fun m i =>
          match (l.filterMap (fun x => x.1.lane x.2 i)).head? with
          | some e => m.put (32 * seg + i) (m.at (32 * seg + i) [] ++ [e])
          | none => m) a.laneIn })
    let nxt := match (l.map Prod.fst).getLast? with
      | some x => x.baseSlot + min x.sigma x.known
      | none => 0
    let key := match (l.map Prod.fst).getLast? with | some x => x.ring | none => 0
    let s2 := if l.isEmpty then s1 else modRing s1 t key (fun r => { r with issueSlot := nxt })
    let a := advance t s2 (l.map Prod.fst)
    setIssue a.1 t seg a.2

/-- The issue stage's tags brought up to its present slot, and the next pass's swap slot issued where the last pass has
issued its window. -/
def prepareSlot (s : State) (t seg : Nat) : Option State :=
  let l := (tileAt s t).arr.issue.at seg []
  match l.getLast? with
  | none => (nextPass s t seg).map (fun y => startPass s t seg y.1 y.2)
  | some x =>
    let r := readTags t seg 512 s x
    match r.1 with
    | none => some r.2
    | some y =>
      let s1 := setIssue r.2 t seg (l.dropLast ++ [y])
      if y.whole && decide (y.known < y.sigma) then
        match nextPass s1 t seg with
        | some z => some (startPass s1 t seg z.1 z.2)
        | none => some s1
      else some s1

/-- ISSUE_SLOT: one slot of a segment, where all its row lanes have room. -/
def issueSlot (t seg : Nat) (s : State) : State :=
  let a := (tileAt s t).arr
  if a.faultStop || (List.range 32).any (fun i => decide (2 ≤ (a.laneIn.at (32 * seg + i) []).length)) then s
  else
    match prepareSlot s t seg with
    | none => s
    | some s1 => if (tileAt s1 t).arr.faultStop then s1 else driveSlot s1 t seg

def execIssueSlot (t seg : Nat) (s : State) : Host.Outcome State Fault Refusal := .next (issueSlot t seg s)

/-! ### Cells (R73 to R75) -/

/-- The digit a lane element carries: unsigned, or signed where SIGN is set. -/
def laneDigit (e : LaneEl) : Int := if e.sign then e.digit.toInt else (e.digit.toNat : Int)

/-- The west input of a cell. -/
def westIn (a : Arr) (k n : Nat) : List LaneEl := if n = 0 then a.laneIn.at k [] else (cellAt a k (n - 1)).east

/-- The north input of a cell below its segment's top row. -/
def northIn (a : Arr) (k n : Nat) : List ColEl := if k % 32 = 0 then [] else (cellAt a (k - 1) n).south

/-- Whether a cell fires on a lane element. -/
def cellReady (a : Arr) (k n : Nat) (e : LaneEl) : Bool :=
  let c := cellAt a k n
  (decide (k % 32 = 0) || !(northIn a k n).isEmpty) && (decide (n = 127) || decide (c.east.length < 2))
    && decide (c.south.length < 2) && (!e.swap || c.full)

/-- A swap wave has passed the last cell of segment 0: its set is the one active there (R101). -/
def waveDone (a : Arr) (k n : Nat) (swap : Bool) : Arr :=
  if swap && k = 31 && n = 127 then { a with activeLayer := a.swapTags.head?.getD a.activeLayer, swapTags := a.swapTags.drop 1 } else a

/-- A cell's inputs taken and its lane element passed east. -/
def takeInputs (a : Arr) (k n : Nat) (e : LaneEl) : Arr :=
  let a1 := if n = 0 then { a with laneIn := a.laneIn.put k ((a.laneIn.at k []).drop 1) }
    else modCell a k (n - 1) (fun c => { c with east := c.east.drop 1 })
  let a2 := if k % 32 = 0 then a1 else modCell a1 (k - 1) n (fun c => { c with south := c.south.drop 1 })
  if n = 127 then a2 else modCell a2 k n (fun c => { c with east := c.east ++ [e] })

/-- What a cell does with an element: it multiplies and adds, or swaps. -/
def cellOut (c : Cell) (e : LaneEl) (north : Option ColEl) : Cell :=
  if e.swap then
    { c with
      active := c.shadow
      activePar := c.shadowPar
      shadow := c.active
      shadowPar := c.activePar
      full := false
      installed := true
      south := c.south ++ [.swapTok] }
  else
    let in_ : Int := match north with | some (.psum v _) => v.toInt | _ => 0
    let v := BitVec.ofInt 25 (in_ + c.active.toInt * laneDigit e)
    { c with south := c.south ++ [.psum v (parOf 25 v.toNat)] }

/-- Whether a partial sum's parity fails. -/
def psumBad (x : Option ColEl) : Bool :=
  match x with
  | some (.psum v par) => par != parOf 25 v.toNat
  | _ => false

/-- CELL_FIRE: cell (k, n) fires; a parity error stops the array (R75, R99). DESIGN CHOICE (log entry 84): of several parity errors at one firing, which
R75 and R102 leave unranked, the first in the order lane element, partial sum, weight stops the array and is the one recorded. -/
def cellFire (t k n : Nat) (s : State) : State :=
  let a := (tileAt s t).arr
  let c := cellAt a k n
  match westIn a k n with
  | [] => s
  | e :: _ =>
    let north := (northIn a k n).head?
    if a.faultStop || !cellReady a k n e then s
    else if e.par != (laneEl e.digit e.sign e.swap).par then arrayFault s t 1 k n (k / 32) 1
    else if psumBad north then arrayFault s t 2 k n (k / 32) 1
    else if !e.swap && (c.activePar != parOf 16 c.active.toNat) then arrayFault s t 0 k n (k / 32) 1
    else modArr s t (fun a => waveDone (modCell (takeInputs a k n e) k n (fun c => cellOut c e north)) k n e.swap)

def execCellFire (t k n : Nat) (s : State) : Host.Outcome State Fault Refusal := .next (cellFire t k n s)

/-! ### Column loaders (R90, R91, R201) -/

/-- The next weight set a segment's loader comes to. -/
def nextLoad (s : State) (t seg : Nat) : Option (Plan × Nat) :=
  ((tileAt s t).arr.plans.find? (fun x => decide (x.loaded.getD seg 0 < (feedRec s t x.feed).setCount))).map
    (fun x => (x, x.loaded.getD seg 0))

/-- Whether a load still writes. -/
def Load.open_ (x : Load) : Bool := decide (x.next < 4096 ∨ x.scaleNext < 128)

/-- What a segment's loader takes up: the next set of a plan, or with none waiting the next set of the FEED record it is told to load ahead
of its firing, while its partition's attempt runs (R96). A plan's identity is none for a load ahead. -/
def loadFor (s : State) (t seg : Nat) (ahead : Option Nat) : Option (Option Plan × Nat × Nat) :=
  match nextLoad s t seg, ahead with
  | some (x, j), _ => some (some x, x.feed, j)
  | none, none => none
  | none, some f =>
    let mine := (((tileAt s t).arr.loads.at seg []).filter (fun l => l.pred.isSome))
    let p := partAt s (partNum s t)
    if decide (p.state = .running) && p.ctx.active && decide ((feedRec s t f).kind = 2 ∧ mine.length < (feedRec s t f).setCount)
        && mine.all (fun l => l.pred = some f) then some (none, f, mine.length)
    else none

/-- A load begun: its set's offset is read from the near store and judged (R201); at most four are in flight. -/
def beginLoad (s : State) (t seg : Nat) (ahead : Option Nat) : State :=
  let l := (tileAt s t).arr.loads.at seg []
  match loadFor s t seg ahead with
  | none => s
  | some (x, feed, j) =>
    if 4 ≤ (l.filter Load.open_).length then s
    else
      let f := spanFetch s (tileBase t + (feedRec s t feed).setList + 4 * j) 4 false
      let off := le f.1 0 4
      if f.2.1 then arrayFault f.2.2 t 4 (32 * seg) 0 seg 6
      else if off % 64 ≠ 0 || decide (0x600000 < off + 33280) then arrayFault f.2.2 t 6 (32 * seg) 0 seg 5
      else
        let id := (x.map Plan.id).getD 0
        let s1 := if x.isSome then modPlan f.2.2 t id (fun y => { y with loaded := setNth y.loaded seg (j + 1) }) else f.2.2
        modArr s1 t (fun a => { a with loads := a.loads.put seg (l ++ [{
          plan := id
          set := j
          off := off
          pred := if x.isSome then none else some feed }]) })

/-- The position of the oldest load whose next cell is writable: not full, and already written by every older load. -/
def cellLoad (a : Arr) (seg : Nat) : Option (Nat × Load) :=
  let l := a.loads.at seg []
  (withPos l).find? (fun x =>
    let c := streamCell x.2.next
    decide (x.2.next < 4096) && !(cellAt a (32 * seg + c.1) c.2).full && (l.take x.1).all (fun y => decide (x.2.next < y.next)))

/-- The position of the oldest load whose next scale byte has a free shadow exponent. -/
def scaleLoad (a : Arr) (seg : Nat) : Option (Nat × Load) :=
  let l := a.loads.at seg []
  (withPos l).find? (fun x =>
    decide (x.2.scaleNext < 128) && (a.expShadow.find (128 * seg + x.2.scaleNext)).isNone
      && (l.take x.1).all (fun y => decide (x.2.scaleNext < y.scaleNext)))

/-- Whether a load's pass has issued its swap slot in a segment. -/
def Load.taken (a : Arr) (seg : Nat) (x : Load) : Bool := x.pred.isNone && a.plans.all (fun y => decide (y.id ≠ x.plan ∨ x.set < y.issued.getD seg 0))

/-- A load of a segment changed; one that has written everything leaves once its pass has issued its swap slot. -/
def modLoad (s : State) (t seg i : Nat) (f : Load → Load) : State :=
  modArr s t (fun a =>
    { a with loads := a.loads.put seg (((a.loads.at seg []).modify i f).filter (fun x => x.open_ || !x.taken a seg)) })

/-- One cell's shadow register written. -/
def loadCell (s : State) (t seg : Nat) : State :=
  match cellLoad (tileAt s t).arr seg with
  | none => s
  | some (i, x) =>
    let c := streamCell x.next
    let first := streamCell (x.next / 32 * 32)
    let f := spanFetch s (tileBase t + x.off + 8192 * seg + 2 * x.next) 2 false
    if f.2.1 then arrayFault f.2.2 t 4 (32 * seg + first.1) first.2 seg 6
    else
      let w := BitVec.ofNat 16 (le f.1 0 2)
      modLoad (modArr f.2.2 t (fun a => modCell a (32 * seg + c.1) c.2 (fun y =>
        { y with shadow := w, shadowPar := parOf 16 w.toNat, full := true }))) t seg i (fun y => { y with next := y.next + 1 })

/-- One scale byte written into its shadow exponent. -/
def loadScale (s : State) (t seg : Nat) : State :=
  match scaleLoad (tileAt s t).arr seg with
  | none => s
  | some (i, x) =>
    let f := spanFetch s (tileBase t + x.off + 0x8000 + 128 * seg + x.scaleNext) 1 false
    if f.2.1 then arrayFault f.2.2 t 4 (32 * seg) (x.scaleNext / 64 * 64) seg 6
    else
      modLoad (modArr f.2.2 t (fun a => { a with expShadow := a.expShadow.put (128 * seg + x.scaleNext) (f.1.getD 0 0) })) t seg i
        (fun y => { y with scaleNext := y.scaleNext + 1 })

/-- SHADOW_LOAD: a segment's loader begins its next set where it may, and writes one cell and one shadow exponent. `ahead` names the FEED
record whose pass the loader expects next; like every guess of the predictor it comes with the command (log entry 23). -/
def shadowLoad (t seg : Nat) (ahead : Option Nat) (s : State) : State :=
  if (tileAt s t).arr.faultStop then s
  else
    let s1 := beginLoad s t seg ahead
    if (tileAt s1 t).arr.faultStop then s1
    else
      let s2 := loadCell s1 t seg
      if (tileAt s2 t).arr.faultStop then s2 else loadScale s2 t seg

def execShadowLoad (t : Nat) (seg : Guessed) (s : State) : Host.Outcome State Fault Refusal := .next (shadowLoad t seg.of seg.guess s)

end Sys2Proof.Machine
end

