-- ==== Sys2Proof/Machine/Drain.lean ====
section
/-! DEFINITION. The column drain (R78, R104 to R139, R168 to R172, R397 to R399, R559, R560): block partials, accumulation,
merges, output conversion, layer close, spot audit, and its window and registers. -/

namespace Sys2Proof.Machine

/-! ### BLOCK_PARTIAL (R78, R89, R107) -/

/-- Depths of the drain's digit stage and combine buffer (R92). -/
def digitDepth : Nat := 2
def combineDepth : Nat := 16

/-- Whether a block tag marks its block non-finite. -/
def tagNf (tag : Nat) : Bool := tag.testBit 12 || decide (tag % 256 = 255)

/-- What a segment column's port makes of a tag and its digits under the active weight exponent. -/
def formPartial (tag : Nat) (ew : BitVec 8) (digits : List (BitVec 25)) : Partial :=
  let d := field tag 8 4
  let nf := tagNf tag || decide (ew.toNat = 255)
  let p := (withPos digits).foldl (fun a x => a + x.2.toInt * 16 ^ x.1) (0 : Int)
  { counts := decide (1 ≤ d) && !tagNf tag
    nonfinite := nf
    p := if nf then 0 else p
    e := (tag % 256 : Nat) + (ew.toNat : Int) - 254 }

/-- The foot's oldest element moved into the digit stage, where it has room. -/
def takeFoot (a : Arr) (b n : Nat) : Arr :=
  let key := 128 * b + n
  let k := 32 * b + 31
  let st := a.digitStage.at key []
  match (cellAt a k n).south with
  | [] => a
  | x :: _ =>
    if digitDepth ≤ st.length then a
    else { modCell a k n (fun c => { c with south := c.south.drop 1 }) with digitStage := a.digitStage.put key (st ++ [x]) }

/-- The digit stage's oldest element taken off. -/
def dropDigit (a : Arr) (key : Nat) : Arr := { a with digitStage := a.digitStage.put key ((a.digitStage.at key []).drop 1) }

/-- A finished block partial handed to the combine buffer. -/
def pushPartial (a : Arr) (key tag : Nat) (digits : List (BitVec 25)) : Arr :=
  { a with
    combine := a.combine.put key (a.combine.at key [] ++ [formPartial tag (a.expActive.at key 0) digits])
    tags := a.tags.put key ((a.tags.at key []).drop 1)
    forming := a.forming.drop key }

/-- One move of a segment column's port, or none where it waits: a swap installs the shadow exponent; a tag takes its digits
in order; a tag with its digits complete gives a partial. -/
def portMove (a : Arr) (b n : Nat) : Option Arr :=
  let key := 128 * b + n
  match a.tags.at key [] with
  | [] => none
  | tag :: rest =>
    let st := a.digitStage.at key []
    if tag = swapMark then
      match st.head?, a.expShadow.find key with
      | some .swapTok, some e =>
        some { dropDigit a key with
          expActive := a.expActive.put key e
          expShadow := a.expShadow.drop key
          tags := a.tags.put key rest }
      | _, _ => none
    else if combineDepth ≤ (a.combine.at key []).length then none
    else
      let got := a.forming.at key []
      if field tag 8 4 ≤ got.length then some (pushPartial a key tag got)
      else
        match st.head? with
        | some (.psum v _) => some { dropDigit a key with forming := a.forming.put key (got ++ [v]) }
        | _ => none

/-- A port's moves until a block partial is formed or the port waits; the fuel bounds its moves. -/
def portRun : Nat → Arr → Nat → Nat → Arr
  | 0, a, _, _ => a
  | fuel + 1, a, b, n =>
    let a1 := takeFoot a b n
    let before := (a1.combine.at (128 * b + n) []).length
    match portMove a1 b n with
    | none => a1
    | some a2 => if before < (a2.combine.at (128 * b + n) []).length then a2 else portRun fuel a2 b n

/-- BLOCK_PARTIAL: segment b's port at column n forms its next block partial, or takes what of it has come. -/
def blockPartial (t b n : Nat) (s : State) : State :=
  if (tileAt s t).arr.faultStop then s else modArr s t (fun a => portRun 16 a b n)

def execBlockPartial (t seg n : Nat) (s : State) : Host.Outcome State Fault Refusal := .next (blockPartial t seg n s)

/-! ### DRAIN_ACCUMULATE (R104 to R108, R123) -/

/-- Significand precision of an output format (R122). -/
def precOf (c : Nat) : Nat :=
  match c with
  | 0x21 => 8
  | 0x20 => 11
  | 0x15 => 7
  | 0x10 => 4
  | 0x13 => 4
  | 0x11 => 3
  | 0x12 => 3
  | 0x14 => 2
  | _ => if isDb c then 4 * c - 1 else 24

/-- Guard bits G of an output format at a headroom (R122). -/
def guardBits (c headroom : Nat) : Int := 63 - (precOf c : Int) - headroom

/-- Whether a block count passes the LONG_SUM threshold 2^G. -/
def pastBound (count : Nat) (g : Int) : Bool := decide (g < 0 ∨ 2 ^ g.toNat < count)

/-- An accumulator moved exactly into A128 (R123). -/
def widen (c : Acc) : Acc := ({ c with val := c.val * 2 ^ 32 }.setTag tagWide).setTag tagLong

/-- The ends of an accumulator's window: values from −lim to lim − 1 (R64). -/
def accLim (c : Acc) : Int := if c.has tagWide then 2 ^ 127 else 2 ^ 63

/-- An exact value added to an accumulator with saturation (R106). -/
def addAcc (c : Acc) (x : Int) : Acc :=
  let t := c.val + x
  let c1 := { c with val := clamp t (-(accLim c)) (accLim c - 1) }
  if t < -(accLim c) ∨ accLim c - 1 < t then c1.setTag tagOverdraft else c1

/-- One column's entry of an element row: its block partials each rounded to the accumulator's last place, added exactly,
then added once (R104 to R107). -/
def enterCol (anchor g : Int) (count k : Nat) (parts : List Partial) (c : Acc) : Acc :=
  let c1 := if !c.has tagWide && pastBound (count + k) g then widen c else c
  let lam := if c1.has tagWide then anchor - 32 else anchor
  let fin := parts.filter (fun p => !p.nonfinite)
  let x := fin.foldl (fun a p => a + roundScaled rne 0 p.p (p.e - lam)) (0 : Int)
  let c2 := if fin.any (fun p => !exactScaled p.p (p.e - lam)) then c1.setTag tagInexact else c1
  let c3 := if parts.any Partial.nonfinite then c2.setTag tagNonfinite else c2
  addAcc c3 x

/-- The flags of DRN_STATUS and of the layer after a change of some accumulators (R106, R129, R138, R390). -/
def drainFlags (s : State) (q t slot : Nat) (over_ long nf : Bool) : State :=
  let r := tileReg t 0x780600
  let s1 := if over_ then raiseOverdraft s t slot else s
  let s2 := if long then regFlag s1 r 1 else s1
  if nf then reportNonfinite (regFlag s2 r 2) q t slot else s2

/-- Whether a tag bit is newly set between two accumulators. -/
def newly (i : Nat) (a b : Acc) : Bool := !a.has i && b.has i

/-- The block partials of one element row at column n: the heads of its four combine buffers, segments in order. -/
def colParts (a : Arr) (n : Nat) : List Partial := (List.range 4).filterMap (fun b => (a.combine.at (128 * b + n) []).head?)

/-- The heads of a column's combine buffers taken off. -/
def popCol (a : Arr) (n : Nat) : Arr :=
  { a with combine := (List.range 4).foldl (fun c b => c.put (128 * b + n) ((c.at (128 * b + n) []).drop 1)) a.combine }

/-- The block count of row m as it stands for column n: an entry that other columns have made and n has not is not in it (R108). -/
def countFor (d : Drain) (m n : Nat) : Nat :=
  d.blocks.at m 0 - ((d.late.at m []).filter (fun e => e.2.contains n)).foldl (fun a e => a + e.1) 0

/-- The oldest late entry of a row that column n has still to make, made. -/
def makeLate (n : Nat) : List (Nat × List Nat) → List (Nat × List Nat)
  | [] => []
  | e :: l =>
    if e.2.contains n then
      let cols := e.2.filter (· ≠ n)
      if cols.isEmpty then l else (e.1, cols) :: l
    else e :: makeLate n l

/-- Column n's entry of an element row with k counting blocks noted. The first column to make it raises the row's block count (R108, R110).
DEDUCED (log entry 41): the 40-bit count holds at 2^40 − 1, as the limits of R122 and R125 name that value as the largest. -/
def noteEntry (d : Drain) (m n k : Nat) : Drain :=
  let l := d.late.at m []
  if l.any (fun e => e.2.contains n) then { d with late := d.late.put m (makeLate n l) }
  else
    { d with
      blocks := d.blocks.put m (min (d.blocks.at m 0 + k) (2 ^ 40 - 1))
      late := d.late.put m (l ++ [(k, (List.range 128).filter (· ≠ n))]) }

/-- Whether an accumulator moves to A128 at an entry of k counting blocks (R123). -/
def widens (g : Int) (count k : Nat) (c : Acc) : Bool := !c.has tagWide && pastBound (count + k) g

/-- Column n of an element row entered into row m of the file: the block partials (R104 to R107), the count, the flags (R138). -/
def enterColumn (s : State) (q t slot m n : Nat) (parts : List Partial) : State :=
  let p := partAt s q
  let g := guardBits (rungOf p slot).2 ((layerOf p slot).getD {}).headroom
  let anchor := (latchedAnchor p slot).anchor
  let d := (tileAt s t).drain
  let count := countFor d m n
  let k := (parts.filter Partial.counts).length
  let old := accAt d (128 * m + n)
  let new := enterCol anchor g count k parts old
  let s1 := modDrain s t (fun d => noteEntry { d with accs := d.accs.put (128 * m + n) new } m n k)
  drainFlags s1 q t slot ((enterCol anchor g count k parts (old.dropTag tagOverdraft)).has tagOverdraft) (widens g count k old)
    (newly tagNonfinite old new)

/-- The plan whose rows the drain enters next at column n, with how many it has entered there. -/
def drainPlan (s : State) (t n : Nat) : Option (Plan × Nat) :=
  ((tileAt s t).arr.plans.find? (fun x => x.opened && decide (x.entered.getD n 0 < (feedRec s t x.feed).setCount * x.rows))).map
    (fun x => (x, x.entered.getD n 0))

/-- Whether every column has entered every row of a plan. -/
def enteredAll (s : State) (t : Nat) (x : Plan) : Bool :=
  decide ((feedRec s t x.feed).setCount ≤ x.drainSet)

/-- Column n one row on in a plan; with the last column's last row entered, a plan that ends no accumulation is over. -/
def drainStep (s : State) (t n : Nat) (x : Plan) : State :=
  let s1 := modPlan s t x.id (fun z => { z with entered := setNth z.entered n (z.entered.getD n 0 + 1) })
  match (tileAt s1 t).arr.plans.find? (fun y => y.id = x.id) with
  | some y => if enteredAll s1 t y && !planEnds s1 t y then endPlan s1 t y else s1
  | none => s1

/-- The drain takes the next element row at column n once the column's four combine buffers hold it and its accumulators are free
(R92, R94): no other column and no other segment's column holds it back. -/
def drainColumn (t : Nat) (s : State) (n : Nat) : State :=
  match partOfTile s t, drainPlan s t n with
  | some q, some (x, r) =>
    let parts := colParts (tileAt s t).arr n
    if parts.length < 4 then s
    else
      let j := r / max x.rows 1
      let s1 := clearSet s t x.id j
      if !(((tileAt s1 t).arr.plans.find? (fun y => y.id = x.id)).any (fun y => decide (j < y.cleared))) then s
      else
        let m := accRow (feedRec s t x.feed).windowRows (planContinues s t x) j (r % max x.rows 1)
        drainStep (enterColumn (modArr s1 t (fun a => popCol a n)) q t x.layerSlot m n parts) t n x
  | _, _ => s

/-- DRAIN_ACCUMULATE: every column takes its next element row where it can, one each (R92). -/
def drainAccumulate (t : Nat) (s : State) : State :=
  if (tileAt s t).arr.faultStop then s else (List.range 128).foldl (drainColumn t) s

def execDrainAccumulate (t : Nat) (s : State) : Host.Outcome State Fault Refusal := .next (drainAccumulate t s)

/-! ### ACCUMULATOR_MERGE (R124, R128, R137) -/

/-- A source accumulator added into a destination: widths brought together exactly, one saturating addition, tags ORed; an
A64 destination whose count passes the bound moves to A128. Whether it saturated, and whether it so moved. DEDUCED (log entry 41) from R128's "a value
plane in A64 or A128 layout": the plane's layout alone says what width a source value has, whatever the WIDE bit of its tag byte. -/
def mergeAcc (g : Int) (count : Nat) (srcWide : Bool) (sv : Int) (st : BitVec 8) (c : Acc) : Acc × Bool × Bool :=
  let w := c.has tagWide || srcWide
  let c1 := if w && !c.has tagWide then { c with val := c.val * 2 ^ 32 }.setTag tagWide else c
  let x := if w && !srcWide then sv * 2 ^ 32 else sv
  let c2 := addAcc c1 x
  let c3 := { c2 with tag := c2.tag ||| (st &&& 0x3D) }
  let moved := !c.has tagWide && pastBound count g
  let c4 := if !moved then c3 else if w then c3.setTag tagLong else widen c3
  (c4, decide (c2.val ≠ c1.val + x), moved)

/-- ACCUMULATOR_MERGE: a source tile, a value plane in A64 or A128 layout and a tag and count plane in layout 0, is added
into the file at the layer's anchor. -/
def accumulatorMerge (t slot valueAddr tagAddr : Nat) (srcWide : Bool) (s : State) : State :=
  match partOfTile s t with
  | none => s
  | some q =>
    let l := (layerOf (partAt s q) slot).getD {}
    let g := guardBits (rungOf (partAt s q) slot).2 l.headroom
    let d := (tileAt s t).drain
    let w := if srcWide then 16 else 8
    let counts := (List.range 512).map (fun m =>
      min (d.blocks.at m 0 + le (spanRead s (tagAddr + 0x10000 + 8 * m) 8) 0 8 % 2 ^ 40) (2 ^ 40 - 1))
    let new := (List.range 65536).map (fun i =>
      let v := signed (8 * w) (leNat (spanRead s (valueAddr + w * i) w))
      let tg := (spanRead s (tagAddr + i) 1).getD 0 0
      mergeAcc g (counts.getD (i / 128) 0) srcWide v tg (accAt d i))
    let old := (List.range 65536).map (accAt d)
    let s1 := modDrain s t (fun d => { d with accs := withPos (new.map Prod.fst), blocks := withPos counts })
    drainFlags s1 q t slot (new.any (fun x => x.2.1)) (new.any (fun x => x.2.2))
      ((old.zip new).any (fun x => newly tagNonfinite x.1 x.2.1))

def execAccumulatorMerge (t layerSlot valueAddr tagAddr : Nat) (srcWide : Bool) (s : State) : Host.Outcome State Fault Refusal :=
  .next (accumulatorMerge t layerSlot valueAddr tagAddr srcWide s)

/-! ### OUTPUT_CONVERSION (R132, R135, R136, R168 to R170, R560) -/

/-- The exact window value of an accumulator, a NaN where it is NONFINITE. -/
def windowVal (anchor : Int) (c : Acc) : FVal :=
  if c.has tagNonfinite then .nan
  else FVal.ofInt c.val (if c.has tagWide then anchor - 32 else anchor)

/-- A converted row: its line, scale bytes, the columns whose conversion saturated, those R132 makes non-finite, the number
of outputs so written, the values as stored, and the counts of an audit. -/
structure ConvRow where
  line : List Byte := []
  scales : Nat := 0
  sat : List Nat := []
  lost : List Nat := []
  nfOut : Nat := 0
  vals : List FVal := []
  over_ : Nat := 0
deriving DecidableEq, Repr, Inhabited

/-- An element row converted to an IEEE format; `bad` says which columns' accumulators overdrafted at the last rung. -/
def convIeee (f : IeeeFmt) (mode : Nat) (last : Bool) (v : List FVal) (rb : List Nat) (bad : List Bool) : ConvRow :=
  let r := (withPos (v.zip (rb.zip bad))).map (fun x =>
    let w := if x.2.1.isFin then drainIeee f mode x.2.2.1 x.2.1.sig x.2.1.exp else (f.nanBits, false)
    let lose := last && (x.2.2.2 || w.2)
    (x.1, if lose then f.nanBits else w.1, w.2, lose))
  let bits := r.map (fun x => x.2.1)
  let lost := (r.filter (fun x => x.2.2.2)).map Prod.fst
  { line := slice (bits.flatMap (toLe (f.width / 8))) 0 512
    sat := (r.filter (fun x => x.2.2.1)).map Prod.fst
    lost := lost
    nfOut := lost.length
    vals := bits.map f.decode
    over_ := (r.filter (fun x => x.2.2.1)).length }

/-- One block of 32 columns from column 32·j converted to a block format. -/
def convBlk (c mode : Nat) (last : Bool) (j : Nat) (v : List FVal) (rb : List Nat) (bad : List Bool) : ConvRow :=
  let r := packBlock c mode v rb
  let lose := bad.map (fun b => last && (b || r.2.2))
  let cols (l : List Bool) : List Nat := ((withPos l).filter Prod.snd).map (fun x => 32 * j + x.1)
  let w := if lose.any id then packBlock c mode ((v.zip lose).map (fun x => if x.2 then .nan else x.1)) rb else r
  { line := slice w.1 0 128
    scales := w.2.1
    sat := if r.2.2 then countFrom (32 * j) 32 else []
    lost := cols lose
    nfOut := if !lose.any id then 0 else if w.2.1 = 255 then 32 else (cols lose).length
    vals := blockValues c w.1 w.2.1
    over_ := clampedCount c mode v rb r.2.1 r.2.2 }

/-- An element row converted to a format of R35. -/
def convRow (c mode : Nat) (last : Bool) (v : List FVal) (rb : List Nat) (bad : List Bool) : ConvRow :=
  match ieeeOf c with
  | some f => convIeee f mode last v rb bad
  | none =>
    let part {α : Type} (l : List α) (j : Nat) : List α := (l.drop (32 * j)).take 32
    let b := (List.range 4).map (fun j => convBlk c mode last j (part v j) (part rb j) (part bad j))
    { line := b.flatMap ConvRow.line
      scales := leNat (b.map (fun x => BitVec.ofNat 8 x.scales))
      sat := b.flatMap ConvRow.sat
      lost := b.flatMap ConvRow.lost
      nfOut := (b.map ConvRow.nfOut).foldl (· + ·) 0
      vals := b.flatMap ConvRow.vals
      over_ := (b.map ConvRow.over_).foldl (· + ·) 0 }

/-- A statistic rounded once to binary32, its magnitude held at the largest finite value (R136). -/
def stat32 (x : FVal) : Nat := if x.isZero then fp32.signBit x.neg else (drainIeee fp32 rne 0 x.sig x.exp).1

/-- The exact sum of finite values. -/
def exactSum (l : List FVal) : FVal :=
  let e := l.foldl (fun a x => if x.isZero then a else min a x.exp) 100000
  FVal.ofInt (l.foldl (fun a x => if x.isZero then a else a + x.sig * 2 ^ (x.exp - e).toNat) (0 : Int)) e

/-- ROW_MAX and ROW_SUM of a row's converted values (R136). -/
def rowStats (l : List FVal) : Nat × Nat :=
  if l.any (fun x => !x.isFin) then (0x7FC00000, 0x7FC00000)
  else (stat32 (l.foldl maxV (l.head?.getD .zero)), stat32 (exactSum l))

/-- An entry of a table of maxima raised to at least m. -/
def raiseMax (l : Tab Int) (slot : Nat) (m : Int) : Tab Int := l.put slot (match l.find slot with | some y => max y m | none => m)

/-- The largest output exponent of a layer's present run on a tile raised by the row's finite non-zero outputs (R118, R393). -/
def noteExponents (d : Drain) (slot : Nat) (v : List FVal) (lost : List Nat) : Drain :=
  let tops := ((withPos v).filter (fun x => x.2.isFin && !x.2.isZero && !lost.contains x.1)).map (fun x => x.2.top)
  match tops with
  | [] => d
  | x :: l =>
    let m := l.foldl max x
    { d with xrun := raiseMax d.xrun slot m }

/-- The header of a finished row's queue entry (R169). -/
def entryHdr (tag m fmt tick scales : Nat) (accs : List Acc) (rowstat : Bool) : BitVec 96 :=
  let any (i : Nat) : Nat := b2n (accs.any (fun c => c.has i))
  BitVec.ofNat 96 (tag + m * 2 ^ 16 + any tagOverdraft * 2 ^ 25 + any tagLong * 2 ^ 26 + any tagNonfinite * 2 ^ 28
    + b2n rowstat * 2 ^ 29 + fmt * 2 ^ 32 + tick % 65536 * 2 ^ 48 + scales * 2 ^ 64)

/-- The plan whose outputs are converted next: the first that ends an accumulation. -/
def convPlan (s : State) (t : Nat) : Option Plan := (tileAt s t).arr.plans.find? (fun x => x.opened && planEnds s t x)

/-- A plan's conversion one row on, or a whole set on; with its last output handed on, the plan is over. -/
def convStep (s : State) (t : Nat) (x : Plan) (wholeSet : Bool) : State :=
  let more := !wholeSet && decide (x.convRow + 1 < x.rows)
  let set := if more then x.convSet else x.convSet + 1
  let row := if more then x.convRow + 1 else 0
  let s1 := modPlan s t x.id (fun y => { y with convSet := set, convRow := row })
  if set = (feedRec s t x.feed).setCount then endPlan s1 t x else s1

/-- A converted row written to the queue or to the plan's buffer. DEDUCED (log entry 41): these are the only places a drain hands a row to, since the plan
fields of R201 name no other; a block that R62 has come to an intake straight from a drain comes by a buffer and a FEED. -/
def handOn (s : State) (t : Nat) (x : Plan) (f : FeedRec) (l : LayerRec) (fmt : Nat) (c : ConvRow) (accs : List Acc) : State :=
  if f.destQueue then
    let st := if l.rowstat then rowStats c.vals else (0, 0)
    modDrain s t (fun d => { d with queue := d.queue ++ [{
      hdr := entryHdr l.tag x.convRow fmt x.tick c.scales accs l.rowstat
      data := c.line
      rowMax := BitVec.ofNat 32 st.1
      rowSum := BitVec.ofNat 32 st.2 }] })
  else
    let i := f.windowRows * x.convSet + x.convRow
    let s1 := spanWrite s (tileBase t + f.dest + 512 * i) c.line
    if hasScale fmt then spanWrite s1 (tileBase t + f.dest + 512 * f.windowRows * f.setCount + 4 * i) (toLe 4 c.scales) else s1

/-- The row's place in the file, its accumulators' values, and its element indices (R62). -/
def convIndices (x : Plan) (f : FeedRec) (l : LayerRec) : List Nat :=
  countFrom (f.outIndex0 + (x.outRow + x.convRow) * l.outWidth + 128 * x.convSet) 128

/-- One row of a plan's set converted. -/
def convertRow (s : State) (q t : Nat) (x : Plan) (fmt : Nat) : State :=
  let p := partAt s q
  let f := feedRec s t x.feed
  let l := (layerOf p x.layerSlot).getD {}
  let m := accRow f.windowRows (planContinues s t x) x.convSet x.convRow
  let anchor := (latchedAnchor p x.layerSlot).anchor
  let accs := (List.range 128).map (fun n => accAt (tileAt s t).drain (128 * m + n))
  let v := accs.map (windowVal anchor)
  let last := decide ((layerRunOf p x.layerSlot).rung = lastRung p x.layerSlot)
  let c := convRow fmt l.rndOut last v (bitsAt p l.tag 3 (convIndices x f l)) (accs.map (fun a => a.has tagOverdraft))
  let s1 := modDrain s t (fun d => noteExponents
    { d with
      accs := c.sat.foldl (fun a n => a.put (128 * m + n) ((accAt d (128 * m + n)).setTag tagOverdraft)) d.accs
      nfOut := d.nfOut.put x.layerSlot (d.nfOut.at x.layerSlot 0 + c.nfOut) } x.layerSlot v c.lost)
  let s2 := if c.sat.isEmpty then s1 else raiseOverdraft s1 t x.layerSlot
  let first := if c.lost.isEmpty then c.vals else (convRow fmt l.rndOut false v (bitsAt p l.tag 3 (convIndices x f l)) (v.map (fun _ => false))).vals
  let s3 := auditLayer s2 q x.layerSlot 3 fmt v first c.over_
  let tagged := (List.range 128).map (fun n => accAt (tileAt s3 t).drain (128 * m + n))
  handOn s3 t x f l fmt c tagged

/-- Outputs kept in the file at the layer's last rung: those that overdrafted are marked NONFINITE, the file's non-finite form, and
counted (R132). DEDUCED (log entry 41): R54 gives A64 and A128 no encoding, and R132 lets no clamped value reach a consumer. -/
def keptRow (last : Bool) (slot : Nat) (d : Drain) (m : Nat) : Drain :=
  let bad := (List.range 128).filter (fun n => last && (accAt d (128 * m + n)).has tagOverdraft)
  { d with
    accs := bad.foldl (fun a n => a.put (128 * m + n) ((accAt d (128 * m + n)).setTag tagNonfinite)) d.accs
    nfOut := if bad.isEmpty then d.nfOut else d.nfOut.put slot (d.nfOut.at slot 0 + bad.length) }

/-- OUTPUT_CONVERSION: the next finished element row is converted and handed on; A64 and A128 outputs stay in the file, a set
at a time. A full queue stalls the drain. -/
def outputConversion (t : Nat) (s : State) : State :=
  match partOfTile s t, convPlan s t with
  | some q, some x =>
    let fmt := (rungOf (partAt s q) x.layerSlot).2
    if (tileAt s t).arr.faultStop || decide (x.drainSet ≤ x.convSet) then s
    else if fmt = 0x30 || fmt = 0x31 then
      let f := feedRec s t x.feed
      let anchor := (latchedAnchor (partAt s q) x.layerSlot).anchor
      let last := decide ((layerRunOf (partAt s q) x.layerSlot).rung = lastRung (partAt s q) x.layerSlot)
      let s1 := (List.range x.rows).foldl (fun s i =>
        let m := accRow f.windowRows (planContinues s t x) x.convSet i
        modDrain s t (fun d =>
          let e := keptRow last x.layerSlot d m
          noteExponents e x.layerSlot ((List.range 128).map (fun n => windowVal anchor (accAt e (128 * m + n)))) [])) s
      convStep s1 t x true
    else if (feedRec s t x.feed).destQueue && decide (16 ≤ (tileAt s t).drain.queue.length) then s
    else convStep (convertRow s q t x fmt) t x false
  | _, _ => s

def execOutputConversion (t : Nat) (s : State) : Host.Outcome State Fault Refusal :=
  .next (resumeBody t (outputConversion t s))

/-! ### LAYER_CLOSE (R130 to R133, R172) -/

/-- Tiles of a partition that run a layer slot. -/
def layerTiles (s : State) (p : Part) (slot : Nat) : List Nat :=
  (partTiles p).filter (fun t => (tileAt s t).conf.actors.any (fun r => r.layerSlot = slot))

/-- How often a layer closes in an attempt: the most firings of a CLOSE actor of it, 1 where it has none. -/
def closings (s : State) (p : Part) (slot : Nat) : Nat :=
  max 1 (maxNat ((partTiles p).map (fun t =>
    maxNat ((tileAt s t).conf.actors.map (fun r => if r.layerSlot = slot && r.kind = kindClose then r.firings else 0)))))

/-- Whether a tile's part of a layer is finished (R130): its CLOSE actor has fired, and no firing of a repeat is left. DEDUCED (log entry 41): a tile that
runs the layer with no CLOSE actor has finished once no firing of the layer is ready or running there and each of the layer's actors but a
SYNC, which does no work (R197), has completed its share of the attempt's firings, one share for each time the layer closes. -/
def partDone (s : State) (p : Part) (slot t : Nat) : Bool :=
  let acts := (withPos (tileAt s t).conf.actors).filter (fun x => x.2.layerSlot = slot)
  let close := acts.any (fun x => x.2.kind = kindClose)
  let here (f : Firing) : Bool := (f.rerun || !close) && acts.any (fun x => x.1 = f.actor)
  let l := layerRunOf p slot
  (if close then l.tilesDone.contains (localOfTile p t)
    else acts.all (fun x => decide (x.2.kind = kindSync) ||
      decide ((l.closes + 1) * x.2.firings ≤ (ctxOf s t x.1).completed * closings s p slot)))
    && !(tileAt s t).sched.ready.any here && !(tileAt s t).sched.running.any here

/-- The layer closes at its rung: LAST_RUNG and LAST_REPEAT, flags cleared, CLOSE firings done (R130, R132). -/
def closeLayer (s : State) (q slot : Nat) (ts : List Nat) : State :=
  let l := layerRunOf (partAt s q) slot
  let s1 := modPart s q (fun p =>
    { p with anchors := match p.anchors.find slot with
        | some a => p.anchors.put slot { a with lastRung := l.rung, lastRepeat := decide (0 < l.repeats) }
        | none => p.anchors })
  let s2 := modLayer s1 q slot (fun l =>
    { l with
      running := false
      repeats := 0
      top := if 0 < l.repeats then max l.top (l.rung + 1) else l.top
      closes := l.closes + 1
      tilesDone := [] })
  ts.foldl (fun s t =>
    let s1 := modDrain s t (fun d =>
      { d with
        ovf := d.ovf.filter (fun x => x ≠ slot)
        nfOut := d.nfOut.drop slot
        xmax := match d.xrun.find slot with | some m => raiseMax d.xmax slot m | none => d.xmax
        xrun := d.xrun.drop slot })
    let s2 := modSched s1 t (fun c => { c with log := c.log.filter (fun x => x.1 ≠ slot) })
    (withPos (tileAt s2 t).conf.actors).foldl (fun s x =>
      if x.2.layerSlot = slot && x.2.kind = kindClose then
        (List.range ((tileAt s t).sched.running.length)).foldl (fun s _ => finishFiring s t x.1) s
      else s) s2) s2

/-- A tile's part of a layer run again: its entries leave the queue, its firings wait anew (R131, R172). -/
def repeatTile (slot tag : Nat) (s : State) (t : Nat) : State :=
  let s1 := modDrain s t (fun d =>
    { d with
      ovf := d.ovf.filter (fun x => x ≠ slot)
      queue := d.queue.filter (fun e => e.hdr.toNat % 65536 ≠ tag)
      xrun := d.xrun.drop slot
      nfOut := d.nfOut.drop slot })
  let s2 := modSched s1 t (fun c =>
    let l := (c.log.filter (fun x => x.1 = slot)).map Prod.snd
    { c with
      ready := c.ready ++ (withPos l).map (fun x => { x.2 with order := c.order + x.1, rerun := true, finished := false, spec := false })
      order := c.order + l.length })
  regCount s2 (tileReg t 0x780600) 32 16 1

/-- The layer is repeated at its next rung (R131). -/
def repeatLayer (s : State) (q slot : Nat) (ts : List Nat) (hit : Nat) : State :=
  let r := (layerRunOf (partAt s q) slot).rung
  let tag := layerTagOf (partAt s q) slot
  let s1 := numlog s q 1 tag 0xFFFFFFFF [r, r + 1, hit]
  let s2 := modLayer (addCause s1 q 1) q slot (fun l => { l with rung := r + 1, repeats := l.repeats + 1 })
  ts.foldl (repeatTile slot tag) s2

/-- LAYER_CLOSE: once every tile has finished its part, the flags are ORed and the layer closes or is repeated. -/
def layerClose (q slot : Nat) (s : State) : State :=
  let p := partAt s q
  let ts := layerTiles s p slot
  if ts.isEmpty || !(layerRunOf p slot).running || !ts.all (partDone s p slot) then s
  else
    let hit := ts.filter (fun t => (tileAt s t).drain.ovf.contains slot)
    if hit.isEmpty then closeLayer s q slot ts
    else if (layerRunOf p slot).rung < lastRung p slot then repeatLayer s q slot ts hit.length
    else
      let n := (ts.map (fun t => (tileAt s t).drain.nfOut.at slot 0)).foldl (· + ·) 0
      let s1 := numlog s q 2 (layerTagOf p slot) 0xFFFFFFFF [(layerRunOf p slot).rung, hit.length, n]
      closeLayer (raiseVote s1 q voteWarn) q slot ts

def execLayerClose (q layerSlot : Nat) (s : State) : Host.Outcome State Fault Refusal := .next (layerClose q layerSlot s)

/-! ### SPOT_RECOMPUTE (R397 to R399) -/

/-- Whether block i of a layer's output is sampled in a step (R397). -/
def sampled (k step i : Nat) : Bool :=
  decide (k = 0 ∨ (((i + step * 0x9E3779B9) * 0x85EBCA6B) % 2 ^ 32) >>> (32 - k) = 0)

/-- Row-major number of the output block that holds an element index. -/
def blockNumber (l : LayerRec) (index : Nat) : Nat :=
  let w := max l.outWidth 1
  index / w * ((w + 31) / 32) + index % w / 32

/-- The weights and exponent of weight block (b, n) of a set in a tile's near store (R87). -/
def weightBlk (s : State) (t off b n : Nat) : List Int × Nat :=
  ((List.range 32).map (fun r => signed 16 (le (spanRead s (tileBase t + off + weightOffset (32 * b + r) n) 2) 0 2)),
   ((spanRead s (tileBase t + off + 0x8000 + 128 * b + n) 1).getD 0 0).toNat)

/-- The block partial of an activation block and a weight block. -/
def exactPartial (b : Blk) (w : List Int × Nat) : Partial :=
  if b.nonfinite || w.2 = 255 then { nonfinite := true }
  else { p := ((b.q.zip w.1).map (fun x => x.1 * x.2)).foldl (· + ·) 0, e := (b.e : Int) + w.2 - 254 }

/-- One output recomputed in A128 at the latched anchor. -/
def spotAcc (anchor : Int) (parts : List Partial) : Acc :=
  parts.foldl (fun c p => enterCol anchor 64 0 0 [p] c) { val := 0, tag := BitVec.ofNat 8 2 }

/-- The last place of a stored value of a format at its own magnitude, with its block's scale byte. -/
def ulpOf (c scale : Nat) (x : FVal) : Int :=
  match ieeeOf c with
  | some f => if x.isZero then f.minUlp else max (x.top - f.mb) f.minUlp
  | none =>
    let e : Int := (scale : Int) - 127
    if isDb c then e
    else
      let t := mxTy c
      if t.eb = 0 then e - 6
      else if x.isZero then e + 1 - t.bias - t.mb
      else max (x.top - t.mb) (e + 1 - t.bias - t.mb)

/-- The disagreement of two values in whole ULPs; a mismatch of class counts as the threshold (R399). -/
def disagreement (warn : Nat) (ulp : Int) (posted again : FVal) : Nat :=
  if !posted.isFin || !again.isFin then (if posted.isFin = again.isFin then 0 else warn)
  else
    let d := exactSum [posted, again.negate]
    if d.isZero then 0
    else if 0 ≤ d.exp - ulp then d.sig.natAbs * 2 ^ (d.exp - ulp).toNat else d.sig.natAbs / 2 ^ (ulp - d.exp).toNat

/-- The activation blocks of a row, converted at the raised cap. -/
def spotActs (p : Part) (l : LayerRec) (fmt : Nat) (index : Nat) (acts : List (List Byte × Nat)) : List Blk :=
  (withPos acts).map (fun x =>
    let base := index / max l.outWidth 1 * l.inWidth + 32 * x.1
    feedBlock fmt x.2.1 x.2.2 (min (l.cap + 2) 8) l.rndIn (bitsAt p l.tag 1 (countFrom base 32)))

/-- A sample's disagreement: the largest over the block's 32 outputs. -/
def spotSample (s : State) (p : Part) (t slot row blk index fmt : Nat) (acts : List (List Byte × Nat)) (sets : List Nat) : Nat :=
  let l := (layerOf p slot).getD {}
  let out := (rungOf p slot).2
  let anchor := (latchedAnchor p slot).anchor
  let bs := withPos (spotActs p l fmt index acts)
  let rb := bitsAt p l.tag 3 (countFrom index 32)
  let conv (v : List FVal) : ConvRow := convRow out l.rndOut false (v ++ List.replicate 96 .zero) (rb ++ List.replicate 96 0) (List.replicate 128 false)
  let posted := conv ((countFrom (32 * blk) 32).map (fun n => windowVal anchor (accAt (tileAt s t).drain (128 * row + n))))
  let again := conv ((countFrom (32 * blk) 32).map (fun n =>
    windowVal anchor (spotAcc anchor (bs.map (fun b => exactPartial b.2 (weightBlk s t (sets.getD (b.1 / 4) 0) (b.1 % 4) n))))))
  let warn := (imageOf p).numerics.spotWarn
  maxNat (((posted.vals.take 32).zip (again.vals.take 32)).map (fun x => disagreement warn (ulpOf out (posted.scales % 256) x.1) x.1 x.2))

/-- SPOT_RECOMPUTE: a sampled block recomputed in idle array cycles from the layer's retained inputs; one that did not finish
before its layer would close counts as skipped. -/
def spotRecompute (t slot row blk index fmt : Nat) (acts : List (List Byte × Nat)) (sets : List Nat) (finished : Bool)
    (s : State) : State :=
  match partOfTile s t with
  | none => s
  | some q =>
    let p := partAt s q
    let n := (imageOf p).numerics
    let idle := (tileAt s t).arr.plans.isEmpty && (nextFiring s t kindPass).isNone
    if n.spotEnable = 0 || (layerOf p slot).isNone
        || !sampled n.spotK p.ctx.step (blockNumber ((layerOf p slot).getD {}) index) || (finished && !idle) then s
    else
      modTile s t (fun x =>
        let c := x.spots.at slot {}
        let d := spotSample s p t slot row blk index fmt acts sets
        let e :=
          if !finished then { c with skipped := c.skipped + 1 }
          else { c with
            done := c.done + 1
            largest := max c.largest d
            sum := c.sum + d
            atWarn := c.atWarn + b2n (decide (n.spotWarn ≤ d)) }
        { x with spots := x.spots.put slot e })

def execSpotRecompute (t layerSlot row blk outIndex actFmt : Nat) (acts : List (List Byte × Nat)) (sets : List Nat)
    (finished : Bool) (s : State) : Host.Outcome State Fault Refusal :=
  .next (spotRecompute t layerSlot row blk outIndex actFmt acts sets finished s)

/-! ### The accumulator window and the drain's registers (R111 to R117, R139) -/

/-- ACCUMULATOR_WINDOW_READ: bytes at a tile-window offset, in the layout in force. -/
def execAccumulatorWindowRead (t off len : Nat) (s : State) : Host.Outcome State Fault Refusal :=
  .next (if within off len 0x600000 0x100000 then emit s (.windowRead t off (spanRead s (tileReg t off) len)) else s)

/-- ACCUMULATOR_WINDOW_WRITE: each unit the bytes touch is merged and stored whole. -/
def execAccumulatorWindowWrite (t off : Nat) (data : List Byte) (s : State) : Host.Outcome State Fault Refusal :=
  .next (if within off data.length 0x600000 0x100000 then spanWrite s (tileReg t off) data else s)

/-- DRN_WINDOW_WRITE: while RUNNING only the partition's actors write it, otherwise only the host (R113). -/
def windowWrite (t : Nat) (fromHost : Bool) (v : Word) (s : State) : State :=
  if tilePresent s t && fromHost != decide ((partAt s (partNum s t)).state = .running) then regPut s (tileReg t 0x780608) (v.toNat % 2) else s

def execDrnWindowWrite (t : Nat) (fromHost : Bool) (v : Word) (s : State) : Host.Outcome State Fault Refusal :=
  .next (windowWrite t fromHost v s)

/-- DRN_ANCHOR_WRITE: ANCHOR, START_RUNG held at the last rung, ESTABLISHED; a slot the image does not assign takes nothing. -/
def anchorWrite (q slot : Nat) (v : Word) (s : State) : State :=
  if (layerOf (partAt s q) slot).isNone then s
  else modPart s q (fun p =>
    let a : Anchor := p.anchors.at slot {}
    let b := { a with
      anchor := signed 10 v.toNat
      startRung := min (field v.toNat 10 2) (lastRung p slot)
      established := v.toNat.testBit 12 }
    { p with anchors := p.anchors.put slot b })

def execDrnAnchorWrite (q slot : Nat) (v : Word) (s : State) : Host.Outcome State Fault Refusal := .next (anchorWrite q slot v s)

end Sys2Proof.Machine
end

