-- ==== Sys2Proof/Machine/Ckpt.lean ====
section
/-! DEFINITION. Checkpoint cuts, the copier, copy-ahead and the pool format (R451, R455 to R466), and the meanings of
CHECKPOINT_OBJECT_ACK and COPY_AHEAD_STAGE. -/

namespace Sys2Proof.Machine

/-- Bytes of a granule. -/
def granuleBytes : Nat := 65536

/-- Granules of a shard of n parameters (R455). -/
def granulesOf (n : Nat) : Nat := (12 * n + granuleBytes - 1) / granuleBytes

/-- Data bytes of granule j. -/
def granuleLen (n j : Nat) : Nat := min granuleBytes (12 * n - granuleBytes * j)

/-- Address of granule j of VERSION_v. -/
def granuleAddr (p : Part) (v j : Nat) : Nat := versionBase p v + 65536 + granuleBytes * j

/-- An object header (R464). -/
def objHeader (s : State) (q kind gen len index : Nat) : List Byte :=
  let p := partAt s q
  [0x44, 0x52, 0x43, 0x4B] ++ toLe 2 1 ++ toLe 1 kind ++ [0] ++ toLe 8 (jobIdOf p) ++ toLe 8 gen ++ toLe 2 s.devId
    ++ toLe 1 q ++ [0] ++ toLe 4 len ++ toLe 8 index ++ toLe 8 (imageOf p).id ++ (imageOf p).digest.take 8 ++ toLe 8 0

/-- An object: header, data, CRC-64/XZ trailer (R463). -/
def objBytes (header data : List Byte) : List Byte := header ++ data ++ toLe 8 (cvOf crc64xz (header ++ data))

/-- The next anchor of a bucket as the next step would latch it (R386). -/
def nextBucketAnchor (p : Part) (b : Nat) : Int :=
  match p.ctx.bucketNext.find b with
  | some a => a
  | none => p.ctx.bucketAnchor.at b (((bucketRec p b).map BucketRec.anchor0).getD 0)

/-- META's layer entries, in ascending slot (R465). -/
def metaLayers (p : Part) : List Byte :=
  (((List.range 4096).filterMap (layerOf p))).flatMap (fun l =>
    let a := p.anchors.at l.slot {}
    toLe 2 l.tag ++ toLe 2 l.slot ++ toLe 2 (unsigned 16 a.anchor) ++ toLe 1 (a.startRung % 4 + 4 * b2n a.established) ++ [0])

/-- META's data at the cut of a generation (R465). -/
def metaData (p : Part) (gen : Nat) : List Byte :=
  let i := imageOf p
  let rs := ownRecipes p
  toLe 8 gen ++ toLe 8 p.ctx.seed.toNat ++ toLe 8 (shardSize p) ++ toLe 4 p.settle.updateCount ++ toLe 4 p.ctx.lrScale.toNat
    ++ toLe 2 p.abortEpoch ++ toLe 2 0 ++ toLe 4 i.ticksPerStep ++ toLe 4 i.layers.length ++ toLe 4 i.buckets.length
    ++ toLe 4 rs.length ++ toLe 4 0 ++ toLe 8 i.id ++ slice i.digest 0 64 ++ List.replicate 128 0
    ++ metaLayers p
    ++ ((List.range i.buckets.length).flatMap (fun b => toLe 2 (unsigned 16 (nextBucketAnchor p b)) ++ toLe 2 0))
    ++ rs.flatMap Recipe.raw

/-- Pool offset of an object in its slot (R463). -/
def objOffset (n : Nat) : Nat := if n = 0 then 0 else if n = 2 ^ 40 then 0x7FF000 else 0x800000 + 65664 * (n - 1)

/-- The far-store span that an object's data are read from: a staged granule's place in staging, else the pinned version's (R459). -/
def objectSpan (s : State) (q : Nat) (c : CkptCopy) (n : Nat) : Nat × Nat :=
  let p := partAt s q
  if n = 0 || n = 2 ^ 40 then (0, 0)
  else
    let len := granuleLen (shardSize p) (n - 1)
    if c.staged.any (fun x => x.1 = n - 1) then (poolAddr s 2 q (n - 1), len) else (granuleAddr p c.ver (n - 1), len)

/-- An object's bytes: staged granules from staging, others from the pinned version. -/
def objectOf (s : State) (q : Nat) (c : CkptCopy) (n : Nat) : List Byte :=
  let p := partAt s q
  if n = 0 then c.metaBytes
  else if n = 2 ^ 40 then
    objBytes (objHeader s q 3 c.gen 64 0)
      (toLe 8 c.gen ++ toLe 8 c.granules ++ toLe 8 c.fprint.toNat ++ slice c.metaBytes (c.metaBytes.length - 8) 8
        ++ toLe 8 (shardSize p) ++ List.replicate 24 0)
  else
    let j := n - 1
    let len := granuleLen (shardSize p) j
    let data := match c.staged.find? (fun x => x.1 = j) with
      | some x => x.2
      | none => readBytes s.mem (granuleAddr p c.ver j) len
    objBytes (objHeader s q 2 c.gen len j) data

/-- The object to issue next (R459): META, then staged granules, then the one a held writer waits on, then ascending; the
seal once everything is acknowledged. -/
def nextObject (c : CkptCopy) : Option Nat :=
  let left := (List.range c.granules).filter (fun j => !c.issued.contains j)
  if !c.metaSent then some 0
  else
    match (c.staged.map Prod.fst).find? (fun j => left.contains j) with
    | some j => some (j + 1)
    | none =>
      match c.waiting.find? (fun j => left.contains j) with
      | some j => some (j + 1)
      | none =>
        match left.head? with
        | some j => some (j + 1)
        | none => if c.outstanding.isEmpty && c.copied.length = c.granules then some (2 ^ 40) else none

/-- The connection an object goes on: the first for META and SEAL; for STATE one with nothing outstanding. -/
def freeConn (c : CkptCopy) (n : Nat) : Option Nat :=
  (List.range (if n = 0 || n = 2 ^ 40 then 1 else c.conns.length)).find? (fun i => !c.outstanding.any (fun x => x.2 = i))

/-- A generation ends with FAILED (R461). -/
def failCopy (s : State) (q st : Nat) : State :=
  if (partAt s q).ckpt.copy.isNone then s
  else regFlag (modCkpt s q (fun k => { k with copy := none, lastFail := st })) (ckpReg q 0) 6

/-- Objects issued while one may go (R459); a write on a closed connection ends with TIMEOUT (R320). The fuel is more than the connections. -/
def issueObjects : Nat → State → Nat → State
  | 0, s, _ => s
  | fuel + 1, s, q =>
    match (partAt s q).ckpt.copy with
    | none => s
    | some c =>
      match nextObject c with
      | none => s
      | some n =>
        match freeConn c n with
        | none => s
        | some i =>
          if !s.conns.any (fun x => x.qpn = c.conns.getD i 0) then failCopy s q stTimeout
          else
          let x := objectSpan s q c n
          charged s q engCheckpoint [x] (fun s =>
            let obj := objectOf s q c n
            let s0 := (ethStream (fcUseSpan s x.1 x.2 false false) (ethTxUnit (((connAt s (c.conns.getD i 0)).map Conn.port).getD 0)) q
              (obj.take (obj.length - 8))).2
            let s1 := emit s0 (.poolWrite (c.conns.getD i 0) (c.slot + objOffset n) c.rkey obj)
            let s2 := modCkpt s1 q (fun k => { k with copy := k.copy.map (fun c =>
              { c with
                metaSent := true
                issued := if n = 0 || n = 2 ^ 40 then c.issued else insertNat c.issued (n - 1)
                outstanding := c.outstanding ++ [(n, i)] }) })
            issueObjects fuel s2 q)

/-- Free target slots. -/
def freeSlots (k : Ckpt) : Nat := (k.target.slots.filter (fun x => !x.2)).length

/-- The cut of a generation (R455 to R457), the settled version being the new one. A shadow takes none. -/
def takeCut (s : State) (q gen : Nat) : State :=
  if isShadowing (partAt s q) then s
  else
    let s0 := if (partAt s q).ckpt.copy.isSome then regFlag s (ckpReg q 0) 5 else s
    let s1 := modCkpt s0 q (fun k => { k with pending := false, copy := none })
    let p := partAt s1 q
    match (withPos p.ckpt.target.slots).find? (fun x => !x.2.2) with
    | none => logWith (regFlag s1 (ckpReg q 0) 4) (Config.logCode 1) 0 0 0 q [gen]
    | some x =>
      let md := metaData p gen
      let copy : CkptCopy := {
        gen := gen
        slot := x.2.1
        rkey := p.ckpt.target.rkey
        conns := p.ckpt.target.conns
        ver := p.settle.settledVer
        granules := granulesOf (shardSize p)
        metaBytes := objBytes (objHeader s1 q 1 gen md.length 0) md
        fprint := word (settledFprint s1 p) }
      let used := setNth p.ckpt.target.slots x.1 (x.2.1, true)
      issueObjects 5 (modCkpt s1 q (fun k => { k with copy := some copy, target := { k.target with slots := used } })) q

/-- CHECKPOINT_OBJECT_ACK: the oldest outstanding pool write of the partition's copy is acknowledged (R459, R466), or answered with a remote
error, which ends the generation (R461). DESIGN CHOICE (log entry 80): LAST_FAIL shows TIMEOUT for a remote error; R461 names no status. -/
def objectAck (q : Nat) (ok : Bool) (s0 : State) : State :=
  match (partAt s0 q).ckpt.copy with
  | none => s0
  | some c =>
    match c.outstanding with
    | [] => s0
    | (n, i) :: rest =>
      let s := ackedConn s0 (c.conns.getD i 0)
      if !ok then failCopy s q stTimeout
      else if n = 2 ^ 40 then modCkpt s q (fun k => { k with copy := none, lastSealed := c.gen })
      else
        let c1 := { c with
          outstanding := rest
          copied := if n = 0 then c.copied else insertNat c.copied (n - 1)
          staged := c.staged.filter (fun x => n = 0 || x.1 ≠ n - 1)
          waiting := c.waiting.filter (fun j => n = 0 || j ≠ n - 1) }
        issueObjects 5 (modCkpt s q (fun k => { k with copy := some c1 })) q

def execCheckpointObjectAck (a : PoolAnswer) (s : State) : Host.Outcome State Fault Refusal := .next (objectAck a.q a.ok s)

/-- Granules the partition's staging share holds (R460). -/
def stagingRoom (p : Part) : Nat := p.quota.getD 2 0 * 16

/-- Whether a write to granule j of VERSION_v must wait for it to be copied (R460). -/
def granulePinned (p : Part) (v j : Nat) : Bool :=
  match p.ckpt.copy with
  | none => false
  | some c => decide (c.ver = v ∧ j < c.granules) && !c.copied.contains j && !c.staged.any (fun x => x.1 = j)

/-- The granules of parameters [lo, hi). -/
def granulesTouched (lo hi : Nat) : List Nat :=
  if hi ≤ lo then [] else countFrom (12 * lo / granuleBytes) ((12 * hi - 1) / granuleBytes + 1 - 12 * lo / granuleBytes)

/-- COPY_AHEAD_STAGE: a granule that a held write waits on is copied into staging, where the share has room (R460). -/
def copyAhead (q g : Nat) (s : State) : State :=
  let p := partAt s q
  match p.ckpt.copy with
  | none => s
  | some c =>
    if granulePinned p c.ver g && c.waiting.contains g && decide (c.staged.length < stagingRoom p) then
      let a := granuleAddr p c.ver g
      let n := granuleLen (shardSize p) g
      let b := poolAddr s 2 q g
      charged s q engStaging [(a, n), (b, n)] (fun s =>
        let x := spanFetch s a n false
        let c1 := { c with staged := c.staged ++ [(g, x.1)], waiting := c.waiting.filter (fun j => j ≠ g) }
        modCkpt (fcUseSpan x.2.2 b n true false) q (fun k => { k with copy := some c1 }))
    else s

def execCopyAheadStage (q g : Nat) (s : State) : Host.Outcome State Fault Refusal := .next (copyAhead q g s)

end Sys2Proof.Machine
end

