-- ==== Sys2Proof/Machine/Settle.lean ====
section
/-! DEFINITION. Steps, fingerprints, votes and settlement (R117, R213, R308, R386, R391 to R394, R414, R426 to R430, R451, R454,
R455), and the meanings of VOTE_WAIT_EXPIRY and DOWNWARD_TICK's result. -/

namespace Sys2Proof.Machine

/-! ### The beginning of steps and attempts -/

/-- UPD_LR's LR_SCALE_NEXT: the stored bits are those that differ from the reset value 1.0 (R450). -/
def lrNext (s : State) (q : Nat) : Nat := regField s (updReg q 0x58) 0 32 ^^^ 0x3F800000

/-- Values latched at the first tick of a step (R117, R386, R414). -/
def latchStep (s : State) (q : Nat) : State :=
  let p := partAt s q
  let lr := lrNext s q
  modCtx s q (fun c =>
    { c with
      latched := p.anchors
      bucketAnchor := (List.range (imageOf p).buckets.length).foldl (fun t b => t.put b (nextBucketAnchor p b)) []
      bucketNext := []
      presets := []
      presetD64 := []
      wide := false
      skipLast := c.skipLast
      lrScale := BitVec.ofNat 32 lr })

/-- A tile made ready for an attempt: every context starts at no firing; a new step keeps the tokens that have come. DESIGN CHOICE (log entry 86): what the
drain keeps by layer, the overdraft flags among it, starts afresh with the attempt; R130 and R131 clear the flags at a close and a repeat, and
name no other moment. -/
def readyTile (keep : Bool) (s : State) (t : Nat) : State :=
  let s1 := modSched s t (fun c =>
    { c with
      ctx := if keep then c.ctx.map (fun x => (x.1, { x.2 with fired := 0, completed := 0 })) else []
      log := []
      stopped := false
      finish := 0 })
  modTile (modDrain s1 t (fun d => { d with ovf := [], xmax := [], xrun := [], late := [], nfSeen := [], nfOut := [] })) t (fun x =>
    { x with spots := [], arr := { x.arr with planRows := [] } })

/-- An attempt of the partition's step begins at tick f (R213). -/
def beginAttempt (s : State) (q f : Nat) (again : Bool) : State :=
  let s1 := modPart s q (fun p =>
    { p with
      replay := false
      replayAt := none
      buckets := []
      ctx := { p.ctx with
        firstTick := f
        shift := 0
        attempt := if again then p.ctx.attempt + 1 else 1
        firstAttemptTick := if again then p.ctx.firstAttemptTick else f
        firstAttemptCycle := if again then p.ctx.firstAttemptCycle else s.tick.began
        active := true
        layers := []
        waitResult := false
        holding := false
        nonfiniteSeen := false
        overdraftSeen := false
        firstNf := 0xFFFF
        firstNfTick := 0
        causes := 0
        audits := []
        norms := [] } })
  let s2 := modBinding s1 q (fun b => { b with slots := b.slots.map (fun e =>
    { e with fprintSent := false, joined := e.joined || (decide (e.role = 2) && !again) }) })
  let s3 := { s2 with flows := s2.flows.map (fun x => if x.q = q then { x with sentIdx := [], rcvdIdx := [] } else x) }
  let ts := partTiles (partAt s3 q)
  ts.foldl refresh (ts.foldl (readyTile true) s3)

/-- A step begins at tick f: its values are latched, and its first attempt begins. -/
def beginStep (s : State) (q step f : Nat) : State :=
  beginAttempt (modCtx (latchStep s q) q (fun c => { c with step := step })) q f false

/-! ### Votes of the module -/

/-- NONFINITE raised in the current tick's vote (R390). -/
def raiseNonfinite (s : State) (q : Nat) : State :=
  modCtx (raiseVote s q voteNonfinite) q (fun c =>
    { c with
      firstNfTick := if c.nonfiniteSeen then c.firstNfTick else now s
      nonfiniteSeen := true })

/-- A suspect named: its report at the tree context and the SUSPECT event (R298, R308, R328). -/
def nameSuspect (s : State) (k dev : Nat) : State :=
  let r := ctl (0x41000 + 0x20 * k + 8)
  sendEvent (regFlag (modTree s k (fun x => { x with suspectDev := dev })) r 48) 0x8005 (treeAt s k).part dev k

/-! ### Fingerprints (R423, R426, R430) -/

/-- Whether an escrow slot takes part in settlement (R425, R435). -/
def takesPart (e : EscrowSlot) : Bool := decide (e.role = 1) || (decide (e.role = 2) && e.joined)

/-- Whether the alternate version of the step is complete: every range is applied. -/
def alternateDone (p : Part) : Bool := decide (p.settle.rangesDone.length = (ownRecipes p).length) && !isIncomplete p

/-- Blocks of an owner's shard. -/
def ownerBlocks (p : Part) (k : Nat) : Nat := (ownerParams p k + 31) / 32

/-- Whether the escrow pass over owner k has finished (R423). -/
def passFinished (p : Part) (k : Nat) : Bool := decide (ownerBlocks p k ≤ (escrowSlot p (2 + k)).passDone)

/-- Whether escrow slot i's own fingerprint is known. -/
def fprintKnown (p : Part) (i : Nat) : Bool := if i < 2 then alternateDone p else passFinished p (i - 2)

/-- Escrow slot i's own fingerprint: of the alternate version to a keeper, of the escrow to an owner. -/
def ownFprintOf (s : State) (p : Part) (i : Nat) : Nat :=
  if i < 2 then alternateFprint s p else escrowFprint s p (i - 2)

/-- A mailbox slot's 32 bytes (R426). -/
def mailBytes (step fprint flags : Nat) : List Byte := toLe 8 step ++ toLe 8 fprint ++ toLe 4 flags ++ List.replicate 12 0

/-- Address of the partition's mailbox slot for escrow slot i. -/
def mailAddr (p : Part) (i : Nat) : Nat := p.carve + 0xF0000 + 32 * i

/-- The flow of an escrow slot's partner. -/
def escrowFlow (p : Part) (i : Nat) : Nat := (escrowSlot p i).flow

/-- Fingerprints written to the partners that have not had them yet, PENDING in place of a value not yet known. -/
def sendFprints (s : State) (q : Nat) : State :=
  (List.range 4).foldl (fun s i =>
    let p := partAt s q
    let e := escrowSlot p i
    if !takesPart e || e.fprintSent then s
    else
      let known := fprintKnown p i
      let data := if known then mailBytes p.ctx.step (ownFprintOf s p i) 1 else mailBytes p.ctx.step 0 2
      let s1 := enqueue s q e.flow 1 (Config.mailboxAddress e.dev e.flow) (now s) data [] false false false .send
      modEscrow s1 q i (fun e => { e with fprintSent := known })) s

/-- Whether the module must raise HOLD: a cold newcomer is incomplete, or an escrow pass has not finished (R423, R443). -/
def mustHold (p : Part) : Bool :=
  isIncomplete p || (List.range 2).any (fun k => takesPart (escrowSlot p (2 + k)) && !passFinished p k)

/-- The targeted tests of a dispute (R430, R480): every update engine and every active channel. -/
def disputeTests (s : State) : State :=
  let s1 := (List.range 12).foldl (fun s i => queueTest s 7 i false 0xFF) s
  s1.fs.active.foldl (fun s c => queueTest s 5 c false 0xFF) s1

/-- A mismatch with partner slot i: DISPUTE and ABORT; the second in one step is logged and pre-empts (R426, R430). -/
def dispute (s : State) (q i own peer a : Nat) : State :=
  let p := partAt s q
  let s1 := disputeTests (raiseVote s q voteDispute)
  let s2 :=
    if p.settle.disputeOnce.contains i then
      let r := regPut (regPut s1 (updReg q 0x48) own) (updReg q 0x50) peer
      requestPreempt (regFlag (logWith r 0x0D 7 0 0 q [p.ctx.step, own, peer]) (updReg q 0x18) 3) q
    else modSettle s1 q (fun x => { x with disputeOnce := insertNat x.disputeOnce i })
  stepAbort s2 q causeDispute a false false

/-- The comparison of every own fingerprint with its mailbox slot before the vote of settlement or hold tick a (R426). -/
def compareFprints (s : State) (q a : Nat) : State :=
  (List.range 4).foldl (fun s i =>
    let p := partAt s q
    let e := escrowSlot p i
    if !takesPart e then s
    else
      let m := readBytes s.mem (mailAddr p i) 32
      let fresh := decide (le m 0 8 = p.ctx.step)
      let valid := fresh && (le m 16 4).testBit 0
      let pending := fresh && (le m 16 4).testBit 1
      if valid then
        if !fprintKnown p i then s
        else
          let own := ownFprintOf s p i
          let s1 := regPut s (updReg q 0x48) own
          if own = le m 8 8 then s1 else dispute s1 q i own (le m 8 8) a
      else if pending then s
      else stepAbort (nameSuspect s ((treeOf p).getD 0) e.dev) q causeTimeout a false false) s

/-! ### Settlement (R394, R427) -/

/-- XMAX of a layer slot over the partition's tiles (R393). -/
def xmaxOf (s : State) (p : Part) (slot : Nat) : Nat :=
  let l := (partTiles p).filterMap (fun t => (tileAt s t).drain.xmax.find slot) ++ (partTiles p).filterMap (fun t => (tileAt s t).drain.xrun.find slot)
  match l with
  | [] => 0x8000
  | x :: xs => unsigned 16 (xs.foldl max x)

/-- The settlement's balance-sheet records: layers by ascending slot, then buckets (R392 to R394). -/
def balanceSheet (s : State) (q : Nat) (skip : Bool) : State :=
  let p := partAt s q
  let s1 := ((List.range 4096).filterMap (layerOf p)).foldl (fun s l =>
    let z := p.ctx.norms.at l.tag (0, 0, 0)
    let g2 := if skip then 0 else squaresBits z.2.1
    let u2 := if skip then 0 else squaresBits z.2.2
    balanceRecord s q (toLe 2 1 ++ toLe 2 l.tag ++ toLe 4 0xFFFFFFFF ++ toLe 8 p.ctx.step ++ toLe 2 (xmaxOf s p l.slot)
      ++ toLe 2 (unsigned 16 (latchedAnchor p l.slot).anchor) ++ toLe 4 (b2n skip + 2 * b2n p.ctx.wide)
      ++ toLe 8 (squaresBits z.1) ++ toLe 8 g2 ++ toLe 8 u2 ++ List.replicate 16 0)) s
  (withPos (imageOf p).buckets).foldl (fun s x =>
    let run := p.buckets.reverse.find? (fun b => b.b = x.1)
    let agreed := match run.bind BucketRun.agreed with | some e => unsigned 16 e | none => 0x8000
    balanceRecord s q (toLe 2 2 ++ toLe 2 0xFFFF ++ toLe 4 x.1 ++ toLe 8 p.ctx.step ++ toLe 2 agreed
      ++ toLe 2 (unsigned 16 (nextBucketAnchor p x.1))
      ++ toLe 4 (b2n skip + 2 * b2n p.ctx.wide + 4 * b2n ((run.map BucketRun.d64).getD false)) ++ List.replicate 40 0)) s1

/-- Settled without update by the result of tick t (R391, R427): the alternate and the holds are discarded, narrow weights rebuilt. -/
def settleSkip (s : State) (q t : Nat) : State :=
  let p := partAt s q
  let s1 := rebuildNarrow (numlogAt s q t 6 0xFFFF 0xFFFFFFFF [p.ctx.firstNfTick]) q
  modCtx s1 q (fun c => { c with skipLast := true, skippedSteps := c.skippedSteps + 1 })

/-- Settled clean (R427): the versions flip, the count rises, every owner slot starts catch-up. -/
def settleClean (s : State) (q : Nat) : State :=
  let step := (partAt s q).ctx.step
  let print := alternateFprint s (partAt s q)
  let s1 := modSettle s q (fun x =>
    { x with
      settledPrint := some print
      settledVer := 1 - x.settledVer
      producedBy := step
      updateCount := (x.updateCount + 1) % 2 ^ 32
      narrowWritten := [] })
  let s2 := modCtx s1 q (fun c => { c with skipLast := false })
  modBinding s2 q (fun b => { b with slots := (withPos b.slots).map (fun x =>
    if 2 ≤ x.1 && (x.2.role = 1 || x.2.role = 4) then
      { x.2 with
        catchUp := true
        watermark := 0
        copyStep := step
        holdStep := step }
    else x.2) })

/-- A message stamped past the settled step's last tick, as one of the step that follows (R415, R427). -/
def carryMsg (t : Nat) (m : Msg) : Option Msg :=
  if m.tick ≤ t then none else some { m with step := m.step + 1, off := m.tick - (t + 1) }

/-- A step settled by the result of tick t (R427): versions, records, releases, the cut, the next step. -/
def settle (s : State) (q t : Nat) (skip cut : Bool) : State :=
  let p := partAt s q
  let s1 := if skip then settleSkip s q t else settleClean s q
  let s2 := writeSpots (writeAudits s1 q (settlementTick p)) q (settlementTick p)
  let s3 := stepRecord s2 q p.ctx.step p.ctx.firstTick (p.ctx.endCycle - p.ctx.firstAttemptCycle) p.ctx.attempt
  let s4 := balanceSheet s3 q skip
  let s5 := modSettle s4 q (fun x =>
    { x with
      journal := x.journal.filterMap (carryMsg t)
      retention := x.retention.filterMap (carryMsg t)
      journalFullOnce := false
      disputeOnce := []
      rangesDone := []
      pieces := [] })
  let s6 := modBinding s5 q (fun b => { b with slots := b.slots.map (fun e =>
    { e with passDone := 0, arrived := e.arrived.filter (fun r => decide (t < r.2.2)) }) })
  let s7 := if cut then takeCut s6 q (p.ctx.step + 1) else s6
  beginStep s7 q (p.ctx.step + 1) (t + 1)

/-- A shadow computes from the second step after its copy, once the result of tick t has settled the step before: its hold is applied
unless that step was skipped, and its narrow weights have been rebuilt by then (R428, R439). -/
def shadowStart (s : State) (q t : Nat) (skip : Bool) : State :=
  let s1 := if skip then s else shadowCatchUp s q
  let p := partAt s1 q
  let s2 := rebuildAllNarrow s1 q p.settle.settledVer p.settle.producedBy
  beginStep (modJoin s2 q (fun j => { j with computing := true })) q (Config.shadowStep q) (t + 1)

/-- Whether the result of tick t is the one after which a shadow computes. -/
def shadowDue (p : Part) (q t : Nat) : Bool :=
  isShadowing p && decide (p.state = .running) && p.join.copyDone && !p.join.computing && decide (t + 1 = Config.shadowFirst q)

/-- A downward result of tick t applied to a partition (R427, R451, R454). -/
def applyResult (s : State) (q t : Nat) (vote : BitVec 8) : State :=
  let has (i : Nat) : Bool := vote.getLsbD i
  let p := partAt s q
  let inAttempt := decide (p.ctx.firstTick ≤ t) && (p.ctx.active || p.ctx.waitResult)
  let s1 := if has voteWarn then regFlag s (ckpReg q 0) 3 else s
  let s2 := if inAttempt then
      modCtx s1 q (fun c => { c with
        firstNfTick := if has voteNonfinite && !c.nonfiniteSeen then t else c.firstNfTick
        nonfiniteSeen := c.nonfiniteSeen || has voteNonfinite
        overdraftSeen := c.overdraftSeen || has voteOverdraft })
    else s1
  let awaits := decide (p.state = .running ∨ p.state = .held) && p.ctx.waitResult && decide (p.ctx.awaited = t)
  let aborts := has voteAbort || has voteDispute
  let settles := awaits && !aborts && !has voteHold
  let s3 := if has voteCkpt && !settles then modCkpt s2 q (fun k => { k with pending := true }) else s2
  if aborts then (if inAttempt then stepAbort s3 q causeFault t false false else s3)
  else if settles then
    let s4 := settle s3 q t (has voteSkip) (has voteCkpt)
    if (imageOf p).ticksPerStep = 1 then sendFprints s4 q else s4
  else if awaits then modCtx s3 q (fun c => { c with holding := true, waitResult := false })
  else if shadowDue p q t && !has voteHold then shadowStart s3 q t (has voteSkip)
  else s3

/-! ### The tick tree (R308) -/

/-- A TICK symbol (R305). -/
def tickSlot (p : Part) (t : Nat) (vote : BitVec 8) : CtlSlot :=
  treeSlot p 1 (t % 2 ^ 24 + vote.toNat * 2 ^ 24 + jobEpochOf p % 65536 * 2 ^ 32)

/-- The child ports of a tree context. -/
def childPorts (x : TreeCtx) : List Nat := (List.range 16).filter (fun p => x.childMask.getLsbD p)

/-- The ports on which a partition serves its shadow (R439). -/
def shadowPorts (s : State) (q : Nat) : List Nat :=
  match (partAt s q).join.serves with
  | none => []
  | some i => match flowAt s q i with
    | none => []
    | some f => (List.range 16).filter (fun p => f.portMask.testBit p)

/-- A symbol sent to every child port of a tree context and to a served shadow. -/
def sendDown (s : State) (k : Nat) (c : CtlSlot) : State :=
  let x := treeAt s k
  if isFencedPart (partAt s x.part) then s
  else (childPorts x ++ (shadowPorts s x.part).filter (fun p => !(childPorts x).contains p)).foldl (fun s p => sendSymbol s p c) s

/-- The result of tick t: recorded, forwarded to the children at once, applied (R308). -/
def takeResult (s : State) (k t : Nat) (vote : BitVec 8) : State :=
  let q := (treeAt s k).part
  let s1 := modTree s k (fun x => { x with lastTick := t, lastVote := vote })
  applyResult (sendDown s1 k (tickSlot (partAt s q) t vote)) q t vote

/-- A tree context's vote for its oldest tick sent upward, or at the root turned into the result; a child missing adds
ABORT and is named (R308). The comparison of fingerprints comes first where the tick needs it (R426). -/
def sendVote (s : State) (k : Nat) : State :=
  let x := treeAt s k
  match x.own with
  | [] => s
  | (t, _) :: _ =>
    let p := partAt s x.part
    let s1 := if p.ctx.waitResult && p.ctx.awaited = t && !isShadowing p then compareFprints s x.part t else s
    let missing := (childPorts x).filter (fun c => !x.got.any (fun g => g.1 = t && g.2.1 = c))
    let s2 := missing.foldl (fun s c => nameSuspect s k (portAt s c).partnerDev) s1
    let own := ((treeAt s2 k).own.filter (fun o => o.1 = t)).foldl (fun v o => v ||| o.2) 0
    let raised := if p.ctx.waitResult && p.ctx.awaited = t then (partAt s2 x.part).ctx.votes &&& 0x21#8 else 0
    let vote := (x.got.filter (fun g => g.1 = t)).foldl (fun v g => v ||| g.2.2) (own ||| raised)
      ||| (if missing.isEmpty then 0 else 1)
    let s3 := modTree s2 k (fun x =>
      { x with
        own := x.own.filter (fun o => decide (t < o.1))
        got := x.got.filter (fun g => decide (t < g.1))
        sentTick := t
        sentAny := true })
    if x.root then takeResult s3 k t vote
    else if isFencedPart p || isShadowing p then s3
    else sendSymbol s3 x.parent (tickSlot p t vote)

/-- Votes sent for every tick whose children are all in; the fuel bounds the ticks waiting. -/
def sendVotes : Nat → State → Nat → State
  | 0, s, _ => s
  | fuel + 1, s, k =>
    let x := treeAt s k
    match x.own with
    | [] => s
    | (t, _) :: _ =>
      if (childPorts x).all (fun c => x.got.any (fun g => g.1 = t && g.2.1 = c)) then sendVotes fuel (sendVote s k) k else s

/-- VOTE_WAIT_EXPIRY: WAIT has passed with a child's vote missing (R308). -/
def voteWaitExpiry (k : Nat) (s : State) : State :=
  if (treeAt s k).valid && !(treeAt s k).own.isEmpty then sendVotes 64 (sendVote s k) k else s

def execVoteWaitExpiry (k : Nat) (s : State) : Host.Outcome State Fault Refusal := .next (voteWaitExpiry k s)

end Sys2Proof.Machine
end

