-- ==== Sys2Proof/Machine/Bucket.lean ====
section
/-! DEFINITION. Deposit buckets (R66 to R68, R381 to R390, R563): contributions, their exchange over RING or DIRECT flows, the
summary block, the D64 re-exchange, results, and the meanings of BUCKET_START and BUCKET_EXCHANGE_COMPLETE. -/

namespace Sys2Proof.Machine

/-! ### Shape of a bucket (R381, R384, R385) -/

/-- Data blocks U of a bucket; the summary block is block U. -/
def BucketRec.blocks (k : BucketRec) : Nat := k.size / 128

/-- The extra bits w of P contributions. -/
def BucketRec.w (k : BucketRec) : Nat := clog2 k.p

/-- ALL_GATHER. -/
def BucketRec.gather (k : BucketRec) : Bool := decide (k.op = 2)

/-- The rank whose shard a block belongs to; the summary block is reduced with the last shard. -/
def BucketRec.owner (k : BucketRec) (i : Nat) : Nat :=
  if k.blocks ≤ i then k.p - 1 else ((i + 1) * k.p - 1) / max k.blocks 1

/-- The rank that follows in the ring. -/
def BucketRec.next (k : BucketRec) : Nat := (k.rank + 1) % max k.p 1

/-- The flow of a DIRECT bucket to a rank. -/
def BucketRec.flowOf (k : BucketRec) (r : Nat) : Nat := k.flowFirst + (if r < k.rank then r else r - 1)

/-- The other ranks in ascending order. -/
def BucketRec.peers (k : BucketRec) : List Nat := (List.range k.p).filter (fun r => r ≠ k.rank)

/-- Contributions to block i that this rank adds up before it passes the sum on: under RING its own and, unless the
block's way begins here, the sum that reaches it; under DIRECT its own, and every rank's where the shard is its own. -/
def BucketRec.need (k : BucketRec) (i : Nat) : Nat :=
  if k.p ≤ 1 then 1
  else if k.alg = 1 then (if (k.owner i + 1) % k.p = k.rank then 1 else 2)
  else if k.owner i = k.rank then k.p else 1

/-- Whether this rank receives block i's result. -/
def BucketRec.wants (k : BucketRec) (i : Nat) : Bool := decide (k.blocks ≤ i) || decide (k.op ≠ 1) || decide (k.owner i = k.rank)

/-- T of the summary block (R385). -/
def BucketRec.top (k : BucketRec) (d64 : Bool) (anchor : Int) : Int := anchor + (if d64 then 62 else 30) - (k.w : Int)

/-- The anchor a bucket runs at in the step (R386). -/
def bucketAnchorOf (p : Part) (b : Nat) : Int :=
  p.ctx.bucketAnchor.at b (((bucketRec p b).map BucketRec.anchor0).getD 0)

/-- next_anchor of R386, with the x it takes as agreed. -/
def nextAnchorGo (a t : Int) (w : Nat) : Nat → List Int → Int × Option Int
  | _, [] => (a, none)
  | j, s :: rest => if 0 < s then (clamp (t - j + w - 28) (-512) 511, some (t - j)) else nextAnchorGo a t w (j + 1) rest

/-! ### Contributions (R384, R385) -/

/-- One element's conversion counts. -/
structure DepCount where
  converted : Nat := 0
  clamped : Nat := 0
  vanished : Nat := 0
  nonfinite : Nat := 0
  /-- the first non-finite element -/
  first : Option Nat := none
  /-- the largest floor(log2 |v|) of a finite non-zero contribution -/
  top : Option Int := none
deriving DecidableEq, Repr, Inhabited

/-- The larger of two agreed exponents. -/
def maxTop (a : Option Int) (b : Int) : Option Int := some (match a with | none => b | some x => max x b)

/-- One element of a block converted: its integer appended, its flags joined, the counts raised. -/
def depositStep (k : BucketRec) (d64 : Bool) (anchor : Int) (seed step b e : Nat) (x : DBlock × DepCount) (v : FVal) :
    DBlock × DepCount :=
  let rb := if k.stoch then rbits seed step (b % 65536) 5 (k.rank * 2 ^ 28 + e) else 0
  let r := depositElem d64 k.w (if k.stoch then stoch else rne) rb anchor v
  let c := x.2
  ({ x.1 with
      elems := x.1.elems ++ [r.1]
      sat := x.1.sat || r.2.1
      nonfinite := x.1.nonfinite || r.2.2 },
   { converted := c.converted + 1
     clamped := c.clamped + b2n r.2.1
     vanished := c.vanished + b2n (v.isFin && !v.isZero && decide (r.1 = 0))
     nonfinite := c.nonfinite + b2n r.2.2
     first := if r.2.2 && c.first.isNone then some e else c.first
     top := if v.isFin && !v.isZero then maxTop c.top v.top else c.top })

/-- A block of zeros with a rank's name. -/
def zeroDep (empty : Bool) (rank : Nat) : DBlock := { elems := List.replicate 32 0, empty := empty, ranks := [rank] }

/-- Block i of a rank's contribution from its 128 source bytes (R384). -/
def contribution (k : BucketRec) (d64 : Bool) (anchor : Int) (seed step b i : Nat) (bytes : List Byte) (c : DepCount) :
    DBlock × DepCount :=
  let vs := (List.range 32).map (fun e => val32 (le bytes (4 * e) 4))
  if vs.all FVal.isZero then (zeroDep k.sparse k.rank, { c with converted := c.converted + 32 })
  else (withPos vs).foldl (fun x v => depositStep k d64 anchor seed step b (32 * i + v.1) x v.2)
    ({ elems := [], empty := false, ranks := [k.rank] }, c)

/-- A rank's contribution to every block of a reduction, in block order, with its counts. -/
def contributions (s : State) (p : Part) (k : BucketRec) (b : Nat) (d64 taken : Bool) : List DBlock × DepCount :=
  if !taken then (List.replicate k.blocks (zeroDep true k.rank), {})
  else
    let r := (List.range k.blocks).foldl (fun x i =>
      let y := contribution k d64 (bucketAnchorOf p b) p.ctx.seed.toNat p.ctx.step b i (spanRead s (imageAddr p k.src + 128 * i) 128) x.2
      (y.1 :: x.1, y.2)) (([] : List DBlock), ({} : DepCount))
    (r.1.reverse, r.2)

/-- A rank's units of an ALL_GATHER: its own shard's bytes as words, unchanged whether or not its trigger was taken (R381, R563). -/
def gatherUnits (s : State) (p : Part) (k : BucketRec) : List (Nat × DBlock) :=
  ((List.range k.blocks).filter (fun i => k.owner i = k.rank)).map (fun i =>
    let bytes := spanRead s (imageAddr p k.src + 128 * i) 128
    (i, { elems := (List.range 32).map (fun e => ((le bytes (4 * e) 4 : Nat) : Int)), empty := false, ranks := [k.rank] }))

/-- The rank's summary block (R385). -/
def summaryOf (k : BucketRec) (d64 taken : Bool) (anchor : Int) (bs : List DBlock) (top : Option Int) : DBlock :=
  let at_ : Option Nat := top.map (fun x => (clamp (k.top d64 anchor - x) 0 31).toNat)
  { elems := (List.range 32).map (fun j => if at_ = some j then 1 else 0)
    nonfinite := bs.any DBlock.nonfinite
    sat := bs.any DBlock.sat
    empty := !taken || (!bs.isEmpty && bs.all DBlock.empty)
    ranks := [k.rank] }

/-! ### Blocks on the wire (R66, R563) -/

/-- A block with its header. An ALL_GATHER's units carry no flag (R563); its summary block may be EMPTY, and then is its header alone
(R385). -/
def blockWire (k : BucketRec) (d64 : Bool) (anchor : Int) (i : Nat) (b : DBlock) : List Byte :=
  if k.gather then
    toLe 8 (b2n b.empty * 8 + i * 2 ^ 32) ++ (if b.empty then [] else b.elems.flatMap (fun x => toLe 4 (unsigned 32 x)))
  else depositBytes d64 anchor i b

/-- Blocks gathered into packets of at most 2,048 bytes. -/
def packWires : List Byte → List (List Byte) → List (List Byte)
  | cur, [] => if cur.isEmpty then [] else [cur]
  | cur, b :: rest => if 2048 < cur.length + b.length then cur :: packWires b rest else packWires (cur ++ b) rest

/-- Blocks sent on a flow as DEPOSIT packets of a phase. -/
def sendBlocks (s : State) (q flow : Nat) (k : BucketRec) (run : BucketRun) (phase : Nat) (l : List (Nat × DBlock)) : State :=
  let anchor := if k.gather then 0 else bucketAnchorOf (partAt s q) run.b
  (packWires [] (l.map (fun x => blockWire k run.d64 anchor x.1 x.2))).foldl (fun s d =>
    enqueue s q flow 6 (run.b % 65536 + k.rank % 65536 * 2 ^ 16 + phase * 2 ^ 32) run.tick d [] false false true (.deposit q run.b)) s

/-- What a rank passes on, as (phase, block number, block): under RING to the next rank; under DIRECT a contribution to its
shard's rank and a result to every rank. -/
def passBlocks (s : State) (q : Nat) (k : BucketRec) (run : BucketRun) (l : List (Nat × Nat × DBlock)) : State :=
  let of_ (ph : Nat) : List (Nat × DBlock) := (l.filter (fun x => x.1 = ph)).map Prod.snd
  if k.p ≤ 1 then s
  else if k.alg = 1 then sendBlocks (sendBlocks s q k.flowFirst k run 0 (of_ 0)) q k.flowFirst k run 1 (of_ 1)
  else k.peers.foldl (fun s r =>
    sendBlocks (sendBlocks s q (k.flowOf r) k run 0 ((of_ 0).filter (fun x => k.owner x.1 = r))) q (k.flowOf r) k run 1 (of_ 1)) s

/-! ### Adding up (R68, R385) -/

/-- Two blocks added (R68). -/
def DBlock.add (a b : DBlock) : DBlock :=
  { elems := if a.ranks.isEmpty then b.elems else (a.elems.zip b.elems).map (fun x => x.1 + x.2)
    nonfinite := a.nonfinite || b.nonfinite
    sat := a.sat || b.sat
    empty := a.empty && b.empty
    ranks := a.ranks ++ b.ranks }

/-- Whether a block has been added up and passed on. -/
def blockPassed (k : BucketRec) (run : BucketRun) (i : Nat) : Bool := decide (k.need i ≤ (run.blocks.at i {}).ranks.length)

/-- One block taken into an exchange from a rank in a phase: the exchange and what it passes on; none on a second summary
contribution of one rank. -/
def absorb (k : BucketRec) (run : BucketRun) (rank phase i : Nat) (b : DBlock) : Option (BucketRun × List (Nat × Nat × DBlock)) :=
  if phase = 1 then
    some ({ run with results := run.results.put i b }, if k.alg = 1 && k.next ≠ k.owner i then [(1, i, b)] else [])
  else
    let old := run.blocks.at i {}
    if i = k.blocks && old.ranks.contains rank then none
    else
      let sum := old.add { b with ranks := [rank] }
      let run1 := { run with blocks := run.blocks.put i sum }
      if sum.ranks.length ≠ k.need i then some (run1, [])
      else if k.owner i = k.rank then
        some ({ run1 with results := run1.results.put i sum },
          if (k.op = 3 || k.blocks ≤ i) && decide (1 < k.p) then [(1, i, sum)] else [])
      else some (run1, [(0, i, sum)])

/-- A list of blocks taken in one after another. -/
def absorbAll (k : BucketRec) (rank phase : Nat) : List (Nat × DBlock) → BucketRun → Option (BucketRun × List (Nat × Nat × DBlock))
  | [], run => some (run, [])
  | x :: rest, run =>
    match absorb k run rank phase x.1 x.2 with
    | none => none
    | some y => (absorbAll k rank phase rest y.1).map (fun z => (z.1, y.2 ++ z.2))

/-! ### Exchanges -/

/-- The i-th exchange of a partition changed. -/
def modRun (s : State) (q i : Nat) (f : BucketRun → BucketRun) : State :=
  modPart s q (fun p => { p with buckets := p.buckets.modify i f })

/-- Whether an exchange still adds up, passes on or awaits blocks. -/
def runBusy (p : Part) (run : BucketRun) : Bool :=
  run.opened && (match bucketRec p run.b with
    | none => false
    | some k => p.spoilt.contains run.b || !run.written || !(k.gather || (List.range (k.blocks + 1)).all (blockPassed k run)))

/-- The place of the exchange that a bucket's blocks enter. -/
def busyRun (p : Part) (b : Nat) : Option (Nat × BucketRun) := (withPos p.buckets).find? (fun x => x.2.b = b && runBusy p x.2)

/-- A block fault (R66): ABORT is voted, and for the rest of the attempt the bucket never completes. -/
def blockFault (s : State) (q b : Nat) : State :=
  modPart (raiseVote s q voteAbort) q (fun p => { p with spoilt := insertNat p.spoilt b })

/-- LNK_BUCKET of a partition. -/
def lnkBucket (q : Nat) : Nat := ctl (0x42000 + 0x20 * q)

/-- A rank's non-finite contributions reported (R390). -/
def reportContribution (s : State) (q b : Nat) (c : DepCount) : State :=
  if c.nonfinite = 0 then s
  else numlog (raiseNonfinite s q) q 3 (partAt s q).ctx.firstNf b [c.first.getD 0, c.nonfinite]

/-- A bucket's conversions counted where its audits are on (R395, R396). -/
def auditBucket (s : State) (q b : Nat) (d64 : Bool) (c : DepCount) : State :=
  if auditOn (partAt s q) true then audit s q b 5 (if d64 then 0x41 else 0x40) c.converted c.clamped c.vanished else s

/-- A rank's own blocks enter an exchange, and go on their way. -/
def enterOwn (s : State) (q i : Nat) (k : BucketRec) (phase : Nat) (bs : List (Nat × DBlock)) : State :=
  let run := (partAt s q).buckets.getD i {}
  match absorbAll k k.rank phase bs run with
  | none => s
  | some y => passBlocks (modRun s q i (fun _ => y.1)) q k y.1 y.2

/-- First block and number of blocks of a rank's own shard. -/
def BucketRec.ownShard (k : BucketRec) : Nat × Nat :=
  let own := (List.range k.blocks).filter (fun i => k.owner i = k.rank)
  (own.headD 0, own.length)

/-- What a round reads of SRC: the whole bucket for a reduction whose trigger was taken, the rank's shard for an ALL_GATHER. -/
def roundReads (p : Part) (k : BucketRec) (taken : Bool) : List (Nat × Nat) :=
  if k.gather then [(imageAddr p k.src + 128 * k.ownShard.1, 128 * k.ownShard.2)]
  else if taken then [(imageAddr p k.src, 128 * k.blocks)]
  else []

/-- What an exchange writes: its results and their flag bytes. -/
def resultWrites (p : Part) (k : BucketRec) : List (Nat × Nat) :=
  let x := if k.op = 1 then k.ownShard else (0, k.blocks)
  (imageAddr p k.dst + 128 * x.1, 128 * x.2) :: (if k.gather then [] else [(imageAddr p k.flagsAddr + x.1, x.2)])

/-- The source of a round read by the fabric engine: whether a line of it was poisoned, the state after. -/
def readRound (s : State) (p : Part) (k : BucketRec) (taken : Bool) : Bool × State :=
  (roundReads p k taken).foldl (fun a x => let y := spanFetch a.2 x.1 x.2 false; (a.1 || y.2.1, y.2.2)) (false, s)

/-- A round of exchange i begun: the rank's blocks are converted at the latched anchor and enter it, then its summary. DESIGN CHOICE (log entry 73): a poisoned source
line is a block fault, as R66 poisons a block. -/
def startRound (s0 : State) (q i : Nat) (first : Bool) : State :=
  let p := partAt s0 q
  let run := p.buckets.getD i {}
  match bucketRec p run.b with
  | none => s0
  | some k =>
    let x := readRound s0 p k run.taken
    let s := x.2
    if x.1 then blockFault s q run.b
    else if k.gather then
      let units := gatherUnits s p k
      let s1 := modRun s q i (fun r => { r with results := units.foldl (fun t x => t.put x.1 x.2) r.results })
      let s2 := passBlocks s1 q k run (units.map (fun x => (1, x.1, x.2)))
      enterOwn s2 q i k 0 [(k.blocks, zeroDep (!run.taken) k.rank)]
    else
      let c := contributions s p k run.b run.d64 run.taken
      let s1 := if first then reportContribution s q run.b c.2 else s
      let s2 := auditBucket s1 q run.b run.d64 c.2
      let s3 := modRun s2 q i (fun r => { r with clamped := if first then c.2.clamped else r.clamped })
      let sm := summaryOf k run.d64 run.taken (bucketAnchorOf p run.b) c.1 c.2.top
      enterOwn s3 q i k 0 (withPos c.1 ++ [(k.blocks, sm)])

/-! ### Receiving (R66, R563) -/

/-- Bytes of a block's elements by its FMT code. -/
def elemBytes (fmt : Nat) : Nat := if fmt = 2 then 8 else 4

/-- One block off the front of a packet's data: its header and elements, and the rest; none where it is not whole. -/
def takeBlock (bs : List Byte) : Option (Nat × List Int × List Byte) :=
  let h := le bs 0 8
  let w := elemBytes (field h 8 4)
  if bs.length < 8 then none
  else if h.testBit 2 || h.testBit 3 then some (h, List.replicate 32 0, bs.drop 8)
  else if bs.length < 8 + 32 * w then none
  else some (h, (List.range 32).map (fun e =>
    if field h 8 4 = 0 then ((le bs (8 + 4 * e) 4 : Nat) : Int) else signed (8 * w) (le bs (8 + w * e) w)), bs.drop (8 + 32 * w))

/-- The blocks of a packet; none where its data is not whole blocks. The fuel bounds their number. -/
def takeBlocks : Nat → List Byte → Option (List (Nat × List Int))
  | 0, bs => if bs.isEmpty then some [] else none
  | fuel + 1, bs =>
    if bs.isEmpty then some []
    else (takeBlock bs).bind (fun x => (takeBlocks fuel x.2.2).map (fun l => (x.1, x.2.1) :: l))

/-- A block header's faults (R66) in an exchange. -/
def headerFault (p : Part) (k : BucketRec) (run : BucketRun) (h : Nat) : Bool :=
  let fmt := field h 8 4
  (if k.gather then decide (fmt ≠ 0) else decide (fmt ≠ 1 ∧ fmt ≠ 2) || (run.preset && fmt = 1))
    || decide (signed 10 (field h 16 10) ≠ (if k.gather then 0 else bucketAnchorOf p run.b))
    || decide (k.blocks < h / 2 ^ 32)
    || decide (field h 4 4 ≠ 0 ∨ field h 12 4 ≠ 0 ∨ field h 26 6 ≠ 0)

/-- A received block. -/
def blockFrom (x : Nat × List Int) : Nat × DBlock :=
  (x.1 / 2 ^ 32, { elems := x.2, nonfinite := x.1.testBit 0, sat := x.1.testBit 1, empty := x.1.testBit 3, ranks := [] })

/-- A DEPOSIT held until its exchange, or its D64 round, opens. -/
def holdDeposit (s : State) (q b : Nat) (k : Packet) : State :=
  modPart s q (fun p => { p with earlyDeposits := p.earlyDeposits ++ [(b, k)] })

/-- A DEPOSIT packet's blocks enter their bucket's exchange (R563). -/
def depositReceive (s : State) (q : Nat) (pk : Packet) : State :=
  let p := partAt s q
  let b := field pk.addr 0 16
  let rank := field pk.addr 16 16
  let phase := field pk.addr 32 2
  match bucketRec p b with
  | none => blockFault s q b
  | some k =>
    if k.p ≤ rank || 2 ≤ phase then blockFault s q b
    else
      match busyRun p b with
      | none => holdDeposit s q b pk
      | some (i, run) =>
        if p.spoilt.contains b then s
        else
          match takeBlocks 256 pk.data with
          | none => blockFault s q b
          | some bs =>
            if bs.any (fun x => headerFault p k run x.1) then blockFault s q b
            else if bs.any (fun x => field x.1 8 4 = 2) && !run.d64 then holdDeposit s q b pk
            else if bs.any (fun x => field x.1 8 4 = 1) && run.d64 then s
            else
              match absorbAll k rank phase (bs.map blockFrom) run with
              | none => blockFault s q b
              | some y => passBlocks (modRun s q i (fun _ => y.1)) q k y.1 y.2

/-- The deposits held for a bucket enter its exchange. -/
def releaseDeposits (s : State) (q b : Nat) : State :=
  let mine := (partAt s q).earlyDeposits.filter (fun x => x.1 = b)
  let s1 := modPart s q (fun p => { p with earlyDeposits := p.earlyDeposits.filter (fun x => x.1 ≠ b) })
  mine.foldl (fun s x => depositReceive s q x.2) s1

/-! ### BUCKET_START (R382 to R385, R389) -/

/-- Buckets open on the device. -/
def openBuckets (s : State) : Nat :=
  s.parts.foldl (fun n x => n + (x.2.buckets.filter (fun r => r.opened && !r.written)).length) 0

/-- The place of the oldest trigger that waits for its exchange to open. -/
def oldestAsked (s : State) : Option Nat :=
  s.parts.foldl (fun a x => x.2.buckets.foldl (fun a r =>
    if r.opened then a else some (match a with | none => r.asked | some y => min y r.asked)) a) none

/-- BUCKET_START: the oldest waiting trigger of bucket b opens its exchange, while fewer than 256 are open, once its far-store reads have
entered (R273). -/
def bucketStart (q b : Nat) (s : State) : State :=
  let p := partAt s q
  if 256 ≤ openBuckets s || (busyRun p b).isSome then s
  else
    match (withPos p.buckets).find? (fun x => x.2.b = b && !x.2.opened) with
    | none => s
    | some (i, run) =>
      if oldestAsked s ≠ some run.asked then s
      else
        let preset := p.ctx.presetD64.contains b && !((bucketRec p b).map BucketRec.gather).getD false
        charged s q engBucket (match bucketRec p b with | some k => roundReads p k run.taken | none => []) (fun s =>
          let s1 := modRun s q i (fun r => { r with opened := true, d64 := preset, preset := preset })
          releaseDeposits (startRound s1 q i true) q b)

def execBucketStart (q b : Nat) (s : State) : Host.Outcome State Fault Refusal := .next (bucketStart q b s)

/-! ### BUCKET_EXCHANGE_COMPLETE (R382, R386 to R388, R390) -/

/-- A D32 exchange with SAT in its summary is exchanged again in D64 (R388). -/
def reexchange (s : State) (q i : Nat) (run : BucketRun) (sm : DBlock) : State :=
  let s1 := regBump (raiseVote s q voteOverdraft) (lnkBucket q) 16 16 1
  let s2 := modCtx (if sm.nonfinite then raiseNonfinite s1 q else s1) q (fun c => { c with overdraftSeen := true })
  let s3 := modRun s2 q i (fun r => { r with d64 := true, blocks := [], results := [] })
  let s4 := chargeNow s3 q engBucket (match bucketRec (partAt s q) run.b with | some k => roundReads (partAt s q) k run.taken | none => [])
  releaseDeposits (startRound s4 q i false) q run.b

/-- A result element as binary32 (R387). -/
def resultBits (anchor v : Int) : Nat := (drainIeee fp32 rne 0 v anchor).1

/-- A result block's 128 bytes (R387); an ALL_GATHER's are its words. -/
def resultBytes (k : BucketRec) (anchor : Int) (b : DBlock) : List Byte :=
  if k.gather then b.elems.flatMap (fun x => toLe 4 (unsigned 32 x))
  else b.elems.flatMap (fun x => toLe 4 (if b.nonfinite then 0x7FC00000 else if b.empty then 0 else resultBits anchor x))

/-- A result block's flag byte (R387); an EMPTY block is not a ZERO one (R384). -/
def resultFlags (d64 : Bool) (b : DBlock) : Nat :=
  b2n b.nonfinite + 2 * b2n (b.sat && d64) + 4 * b2n b.empty + 8 * b2n (!b.empty && b.elems.all (· = 0))

/-- The results of an exchange written, with their flag plane. -/
def writeResults (s : State) (q : Nat) (k : BucketRec) (run : BucketRun) (is : List Nat) : State :=
  let p := partAt s q
  is.foldl (fun s i =>
    let b := run.results.at i {}
    let s1 := spanWrite s (imageAddr p k.dst + 128 * i) (resultBytes k (bucketAnchorOf p run.b) b)
    if k.gather then s1 else spanWrite s1 (imageAddr p k.flagsAddr + i) (toLe 1 (resultFlags run.d64 b))) s

/-- Votes and counts of a finished summary (R388, R390, R406). -/
def summaryVotes (s : State) (q : Nat) (run : BucketRun) (sm : DBlock) : State :=
  let s1 := if sm.nonfinite then regBump s (lnkBucket q) 48 16 1 else s
  if sm.nonfinite || (run.d64 && sm.sat) then raiseNonfinite s1 q else s1

/-- The records of a finished exchange (R388, R401). -/
def bucketRecords (s : State) (q : Nat) (run : BucketRun) (sm : DBlock) (empties : Nat) : State :=
  let s1 := if run.d64 && !run.preset then numlog s q 4 0xFFFF run.b [run.clamped, b2n sm.sat] else s
  if empties = 0 then s1 else regBump (numlog s1 q 5 0xFFFF run.b [empties]) (lnkBucket q) 32 16 1

/-- The token that tells the done actor (R382). -/
def doneToken (p : Part) (k : BucketRec) (run : BucketRun) (taken : Bool) : BitVec 128 :=
  tokenBits k.doneActor k.doneSlot taken (tileOfLocal p k.doneTile) run.tick p.abortEpoch

/-- The update engines start the ranges whose bucket's done token is sent (R413); they are work of the done actor's tile. -/
def startRanges (s : State) (q b : Nat) (k : BucketRec) : State :=
  let p := partAt s q
  let rs := ((withPos (ownRecipes p)).filter (fun x => x.2.bucket = b)).map (fun x => (k.doneActor, x.1))
  if k.gather then s else modSched s (tileOfLocal p k.doneTile) (fun x => { x with updates := x.updates ++ rs })

/-- An exchange whose every result has arrived, finished (R382, R386, R387). DEDUCED (log entry 88): an ALL_GATHER's units carry no flags, so its blocks
are all EMPTY just where its summary is. -/
def finishExchange (s : State) (q i : Nat) (k : BucketRec) (run : BucketRun) (sm : DBlock) : State :=
  let p := partAt s q
  let anchor := bucketAnchorOf p run.b
  let is := (List.range k.blocks).filter k.wants
  let empties := if k.gather then (if sm.empty then is.length else 0)
    else (is.filter (fun i => (run.results.at i {}).empty)).length
  let nx := nextAnchorGo anchor (k.top run.d64 anchor) k.w 0 sm.elems
  let s1 := writeResults s q k run is
  let s2 := if k.gather then s1 else bucketRecords (summaryVotes s1 q run sm) q run sm empties
  let s3 := if k.gather then s2 else modCtx s2 q (fun c => { c with bucketNext := c.bucketNext.put run.b nx.1 })
  let s4 := modRun s3 q i (fun r => { r with written := true, agreed := if k.gather then none else nx.2 })
  sendTokens (startRanges s4 q run.b k) fabricUnit [doneToken p k run (decide (empties < is.length))]

/-- BUCKET_EXCHANGE_COMPLETE: bucket b's exchange finishes, its far-store writes entered, or goes on in D64. -/
def bucketExchangeComplete (q b : Nat) (s : State) : State :=
  let p := partAt s q
  match bucketRec p b, busyRun p b with
  | some k, some (i, run) =>
    if p.spoilt.contains b || run.written then s
    else
      match run.results.find k.blocks with
      | none => s
      | some sm =>
        if sm.sat && !run.d64 && !k.gather then reexchange s q i run sm
        else if (List.range k.blocks).all (fun i => !k.wants i || (run.results.find i).isSome) then
          charged s q engBucket (resultWrites p k) (fun s => finishExchange s q i k run sm)
        else s
  | _, _ => s

def execBucketExchangeComplete (q b : Nat) (s : State) : Host.Outcome State Fault Refusal := .next (bucketExchangeComplete q b s)

end Sys2Proof.Machine
end

