-- ==== Sys2Proof/Machine/Trust.lean ====
section
/-! DEFINITION. The trust block's arithmetic (R188, R432, R433, R519, R521, R524): SHAKE256, keys, key identifiers and quorum
certificates. -/

namespace Sys2Proof.Machine

/-! ### SHAKE256 (FIPS 202, which R188 and R519 name). The sponge's lanes stand in one list, lane (x, y) at place x + 5·y. -/

/-- The register behind the round constants, one bit on: x^8 + x^6 + x^5 + x^4 + 1. -/
def spongeTap (r : Nat) : Nat := if r < 128 then 2 * r else 2 * r % 256 ^^^ 0x71

/-- The constant of one round from the register: its j-th bit stands at bit 2^j − 1. Seven bits are used. -/
def spongeConst : Nat → Nat → Nat × Nat
  | 0, r => (0, r)
  | k + 1, r =>
    let rest := spongeConst k (spongeTap r)
    (rest.1 + r % 2 * 2 ^ (2 ^ (6 - k) - 1), rest.2)

/-- The constants of k rounds. -/
def spongeConsts : Nat → Nat → List Word
  | 0, _ => []
  | k + 1, r =>
    let c := spongeConst 7 r
    word c.1 :: spongeConsts k c.2

/-- Where the lanes go, from lane (1, 0) on: place left, place reached, and by how much the lane turns on the way, which
grows by t at the t-th move. -/
def spongeMoves : Nat → Nat → Nat → Nat → List (Nat × Nat × Nat)
  | 0, _, _, _ => []
  | k + 1, x, y, turn =>
    let y' := (2 * x + 3 * y) % 5
    (x + 5 * y, y + 5 * y', turn) :: spongeMoves k y y' (turn + (25 - k))

/-- Every lane mixed with the parities of the columns on either side. -/
def spongeColumns (a : List Word) : List Word :=
  let parity := (List.range 5).map (fun x => ((List.range 5).map (fun y => a.getD (x + 5 * y) 0)).foldl (· ^^^ ·) 0)
  (withPos a).map (fun i => i.2 ^^^ parity.getD ((i.1 + 4) % 5) 0 ^^^ (parity.getD ((i.1 % 5 + 1) % 5) 0).rotateLeft 1)

/-- The lanes turned and moved; lane (0, 0) stays. -/
def spongeShuffle (a : List Word) : List Word :=
  (spongeMoves 24 1 0 1).foldl (fun b m => b.set m.2.1 ((a.getD m.1 0).rotateLeft (m.2.2 % 64))) a

/-- Every lane mixed with the two that follow it in its row. -/
def spongeRows (a : List Word) : List Word :=
  (withPos a).map (fun i =>
    let at_ (d : Nat) : Word := a.getD (i.1 / 5 * 5 + (i.1 + d - i.1 / 5 * 5) % 5) 0
    i.2 ^^^ (at_ 2 &&& ~~~(at_ 1)))

/-- One round. -/
def spongeRound (a : List Word) (c : Word) : List Word :=
  let b := spongeRows (spongeShuffle (spongeColumns a))
  b.set 0 (c ^^^ b.getD 0 0)

/-- The permutation: 24 rounds. -/
def keccakF (a : List Word) : List Word := (spongeConsts 24 1).foldl spongeRound a

/-- A block of 136 bytes absorbed. -/
def kAbsorb (a : List Word) (block : List Byte) : List Word :=
  let words := (pieces 8 block).map (fun b => word (leNat b))
  keccakF ((withPos a).map (fun i => i.2 ^^^ words.getD i.1 0))

/-- The message with its padding: 0x1F after it, and the top bit of the last byte of the last block. -/
def shakePad (m : List Byte) : List Byte :=
  let z := 135 - m.length % 136
  m ++ (List.range (z + 1)).map (fun i => (if i = 0 then 0x1F else 0) ||| (if i = z then 0x80 else 0))

/-- The first n bytes, n at most 136, of the SHAKE256 output over a message. -/
def shake256 (n : Nat) (m : List Byte) : List Byte :=
  let sponge := (pieces 136 (shakePad m)).foldl kAbsorb (List.replicate 25 0)
  (sponge.flatMap (fun w => toLe 8 w.toNat)).take n

/-! ### Keys (R521, R524) -/

/-- Bytes of a public key. -/
def keyBytes : Nat := 1793

/-- Coefficient i of a public key: 14 bits, most significant bit first. -/
def keyCoeff (k : List Byte) (i : Nat) : Nat :=
  let body := k.drop 1
  let v := ((body.drop (14 * i / 8)).take 3).foldl (fun a b => 256 * a + b.toNat) 0
  let n := 8 * ((body.drop (14 * i / 8)).take 3).length
  field v (n - 14 * i % 8 - 14) 14

/-- A malformed key (R524). -/
def badKey (k : List Byte) : Bool :=
  decide (k.length ≠ keyBytes) || decide (k.getD 0 0 ≠ 0x0A) || (List.range 1024).any (fun i => decide (12289 ≤ keyCoeff k i))

/-- A key's KEY_ID (R521). -/
def keyId (k : List Byte) : List Byte := (shake256 32 k).take 16

/-- Whether a signature of a signature block verifies over a message. -/
def verifies (k m sig : List Byte) : Bool := Config.falconVerifies k m sig

/-! ### Quorum certificates (R432, R433) -/

/-- Bytes of the list of COUNT devices. -/
def certListBytes (pl : List Byte) : Nat := alignUp (2 * le pl 10 1) 8

/-- The listed devices. -/
def certDevices (pl : List Byte) : List Nat := (List.range (le pl 10 1)).map (fun i => le pl (64 + 2 * i) 2)

/-- Offset of the command-specific part. -/
def certPart (pl : List Byte) : Nat := 64 + certListBytes pl

/-- Offset of the first signature entry, the command-specific part having n bytes. -/
def certSigs (pl : List Byte) (n : Nat) : Nat := certPart pl + n

/-- Whether a byte string is all zero. -/
def allZero (l : List Byte) : Bool := l.all (· = 0)

/-- Signature entry i: key index, and whether it is well formed for n keys. -/
def sigEntry (pl : List Byte) (part i : Nat) : List Byte := slice pl (certSigs pl part + 1288 * i) 1288

/-- Whether a signature entry's fields are in range, its reserved bytes and its padding zero. -/
def sigEntryOk (keys : Nat) (e : List Byte) : Bool :=
  decide (le e 0 1 < keys ∧ le e 1 1 = 0 ∧ 1 ≤ le e 2 2 ∧ le e 2 2 ≤ 1280 ∧ le e 4 4 = 0) && allZero (e.drop (8 + le e 2 2))

/-- The distinct keys whose signatures verify. -/
def certSigners (p : Part) (pl : List Byte) (part : Nat) : List Nat :=
  let digest := shake256 64 (pl.take (certSigs pl part))
  let keys := (p.binding.map Binding.keys).getD []
  ((List.range (le pl 11 1)).filterMap (fun i =>
    let e := sigEntry pl part i
    if verifies (keys.getD (le e 0 1) []) digest (slice e 8 (le e 2 2)) then some (le e 0 1) else none)).eraseDups

/-- The failed checks of a certificate for an opcode whose command-specific part has n bytes; offsets count from the record. -/
def certFails (p : Part) (c : Cmd) (part : Nat) : List (Nat × Nat) :=
  let pl := c.payload
  let keys := ((p.binding.map Binding.keys).getD []).length
  let cur := jobEpochOf p
  check (decide (le pl 0 8 ≠ jobIdOf p)) stBadField 64
  ++ check (decide (le pl 8 2 ≠ c.opcode)) stBadField 72
  ++ check (decide (le pl 10 1 = 0 ∨ 64 < le pl 10 1)) stBadField 74
  ++ check (decide (le pl 11 1 = 0 ∨ 16 < le pl 11 1)) stBadField 75
  ++ check (decide (le pl 16 4 ≠ (le pl 12 4 + 1) % 2 ^ 32)) stBadField 80
  ++ check (!allZero (slice pl 20 44)) stBadField 84
  ++ check (!allZero (slice pl (64 + 2 * le pl 10 1) (certListBytes pl - 2 * le pl 10 1))) stBadField (128 + 2 * le pl 10 1)
  ++ check (decide (pl.length ≠ certSigs pl part + 1288 * le pl 11 1)) stBadField 8
  ++ ((List.range (le pl 11 1)).flatMap (fun i =>
        check (!sigEntryOk keys (sigEntry pl part i)) stBadField (64 + certSigs pl part + 1288 * i)))
  ++ check (decide ((certSigners p pl part).length < (p.binding.map Binding.quorum).getD 0)) stDenied 0
  ++ check (decide (le pl 12 4 ≠ cur)) stStaleEpoch 0

end Sys2Proof.Machine
end

