-- ==== Sys2Proof/Machine/Job.lean ====
section
/-! DEFINITION. Jobs (R315, R380, R407 to R411, R421, R425, R431 to R444, R522 to R524): binding, fencing, expulsion, admission,
shadows and cold takeovers, and the meanings of BIND_JOB, UNBIND_JOB, SHADOW_BEGIN, SHADOW_END, FENCE, EXPEL, ADMIT,
COLD_STREAM_UNIT and FIRST_COPY_UNIT. -/

namespace Sys2Proof.Machine

/-! ### Buckets' extents (R380, R381) -/

/-- The blocks of rank r's shard: first and count. -/
def BucketRec.shard (k : BucketRec) : Nat × Nat :=
  let lo := k.rank * k.blocks / max k.p 1
  (lo, (k.rank + 1) * k.blocks / max k.p 1 - lo)

/-- The result blocks a bucket writes at this rank. -/
def BucketRec.resultBlocks (k : BucketRec) : Nat × Nat := if k.op = 1 then k.shard else (0, k.blocks)

/-- The planes of a bucket as (field offset, image address, bytes). -/
def BucketRec.planes (k : BucketRec) : List (Nat × Nat × Nat) :=
  let src := if k.op = 2 then k.shard else (0, k.blocks)
  let dst := k.resultBlocks
  [(32, k.src + 128 * src.1, 128 * src.2), (40, k.dst + 128 * dst.1, 128 * dst.2)]
    ++ (if k.op = 2 then [] else [(48, k.flagsAddr + dst.1, dst.2)])

/-- The space an image address counts from: 0 tile windows, 1 the carve-out, 2 the stash share. -/
def imageSpace (a : Nat) : Nat := field a 60 2

/-! ### BIND_JOB's payload (R407) -/

/-- Recipe counts: own, owner 0, owner 1. -/
def bindCounts (pl : List Byte) : List Nat := [le pl 124 4, le pl 128 4, le pl 132 4]

/-- A recipe record (R411). -/
def recipeOf (b : List Byte) : Recipe :=
  { layerTag := le b 0 2
    opt := le b 2 1
    narrowOut := (le b 3 1).testBit 0
    first := le b 4 8
    count := le b 12 4
    bucket := le b 16 4
    block := le b 20 4
    narrowFmt := le b 24 1
    lr := BitVec.ofNat 32 (le b 28 4)
    beta1 := BitVec.ofNat 32 (le b 32 4)
    beta2 := BitVec.ofNat 32 (le b 36 4)
    eps := BitVec.ofNat 32 (le b 40 4)
    wd := BitVec.ofNat 32 (le b 44 4)
    narrowAddr := localAddr (le b 48 8)
    raw := b }

/-- n records from record i of a bulk region. -/
def recipesAt (bulk : List Byte) (i n : Nat) : List Recipe :=
  (List.range n).map (fun j => recipeOf (slice bulk (64 * (i + j)) 64))

/-- The three lists of a bind's bulk region. -/
def bindRecipes (pl bulk : List Byte) : List (List Recipe) :=
  let n := bindCounts pl
  [recipesAt bulk 0 (n.getD 0 0), recipesAt bulk (n.getD 0 0) (n.getD 1 0), recipesAt bulk (n.getD 0 0 + n.getD 1 0) (n.getD 2 0)]

/-- The manager keys. -/
def bindKeys (pl : List Byte) : List (List Byte) := (List.range (le pl 14 1)).map (fun i => slice pl (256 + keyBytes * i) keyBytes)

/-- The checks of tree fields at a payload offset (R307, R407): flags, parent, child mask. -/
def treeFails (s : State) (flags parent mask : Nat) (off : Nat) : List (Nat × Nat) :=
  let root := flags.testBit 0
  check (decide (3 < flags)) stBadField (off + 1)
  ++ check (decide (15 < parent) || (root && decide (parent ≠ 0))) stBadField (off + 2)
  ++ check (decide (mask = 0xFFFF) || (!root && mask.testBit parent)) stBadField (off + 4)
  ++ check (!root && decide (portCount s ≤ parent ∧ parent < 16)) stAbsent (off + 2)
  ++ check (decide (2 ^ portCount s ≤ mask)) stAbsent (off + 4)

/-- Whether regions overlap. -/
def spansOverlap (a b : Nat × Nat) : Bool := decide (0 < a.2 ∧ 0 < b.2 ∧ a.1 < b.1 + b.2 ∧ b.1 < a.1 + a.2)

/-- A bind's regions 0 to 4 followed by the partition's others. -/
def bindRegions (p : Part) (pl : List Byte) : List (Nat × Nat) :=
  (List.range 16).map (fun k => if k < 5 then (le pl (56 + 8 * k) 4, le pl (60 + 8 * k) 4) else p.regions.getD k (0, 0))

/-- The bind's checks of its regions (R277, R410, R421). -/
def regionFails (s : State) (p : Part) (pl : List Byte) : List (Nat × Nat) :=
  let rs := bindRegions p pl
  let n := le pl 16 8
  let off (k : Nat) : Nat := 64 + 56 + 8 * k
  let size (k : Nat) : Nat := (rs.getD k (0, 0)).2 * 2 ^ 20
  (List.range 5).flatMap (fun k =>
    let r := rs.getD k (0, 0)
    check (decide (0 < r.2 ∧ (r.1 < 1 ∨ (imageOf p).carveGib * 1024 < r.1 + r.2))) stBadLength (off k)
    ++ check ((List.range 7).any (fun j => decide (j ≠ k) && (decide (5 ≤ j) || decide (j < k)) && spansOverlap r (rs.getD j (0, 0)))) stBadField (off k))
  ++ check (decide (size 0 < 65536 + 12 * n)) stBadLength (off 0)
  ++ check (decide (size 1 < 65536 + 12 * n)) stBadLength (off 1)
  ++ check (decide (1 ≤ le pl 13 1 ∧ size 2 < escrowBytes (le pl 40 8))) stBadLength (off 2)
  ++ check (decide (2 ≤ le pl 13 1 ∧ size 3 < escrowBytes (le pl 48 8))) stBadLength (off 3)
  ++ check (decide (0 < size 3) && !hasDualEscrow s) stAbsent (off 3)

/-- Whether a flow index names a LINK flow of the partition. -/
def linkFlow (s : State) (q i : Nat) : Bool := (flowAt s q i).any (fun f => f.cfg.kind = 1)

/-- A bind's checks of a partner: its flow and its shard size. -/
def partnerFails (s : State) (q : Nat) (pl : List Byte) (i : Nat) : List (Nat × Nat) :=
  let inUse (n : Nat) : Bool := decide (i < n)
  let flow (o : Nat) : Nat := le pl (o + 4 * i) 4
  check (if inUse (le pl 12 1) then !linkFlow s q (flow 24) else decide (flow 24 ≠ 0)) stBadField (64 + 24 + 4 * i)
  ++ check (if inUse (le pl 13 1) then !linkFlow s q (flow 32) else decide (flow 32 ≠ 0)) stBadField (64 + 32 + 4 * i)
  ++ check (if inUse (le pl 13 1) then decide (le pl (40 + 8 * i) 8 = 0 ∨ 2 ^ 40 < le pl (40 + 8 * i) 8) else decide (le pl (40 + 8 * i) 8 ≠ 0))
      stBadField (64 + 40 + 8 * i)
  ++ check (if inUse (le pl 13 1) then decide (le pl (128 + 4 * i) 4 = 0 ∨ 65536 < le pl (128 + 4 * i) 4) else decide (le pl (128 + 4 * i) 4 ≠ 0))
      stBadField (64 + 128 + 4 * i)

/-- Everything BIND_JOB checks in its payload alone. -/
def bindPayloadFails (s : State) (c : Cmd) : List (Nat × Nat) :=
  let pl := c.payload
  let q := c.partition
  let p := partAt s q
  let n := le pl 14 1
  let keys := bindKeys pl
  check (decide (c.payloadLen ≠ 256 + keyBytes * n)) stBadField 8
  ++ check (decide (2 < le pl 12 1)) stBadField (64 + 12)
  ++ check (decide (2 < le pl 13 1)) stBadField (64 + 13)
  ++ check (decide (n = 0 ∨ 16 < n)) stBadField (64 + 14)
  ++ check (decide (le pl 15 1 = 0 ∨ n < le pl 15 1)) stBadField (64 + 15)
  ++ check (decide (le pl 16 8 = 0 ∨ 2 ^ 40 < le pl 16 8)) stBadField (64 + 16)
  ++ (List.range 2).flatMap (partnerFails s q pl)
  ++ regionFails s p pl
  ++ check (decide (15 < le pl 112 1)) stBadField (64 + 112)
  ++ treeFails s (le pl 113 1) (le pl 114 1) (le pl 116 2) (64 + 112)
  ++ check (decide (le pl 115 1 ≠ 0)) stBadField (64 + 115)
  ++ check (decide (le pl 118 2 ≠ 0)) stBadField (64 + 118)
  ++ check (decide (le pl 124 4 = 0 ∨ 65536 < le pl 124 4)) stBadField (64 + 124)
  ++ check (!allZero (slice pl 136 120)) stBadField (64 + 136)
  ++ ((withPos keys).flatMap (fun k =>
        check (badKey k.2 || (keys.take k.1).contains k.2) stBadField (64 + 256 + keyBytes * k.1)))
  ++ check ((decide (le pl 12 1 = 2)) && !hasDualEscrow s) stAbsent (64 + 12)
  ++ check ((decide (le pl 13 1 = 2)) && !hasDualEscrow s) stAbsent (64 + 13)
  ++ check (decide (c.bulkLen = 0 ∨ c.bulkLen < 64 * (bindCounts pl).foldl (· + ·) 0)) stBadLength 40
  ++ ((imageOf p).buckets.flatMap (fun k => k.planes.flatMap (fun x =>
        check (decide (imageSpace x.2.1 = 2 ∧ le pl 108 4 * 2 ^ 20 < field x.2.1 0 44 + x.2.2)) stBadLength (64 + 108))))
  ++ check s.fs.failed stAbsent 0
  ++ check (!s.devIdValid) stWrongState 0
  ++ check (decide ((imageOf p).sigState = 0)) stBadSignature 0

/-! ### The image's signature (R522) -/

/-- The manager key that an UNVERIFIED image's KEY_ID names, if its signature verifies. -/
def managerKey (p : Part) (keys : List (List Byte)) : Option Nat :=
  let i := imageOf p
  ((withPos keys).find? (fun k => keyId k.2 = i.keyId && verifies k.2 i.digest i.sig)).map Prod.fst

/-! ### Recipes (R411) -/

/-- The checks that own and owners' records share, over a shard of n parameters. -/
def recipeFails (n : Nat) (rs : List Recipe) : List (Nat × Nat) :=
  let bad (f : Bool) : List (Nat × Nat) := check f stBadField inBulk
  let last := rs.foldl (fun (e : Option Nat) r => e.bind (fun e => if r.first = e then some (e + r.count) else none)) (some 0)
  bad (last ≠ some n)
  ++ rs.flatMap (fun r =>
      bad (decide (r.opt ≠ 1 ∧ r.opt ≠ 2)) ++ bad (decide (1 < le r.raw 3 1)) ++ bad (decide (r.count = 0))
      ++ bad (decide (le r.raw 25 3 ≠ 0) || decide (le r.raw 56 8 ≠ 0))
      ++ bad (r.narrowOut && decide (r.narrowFmt ≠ 0x20 ∧ r.narrowFmt ≠ 0x21)))

/-- The checks of the partition's own records: bucket and narrow weights. -/
def ownRecipeFails (s : State) (p : Part) (narrow : Nat × Nat) (r : Recipe) : List (Nat × Nat) :=
  let blocks := (r.count + 31) / 32
  let bucketBad := match bucketRec p r.bucket with
    | none => true
    | some k => decide (k.op = 2) || !(decide (k.resultBlocks.1 ≤ r.block) && decide (r.block + blocks ≤ k.resultBlocks.1 + k.resultBlocks.2))
  let a := r.narrowAddr
  let n := 2 * r.count
  let inRegion := within a n (p.carve + narrow.1 * 2 ^ 20) (narrow.2 * 2 ^ 20)
  let inStore := isTileAddr a && inRect p (tileOf a) && within a n (tileBase (tileOf a)) (partEnd 0)
  check bucketBad stBadField inBulk
  ++ check (r.narrowOut && (badAddr (le r.raw 48 8) || (remoteDev s (le r.raw 48 8)).isSome)) stBadField inBulk
  ++ check (r.narrowOut && !inRegion && !inStore) stBadLength inBulk
  ++ check (r.narrowOut && inStore && !tilePresent s (tileOf a)) stAbsent inBulk

/-- Everything BIND_JOB checks in its bulk region; records that the region is too short to hold are not judged. -/
def bindBulkFails (s : State) (c : Cmd) (bulk : List Byte) : List (Nat × Nat) :=
  let p := partAt s c.partition
  let rs := bindRecipes c.payload bulk
  (if bulk.length < 64 * (bindCounts c.payload).foldl (· + ·) 0 then [] else
    recipeFails (le c.payload 16 8) (rs.getD 0 [])
    ++ (if 1 ≤ le c.payload 13 1 then recipeFails (le c.payload 40 8) (rs.getD 1 []) else [])
    ++ (if 2 ≤ le c.payload 13 1 then recipeFails (le c.payload 48 8) (rs.getD 2 []) else [])
    ++ (rs.getD 0 []).flatMap (ownRecipeFails s p ((bindRegions p c.payload).getD 4 (0, 0))))
  ++ check (decide ((imageOf p).sigState = 2) && (managerKey p (bindKeys c.payload)).isNone) stBadSignature 0

/-! ### Shares and trees -/

/-- Reserve pools in MiB: journal, retention, checkpoint staging, stash (R275). -/
def poolMib (s : State) : List Nat := if isHbm s then [12288, 8192, 8192, 4096] else [2048, 1024, 1024, 1024]

/-- Base of the stash pool. -/
def stashPool (s : State) : Nat := fsBase + (if isHbm s then 41 else 7) * 2 ^ 30

/-- Another partition's share of a pool. -/
def quotaOf (p : Part) (i : Nat) : Nat := p.quota.getD i 0

/-- The lowest place of the stash pool where n MiB fit beside the other partitions' shares. -/
def stashPlace (s : State) (q n : Nat) : Option Nat :=
  let held := (List.range 16).filterMap (fun r =>
    let p := partAt s r
    if r = q || quotaOf p 3 = 0 then none else some (p.stashBase, quotaOf p 3 * 2 ^ 20))
  let starts := stashPool s :: held.map (fun x => x.1 + x.2)
  starts.foldl (fun (best : Option Nat) a =>
    let ok := decide (a + n * 2 ^ 20 ≤ stashPool s + (poolMib s).getD 3 0 * 2 ^ 20) && !held.any (fun h => spansOverlap (a, n * 2 ^ 20) h)
    if ok && (match best with | none => true | some b => decide (a < b)) then some a else best) none

/-- What BIND_JOB checks last: capacities, then the header's epoch (R278, R307). -/
def bindLateFails (s : State) (c : Cmd) : List (Nat × Nat) :=
  let pl := c.payload
  let q := c.partition
  let full (i : Nat) : Bool :=
    decide ((poolMib s).getD i 0 < le pl (96 + 4 * i) 4 + ((List.range 16).filter (· ≠ q)).foldl (fun n r => n + quotaOf (partAt s r) i) 0)
  check ((List.range 4).any full || (stashPlace s q (le pl 108 4)).isNone) stNoResource 0
  ++ check ((treeAt s (le pl 112 1)).valid) stNoResource 0
  ++ check ((le pl 113 1).testBit 1 && s.trees.any (fun x => x.2.valid && x.2.timing)) stNoResource 0
  ++ epochFails s c

/-- A tree context bound to a partition's job; a timing tree with a parent ends the module's own mastery (R211, R307, R311). -/
def bindTree (s : State) (k q epoch flags parent mask wait : Nat) : State :=
  let s1 := modTree s k (fun _ =>
    { valid := true
      root := flags.testBit 0
      timing := flags.testBit 1
      parent := parent
      childMask := BitVec.ofNat 16 mask
      epoch := epoch
      wait := wait
      part := q })
  let s1 := modBinding s1 q (fun b => { b with treeShape := (flags, parent, mask, wait) })
  if !flags.testBit 1 then s1
  else if flags.testBit 0 then { s1 with tick := { s1.tick with master := true, locked := false, armed := false } }
  else { s1 with tick := { s1.tick with master := false, locked := false, armed := true } }

/-- A tree context unbound; without a timing tree the module is its own master. -/
def unbindTree (s : State) (k : Nat) : State :=
  let s1 := { s with trees := s.trees.put k {} }
  if (treeAt s k).timing then
    { s1 with
      tick := { s1.tick with master := true, locked := false, armed := false, rate := 0, disciplined := false }
      ports := s1.ports.map (fun x => (x.1, { x.2 with timeReqAt := none, delayValid := false })) }
  else s1

/-- The bind's effect. -/
def bindEffect (s : State) (c : Cmd) : State :=
  let pl := c.payload
  let q := c.partition
  let p := partAt s q
  let i := imageOf p
  let rs := bindRecipes pl c.bulk
  let slot (n k o : Nat) (params : Nat) : EscrowSlot :=
    if k < n then
      let f := le pl (o + 4 * k) 4
      { role := 1, dev := ((flowAt s q f).map Flow.dstDev).getD 0, flow := f, params := params }
    else {}
  let key := if i.sigState = 2 then managerKey p (bindKeys pl) else none
  let b : Binding := {
    jobId := le pl 0 8
    jobEpoch := le pl 8 4
    keys := bindKeys pl
    quorum := le pl 15 1
    params := le pl 16 8
    tree := le pl 112 1
    slots := [slot (le pl 12 1) 0 24 (le pl 16 8), slot (le pl 12 1) 1 24 (le pl 16 8), slot (le pl 13 1) 0 32 (le pl 40 8),
      slot (le pl 13 1) 1 32 (le pl 48 8)]
    recipes := rs.getD 0 []
    ownerRecipes := [rs.getD 1 [], rs.getD 2 []]
    imageDigest := i.digest
    fenced := s.parts.any (fun x => isFencedPart x.2 && decide (jobIdOf x.2 = le pl 0 8))
    sigState := if key.isSome then 3 else i.sigState
    sigKey := key.getD i.keyIndex }
  let s1 := modPart s q (fun p =>
    { p with
      binding := some b
      image := p.image.map (fun i => { i with sigState := b.sigState, keyIndex := b.sigKey })
      regions := bindRegions p pl
      quota := (List.range 4).map (fun k => le pl (96 + 4 * k) 4)
      stashBase := (stashPlace s q (le pl 108 4)).getD 0
      settle := {}
      join := {} })
  let s2 := bindTree s1 b.tree q b.jobEpoch (le pl 113 1) (le pl 114 1) (le pl 116 2) (le pl 120 4)
  complete s2 c stOk b.jobEpoch 0 0 c.bulkLen

/-! ### BIND_JOB's course (R408) -/

/-- The escrow places of a bind's partners. -/
def bindPartners (pl : List Byte) : List (Nat × Nat) :=
  ((List.range 2).filter (fun i => decide (i < le pl 12 1))).map (fun i => (i, le pl (24 + 4 * i) 4))
    ++ ((List.range 2).filter (fun i => decide (i < le pl 13 1))).map (fun i => (2 + i, le pl (32 + 4 * i) 4))

/-- The bind ends with the failure that decides, or takes effect. -/
def bindEnd (s : State) (c : Cmd) : State :=
  match decideFail (bindLateFails s c) with
  | some f => refuseCmd s c f
  | none => bindEffect s c

/-- Address of DEV_FD_TAG. -/
def fdTagAddr : Nat := ctl 0x20

/-- The partners' failure-domain tags asked for. -/
def askTags (s : State) (c : Cmd) : State :=
  (bindPartners c.payload).foldl (fun s x =>
    match flowAt s c.partition x.2 with
    | none => s
    | some f =>
      let k := readPacket s (partAt s c.partition) f fdTagAddr 8 (now s) false
      queueOut s c.partition x.2 (.fdTag c.host c.seq x.1) { k with jobEpoch := le c.payload 8 4 }) s

/-- BIND_JOB: started with the checks of its header and payload. -/
def bindJob (h seq : Nat) (s : State) : State :=
  startCmd s h seq opBindJob (fun s c => askJudged s c (bindPayloadFails s c))

def execBindJob (h seq : Nat) (s : State) : Host.Outcome State Fault Refusal := .next (bindJob h seq s)

/-- Its bulk region has been read, or refused. -/
def bindBulk (s : State) (c : Cmd) (ok : Bool) (data : List Byte) : State :=
  let fails := heldFail c ++ (if ok then bindBulkFails s c data else check true stBadLength inBulk)
  match decideFail (fails.filter (fun f => decide (statusRank f.1 < 5))) with
  | some f => refuseCmd s { c with bulk := data } f
  | none =>
    let partners := (bindPartners c.payload).map Prod.fst
    let s1 := modCmd s c.host c.seq (fun c => { c with bulk := data, phase := 2, awaiting := partners })
    if partners.isEmpty then bindEnd s1 { c with bulk := data } else askTags s1 c

/-- A partner's tag has come (R408). -/
def bindTag (s : State) (h seq partner tag : Nat) : State :=
  match cmdAt s h seq with
  | none => s
  | some c =>
    if c.opcode ≠ opBindJob || !c.awaiting.contains partner then s
    else if tag % 65536 = s.fdTag.toNat then refuseCmd s c (stDenied, 0)
    else
      let left := c.awaiting.erase partner
      let s1 := modCmd s h seq (fun c => { c with awaiting := left })
      if left.isEmpty then bindEnd s1 { c with awaiting := left } else s1

/-- A partner's tag has not come. -/
def bindTimeout (s : State) (h seq : Nat) : State :=
  match cmdAt s h seq with
  | none => s
  | some c => if c.opcode = opBindJob then refuseCmd s c (stTimeout, 0) else s

/-! ### UNBIND_JOB (R409) -/

/-- A tile's engines free again after a purge or a stop: rings empty, stops cleared (R99, R227). -/
def reviveTile (s : State) (t : Nat) : State :=
  modTile s t (fun x =>
    { x with
      arr := { x.arr with
        faultStop := false
        rings := x.arr.rings.map (fun r => (r.1, { r.2 with
          rowsIn := 0
          slotIn := 0
          rowsOut := 0
          slotOut := 0
          issueSlot := 0
          window := 0
          queuedAt := []
          denoms := []
          blocks := []
          lines := [] })) }
      vec := { x.vec with stopped := false }
      sched := { x.sched with stopped := false } })

/-- A FENCED device whose fencing job has no partition bound any more returns to READY or DEGRADED (R363). -/
def unfence (s : State) : State :=
  if s.dev = .fenced && !s.parts.any (fun x => isFencedPart x.2) then setDev s (if retiredAny s then .degraded else .ready) else s

/-- The binding of a partition ended. -/
def unbindEffect (s : State) (q : Nat) : State :=
  let p := partAt s q
  let s1 := match treeOf p with | some k => unbindTree s k | none => s
  let s2 := failCopy s1 q stWrongState
  let s3 := modPart s2 q (fun p =>
    { p with
      binding := none
      regions := (withPos p.regions).map (fun r => if r.1 < 5 then (0, 0) else r.2)
      quota := []
      stashBase := 0
      settle := {}
      join := {} })
  unfence { s3 with flows := s3.flows.map (fun f => if f.q = q then { f with closed := false } else f) }

/-- UNBIND_JOB. -/
def unbindJob (h seq : Nat) (s : State) : State :=
  startCmd s h seq opUnbindJob (fun s c => withChecks s c [] (fun s => complete (unbindEffect s c.partition) c stOk 0 0 0 0))

def execUnbindJob (h seq : Nat) (s : State) : Host.Outcome State Fault Refusal := .next (unbindJob h seq s)

/-! ### Shadows (R438 to R441) -/

/-- Address of UPD_JOIN, which a shadow's request to its member names. -/
def shadowAddr : Nat := ctl 0x70040

/-- The checks of SHADOW_BEGIN's payload. -/
def shadowFails (s : State) (c : Cmd) : List (Nat × Nat) :=
  let pl := c.payload
  let q := c.partition
  check (decide (c.payloadLen ≠ 16)) stBadField 8
  ++ check (decide (le pl 2 2 ≠ 0)) stBadField 66
  ++ check (!(linkFlow s q (le pl 4 4) && (flowAt s q (le pl 4 4)).any (fun f => f.dstDev = le pl 0 2))) stBadField 68
  ++ check (decide (le pl 8 4 = 0 ∨ 65536 < le pl 8 4)) stBadField 72
  ++ check (decide (le pl 12 4 = 0 ∨ 1600000 < le pl 12 4)) stBadField 76

/-- SHADOW_BEGIN: the member is asked to serve; the command completes with its answer. -/
def shadowBegin (h seq : Nat) (s : State) : State :=
  startCmd s h seq opShadowBegin (fun s c => withChecks s c (shadowFails s c) (fun s =>
    let i := le c.payload 4 4
    match flowAt s c.partition i with
    | none => s
    | some f =>
      let k := readPacket s (partAt s c.partition) f shadowAddr 0 (now s) false
      queueOut (modCmd s h seq (fun c => { c with phase := 2 })) c.partition i (.shadow c.partition) { k with typ := 1 }))

def execShadowBegin (h seq : Nat) (s : State) : Host.Outcome State Fault Refusal := .next (shadowBegin h seq s)

/-- The SHADOW_BEGIN that waits in a partition. -/
def shadowCmd (s : State) (q : Nat) : Option Cmd :=
  s.cmds.find? (fun c => decide (c.opcode = opShadowBegin ∧ c.partition = q ∧ c.phase = 2))

/-- The member's answer, with its abort epoch: on OK the partition shadows and is RUNNING, its state not yet its own. -/
def shadowAnswer (s : State) (q st epoch : Nat) : State :=
  match shadowCmd s q with
  | none => s
  | some c =>
    if st ≠ stOk then refuseCmd s c (st, 0)
    else
      let pl := c.payload
      let s1 := modPart s q (fun p =>
        { p with
          abortEpoch := epoch
          aborted := none
          join := { p.join with
            mode := 1
            memberDev := le pl 0 2
            memberFlow := le pl 4 4
            qualify := le pl 8 4
            copyRate := le pl 12 4
            matched := 0
            copied := 0
            copyDone := false
            computing := false
            stepMatched := true } })
      complete (setPartState s1 q .running) c stOk 0 0 0 0

/-- A partition's work stopped with nothing said to its job. -/
def quietStop (s : State) (q : Nat) : State :=
  let s1 := purgePart s q 0 false
  let s2 := (partTiles (partAt s1 q)).foldl (fun s t => reviveTile (purgeTile 0 s t) t) s1
  modCtx s2 q (fun c => { c with active := false, waitResult := false, holding := false })

/-- SHADOW_END: the partition returns to LOADED, bound (R441). -/
def shadowEnd (h seq : Nat) (s : State) : State :=
  startCmd s h seq opShadowEnd (fun s c => withChecks s c [] (fun s =>
    let m := (partAt s c.partition).join.matched
    let s1 := modJoin (quietStop s c.partition) c.partition (fun _ => {})
    complete (setPartState s1 c.partition .loaded) c stOk m 0 0 0))

def execShadowEnd (h seq : Nat) (s : State) : Host.Outcome State Fault Refusal := .next (shadowEnd h seq s)

/-! ### Fences (R314, R315, R363, R434, R435) -/

/-- The module fenced in a job: its partitions of that job stop at once, abort in silence and become HELD; the device is FENCED. -/
def enterFenced (s : State) (job : Nat) : State :=
  let qs := (List.range 16).filter (fun q => isBound (partAt s q) && decide (jobIdOf (partAt s q) = job))
  let s1 := qs.foldl (fun s q => modBinding s q (fun b => { b with fenced := true })) s
  let gone (o : OutPkt) : Bool := qs.contains o.q
  let ks := qs.filterMap (fun q => treeOf (partAt s q))
  let s2 := { s1 with ports := s1.ports.map (fun x => (x.1, { x.2 with
    sendReq := x.2.sendReq.filter (fun o => !gone o)
    sendRsp := x.2.sendRsp.filter (fun o => !gone o)
    ctlWait := x.2.ctlWait.filter (fun c => !ks.contains c.tree) })) }
  let s3 := qs.foldl (fun s q => stepAbort (requestPreempt s q) q causeHost (now s) false false) s2
  if s3.dev = .ready || s3.dev = .degraded then setDev s3 .fenced else s3

/-- The job epoch of a partition, and of its tree context, set. -/
def setEpoch (s : State) (q e : Nat) : State :=
  let s1 := modBinding s q (fun b => { b with jobEpoch := e })
  match treeOf (partAt s q) with
  | some k => modTree s1 k (fun x => { x with epoch := e })
  | none => s1

/-- A FENCE notice (R314). -/
def fenceSlot (p : Part) (dev epoch : Nat) : CtlSlot := treeSlot p 3 (dev % 65536 + epoch % 2 ^ 32 * 65536)

/-- What FENCE and EXPEL share: the abort, the new epoch, a notice for each listed device; a module listed itself is fenced. -/
def fenceEffect (s : State) (c : Cmd) : State :=
  let q := c.partition
  let devs := certDevices c.payload
  let epoch := le c.payload 16 4
  let s1 := setEpoch (stepAbort s q causeHost (now s) false false) q epoch
  let s2 := devs.foldl (fun s d => flood { s with fencesSeen := s.fencesSeen ++ [(d + 65536 * q, epoch)] } q (fenceSlot (partAt s q) d epoch)) s1
  if s.devIdValid && devs.contains s.devId then enterFenced s2 (jobIdOf (partAt s2 q)) else s2

/-- FENCE. -/
def fence (h seq : Nat) (s : State) : State :=
  startCmd s h seq opFence (fun s c =>
    withChecks s c (certFails (partAt s c.partition) c 0) (fun s => complete (fenceEffect s c) c stOk (le c.payload 16 4) 0 0 0))

def execFence (h seq : Nat) (s : State) : Host.Outcome State Fault Refusal := .next (fence h seq s)

/-- A transfer's request ended with a status, its slot let go. -/
def failUse (s : State) (u : SlotUse) (st : Nat) : State :=
  match u with
  | .dma t k | .read t k _ _ | .trailer t k => abandonOf (modDesc s t k (fun x => { x with status := if x.status = stOk then st else x.status })) t k
  | .fdTag h seq _ => bindTimeout s h seq
  | .shadow q => shadowAnswer s q st 0
  | _ => s

/-- The open and waiting requests of flows that satisfy a condition ended with a status. -/
def endRequests (s : State) (st : Nat) (sel : Nat → Nat → Bool) : State :=
  let slots := s.slots.filter (fun x => sel x.q x.flow)
  let waiting := (s.flows.filter (fun f => sel f.q f.idx)).flatMap Flow.queue
  let s1 := slots.foldl (fun s x => releaseSlot s x.num) s
  let s2 := { s1 with
    flows := s1.flows.map (fun f => if sel f.q f.idx then { f with queue := [], txRun := none, txPort := none } else f)
    ports := s1.ports.map (fun x => (x.1, { x.2 with sendReq := x.2.sendReq.filter (fun o => !sel o.q o.flow) })) }
  (slots.map ReqSlot.usage ++ waiting.map OutPkt.usage).foldl (fun s u => failUse s u st) s2

/-! ### Cold takeovers (R442 to R444) -/

/-- The last source of a cold stream is lost (R444). -/
def shardLost (s : State) (q : Nat) : State :=
  let p := partAt s q
  let s1 := logWith (modJoin s q (fun j => { j with mode := 6 })) 0x0F 0 0 0 q [jobIdOf p, p.join.memberDev, shardSize p]
  let s2 := match p.join.admitModule.bind (fun a => cmdAt s1 a.1 a.2) with
    | some c => complete s1 c stSourceLost 0 0 0 0
    | none => s1
  let s3 := modJoin s2 q (fun j => { j with admitModule := none })
  if p.state = .running || p.state = .held || p.state = .aborting then stepAbort s3 q causeFault (now s3) true false
  else setPartState s3 q .faulted

/-- A source of a cold stream is lost: the next takes over at the first unit not yet received. -/
def sourceLost (s : State) (q flow : Nat) : State :=
  let p := partAt s q
  if !isIncomplete p || p.join.sources.head? ≠ some flow then s
  else
    let left := p.join.sources.drop 1
    if left.isEmpty then shardLost s q else modJoin s q (fun j => { j with sources := left })

/-- What EXPEL does for one listed device. -/
def expelDevice (s : State) (q dev : Nat) : State :=
  let mine := (s.flows.filter (fun f => f.q = q && f.cfg.kind = 1 && f.dstDev = dev)).map Flow.idx
  let s1 := { s with flows := s.flows.map (fun f => if f.q = q && mine.contains f.idx then { f with closed := true } else f) }
  let s2 := endRequests s1 stStaleEpoch (fun a i => a = q && mine.contains i)
  let s3 := modBinding s2 q (fun b => { b with
    expelled := insertNat b.expelled dev
    slots := (withPos b.slots).map (fun x =>
      if x.2.role = 0 || x.2.dev ≠ dev then x.2 else { x.2 with role := if x.1 < 2 then 3 else 4, joined := false }) })
  mine.foldl (fun s i => sourceLost s q i) s3

/-- EXPEL. -/
def expel (h seq : Nat) (s : State) : State :=
  startCmd s h seq opExpel (fun s c =>
    withChecks s c (certFails (partAt s c.partition) c 0) (fun s =>
      let q := c.partition
      let s1 := requestPreempt (fenceEffect s c) q
      complete ((certDevices c.payload).foldl (fun s d => expelDevice s q d) s1) c stOk (le c.payload 16 4) 0 0 0))

def execExpel (h seq : Nat) (s : State) : Host.Outcome State Fault Refusal := .next (expel h seq s)

/-! ### ADMIT at a member (R436) -/

/-- The entry for listed device i. -/
def admitEntry (pl : List Byte) (i : Nat) : List Byte := slice pl (certPart pl + 16 * i) 16

/-- The checks of 8 bytes of tree fields, which repeat bytes 112 to 119 of R407's layout, at a record offset. -/
def admitTreeFails (s : State) (e : List Byte) (off : Nat) : List (Nat × Nat) :=
  treeFails s (le e 1 1) (le e 2 1) (le e 4 2) off
  ++ check (decide (le e 3 1 ≠ 0)) stBadField (off + 3) ++ check (decide (le e 6 2 ≠ 0)) stBadField (off + 6)

/-- The checks of a member's ADMIT. -/
def admitMemberFails (s : State) (c : Cmd) : List (Nat × Nat) :=
  let pl := c.payload
  let p := partAt s c.partition
  let n := le pl 10 1
  certFails p c (16 * n)
  ++ check (decide (c.arg1 ≤ now s)) stBadField 24
  ++ ((List.range n).flatMap (fun i =>
        let e := admitEntry pl i
        let off := 64 + certPart pl + 16 * i
        check (!((p.binding.map Binding.expelled).getD []).contains (le e 0 2)) stBadField off
        ++ check (decide (le e 4 2 = 0)) stBadField (off + 4)
        ++ check (decide (2 ^ portCount s ≤ le e 4 2)) stAbsent (off + 4)
        ++ check (decide (le e 6 2 ≠ 0)) stBadField (off + 6)
        ++ admitTreeFails s (e.drop 8) (off + 8)))

/-- The tree context bound anew with the fields of R407's bytes 112 to 119. -/
def rebindTree (s : State) (q : Nat) (e : List Byte) : State :=
  match treeOf (partAt s q) with
  | none => s
  | some k => bindTree s k q (jobEpochOf (partAt s q)) (le e 1 1) (le e 2 1) (le e 4 2)
      (((partAt s q).binding.map (fun b => b.treeShape.2.2.2)).getD 0)

/-- The retained messages to a replaced device sent again, to its successor. -/
def resendRetained (s : State) (q old new : Nat) : State :=
  (partAt s q).settle.retention.foldl (fun s m =>
    if m.pkt.dstDev ≠ old || m.step ≠ (partAt s q).ctx.step then s
    else
      let k := { m.pkt with dstDev := new, jobEpoch := jobEpochOf (partAt s q), abortEpoch := (partAt s q).abortEpoch }
      modFlow s q m.flow (fun f => { f with queue := f.queue ++ [{ q := q, flow := m.flow, usage := .send, ident := some (m.off, m.idx), pkt := k }] })) s

/-- One entry of a member's ADMIT. -/
def admitOne (q : Nat) (s : State) (e : List Byte) : State :=
  let old := le e 0 2
  let new := le e 2 2
  let s1 := { s with flows := s.flows.map (fun f =>
    if f.q = q && f.cfg.kind = 1 && f.dstDev = old then { f with dstDev := new, portMask := le e 4 2, closed := false } else f) }
  let s2 := modBinding s1 q (fun b => { b with
    expelled := b.expelled.filter (· ≠ old)
    slots := b.slots.map (fun x =>
      if x.dev ≠ old then x
      else if x.role = 3 then { x with role := 2, dev := new, copied := 0, joined := false }
      else if x.role = 4 then { x with role := 1, dev := new, copied := 0 }
      else x) })
  let s3 := resendRetained (rebindTree s2 q (e.drop 8)) q old new
  modSettle s3 q (fun x => { x with retention := x.retention.map (fun m =>
    if m.pkt.dstDev = old then { m with pkt := { m.pkt with dstDev := new }, acked := false } else m) })

/-- A partition that is HELD, or on its way there, resumes at a tick; one that replays by itself replays then. -/
def resumeAt (s : State) (q t : Nat) : State :=
  modPart s q (fun p =>
    if p.state = .held then { p with startAt := some t }
    else if p.state = .aborting then { p with startAt := if p.preempt then some t else p.startAt, replayAt := some t }
    else p)

/-- ADMIT's effect at a member. -/
def admitMember (s : State) (c : Cmd) : State :=
  let q := c.partition
  let s1 := setEpoch s q (le c.payload 16 4)
  let s2 := ((List.range (le c.payload 10 1)).map (admitEntry c.payload)).foldl (admitOne q) s1
  complete (resumeAt s2 q c.arg1) c stOk (le c.payload 16 4) 0 0 0

/-! ### ADMIT at a spare (R442) -/

/-- The checks of a spare's ADMIT. -/
def admitSpareFails (s : State) (c : Cmd) : List (Nat × Nat) :=
  let pl := c.payload
  let q := c.partition
  let p := partAt s q
  let o := certPart pl
  let e := slice pl o 24
  let cold := decide (c.arg0 = 1)
  let n := le e 2 1
  certFails p c 24
  ++ check (decide (1 < c.arg0)) stBadField 16
  ++ check (decide (c.arg1 ≤ now s)) stBadField 24
  ++ check (decide (le pl 10 1 ≠ 1) || certDevices pl ≠ [le e 0 2]) stBadField (64 + o)
  ++ check (!cold && !(isShadowing p && decide (p.join.memberDev = le e 0 2))) stBadField (64 + o)
  ++ check (if cold then decide (n = 0 ∨ 2 < n) else decide (n ≠ 0)) stBadField (64 + o + 2)
  ++ check (decide (le e 3 1 ≠ 0)) stBadField (64 + o + 3)
  ++ ((List.range 2).flatMap (fun i =>
        let f := le e (8 + 4 * i) 4
        check (if i < n then !linkFlow s q f else decide (f ≠ 0)) stBadField (64 + o + 8 + 4 * i)))
  ++ admitTreeFails s (e.drop 16) (64 + o + 16)

/-- A warm takeover: the shadow becomes the member, and replays the step at the resume tick. -/
def admitWarm (s : State) (c : Cmd) (e : List Byte) : State :=
  let q := c.partition
  if !(partAt s q).join.copyDone then complete s c stSourceLost 0 0 0 0
  else
    let s1 := setEpoch s q (le c.payload 16 4)
    let s2 := stepAbort s1 q causeHost (now s1) false false
    let s3 := modPart s2 q (fun p => { p with replayAt := some c.arg1, join := { p.join with mode := 0 } })
    complete (rebindTree s3 q (e.drop 16)) c stOk (le c.payload 16 4) 0 0 0

/-- A cold takeover begins: it completes when the wide state has come. -/
def admitCold (s : State) (c : Cmd) (e : List Byte) : State :=
  let q := c.partition
  let s1 := setEpoch s q (le c.payload 16 4)
  let s2 := modPart s1 q (fun p =>
    { p with
      startAt := some c.arg1
      abortEpoch := Config.coldAbortEpoch q % 65536
      aborted := none
      ctx := { p.ctx with step := Config.coldStep q, firstTick := Config.coldFirst q }
      join := { p.join with
        mode := 3
        memberDev := le e 0 2
        copyRate := le e 4 4
        sources := (List.range (le e 2 1)).map (fun i => le e (8 + 4 * i) 4)
        unit := 0
        admitModule := some (c.host, c.seq) } })
  modCmd (rebindTree s2 q (e.drop 16)) c.host c.seq (fun c => { c with phase := 2 })

/-- Whether ADMIT addresses a partition as a spare. -/
def admitsSpare (p : Part) : Bool := isShadowing p || decide (p.state = .loaded)

/-- ADMIT. -/
def admitModule (h seq : Nat) (s : State) : State :=
  startCmd s h seq opAdmit (fun s c =>
    let e := slice c.payload (certPart c.payload) 24
    if admitsSpare (partAt s c.partition) then
      withChecks s c (admitSpareFails s c) (fun s => if c.arg0 = 0 then admitWarm s c e else admitCold s c e)
    else withChecks s c (admitMemberFails s c) (fun s => admitMember s c))

def execAdmitModule (h seq : Nat) (s : State) : Host.Outcome State Fault Refusal := .next (admitModule h seq s)

/-! ### COLD_STREAM_UNIT (R442 to R444) -/

/-- The parameters of unit u of a shard of m: first and one past the last. -/
def unitSpan (m u : Nat) : Nat × Nat := (u * unitParams, min m ((u + 1) * unitParams))

/-- A narrow unit written: two bytes a parameter, where its recipe has narrow weights. -/
def writeNarrowUnit (s : State) (q u : Nat) (data : List Byte) : State :=
  let p := partAt s q
  let r := unitSpan (shardSize p) u
  (countFrom r.1 (r.2 - r.1)).foldl (fun s n =>
    let rc := recipeFor (ownRecipes p) n
    if rc.narrowOut then spanWrite s (rc.narrowAddr + 2 * (n - rc.first)) (slice data (2 * (n - r.1)) 2) else s) s

/-- A wide unit written to the settled version. -/
def writeWideUnit (s : State) (q u : Nat) (data : List Byte) : State :=
  let p := partAt s q
  let r := unitSpan (shardSize p) u
  spanWrite s (paramAddr p p.settle.settledVer r.1) (slice data 0 (12 * (r.2 - r.1)))

/-- The stream has brought the whole wide state: ADMIT completes. -/
def coldDone (s : State) (q : Nat) : State :=
  let s1 := match (partAt s q).join.admitModule.bind (fun a => cmdAt s a.1 a.2) with
    | some c => complete s c stOk (le c.payload 16 4) 0 0 0
    | none => s
  modJoin s1 q (fun j => { j with mode := 5, admitModule := none })

/-- COLD_STREAM_UNIT: the next unit arrives, the narrow weights first, then the wide state. -/
def coldStreamUnit (q : Nat) (data : List Byte) (s : State) : State :=
  let p := partAt s q
  let last := decide (unitsOf (shardSize p) ≤ p.join.unit + 1)
  if p.join.sources.isEmpty then s
  else if p.join.mode = 3 then
    modJoin (writeNarrowUnit s q p.join.unit data) q (fun j =>
      if last then { j with mode := 4, unit := 0 } else { j with unit := j.unit + 1 })
  else if p.join.mode = 4 then
    let s1 := writeWideUnit s q p.join.unit data
    if last then coldDone s1 q else modJoin s1 q (fun j => { j with unit := j.unit + 1 })
  else s

def execColdStreamUnit (q : Nat) (data : List Byte) (s : State) : Host.Outcome State Fault Refusal := .next (coldStreamUnit q data s)

/-! ### FIRST_COPY_UNIT (R425, R439, R442) -/

/-- Kinds of places at a partner (R425, R439, R442): escrow copy, hold block, forward values, narrow unit, version unit. -/
def atCopy : Nat := 0
def atHold : Nat := 1
def atForward : Nat := 2
def atNarrow : Nat := 3
def atWide : Nat := 4

/-- Kinds of places at a served shadow: those of its own shard from 24 on; those of owner k's escrow lie at 8·(k + 1) (R439). -/
def atShadow : Nat := 24

/-- One unit sent to a partner's place. -/
def sendUnit (s : State) (q flow kind n : Nat) (data : List Byte) : State :=
  let dev := ((flowAt s q flow).map Flow.dstDev).getD 0
  enqueue s q flow 1 (Config.partnerAddress dev flow kind n) (now s) data [] false false false .send

/-- Unit u of the settled version. -/
def settledUnit (s : State) (p : Part) (u : Nat) : List Byte :=
  let r := unitSpan (shardSize p) u
  readBytes s.mem (paramAddr p p.settle.settledVer r.1) (12 * (r.2 - r.1))

/-- Owner k's narrow unit, converted from the state its escrow represents with the key of the step that produced it. -/
def narrowUnit (s : State) (p : Part) (k u : Nat) : List Byte :=
  let w := representedUnit s p k u
  let r := unitSpan (ownerParams p k) u
  (List.range (r.2 - r.1)).flatMap (fun i =>
    let rc := recipeFor (ownerRecipes p k) (r.1 + i)
    toLe 2 (narrowBits rc.narrowFmt p.ctx.seed.toNat (escrowSlot p (2 + k)).copyStep rc.layerTag (r.1 + i) (le w (12 * i) 4)))

/-- A keeper's next unit. -/
def copyToKeeper (s : State) (q i : Nat) : State :=
  let p := partAt s q
  let e := escrowSlot p i
  if e.role ≠ 2 then s
  else
    let s1 := sendUnit s q e.flow atCopy e.copied (settledUnit s p e.copied)
    modEscrow s1 q i (fun e =>
      { e with
        copied := e.copied + 1
        role := if unitsOf (shardSize p) ≤ e.copied + 1 then 1 else 2 })

/-- The next unit of a cold stream to the device that fills owner slot k. -/
def streamToOwner (s : State) (q k : Nat) : State :=
  let p := partAt s q
  let e := escrowSlot p (2 + k)
  let n := unitsOf (ownerParams p k)
  if e.role ≠ 1 || 2 * n ≤ e.copied then s
  else
    let s1 := if e.copied < n then sendUnit s q e.flow atNarrow e.copied (narrowUnit s p k e.copied)
      else sendUnit s q e.flow atWide (e.copied - n) (representedUnit s p k (e.copied - n))
    modEscrow s1 q (2 + k) (fun e => { e with copied := e.copied + 1 })

/-- The next unit to a served shadow: the settled version, then each escrow copy, then each hold. -/
def copyToShadow (s : State) (q : Nat) : State :=
  let p := partAt s q
  match p.join.serves with
  | none => s
  | some flow =>
    let n := unitsOf (shardSize p)
    let m (k : Nat) : Nat := unitsOf (ownerParams p k)
    let i := p.join.served
    let out : Option (Nat × Nat × List Byte) :=
      if i < n then some (atWide, i, settledUnit s p i)
      else if i < n + m 0 then some (8 + atCopy, i - n, representedUnit s p 0 (i - n))
      else if i < n + m 0 + m 1 then some (16 + atCopy, i - n - m 0, representedUnit s p 1 (i - n - m 0))
      else if i < n + m 0 + m 1 + 2 then
        let k := i - n - m 0 - m 1
        some (8 * (k + 1) + atHold, 0, readBytes s.mem (holdAddr p k 0) (132 * ownerBlocks p k))
      else none
    match out with
    | none => s
    | some (kind, u, data) =>
      modJoin (sendUnit s q flow kind u data) q (fun j =>
        { j with
          served := j.served + 1
          servedStep := if i + 1 = n + m 0 + m 1 + 2 then some p.ctx.step else none })

/-- FIRST_COPY_UNIT: the next unit of a copy, to keeper 0 or 1, to the device that fills owner slot 0 or 1 (as 2 or 3), or to the
shadow that the partition serves (4). -/
def firstCopyUnit (q dst : Nat) (s : State) : State :=
  let p := partAt s q
  let read (a m u : Nat) : List (Nat × Nat) := let r := unitSpan m u; [(a + 12 * r.1, 12 * (r.2 - r.1))]
  if !isBound p then s
  else if dst < 2 then
    charged s q engEscrow (read (paramAddr p p.settle.settledVer 0) (shardSize p) (escrowSlot p dst).copied) (fun s => copyToKeeper s q dst)
  else if dst < 4 then
    let m := ownerParams p (dst - 2)
    charged s q engEscrow (read (copyAddr p (dst - 2) 0) m ((escrowSlot p dst).copied % max (unitsOf m) 1)) (fun s => streamToOwner s q (dst - 2))
  else charged s q engEscrow (read (paramAddr p p.settle.settledVer 0) (shardSize p) p.join.served) (fun s => copyToShadow s q)

def execFirstCopyUnit (q dst : Nat) (s : State) : Host.Outcome State Fault Refusal := .next (firstCopyUnit q dst s)

end Sys2Proof.Machine
end

