-- ==== Sys2Proof/Machine/ImageCheck.lean ====
section
/-! DEFINITION. What LOAD_IMAGE reads in a structure image and what it checks there (R25, R44, R60, R81, R85, R125, R129, R168,
R187 to R204, R220, R277, R299, R334, R337, R380, R400, R559, R560). Every field lies in the bulk region, so a failed check has
no offset of its own (R357). -/

namespace Sys2Proof.Machine

/-! ### Failed checks -/

/-- One check of a field of the image: BAD_FIELD where it fails. -/
def badF (f : Bool) : List (Nat × Nat) := check f stBadField inBulk

/-- One check of a length. -/
def badL (f : Bool) : List (Nat × Nat) := check f stBadLength inBulk

/-- One check of a unit. -/
def badU (f : Bool) : List (Nat × Nat) := check f stAbsent inBulk

/-- Whether [a, a + n) and [b, b + m) share a byte. -/
def meets (a n b m : Nat) : Bool := decide (0 < n ∧ 0 < m ∧ a < b + m ∧ b < a + n)

/-- Whether two of a list of spans share a byte. -/
def anyMeet : List (Nat × Nat) → Bool
  | [] => false
  | x :: l => l.any (fun y => meets x.1 x.2 y.1 y.2) || anyMeet l

/-- Whether a list names something twice. -/
def hasDup : List Nat → Bool
  | [] => false
  | x :: l => l.contains x || hasDup l

/-- Whether v lies outside lo to hi. -/
def outside (v lo hi : Nat) : Bool := decide (v < lo ∨ hi < v)

/-- Bytes of a tile's store. -/
def storeBytes : Nat := 0x600000

/-! ### Header and section table (R187 to R192) -/

def imgTotal (b : List Byte) : Nat := le b 8 8
def imgSigned (b : List Byte) : Bool := (le b 6 2).testBit 0

/-- Where the integrity block starts (R188). -/
def imgInteg (b : List Byte) : Nat := imgTotal b - (if imgSigned b then 1408 else 64)

def imgCount (b : List Byte) : Nat := le b 16 4
def imgTable (b : List Byte) : Nat := le b 24 8

/-- Bytes of the image staging region (R191). -/
def stagingBytes (s : State) : Nat := if isHbm s then 8 * 2 ^ 30 else 2 * 2 ^ 30

/-- DEV_CAPS' VARIANT. -/
def variantCode (s : State) : Nat :=
  match s.fuses.variant with
  | .dj4096H => 1
  | .dj3072H => 2
  | .dj4096G => 3

/-- The header's checks. -/
def headFails (s : State) (b : List Byte) (bulkLen : Nat) : List (Nat × Nat) :=
  badF (decide (slice b 0 4 ≠ [0x44, 0x52, 0x53, 0x49]))
  ++ badF (decide (le b 4 2 ≠ 1)) ++ badF (decide (1 < le b 6 2))
  ++ badF (decide (imgTotal b % 64 ≠ 0))
  ++ badF (outside (imgCount b) 1 65536) ++ badF (decide (le b 20 4 ≠ 0)) ++ badF (decide (imgTable b % 64 ≠ 0))
  ++ badF (decide (8 ≤ le b 40 1) || !(le b 40 1).testBit (variantCode s - 1)) ++ badF (decide (s.fuses.stepping < le b 41 1))
  ++ badF (!allZero (slice b 42 6)) ++ badF (!allZero (slice b 52 76))
  ++ badL (decide (stagingBytes s < imgTotal b)) ++ badL (decide (bulkLen < imgTotal b))

/-- Whether the table lies before the integrity block. -/
def tableFits (b : List Byte) : Bool :=
  decide (128 + (if imgSigned b then 1408 else 64) ≤ imgTotal b ∧ imgTotal b ≤ b.length ∧ imgTable b + 32 * imgCount b ≤ imgInteg b)

/-- A section table entry (R189). -/
structure Sect where
  typ : Nat
  scope : Nat
  off : Nat
  len : Nat
  count : Nat
  zero : Bool
deriving DecidableEq, Repr, Inhabited

/-- The entries of the table. -/
def sectsOf (b : List Byte) : List Sect :=
  (List.range (imgCount b)).map (fun i =>
    let e := slice b (imgTable b + 32 * i) 32
    { typ := le e 0 2
      scope := le e 4 4
      off := le e 8 8
      len := le e 16 8
      count := le e 24 4
      zero := decide (le e 2 2 = 0 ∧ le e 28 4 = 0) })

/-- Record size of a section type, 0 for a raw one, none for an unknown one. -/
def recSize (typ : Nat) : Option Nat :=
  match typ with
  | 0x01 => some 256
  | 0x02 => some 64
  | 0x03 => some 16
  | 0x04 => some 16
  | 0x05 => some 32
  | 0x06 => some 64
  | 0x07 => some 32
  | 0x08 => some 32
  | 0x09 => some 128
  | 0x0A => some 16
  | 0x10 => some 32
  | 0x11 => some 32
  | 0x12 => some 8
  | 0x13 => some 0
  | 0x14 => some 32
  | 0x15 => some 0
  | _ => none

/-- Whether a section type is per tile. -/
def perTile (typ : Nat) : Bool := decide (0x10 ≤ typ)

/-- The records a section may hold, where PARTITION gives TICKS_PER_STEP and FLOW_COUNT. -/
def recRange (typ ticks flows : Nat) : Nat × Nat :=
  match typ with
  | 0x01 => (1, 1)
  | 0x02 => (0, 4096)
  | 0x03 => (ticks, ticks)
  | 0x05 => (0, 256)
  | 0x07 => (0, 48)
  | 0x08 => (0, flows)
  | 0x09 => (1, 1)
  | 0x10 => (1, 1)
  | 0x11 => (1, 2048)
  | 0x13 => (0, 0)
  | 0x14 => (0, 4096)
  | 0x15 => (0, 0)
  | _ => (0, 65536)

/-- Whether an entry's extent can be read: its type is known, its length fits its records, and it ends before the integrity
block. -/
def sectReadable (b : List Byte) (e : Sect) : Bool :=
  match recSize e.typ with
  | none => false
  | some z => (decide (z = 0) || decide (e.len = z * e.count)) && decide (e.off + e.len ≤ imgInteg b)

/-- The first readable section of an image type. -/
def imageSect (b : List Byte) (l : List Sect) (typ : Nat) : Option Sect := l.find? (fun e => e.typ = typ && sectReadable b e)

/-- The records of a section. -/
def recsOf (b : List Byte) (e : Sect) : List (List Byte) :=
  let z := (recSize e.typ).getD 0
  (List.range e.count).map (fun i => slice b (e.off + z * i) z)

/-- The records of an image section, none where the image has no such section. -/
def imageRecs (b : List Byte) (l : List Sect) (typ : Nat) : List (List Byte) := ((imageSect b l typ).map (recsOf b)).getD []

/-- The sections that run past the start of the integrity block: nothing of them can be checked (R190). -/
def pastSects (b : List Byte) (l : List Sect) : List Sect :=
  l.filter (fun e => (recSize e.typ).isSome && decide (imgInteg b < e.off + e.len))

/-- The checks of the section table; `known` where the PARTITION record, which gives three of their bounds, can be read. -/
def tableFails (b : List Byte) (l : List Sect) (known : Bool) (ticks flows tiles : Nat) : List (Nat × Nat) :=
  l.flatMap (fun e =>
    let r := recRange e.typ ticks flows
    match recSize e.typ with
    | none => badF true
    | some z =>
      badF (!e.zero) ++ badF (decide (e.off % 64 ≠ 0)) ++ badF ((known || (e.typ ≠ 3 && e.typ ≠ 8)) && outside e.count r.1 r.2)
      ++ badF (decide (0 < z ∧ e.len ≠ z * e.count))
      ++ badF (if perTile e.typ then known && decide (tiles ≤ e.scope) else decide (e.scope ≠ 0xFFFFFFFF))
      ++ badL (decide (imgInteg b < e.off + e.len)))
  ++ badF (anyMeet ((0, 128) :: (imgTable b, 32 * imgCount b) :: l.map (fun e => (e.off, e.len))))
  ++ (List.range 0x0B).flatMap (fun typ =>
      let n := (l.filter (fun e => e.typ = typ)).length
      badF (decide (1 < n) || ((typ = 1 || typ = 3 || typ = 9) && n = 0)))
  ++ [0x10, 0x11, 0x12, 0x14].flatMap (fun typ => badF (hasDup ((l.filter (fun e => e.typ = typ)).map Sect.scope)))

/-! ### PARTITION (R193, R229) -/

/-- As-built rate of the far store in MB/s. -/
def fsRate (s : State) : Nat :=
  match s.fuses.variant with
  | .dj4096H => 24576000
  | .dj3072H => 16384000
  | .dj4096G => 2048000

/-- Rows of tile groups. -/
def groupRows (s : State) : Nat := gridRows s / 8

/-- The PARTITION record's checks. -/
def partitionFails (s : State) (r : List Byte) : List (Nat × Nat) :=
  badF (outside (le r 0 1) 1 4) ++ badF (outside (le r 1 1) 1 (groupRows s)) ++ badF (decide (15 < le r 2 1))
  ++ badF (decide (le r 3 1 = 0)) ++ badF (outside (le r 4 4) 1 65536) ++ badF (outside (le r 8 4) 1 (fsGib s))
  ++ badF (decide (262144 < le r 12 4)) ++ badF (decide (524288 < le r 16 4)) ++ badF (outside (le r 20 4) 1 (fsRate s))
  ++ badF (outside (le r 24 4) 1 4194304) ++ badF (decide (le r 28 4 ≠ 0)) ++ badF (!allZero (slice r 40 216))

/-- Whether a rectangle at an origin group stays in the grid. -/
def rectFits (s : State) (origin gw gh : Nat) : Bool := decide (origin < 16 ∧ origin % 4 + gw ≤ 4 ∧ origin / 4 + gh ≤ groupRows s)

/-- The rectangle's own checks. -/
def rectFails (s : State) (p : Part) : List (Nat × Nat) :=
  if rectFits s p.origin p.gw p.gh then badU ((partTiles p).any (fun t => !tilePresent s t)) else badF true

/-! ### LAYERS (R44, R60, R125, R129, R194) -/

/-- Output codes that the drain accepts (R35). -/
def drainCode (c : Nat) : Bool := isBlockFmt c || decide (c = 0x30 ∨ c = 0x31)

/-- A LAYERS record. -/
def layerOfBytes (r : List Byte) : LayerRec :=
  { tag := le r 0 2
    slot := le r 2 2
    cap := le r 4 1
    rndIn := le r 5 1
    rndOut := le r 6 1
    headroom := le r 7 1
    anchor := signed 16 (le r 8 2)
    rungs := (List.range (min (le r 10 1) 4)).map (fun i => (le r (12 + 2 * i) 1, le r (13 + 2 * i) 1))
    rowstat := (le r 11 1).testBit 0
    continue_ := (le r 11 1).testBit 1
    inWidth := le r 20 6
    outWidth := le r 26 6 }

/-- Whether an A128 rung is followed by an A64 rung. -/
def ladderFalls : List (Nat × Nat) → Bool
  | a :: b :: l => decide (a.1 = 0x31 ∧ b.1 = 0x30) || ladderFalls (b :: l)
  | _ => false

/-- A record's checks. -/
def layerFails (r : List Byte) : List (Nat × Nat) :=
  let l := layerOfBytes r
  let blocks := (l.inWidth + 31) / 32
  let unused := (List.range 4).filter (fun i => decide (le r 10 1 ≤ i))
  badF (decide (4095 < l.slot)) ++ badF (outside l.cap 1 8) ++ badF (decide (l.rndIn ≠ rne ∧ l.rndIn ≠ stoch))
  ++ badF (decide (l.rndOut ≠ rne ∧ l.rndOut ≠ stoch)) ++ badF (decide (48 < l.headroom))
  ++ badF (decide (l.anchor < -512 ∨ 511 < l.anchor)) ++ badF (outside (le r 10 1) 1 4) ++ badF (decide (3 < le r 11 1))
  ++ badF (unused.any (fun i => decide (le r (12 + 2 * i) 2 ≠ 0)))
  ++ badF (l.rungs.any (fun x => decide (x.1 ≠ 0x30 ∧ x.1 ≠ 0x31) || !drainCode x.2)) ++ badF (ladderFalls l.rungs)
  ++ badF (l.rungs.any (fun x =>
      let g := guardBits x.2 l.headroom
      decide ((x.1 = 0x30 ∧ g < 1) ∨ g + 32 < 1 ∨ g + 24 < 0 ∨ 2 ^ (g + 24).toNat < blocks)))
  ++ badF (outside l.inWidth 1 (32 * (2 ^ 40 - 1))) ++ badF (decide (l.outWidth = 0 ∨ 2 ^ 48 ≤ l.outWidth))
  ++ badF (!allZero (slice r 32 32))

/-- The section's checks. -/
def layersFails (rs : List (List Byte)) : List (Nat × Nat) :=
  rs.flatMap layerFails ++ badF (hasDup (rs.map (fun r => le r 0 2))) ++ badF (hasDup (rs.map (fun r => le r 2 2)))

/-! ### SCHEDULE (R195) -/

/-- A SCHEDULE record. -/
def schedOfBytes (r : List Byte) : SchedRec :=
  { phase := le r 0 1
    settle := (le r 1 1).testBit 0
    microBatch := le r 2 2
    stage := le r 4 2
    expect := le r 8 4 }

/-- The section's checks. -/
def scheduleFails (rs : List (List Byte)) : List (Nat × Nat) :=
  (withPos rs).flatMap (fun x =>
    badF (decide (1 < le x.2 0 1)) ++ badF (decide (1 < le x.2 1 1))
    ++ badF ((le x.2 1 1).testBit 0 != decide (x.1 + 1 = rs.length)) ++ badF (decide (le x.2 6 2 ≠ 0 ∨ le x.2 12 4 ≠ 0)))

/-! ### ROUTES (R24, R25, R199) -/

/-- A ROUTES record. -/
def routeOfBytes (r : List Byte) : RouteRec :=
  { src := le r 0 2, dst := le r 2 2, cycles := le r 4 1, order := le r 5 1, stream := le r 6 2 }

/-- The links along a line of one axis, from position a to b: (from, to), each made a local tile by f. -/
def lineLinks (f : Nat → Nat) (a b : Nat) : List (Nat × Nat) :=
  if a ≤ b then (List.range (b - a)).map (fun i => (f (a + i), f (a + i + 1)))
  else (List.range (a - b)).map (fun i => (f (a - i), f (a - i - 1)))

/-- The links of a route's path in a rectangle of w columns. -/
def routeLinks (w : Nat) (r : RouteRec) : List (Nat × Nat) :=
  let x0 := r.src % w
  let y0 := r.src / w
  let x1 := r.dst % w
  let y1 := r.dst / w
  if r.order = 0 then lineLinks (fun x => w * y0 + x) x0 x1 ++ lineLinks (fun y => w * y + x1) y0 y1
  else lineLinks (fun y => w * y + x0) y0 y1 ++ lineLinks (fun x => w * y1 + x) x0 x1

/-- One route's reservations added to a link's: (whether a cycle is taken twice, the mask). -/
def reserveLink (m c : Nat) : Bool × Nat := (decide (m &&& c ≠ 0), m ||| c)

/-- All reservations made in turn: (whether a cycle was taken twice, the masks by link). -/
def reserveAll (w : Nat) (rs : List RouteRec) : Bool × Tab Nat :=
  rs.foldl (fun acc r =>
    (routeLinks w r).foldl (fun acc l =>
      let k := l.1 * 65536 + l.2
      let x := reserveLink (acc.2.at k 0) r.cycles
      (acc.1 || x.1, acc.2.put k x.2)) acc) (false, [])

/-- The section's checks. -/
def routesFails (w tiles : Nat) (rs : List (List Byte)) : List (Nat × Nat) :=
  let l := rs.map routeOfBytes
  let inside := l.filter (fun r => decide (r.src < tiles ∧ r.dst < tiles ∧ r.order ≤ 1))
  let m := reserveAll w inside
  badF (decide (inside.length ≠ l.length)) ++ badF (rs.any (fun r => !allZero (slice r 8 8)))
  ++ badF m.1 ++ badF (m.2.any (fun x => x.2 = 255))

/-! ### TREES (R200) -/

/-- A TREES record. -/
def treeOfBytes (r : List Byte) : TreeRec :=
  { tree := le r 0 1
    op := le r 1 1
    typ := le r 2 1
    bcast := decide (le r 3 1 = 1)
    root := le r 5 1
    dst := le r 6 1
    contrib := (List.range (min (le r 4 1) 8)).map (fun i => le r (8 + 2 * i) 2) }

/-- Whether a reduction opcode takes a format code: RCOUNT, RAND and ROR are untyped, RXSUM is typed, the others either. -/
def treeTypOk (op typ : Nat) : Bool :=
  if 0xC6 ≤ op ∧ op ≤ 0xC8 then decide (typ = 0)
  else if op = 0xC9 then isFloatTyp typ
  else decide (typ = 0) || isFloatTyp typ

/-- The section's checks. -/
def treesFails (tiles : Nat) (rs : List (List Byte)) : List (Nat × Nat) :=
  rs.flatMap (fun r =>
    badF (outside (le r 1 1) 0xC0 0xC9) ++ badF (!treeTypOk (le r 1 1) (le r 2 1)) ++ badF (decide (1 < le r 3 1))
    ++ badF (outside (le r 4 1) 1 8) ++ badF (decide (le r 4 1 ≤ le r 5 1)) ++ badF (decide (63 < le r 6 1))
    ++ badF (decide (le r 7 1 ≠ 0)) ++ badF (!allZero (slice r 24 8))
    ++ badF ((List.range 8).any (fun i => if i < le r 4 1 then decide (tiles ≤ le r (8 + 2 * i) 2) else decide (le r (8 + 2 * i) 2 ≠ 0))))
  ++ badF (hasDup (rs.map (fun r => le r 0 1)))

/-! ### FLOWS (R299) -/

/-- A FLOWS record. -/
def flowOfBytes (r : List Byte) : FlowRec :=
  { kind := le r 0 1
    dstPart := le r 1 1
    dstDev := le r 2 2
    portMask := le r 4 2
    remoteFlow := le r 8 4
    creditKib := le r 12 4
    slotLimit := le r 16 4
    timeoutUs := le r 20 4
    cvuMode := le r 24 1 }

/-- Mask of the fitted link ports. -/
def portMaskBuilt (s : State) : Nat := 2 ^ portCount s - 1

/-- The section's checks. -/
def flowsFails (s : State) (rs : List (List Byte)) : List (Nat × Nat) :=
  rs.flatMap (fun r =>
    let f := flowOfBytes r
    badF (outside f.kind 1 2) ++ badF (f.kind = 1 && f.dstPart ≠ 0) ++ badF (f.kind = 1 && s.devIdValid && f.dstDev = s.devId)
    ++ badF (f.kind = 1 && f.portMask = 0) ++ badF (f.kind = 2 && decide (f.dstDev ≠ 0 ∨ f.portMask ≠ 0))
    ++ badF (outside f.creditKib 1 65536) ++ badF (outside f.slotLimit 1 65536) ++ badF (outside f.timeoutUs 10 1000000)
    ++ badF (decide (1 < f.cvuMode)) ++ badF (decide (le r 6 2 ≠ 0)) ++ badF (!allZero (slice r 25 7))
    ++ badU (f.kind = 1 && decide (f.portMask &&& (0xFFFF - portMaskBuilt s) ≠ 0)) ++ badU (f.kind = 2 && decide (15 < f.dstPart))
    ++ check (f.kind = 1 && !s.devIdValid) stWrongState 0)

/-! ### CHECKVAL (R333, R334, R337) -/

/-- The parameter set of a CHECKVAL record. -/
def cvOfBytes (r : List Byte) : CvParams :=
  ⟨le r 1 1, le r 8 8, le r 16 8, le r 24 8, (le r 2 1).testBit 0, (le r 2 1).testBit 1⟩

/-- The section's checks. -/
def checkvalFails (s : State) (rs flows : List (List Byte)) : List (Nat × Nat) :=
  let unit (r : List Byte) : Nat := le r 0 1
  let mode (r : List Byte) : Nat := field (le r 2 1) 2 2
  let link := rs.filter (fun r => decide (unit r < 32))
  let named (u : Nat) : Bool := rs.any (fun r => unit r = u)
  rs.flatMap (fun r =>
    badF (decide ((32 ≤ unit r ∧ unit r < 40) ∨ 48 ≤ unit r)) ++ badF (!(cvOfBytes r).valid) ++ badF (outside (mode r) 1 2)
    ++ badF (decide (32 ≤ le r 2 1)) ++ badF (!allZero (slice r 3 5))
    ++ badF (decide (unit r < 32) && (decide (mode r = 2) || (le r 2 1).testBit 4))
    ++ badU (decide (unit r < 48) && !decide (32 ≤ unit r ∧ unit r < 40) && !cvuPresent s (unit r)))
  ++ badF (hasDup (rs.map unit)) ++ badF (link.any (fun r => link.any (fun r' => decide (cvOfBytes r ≠ cvOfBytes r'))))
  ++ badF (flows.any (fun f => le f 0 1 = 1 && le f 24 1 = 1 &&
      (List.range 16).any (fun p => (le f 4 2).testBit p && !(named (2 * p) && named (2 * p + 1)))))

/-! ### NUMERICS (R277, R400) -/

/-- The NUMERICS record. -/
def numericsOfBytes (r : List Byte) : NumericsRec :=
  { policy := le r 0 1
    auditMode := le r 1 1
    spotEnable := le r 2 1
    spotK := le r 3 1
    spotWarn := le r 4 2
    balOff := le r 8 4
    balSize := le r 12 4
    logOff := le r 16 4
    logSize := le r 20 4 }

/-- Its checks, in a carve-out of so many MiB beside the regions that stay (a bound partition's). -/
def numericsFails (carveMib : Nat) (kept : List (Nat × Nat)) (r : List Byte) : List (Nat × Nat) :=
  let n := numericsOfBytes r
  badF (outside n.policy 1 2) ++ badF (decide (1 < n.auditMode)) ++ badF (decide (1 < n.spotEnable)) ++ badF (decide (24 < n.spotK))
  ++ badF (decide (n.spotWarn = 0)) ++ badF (decide (le r 6 2 ≠ 0)) ++ badF (outside n.balSize 1 4096)
  ++ badF (outside n.logSize 1 4096) ++ badF (!allZero (slice r 24 104))
  ++ badL (decide (n.balOff < 1 ∨ carveMib < n.balOff + n.balSize)) ++ badL (decide (n.logOff < 1 ∨ carveMib < n.logOff + n.logSize))
  ++ badF (meets n.balOff n.balSize n.logOff n.logSize)
  ++ badF (kept.any (fun k => meets k.1 k.2 n.balOff n.balSize || meets k.1 k.2 n.logOff n.logSize))

/-! ### Per-tile sections (R81, R85, R168, R196 to R198, R201, R203, R559, R560) -/

/-- An ACTORS record. -/
def actorOfBytes (r : List Byte) : ActorRec :=
  { kind := le r 0 1
    slots := le r 1 1
    flags := le r 2 1
    runahead := le r 3 1
    layerSlot := le r 4 2
    tickOffset := le r 6 2
    firings := le r 8 4
    need := (List.range 8).map (fun i => le r (12 + i) 1)
    arg := le r 20 4
    len := le r 24 4
    outFirst := le r 28 2
    outCount := le r 30 2 }

/-- A FEED record. -/
def feedOfBytes (r : List Byte) : FeedRec :=
  if le r 0 1 = 1 then
    { kind := 1
      seg := le r 1 1
      layerSlot := le r 2 2
      slotBase := le r 4 4
      slotSize := le r 8 4
      tagBase := le r 12 4
      tagSize := le r 16 4 }
  else
    { kind := le r 0 1
      destQueue := (le r 1 1).testBit 0
      layerSlot := le r 2 2
      windowRows := le r 4 2
      gateSlots := le r 6 2
      gateTicks := le r 8 1
      setCount := le r 12 4
      setList := le r 16 4
      dest := le r 20 4
      destSize := le r 24 4
      outIndex0 := le r 28 4 + le r 10 2 * 2 ^ 32 }

/-- An EDGES record. -/
def edgeOfBytes (r : List Byte) : EdgeRec := { tile := le r 0 2, actor := le r 2 2, slot := le r 4 1 }

/-- A CODE or DATA section's bytes: whether it is code, its place, its bytes. -/
structure Chunk where
  code : Bool
  at_ : Nat
  body : List Byte
deriving DecidableEq, Repr, Inhabited

/-- A tile's sections as read. -/
structure TileImg where
  conf : TileConf := {}
  chunks : List Chunk := []
deriving DecidableEq, Repr, Inhabited

/-- The records of a tile's section of a type. -/
def tileRecs (b : List Byte) (l : List Sect) (t typ : Nat) : List (List Byte) :=
  ((l.find? (fun e => e.typ = typ && e.scope = t && sectReadable b e)).map (recsOf b)).getD []

/-- A tile's CODE and DATA sections. -/
def tileChunks (b : List Byte) (l : List Sect) (t : Nat) : List Sect :=
  l.filter (fun e => (e.typ = 0x13 || e.typ = 0x15) && e.scope = t && sectReadable b e)

/-- A tile's sections. -/
def tileImg (b : List Byte) (l : List Sect) (t : Nat) : TileImg :=
  let c := (tileRecs b l t 0x10).headD (List.replicate 32 0)
  { conf := {
      susBase := le c 0 4
      susSize := le c 4 4
      susLine := le c 8 2
      susLines := le c 10 2
      actors := (tileRecs b l t 0x11).map actorOfBytes
      edges := (tileRecs b l t 0x12).map edgeOfBytes
      feeds := (tileRecs b l t 0x14).map feedOfBytes }
    chunks := ((tileChunks b l t).filter (fun e => decide (8 ≤ e.len))).map (fun e =>
      { code := decide (e.typ = 0x13), at_ := le (slice b e.off 8) 0 8, body := slice b (e.off + 8) (e.len - 8) }) }

/-- Spans of a tile's store that may not share a byte: rings, and the suspense region. -/
def ringSpans (c : TileConf) : List (Nat × Nat) :=
  (c.feeds.filter (fun f => f.kind = 1)).flatMap (fun f => [(f.slotBase, f.slotSize), (f.tagBase, f.tagSize)])

/-- TILECONF's checks. -/
def tileconfFails (c : TileConf) (rs : List (List Byte)) : List (Nat × Nat) :=
  badF (decide (c.susBase % 512 ≠ 0)) ++ badF (decide (c.susSize % 512 ≠ 0 ∨ 2 ^ 20 < c.susSize)) ++ badF (decide (64 < c.susLines))
  ++ badF (decide (512 < c.susLine + c.susLines)) ++ badF (rs.any (fun r => !allZero (slice r 12 20)))
  ++ badL (decide (storeBytes < c.susBase + c.susSize))
  ++ badF ((ringSpans c).any (fun x => meets x.1 x.2 c.susBase c.susSize))

/-- A ring's checks. -/
def ringFails (r : List Byte) (f : FeedRec) : List (Nat × Nat) :=
  badF (decide (3 < f.seg)) ++ badF (decide (f.slotBase % 64 ≠ 0)) ++ badF (decide (f.slotSize % 1024 ≠ 0))
  ++ badF (outside f.slotSize 1024 (2 ^ 20)) ++ badF (decide (f.tagSize % 64 ≠ 0)) ++ badF (outside f.tagSize 64 65536)
  ++ badF (!allZero (slice r 20 12))
  ++ badL (decide (storeBytes < f.slotBase + f.slotSize)) ++ badL (decide (storeBytes < f.tagBase + f.tagSize))

/-- A pass plan's checks, its layer's record given. -/
def planFails (r : List Byte) (f : FeedRec) (l : Option LayerRec) : List (Nat × Nat) :=
  let rungs := (l.map LayerRec.rungs).getD []
  let raw := rungs.any (fun x => decide (x.2 = 0x30 ∨ x.2 = 0x31))
  let scaled := rungs.any (fun x => hasScale x.2)
  let n := f.windowRows * f.setCount
  let cont := (l.map LayerRec.continue_).getD false
  badF (decide (1 < le r 1 1)) ++ badF (outside f.windowRows 1 512) ++ badF (decide (4096 < f.gateSlots)) ++ badF (decide (le r 9 1 ≠ 0))
  ++ badF (outside f.setCount 1 65536) ++ badL (decide (storeBytes < f.setList + 4 * f.setCount))
  ++ (if f.destQueue then badF (decide (f.dest ≠ 0 ∨ f.destSize ≠ 0)) ++ badF raw
      else
        badF (decide (f.dest % 64 ≠ 0)) ++ badL (decide (f.destSize < 512 * n + (if scaled then 4 * n else 0)))
        ++ badL (decide (storeBytes < f.dest + f.destSize)))
  ++ badF ((raw || cont) && decide (512 < n))

/-- FEED's checks. -/
def feedFails (layers : List LayerRec) (c : TileConf) (rs : List (List Byte)) : List (Nat × Nat) :=
  let layer (slot : Nat) : Option LayerRec := layers.find? (fun l => l.slot = slot)
  let plans := c.feeds.filter (fun f => f.kind = 2)
  let segs (slot : Nat) : List Nat := (c.feeds.filter (fun f => f.kind = 1 && f.layerSlot = slot)).map FeedRec.seg
  (rs.zip c.feeds).flatMap (fun x =>
    badF (outside x.2.kind 1 2) ++ badF ((layer x.2.layerSlot).isNone)
    ++ (if x.2.kind = 1 then ringFails x.1 x.2 else planFails x.1 x.2 (layer x.2.layerSlot)))
  ++ badF (anyMeet (ringSpans c))
  ++ badF (plans.any (fun f => (List.range 4).any (fun k => decide (((segs f.layerSlot).filter (· = k)).length ≠ 1))))
  ++ badF (plans.any (fun f => ((layer f.layerSlot).map LayerRec.continue_).getD false
      && plans.any (fun g => g.layerSlot = f.layerSlot && decide (g.windowRows ≠ f.windowRows ∨ g.setCount ≠ f.setCount))))

/-- CODE's and DATA's checks: extents, overlaps, bundles (R150, R203). -/
def chunkFails (s : State) (sects : List Sect) (l : List Chunk) : List (Nat × Nat) :=
  badL (sects.any (fun e => decide (e.len < 8)))
  ++ l.flatMap (fun c => badF (decide (c.at_ % 64 ≠ 0)) ++ badL (decide (storeBytes < c.at_ + c.body.length)))
  ++ badF (anyMeet (l.map (fun c => (c.at_, c.body.length))))
  ++ (l.filter Chunk.code).flatMap (fun c =>
      (List.range (c.body.length / 32)).flatMap (fun k =>
        match readIns (slice c.body (32 * k) 16), readIns (slice c.body (32 * k + 16) 16) with
        | some v, some r =>
          badF (!bundleField v r) ++ badF (slotsMeet v r) ++ badL (!insLength v.1 v.2) ++ badU (!insUnit s v.1)
        | _, _ => badF true))

/-- n bytes of the store that one section supplies. -/
def supplied (l : List Chunk) (o n : Nat) : Option (List Byte) :=
  (l.find? (fun c => decide (c.at_ ≤ o ∧ o + n ≤ c.at_ + c.body.length))).map (fun c => slice c.body (o - c.at_) n)

/-- Whether a SPECULABLE actor's supplied bundles or descriptors could write outside the suspense buffer (R220). -/
def specLeaves (s : State) (t : Nat) (x : TileImg) (a : ActorRec) : Bool :=
  if a.kind = kindBody then
    (List.range a.len).any (fun k =>
      match supplied x.chunks (a.arg + 32 * k) 32 with
      | none => false
      | some b =>
        match readIns (b.take 16), readIns (b.drop 16) with
        | some v, some r => bundleLeaves x.conf v r
        | _, _ => false)
  else if a.kind = kindDma then
    (List.range a.len).any (fun k => ((supplied x.chunks (a.arg + 64 * k) 64).map (fun b => descLeaves s t x.conf (descOf b))).getD false)
  else true

/-- One actor's checks. -/
def actorFails (s : State) (t ticks ahead : Nat) (x : TileImg) (a : ActorRec) : List (Nat × Nat) :=
  let feedKind (i : Nat) : Nat := ((x.conf.feeds[i]?).map FeedRec.kind).getD 0
  badF (outside a.kind 1 5) ++ badF (outside a.slots 1 8) ++ badF (decide (32 ≤ a.flags)) ++ badF (decide (ahead < a.runahead))
  ++ badF (a.kind = kindPass && decide (a.runahead ≠ 0)) ++ badF (decide (4095 < a.layerSlot)) ++ badF (decide (ticks ≤ a.tickOffset))
  ++ badF (outside a.firings 1 (2 ^ 24))
  ++ badF ((withPos a.need).any (fun n => if n.1 < a.slots then decide (n.2 = 0) else decide (n.2 ≠ 0)))
  ++ badF (decide (256 < a.outCount)) ++ badF (decide (x.conf.edges.length < a.outFirst + a.outCount))
  ++ (if a.kind = kindBody then
        badF (decide (a.arg % 32 ≠ 0)) ++ badF (outside a.len 1 65536) ++ badL (decide (storeBytes < a.arg + 32 * a.len))
      else if a.kind = kindPass then badF (decide (a.len ≠ 0)) ++ badF (decide (feedKind a.arg ≠ 2))
      else if a.kind = kindDma then
        badF (decide (a.arg % 64 ≠ 0)) ++ badF (decide (65536 < a.len)) ++ badL (decide (storeBytes < a.arg + 64 * a.len))
      else badF (decide (a.arg ≠ 0 ∨ a.len ≠ 0)))
  ++ (if a.speculable then badU (!hasPredictor s) ++ badF (specLeaves s t x a) else [])

/-- The whole of a tile's checks. -/
def tileFails (s : State) (b : List Byte) (l : List Sect) (layers : List LayerRec) (ticks ahead loc t : Nat) (x : TileImg) :
    List (Nat × Nat) :=
  tileconfFails x.conf (tileRecs b l loc 0x10)
  ++ feedFails layers x.conf (tileRecs b l loc 0x14)
  ++ chunkFails s (tileChunks b l loc) x.chunks
  ++ x.conf.actors.flatMap (actorFails s t ticks ahead x)
  ++ badF ((tileRecs b l loc 0x12).any (fun r => decide (le r 5 3 ≠ 0)))

/-! ### EDGES, BUCKETS and PREDICT over all tiles (R198, R202, R204, R380, R382) -/

/-- A BUCKETS record. -/
def bucketOfBytes (r : List Byte) : BucketRec :=
  { op := le r 0 1
    sparse := (le r 1 1).testBit 0
    stoch := (le r 1 1).testBit 1
    alg := le r 2 1
    size := le r 4 4
    p := le r 8 4
    rank := le r 12 4
    flowFirst := le r 16 4
    trigTile := le r 20 2
    trigActor := le r 22 2
    doneTile := le r 24 2
    doneActor := le r 26 2
    doneSlot := le r 28 1
    anchor0 := signed 16 (le r 30 2)
    src := le r 32 8
    dst := le r 40 8
    flagsAddr := le r 48 8 }

/-- A PREDICT record. -/
def predictOfBytes (r : List Byte) : PredictRec :=
  { kind := le r 0 1, confidence := le r 1 1, tile := le r 2 2, target := le r 4 2 }

/-- Actor a of local tile l. -/
def actorIn (ts : List TileImg) (l a : Nat) : Option ActorRec := (ts[l]?).bind (fun x => x.conf.actors[a]?)

/-- The edges of an actor. -/
def edgesOf (c : TileConf) (a : ActorRec) : List EdgeRec := (c.edges.drop a.outFirst).take a.outCount

/-- Tokens supplied per attempt to a slot. -/
def suppliedTokens (ts : List TileImg) (bs : List BucketRec) (l a slot : Nat) : Nat :=
  let byActors := ts.foldl (fun n x => x.conf.actors.foldl (fun n r =>
    n + r.firings * ((edgesOf x.conf r).filter (fun e => decide (e.tile = l ∧ e.actor = a ∧ e.slot = slot))).length) n) 0
  bs.foldl (fun n k =>
    if k.doneTile = l ∧ k.doneActor = a ∧ k.doneSlot = slot then n + ((actorIn ts k.trigTile k.trigActor).map ActorRec.firings).getD 0
    else n) byActors

/-- The slots that an edge or a bucket feeds. -/
def fedSlots (ts : List TileImg) (bs : List BucketRec) : List (Nat × Nat × Nat) :=
  ts.flatMap (fun x => x.conf.edges.map (fun e => (e.tile, e.actor, e.slot))) ++ bs.map (fun k => (k.doneTile, k.doneActor, k.doneSlot))

/-- EDGES' checks over the partition. -/
def edgesFails (ts : List TileImg) (bs : List BucketRec) : List (Nat × Nat) :=
  ts.flatMap (fun x =>
    badF (x.conf.edges.any (fun e => match actorIn ts e.tile e.actor with | none => true | some d => decide (d.slots ≤ e.slot)))
    ++ badF (x.conf.actors.any (fun a => (edgesOf x.conf a).any (fun e =>
        match actorIn ts e.tile e.actor with | none => false | some d => decide (d.tickOffset < a.tickOffset)))))
  ++ badF ((fedSlots ts bs).any (fun f =>
      match actorIn ts f.1 f.2.1 with
      | none => false
      | some d => decide (f.2.2 < d.slots) && decide (d.need.getD f.2.2 0 * d.firings ≠ suppliedTokens ts bs f.1 f.2.1 f.2.2)))

/-- Whether an image-form extent leaves its space (R380). -/
def leavesSpace (p : Part) (carveGib a n : Nat) : Bool :=
  let o := a % 2 ^ 44
  if imageSpace a = 1 then decide (carveGib * 2 ^ 30 < o + n)
  else if imageSpace a = 0 then
    let e := o + n - 1
    !(decide (o / 0x800000 < localCount p) && decide (e / 0x800000 = o / 0x800000)
      && decide (windowPart (o % 0x800000) < 3) && decide (windowPart (e % 0x800000) = windowPart (o % 0x800000)))
  else false

/-- A bucket's checks. -/
def bucketFails (p : Part) (carveGib flows : Nat) (ts : List TileImg) (r : List Byte) : List (Nat × Nat) :=
  let k := bucketOfBytes r
  let need := if k.p ≤ 1 then 0 else if k.alg = 1 then 1 else k.p - 1
  let trig := actorIn ts k.trigTile k.trigActor
  let done := actorIn ts k.doneTile k.doneActor
  let late := match trig, done with | some a, some d => decide (d.tickOffset < a.tickOffset) | _, _ => false
  let addrs := if k.op = 2 then [k.src, k.dst] else [k.src, k.dst, k.flagsAddr]
  let shapeOk := decide (k.size % 128 = 0) && !outside k.size (4 * 2 ^ 20) (2 ^ 30) && !outside k.p 1 65536 && decide (k.rank < k.p)
  badF (outside k.op 1 3) ++ badF (decide (3 < le r 1 1) || (k.op = 2 && decide (le r 1 1 ≠ 0))) ++ badF (outside k.alg 1 2)
  ++ badF (!shapeOk) ++ badF (decide (0 < need ∧ flows < k.flowFirst + need))
  ++ badF (match trig with | none => true | some a => decide (a.kind ≠ kindSync))
  ++ badF (match done with | none => true | some d => decide (d.slots ≤ k.doneSlot)) ++ badF late
  ++ badF (decide (le r 3 1 ≠ 0 ∨ le r 29 1 ≠ 0 ∨ le r 56 8 ≠ 0)) ++ badF (decide (k.anchor0 < -512 ∨ 511 < k.anchor0))
  ++ badF (k.op = 2 && decide (k.anchor0 ≠ 0 ∨ k.flagsAddr ≠ 0))
  ++ badF (addrs.any (fun a => decide (field a 44 16 ≠ 0 ∨ 3 ≤ a / 2 ^ 60)))
  ++ (if shapeOk then badL (k.planes.any (fun x => leavesSpace p carveGib x.2.1 x.2.2)) else [])

/-- PREDICT's checks. -/
def predictFails (s : State) (layers : List LayerRec) (ts : List TileImg) (rs : List (List Byte)) : List (Nat × Nat) :=
  rs.flatMap (fun r =>
    let x := predictOfBytes r
    badU (!hasPredictor s) ++ badF (outside x.kind 1 2) ++ badF (decide (ts.length ≤ x.tile)) ++ badF (!allZero (slice r 6 10))
    ++ badF (x.kind = 1 && !layers.any (fun l => l.slot = x.target))
    ++ badF (x.kind = 2 && !((actorIn ts x.tile x.target).map ActorRec.cond).getD false))

/-! ### The signature block (R188) -/

/-- Its checks as fields. -/
def sigBlockFails (b : List Byte) : List (Nat × Nat) :=
  if imgSigned b then
    let g := slice b (imgInteg b + 64) 1344
    badF (outside (le g 16 2) 1 1280) ++ badF (!allZero (slice g 18 6)) ++ badF (!allZero (slice g (24 + le g 16 2) (1304 - (24 + le g 16 2))))
    ++ badF (!allZero (slice g 1304 40))
  else []

end Sys2Proof.Machine
end

