-- ==== Sys2Proof/Machine/Image.lean ====
section
/-! DEFINITION. Loading and unloading a structure image (R116, R188, R190, R191, R229, R230, R273, R276, R277, R336, R364, R521):
the meanings of LOAD_IMAGE, IMAGE_STAGED and UNLOAD. -/

namespace Sys2Proof.Machine

/-! ### Reading an image -/

/-- An image as read: its table, its PARTITION record, the shape that it asks for, its tiles. -/
structure ImgRead where
  sects : List Sect
  part : List Byte
  shape : Part
  tiles : List TileImg

/-- An image whose table fits, read for an origin group. -/
def readImage (b : List Byte) (origin : Nat) : ImgRead :=
  let l := sectsOf b
  let p := (imageRecs b l 1).headD (List.replicate 256 0)
  let shape : Part := { origin := origin, gw := max 1 (min (le p 0 1) 4), gh := max 1 (min (le p 1 1) 4) }
  { sects := l, part := p, shape := shape, tiles := (List.range (localCount shape)).map (tileImg b l) }

/-- The records of an image section. -/
def ImgRead.recs (x : ImgRead) (b : List Byte) (typ : Nat) : List (List Byte) := imageRecs b x.sects typ

/-- FS_CARVE_GIB, TICKS_PER_STEP and FLOW_COUNT. -/
def ImgRead.carveGib (x : ImgRead) : Nat := le x.part 8 4
def ImgRead.ticks (x : ImgRead) : Nat := le x.part 4 4
def ImgRead.flowCount (x : ImgRead) : Nat := le x.part 12 4

/-- Every check of an image's contents. What a section that runs past the integrity block would have to supply is not judged: the image fails
with BAD_LENGTH by that section (R190). -/
def contentFails (s : State) (q : Nat) (b : List Byte) (x : ImgRead) : List (Nat × Nat) :=
  let n := x.tiles.length
  let layers := (x.recs b 2).map layerOfBytes
  let flows := x.recs b 8
  let buckets := x.recs b 6
  let kept := if isBound (partAt s q) then (partAt s q).regions.take 5 else []
  let past := pastSects b x.sects
  let gone (types : List Nat) : Bool := past.any (fun e => types.contains e.typ)
  let tileGone_ (t : Nat) : Bool := gone [2] || past.any (fun e => perTile e.typ && e.scope = t)
  let if_ (c : Bool) (l : List (Nat × Nat)) : List (Nat × Nat) := if c then l else []
  tableFails b x.sects (!gone [1]) x.ticks x.flowCount n
  ++ layersFails (x.recs b 2) ++ flowsFails s flows ++ if_ (!gone [8]) (checkvalFails s (x.recs b 7) flows)
  ++ if_ (!gone [1])
    (partitionFails s x.part ++ rectFails s x.shape ++ scheduleFails (x.recs b 3)
    ++ routesFails (8 * x.shape.gw) n (x.recs b 4) ++ treesFails n (x.recs b 5)
    ++ (x.recs b 9).flatMap (numericsFails (1024 * x.carveGib) kept)
    ++ (withPos x.tiles).flatMap (fun t =>
      if_ (!tileGone_ t.1) (tileFails s b x.sects layers x.ticks (le x.part 2 1) t.1 (tileOfLocal x.shape t.1) t.2))
    ++ if_ (!gone [6, 0x10, 0x11, 0x12]) (edgesFails x.tiles (buckets.map bucketOfBytes))
    ++ if_ (!gone [8, 0x11]) (buckets.flatMap (bucketFails x.shape x.carveGib flows.length x.tiles))
    ++ if_ (!gone [2, 0x11]) (predictFails s layers x.tiles (x.recs b 10)))
  ++ sigBlockFails b

/-! ### Signature and room (R188, R229, R230, R276, R521) -/

/-- The digest an image carries, and the one its bytes have. -/
def carriedDigest (b : List Byte) : List Byte := slice b (imgInteg b) 64
def imageDigest (b : List Byte) : List Byte := shake256 64 (b.take (imgInteg b))

/-- KEY_ID and signature bytes of the signature block. -/
def imgKeyId (b : List Byte) : List Byte := if imgSigned b then slice b (imgInteg b + 64) 16 else []
def imgSig (b : List Byte) : List Byte := if imgSigned b then slice b (imgInteg b + 88) (le b (imgInteg b + 80) 2) else []

/-- The running firmware's table key that a KEY_ID names: its index and the key. -/
def tableKey (s : State) (id : List Byte) : Option (Nat × List Byte) := (withPos s.mgt.fw.imageKeys).find? (fun k => keyId k.2 = id)

/-- The signature policy (R521): SIG_STATE and KEY_INDEX, or none where the image is refused. -/
def signState (s : State) (b : List Byte) : Option (Nat × Nat) :=
  if carriedDigest b ≠ imageDigest b then none
  else if !imgSigned b then (if s.fuses.requireSigned then none else some (0, 0))
  else
    match tableKey s (imgKeyId b) with
    | some k => if verifies k.2 (carriedDigest b) (imgSig b) then some (1, k.1) else none
    | none => if s.fuses.requireSigned then none else some (2, 0)

/-- The other partitions that are not EMPTY. -/
def otherParts (s : State) (q : Nat) : List Part :=
  (List.range 16).filterMap (fun r => if r = q ∨ (partAt s r).state = .empty then none else some (partAt s r))

/-- A carve-out's span. -/
def carveSpan (p : Part) : Nat × Nat := (p.carve, (imageOf p).carveGib * 2 ^ 30)

/-- Where a carve-out of n GiB goes: a partition that is not EMPTY keeps its address, any other takes the lowest that fits. -/
def carvePlace (s : State) (q n : Nat) : Option Nat :=
  let base := fsBase + reserveBytes s
  let held := (otherParts s q).map carveSpan
  let fits (a : Nat) : Bool :=
    decide (base ≤ a ∧ a + n * 2 ^ 30 ≤ fsBase + fsCapacity s) && !held.any (fun h => meets a (n * 2 ^ 30) h.1 h.2)
  if (partAt s q).state ≠ .empty then (if fits (partAt s q).carve then some (partAt s q).carve else none)
  else (base :: held.map (fun h => h.1 + h.2)).foldl (fun (best : Option Nat) a =>
    if fits a && (match best with | none => true | some b => decide (a < b)) then some a else best) none

/-- The sum of a number over the other partitions. -/
def sumOver (s : State) (q : Nat) (f : Part → Nat) : Nat := (otherParts s q).foldl (fun n p => n + f p) 0

/-- Whether some resource is short. -/
def noRoom (s : State) (q : Nat) (x : ImgRead) : Bool :=
  (otherParts s q).any (fun p => (partTiles x.shape).any (inRect p))
    || decide (fsCapacity s < reserveBytes s + (x.carveGib + sumOver s q (fun p => (imageOf p).carveGib)) * 2 ^ 30)
    || decide (262144 < s.conns.length + x.flowCount + (s.flows.filter (fun f => f.q ≠ q)).length)
    || decide (524288 < le x.part 16 4 + sumOver s q (fun p => (imageOf p).slotQuota))
    || (carvePlace s q x.carveGib).isNone

/-- Every check of a staged image. -/
def imageFails (s : State) (c : Cmd) (b : List Byte) : List (Nat × Nat) :=
  let p := partAt s c.partition
  headFails s b c.bulkLen
  ++ (if !tableFits b then badL true
      else
        let x := readImage b c.arg0
        contentFails s c.partition b x
        ++ check (signState s b).isNone stBadSignature 0
        ++ check ((p.binding.map (fun k => decide (k.imageDigest ≠ carriedDigest b))).getD false) stDenied 0
        ++ check (noRoom s c.partition x) stNoResource 0)

/-! ### Giving up what a partition holds -/

/-- A partition's tiles, flows and slots freed, its check-value slots OFF (R336, R365). -/
def freePart (s : State) (q : Nat) : State :=
  let s1 := (partTiles (partAt s q)).foldl (fun s t =>
    modTile s t (fun x => { x with conf := {}, arr := { x.arr with rings := [] }, sched := {} })) (quietStop s q)
  let s2 := releaseSlots s1 q (fun _ => true)
  { s2 with
    flows := s2.flows.filter (fun f => f.q ≠ q)
    cvus := s2.cvus.map (fun c => (c.1, { c.2 with slots := c.2.slots.drop q })) }

/-! ### The load -/

/-- A CHECKVAL record's slot. -/
def cvSlotOf (r : List Byte) : CvSlot :=
  let p := cvOfBytes r
  { width := p.width
    refin := p.refin
    refout := p.refout
    mode := field (le r 2 1) 2 2
    verify := (le r 2 1).testBit 4
    poly := word p.poly
    init := word p.init
    xorout := word p.xorout
    run := word p.init }

/-- A tile's sections written: its configuration, its rings, its CODE and DATA; REPEATS counts from here. -/
def loadTile (s : State) (t : Nat) (x : TileImg) : State :=
  let rings : Tab Ring := (x.conf.feeds.filter (fun f => f.kind = 1)).foldl (fun m f =>
    m.put (4 * f.layerSlot + f.seg)
      { slotBase := f.slotBase, slotSize := f.slotSize, tagBase := f.tagBase, tagSize := f.tagSize }) []
  let s1 := modTile s t (fun y => { y with conf := x.conf, arr := { y.arr with rings := rings }, sched := {} })
  let s2 := regSet s1 (tileReg t 0x780600) 32 16 0
  x.chunks.foldl (fun s c => spanWrite s (tileBase t + c.at_) c.body) s2

/-- The image as the partition keeps it. -/
def imageOfRead (s : State) (b : List Byte) (x : ImgRead) : Image :=
  let r := x.part
  let g := (signState s b).getD (0, 0)
  { id := le b 32 8
    digest := carriedDigest b
    signed := imgSigned b
    keyId := imgKeyId b
    sig := imgSig b
    sigState := g.1
    keyIndex := g.2
    toolVersion := le b 48 4
    runaheadLimit := le r 2 1
    resumeGap := le r 3 1
    ticksPerStep := x.ticks
    carveGib := x.carveGib
    flowCount := x.flowCount
    slotQuota := le r 16 4
    regRate := le r 20 4
    regBurst := le r 24 4
    seed := word (le r 32 8)
    layers := (x.recs b 2).map layerOfBytes
    schedule := (x.recs b 3).map schedOfBytes
    routes := (x.recs b 4).map routeOfBytes
    trees := (x.recs b 5).map treeOfBytes
    buckets := (x.recs b 6).map bucketOfBytes
    flows := (x.recs b 8).map flowOfBytes
    numerics := numericsOfBytes ((x.recs b 9).headD [])
    predict := (x.recs b 10).map predictOfBytes }

/-- The partition with the image in it: a bound one keeps its regions, its binding, and what the bind recorded of the image. -/
def loadPart (p : Part) (i : Image) (shape : Part) (carve : Nat) : Part :=
  let n := i.numerics
  let kept := if isBound p then p.regions.take 5 else List.replicate 5 (0, 0)
  let fresh : Part :=
    { state := p.state
      origin := shape.origin
      gw := shape.gw
      gh := shape.gh
      carve := carve
      resetEpoch := p.resetEpoch
      ctx := { seed := i.seed }
      anchors := i.layers.foldl (fun m l => m.put l.slot { anchor := l.anchor }) []
      regions := kept ++ [(n.balOff, n.balSize), (n.logOff, n.logSize)] ++ List.replicate 9 (0, 0)
      bucketTokens := i.regBurst * 1024 }
  match p.binding with
  | none => { fresh with image := some i }
  | some b =>
    { fresh with
      image := some { i with sigState := b.sigState, keyIndex := b.sigKey }
      binding := some b
      settle := p.settle
      join := p.join
      ckpt := p.ckpt
      quota := p.quota
      stashBase := p.stashBase }

/-- A bound partition's tree context built again from its binding, where a fabric-engine reset cleared it (R486). -/
def restoreTree (s : State) (q : Nat) : State :=
  match (partAt s q).binding with
  | none => s
  | some b =>
    if (treeAt s b.tree).valid then s
    else
      let x := b.treeShape
      bindTree s b.tree q b.jobEpoch x.1 x.2.1 x.2.2.1 x.2.2.2

/-- The image distributed: the partition is LOADED. -/
def loadEffect (s : State) (c : Cmd) (b : List Byte) : State :=
  let q := c.partition
  let x := readImage b c.arg0
  let i := imageOfRead s b x
  let carve := (carvePlace s q x.carveGib).getD 0
  let s1 := if (partAt s q).state = .empty then s else freePart s q
  let s2 := modPart s1 q (fun p => loadPart p i x.shape carve)
  let s3 := (withPos x.tiles).foldl (fun s t => loadTile s (tileOfLocal x.shape t.1) t.2) s2
  let s4 := { s3 with flows := s3.flows ++ (withPos i.flows).map (fun f =>
    { q := q
      idx := f.1
      cfg := f.2
      dstDev := if f.2.kind = 2 then s.devId else f.2.dstDev
      portMask := f.2.portMask }) }
  let cv (u : Nat) : Option (List Byte) := (x.recs b 7).find? (fun r => le r 0 1 = u)
  let s5 := (List.range 48).foldl (fun s u =>
    match cv u with
    | some r => modCvSlot s u q (fun _ => cvSlotOf r)
    | none => if (cvSlotAt s u q) = {} then s else modCvSlot s u q (fun _ => {})) s4
  setPartState (restoreTree s5 q) q .loaded

/-! ### LOAD_IMAGE and IMAGE_STAGED -/

/-- Whether another LOAD_IMAGE holds the staging region. -/
def stagingBusy (s : State) (h seq : Nat) : Bool :=
  s.cmds.any (fun c => decide (c.opcode = opLoadImage ∧ c.phase ≠ 0 ∧ (c.host ≠ h ∨ c.seq ≠ seq)))

/-- LOAD_IMAGE: the image is asked for, once the staging region is free. -/
def loadImage (h seq : Nat) (s : State) : State :=
  startCmd s h seq opLoadImage (fun s c =>
    if stagingBusy s h seq then s
    else askJudged s c (check (decide (15 < c.arg0)) stBadField 16 ++ check (decide (c.bulkLen = 0)) stBadLength 40
      ++ check s.fs.failed stAbsent 0))

def execLoadImage (h seq : Nat) (s : State) : Host.Outcome State Fault Refusal := .next (loadImage h seq s)

/-- Base of the staging region (R275). -/
def stagingBase (s : State) : Nat := fsBase + (if isHbm s then 2 ^ 30 else 2 ^ 28)

/-- The host's answer to the read of the image: a refused read ends the command; the bytes fill the staging region. -/
def imageBulk (s : State) (c : Cmd) (ok : Bool) (data : List Byte) : State :=
  if !ok then
    match decideFail (heldFail c ++ badL true) with
    | some f => refuseCmd s { c with bulk := data } f
    | none => s
  else
    let d := data.take (stagingBytes s)
    modCmd (spanWrite s (stagingBase s) d) c.host c.seq (fun c => { c with bulk := data, phase := 2 })

/-- IMAGE_STAGED: the staged image is checked, and distributed if it passes. The staging copy and the distribution are charged to the
bucket that the load fills (R273, R274). -/
def imageStaged (h seq : Nat) (s : State) : State :=
  match cmdAt s h seq with
  | none => s
  | some c =>
    if c.opcode ≠ opLoadImage || c.phase ≠ 2 then s
    else
      let b := c.bulk
      match decideFail (heldFail c ++ imageFails s c b) with
      | some f => refuseCmd s c f
      | none =>
        let n := min b.length (stagingBytes s)
        let s1 := fcUseSpan (loadEffect s c b) (stagingBase s) n false false
        complete (chargeNow s1 c.partition engStaging [(stagingBase s, n), (stagingBase s, n)]) c stOk (le b 32 8) (le (carriedDigest b) 0 8) 0 b.length

def execImageStaged (h seq : Nat) (s : State) : Host.Outcome State Fault Refusal := .next (imageStaged h seq s)

/-! ### UNLOAD -/

/-- A partition made EMPTY. -/
def emptyPart (s : State) (q : Nat) : State :=
  modPart (setPartState (freePart s q) q .empty) q (fun p => { resetEpoch := p.resetEpoch })

/-- UNLOAD (R364, R365). -/
def unload (h seq : Nat) (s : State) : State :=
  startCmd s h seq opUnload (fun s c => withChecks s c [] (fun s => complete (emptyPart s c.partition) c stOk 0 0 0 0))

def execUnload (h seq : Nat) (s : State) : Host.Outcome State Fault Refusal := .next (unload h seq s)

end Sys2Proof.Machine
end

