-- ==== Sys2Proof/Machine/Pool.lean ====
section
/-! DEFINITION. Connections and the pool (R317, R320, R340, R365, R451 to R454, R458, R463 to R471): the meanings of CONNECT,
DISCONNECT, CHECKPOINT, RESTORE, POOL_READ_RESPONSE and MONITOR_WINDOW. -/

namespace Sys2Proof.Machine

/-! ### Connections -/

/-- A queue pair number not in use: the device's own choice where that is free. -/
def freshQpn (s : State) : Nat :=
  let q := Config.newQpn s.fresh % 2 ^ 24
  if (connAt s q).isNone then q else ((List.range (s.conns.length + 1)).find? (fun n => (connAt s n).isNone)).getD 0

/-- Whether a number names an open pool connection. -/
def isPool (s : State) (qpn : Nat) : Bool := (connAt s qpn).any (fun c => c.kind = 2)

/-- Flow contexts held, connections among them (R317, R330). -/
def flowsInUse (s : State) : Nat := s.conns.length + s.flows.length

/-! ### RESTORE (R469, R470) -/

/-- A restore ends with a failed check: nothing but the alternate version has changed. -/
def endRestore (s : State) (q : Nat) (st detail : Nat) : State :=
  match (partAt s q).ckpt.restore with
  | none => s
  | some r =>
    let s1 := modCkpt s q (fun k => { k with restore := none })
    match cmdAt s1 r.host r.seq with
    | some c => refuseCmd s1 c (st, detail)
    | none => s1

/-- A connection closed: its transfers end with TIMEOUT, and a management connection leaves its slot (R320, R354, R365). -/
def closeConn (s : State) (qpn : Nat) : State :=
  let s1 := { s with
    conns := s.conns.filter (fun c => c.qpn ≠ qpn)
    hosts := s.hosts.map (fun h => if h.attached && h.qpn = qpn then { h with attached := false } else h) }
  (List.range 16).foldl (fun s q =>
    let k := (partAt s q).ckpt
    let s1 := if k.copy.any (fun c => c.conns.contains qpn) then failCopy s q stTimeout else s
    if k.restore.any (fun r => r.conns.contains qpn) then endRestore s1 q stTimeout 0 else s1) s1

/-- The payload's pool connections: the one of ARG0 and the non-zero CONN entries from an offset. -/
def namedConns (c : Cmd) (off : Nat) : List Nat :=
  c.arg0 :: ((List.range 3).map (fun i => le c.payload (off + 4 * i) 4)).filter (· ≠ 0)

/-- The checks of the connections a command names. -/
def connFails (s : State) (c : Cmd) (off : Nat) : List (Nat × Nat) :=
  let port (n : Nat) : Nat := ((connAt s n).map Conn.port).getD 4
  let entry (i : Nat) : Nat := le c.payload (off + 4 * i) 4
  let before (i : Nat) : List Nat := c.arg0 :: ((List.range i).map entry).filter (· ≠ 0)
  check (!isPool s c.arg0) stBadField 16
  ++ (List.range 3).flatMap (fun i =>
      check (entry i ≠ 0 && (!isPool s (entry i) || (before i).any (fun n => decide (port n = port (entry i))))) stBadField (64 + off + 4 * i))

/-- Slot q of the transmit and receive units of the connections' ports set to CRC-64/XZ in INLINE mode (R458). -/
def setPoolUnits (s : State) (q : Nat) (l : List Nat) : State :=
  let slot (verify : Bool) : CvSlot :=
    { width := 64
      refin := true
      refout := true
      mode := 1
      verify := verify
      poly := word crc64xz.poly
      init := word crc64xz.init
      xorout := word crc64xz.xorout
      run := word crc64xz.init }
  l.foldl (fun s n =>
    let e := ((connAt s n).map Conn.port).getD 0
    modCvSlot (modCvSlot s (32 + 2 * e) q (fun _ => slot false)) (33 + 2 * e) q (fun _ => slot true)) s

/-- RESTORE's checks of its payload. -/
def restoreFails (s : State) (c : Cmd) : List (Nat × Nat) :=
  check (decide (c.payloadLen ≠ 32)) stBadField 8 ++ check (decide (le c.payload 28 4 ≠ 0)) stBadField 92 ++ connFails s c 16

/-- A read of the pool asked for. -/
def poolRead (s : State) (q n i addr len : Nat) : State :=
  match (partAt s q).ckpt.restore with
  | none => s
  | some r =>
    modCkpt (emit s (.poolRead (r.conns.getD i 0) addr len r.rkey)) q (fun k =>
      { k with restore := k.restore.map (fun r => { r with outstanding := r.outstanding ++ [(n, i)] }) })

/-- A command whose checks go on after it has started: STALE_EPOCH comes after them all (R358). -/
def withLateEpoch (s : State) (c : Cmd) (own : List (Nat × Nat)) (go : State → Bool → State) : State :=
  match judge s c own with
  | some f => if f.1 = stStaleEpoch then go s true else refuseCmd s c f
  | none => go s false

/-- RESTORE: the commit record's header is asked for. -/
def restore (h seq : Nat) (s : State) : State :=
  startCmd s h seq opRestore (fun s c => withLateEpoch s c (restoreFails s c) (fun s stale =>
    let q := c.partition
    let l := namedConns c 16
    let run : RestoreRun := {
      host := h
      seq := seq
      conns := l
      rkey := le c.payload 12 4
      gen := c.arg1
      commitAddr := le c.payload 0 8
      commitLen := le c.payload 8 4
      stale := stale }
    let s1 := modCkpt (setPoolUnits (modCmd s h seq (fun c => { c with phase := 2 })) q l) q (fun k => { k with restore := some run })
    poolRead s1 q 0 0 run.commitAddr 64))

def execRestore (h seq : Nat) (s : State) : Host.Outcome State Fault Refusal := .next (restore h seq s)

/-! ### The commit record, SEAL and META (R463 to R467) -/

/-- Whether a byte string of n bytes ends with the CRC-64/XZ of what precedes it. -/
def trailerOk (b : List Byte) (n : Nat) : Bool := trailerMatches (cvOf crc64xz (slice b 0 (n - 8))) (le b (n - 8) 8)

/-- Entries of a commit record. -/
def commitCount (b : List Byte) : Nat := le b 24 4

/-- The entry of this device and partition. -/
def commitEntry (s : State) (q : Nat) (b : List Byte) : Option (List Byte) :=
  ((List.range (commitCount b)).map (fun i => slice b (64 + 32 * i) 32)).find? (fun e => le e 0 2 = s.devId && le e 2 1 = q)

/-- Whether a commit record's header is the one asked for. -/
def commitHeadOk (p : Part) (r : RestoreRun) (b : List Byte) : Bool :=
  decide (slice b 0 4 = [0x44, 0x52, 0x43, 0x4D] ∧ le b 4 2 = 1 ∧ le b 8 8 = jobIdOf p ∧ le b 16 8 = r.gen)

/-- Whether SEAL's header is the one expected, in the fields R469 names. -/
def sealHeadOk (s : State) (q : Nat) (r : RestoreRun) (b : List Byte) : Bool :=
  let x := objHeader s q 3 r.gen 64 0
  decide (slice b 0 7 = slice x 0 7 ∧ slice b 8 19 = slice x 8 19 ∧ slice b 28 4 = slice x 28 4)

/-- Data bytes of the META that the bound partition has. -/
def metaLen (p : Part) : Nat := 256 + 8 * (imageOf p).layers.length + 4 * (imageOf p).buckets.length + 64 * (ownRecipes p).length

/-- Whether META's header and contents fit the loaded image and the bound job. -/
def metaOk (s : State) (q : Nat) (r : RestoreRun) (b : List Byte) : Bool :=
  let p := partAt s q
  let i := imageOf p
  let d := b.drop 64
  let rs := ownRecipes p
  decide (slice b 0 64 = objHeader s q 1 r.gen (metaLen p) 0)
    && decide (slice d 64 64 = slice i.digest 0 64 ∧ le d 16 8 = shardSize p ∧ le d 40 4 = i.layers.length ∧ le d 44 4 = i.buckets.length
      ∧ le d 48 4 = rs.length)
    && decide (slice d (256 + 8 * i.layers.length + 4 * i.buckets.length) (64 * rs.length) = rs.flatMap Recipe.raw)

/-- The run changed. -/
def modRestore (s : State) (q : Nat) (f : RestoreRun → RestoreRun) : State :=
  modCkpt s q (fun k => { k with restore := k.restore.map f })

/-- The STATE objects asked for while a connection is free; the fuel is more than the connections. -/
def askObjects : Nat → State → Nat → State
  | 0, s, _ => s
  | fuel + 1, s, q =>
    match (partAt s q).ckpt.restore with
    | none => s
    | some r =>
      let n := shardSize (partAt s q)
      match (List.range r.conns.length).find? (fun i => !r.outstanding.any (fun x => x.2 = i)) with
      | none => s
      | some i =>
        if granulesOf n ≤ r.next then s
        else
          let s1 := poolRead s q (4 + r.next) i (r.slotAddr + objOffset (r.next + 1)) (72 + granuleLen n r.next)
          askObjects fuel (modRestore s1 q (fun r => { r with next := r.next + 1 })) q

/-- Every check has passed: the alternate version is settled and the partition has META's state (R470). -/
def restoreEffect (s : State) (q : Nat) (r : RestoreRun) : State :=
  let p := partAt s q
  let d := r.meta_.drop 64
  let v := altVer p
  let layers := imageOf p |>.layers.length
  let anchor (m : Tab Anchor) (i : Nat) : Tab Anchor :=
    let e := slice d (256 + 8 * i) 8
    m.put (le e 2 2) { m.at (le e 2 2) {} with anchor := signed 16 (le e 4 2), startRung := le e 6 1 % 4, established := (le e 6 1).testBit 2 }
  let bucket (b : Nat) : Int := signed 16 (le d (256 + 8 * layers + 4 * b) 2)
  let s1 := spanClear s (paramAddr p (1 - v) 0) (12 * shardSize p)
  let s2 := modPart s1 q (fun p =>
    { p with
      abortEpoch := le d 32 2
      aborted := none
      anchors := (List.range layers).foldl anchor p.anchors
      ctx := { p.ctx with
        step := r.gen
        seed := word (le d 8 8)
        bucketNext := (List.range (imageOf p).buckets.length).foldl (fun m b => m.put b (bucket b)) []
        bucketAnchor := [] }
      binding := p.binding.map (fun b => { b with slots := (withPos b.slots).map (fun x =>
        if x.1 < 2 then x.2
        else { x.2 with watermark := 0, copyStep := 0, holdStep := 0, catchUp := false, copied := 0, passDone := 0, arrived := [] }) })
      settle := { p.settle with
        settledVer := v
        producedBy := r.gen - 1
        updateCount := le d 24 4
        journal := []
        retention := []
        journalFullOnce := false
        posted := []
        rangesDone := []
        pieces := []
        settledPrint := none
        disputeOnce := []
        restored := some r.gen } })
  let s3 := regSet s2 (updReg q 0x58) 0 32 (le d 28 4 ^^^ 0x3F800000)
  rebuildAllNarrow s3 q v (r.gen - 1)

/-- A STATE object has come: it is checked and written to the alternate version, poisoned where its trailer fails (R340). -/
def stateRead (s : State) (q : Nat) (r : RestoreRun) (j : Nat) (data : List Byte) : State :=
  let p := partAt s q
  let n := shardSize p
  let len := granuleLen n j
  let a := granuleAddr p (altVer p) j
  let ok := trailerOk data (72 + len)
  let s1 := spanWrite s a (slice data 64 len)
  if !ok then endRestore (poisonSpan s1 a len) q stBadSignature 0
  else if slice data 0 64 ≠ objHeader s q 2 r.gen len j then endRestore s1 q stBadSignature 0
  else
    let s2 := modRestore s1 q (fun r => { r with done := r.done + 1 })
    if r.done + 1 < granulesOf n then askObjects 5 s2 q
    else if stateFprint s2 (partAt s2 q) (altVer p) ≠ le r.sealBytes 80 8 then endRestore s2 q stBadSignature 0
    else if r.stale then endRestore s2 q stStaleEpoch 0
    else
      let s3 := modCkpt (restoreEffect s2 q r) q (fun k => { k with restore := none })
      match cmdAt s3 r.host r.seq with
      | some c => complete s3 c stOk r.gen 0 0 0
      | none => s3

/-- One read of the restore has come: the checks that need its bytes are made in the order of R469, and the next read is asked
for. -/
def restoreStep (s : State) (q : Nat) (r : RestoreRun) (n : Nat) (data : List Byte) : State :=
  let p := partAt s q
  let fail (st : Nat) (detail : Nat) : State := endRestore s q st detail
  if n = 0 then
    if !commitHeadOk p r data then fail stBadField inBulk
    else if r.commitLen ≠ 72 + 32 * commitCount data then fail stBadLength 72
    else poolRead (modRestore s q (fun r => { r with commit := slice data 0 64 })) q 1 0 (r.commitAddr + 64) (r.commitLen - 64)
  else if n = 1 then
    let b := r.commit ++ slice data 0 (r.commitLen - 64)
    match commitEntry s q b with
    | none => fail stBadField inBulk
    | some e => poolRead (modRestore s q (fun r => { r with commit := b, slotAddr := le e 8 8 })) q 2 0 (le e 8 8 + 0x7FF000) 136
  else if n = 2 then
    if !sealHeadOk s q r data then fail stBadField inBulk
    else poolRead (modRestore s q (fun r => { r with sealBytes := slice data 0 136 })) q 3 0 r.slotAddr (72 + metaLen p)
  else if n = 3 then
    let len := 72 + metaLen p
    let e := (commitEntry s q r.commit).getD []
    if !metaOk s q r data then fail stBadField inBulk
    else if !trailerOk r.commit r.commitLen then fail stBadSignature 0
    else if !trailerOk r.sealBytes 136 || decide (le r.sealBytes 80 8 ≠ le e 16 8) then fail stBadSignature 0
    else if !trailerOk data len || decide (le r.sealBytes 88 8 ≠ le data (len - 8) 8) then fail stBadSignature 0
    else askObjects 5 (modRestore s q (fun r => { r with meta_ := slice data 0 len })) q
  else stateRead s q r (n - 4) data

/-- The partition whose restore waits on a connection. -/
def restoreOn (s : State) (qpn : Nat) : Option (Nat × RestoreRun × Nat × Nat) :=
  (List.range 16).findSome? (fun q =>
    (partAt s q).ckpt.restore.bind (fun r =>
      (r.outstanding.find? (fun x => r.conns.getD x.2 0 = qpn)).map (fun x => (q, r, x.1, x.2))))

/-- The stream of a pool object read back, through the receive unit of its connection's port: a trailer that does not match is counted
(R340, R350, R351). -/
def objectRead (s : State) (q qpn : Nat) (data : List Byte) : State :=
  let u := ethRxUnit (((connAt s qpn).map Conn.port).getD 0)
  let r := ethStream s u q (data.take (data.length - 8))
  if trailerMatches r.1 (le data (data.length - 8) 8) then r.2 else cvMismatch r.2 u q

/-- POOL_READ_RESPONSE: the oldest read outstanding on a connection is answered, or refused. -/
def poolReadResponse (qpn : Nat) (ok : Bool) (data : List Byte) (s : State) : State :=
  match restoreOn s qpn with
  | none => s
  | some (q, r, n, i) =>
    let rest := r.outstanding.filter (fun x => decide (x ≠ (n, i)))
    let s0 := ackedConn (if ok && decide (2 ≤ n) then objectRead s q qpn data else s) qpn
    let s1 := modRestore s0 q (fun r => { r with outstanding := rest })
    if (cmdAt s1 r.host r.seq).isNone then modCkpt s1 q (fun k => { k with restore := none })
    else if !ok then endRestore s1 q stTimeout 0
    else restoreStep s1 q { r with outstanding := rest } n data

def execPoolReadResponse (qpn : Nat) (ok : Bool) (data : List Byte) (s : State) : Host.Outcome State Fault Refusal :=
  .next (poolReadResponse qpn ok data s)

/-! ### CHECKPOINT (R451, R458) -/

/-- CHECKPOINT's own checks. -/
def checkpointFails (s : State) (c : Cmd) : List (Nat × Nat) :=
  let pl := c.payload
  let set := (le pl 0 1).testBit 1
  let count := le pl 1 1
  let g := granulesOf (shardSize (partAt s c.partition))
  check (decide (c.payloadLen ≠ 64)) stBadField 8
  ++ (if set then connFails s c 48 else check (decide (c.arg0 ≠ 0)) stBadField 16)
  ++ check (decide (3 < le pl 0 1 ∨ le pl 0 1 = 0)) stBadField 64
  ++ check (if set then outside count 1 4 else decide (count ≠ 0)) stBadField 65
  ++ check (decide (le pl 2 2 ≠ 0)) stBadField 66
  ++ (if set then (List.range 4).flatMap (fun i =>
        let a := le pl (16 + 8 * i) 8
        check (if i < count then decide (a % 4096 ≠ 0) else decide (a ≠ 0)) stBadField (80 + 8 * i)) else [])
  ++ (if set then [] else (List.range 3).flatMap (fun i => check (decide (le pl (48 + 4 * i) 4 ≠ 0)) stBadField (112 + 4 * i)))
  ++ check (decide (le pl 60 4 ≠ 0)) stBadField 124
  ++ check (set && decide (le pl 8 8 < 0x800000 + 65664 * g)) stBadLength 72

/-- CHECKPOINT: a new target, a request for a cut, or both. -/
def checkpoint (h seq : Nat) (s : State) : State :=
  startCmd s h seq opCheckpoint (fun s c => withChecks s c (checkpointFails s c) (fun s =>
    let pl := c.payload
    let q := c.partition
    let l := namedConns c 48
    let s1 := if (le pl 0 1).testBit 1 then
        modCkpt (setPoolUnits s q l) q (fun k =>
          { k with target := {
              conns := l
              rkey := le pl 4 4
              slotLen := le pl 8 8
              slots := (List.range (le pl 1 1)).map (fun i => (le pl (16 + 8 * i) 8, false)) } })
      else s
    if (le pl 0 1).testBit 0 then
      complete (modCkpt s1 q (fun k => { k with pending := true })) c stOk ((partAt s q).ctx.step + 1) 0 0 0
    else complete s1 c stOk 0 0 0 0))

def execCheckpoint (h seq : Nat) (s : State) : Host.Outcome State Fault Refusal := .next (checkpoint h seq s)

/-! ### MONITOR_WINDOW (R452, R453, R476, R477) -/

/-- Address of CKP_MON[m] and of CKP_MON_VALUE[m]. -/
def monReg (m : Nat) : Nat := ctl (0x700 + 16 * m)
def monValueReg (m : Nat) : Nat := ctl (0x708 + 16 * m)

/-- A monitor's reset value: its default threshold, ENABLE set. Its stored bits are those that differ from it. -/
def monDefault (m : Nat) : Nat := [10000, 1000, 50000000, 1000, 5].getD m 0 + 2 ^ 32

/-- CKP_MON[m]. -/
def monGet (s : State) (m : Nat) : Nat := regGet s (monReg m) ^^^ monDefault m

def monPut (s : State) (m v : Nat) : State := regPut s (monReg m) (v ^^^ monDefault m)

/-- Whether a measurement trips monitor m: THERMAL's is a temperature difference and trips downward. -/
def monTrips (s : State) (m v : Nat) : Bool :=
  let t := field (monGet s m) 0 32
  (monGet s m).testBit 32 && (if m = 4 then decide (signed 32 v ≤ signed 32 t) else decide (t ≤ v))

/-- The smaller of two values, where there are two. -/
def minOf (a b : Option Int) : Option Int :=
  match a, b with
  | some x, some y => some (min x y)
  | none, y => y
  | x, none => x

/-- A monitor's measurement of its present window (R452), THERMAL's as a 32-bit two's complement number: the smallest margin of the
thermal loop's readings and of what the sensors showed between them; none for a window without either. -/
def monMeasure (w : Monitors) (m : Nat) (seen : Option Int) : Option Nat :=
  match m with
  | 0 => some (min w.fsCe (2 ^ 32 - 1))
  | 1 => some (min w.nsCe (2 ^ 32 - 1))
  | 2 => some (min (maxNat (w.fec.map Prod.snd)) (2 ^ 32 - 1))
  | 3 => some (min (maxNat (w.retry.map Prod.snd)) (2 ^ 32 - 1))
  | _ => (minOf w.margin seen).map (unsigned 32)

/-- A monitor's counter at the start of a window. -/
def monClear (w : Monitors) (m : Nat) : Monitors :=
  match m with
  | 0 => { w with fsCe := 0 }
  | 1 => { w with nsCe := 0 }
  | 2 => { w with fec := [] }
  | 3 => { w with retry := [] }
  | _ => { w with margin := none }

/-- A window of monitor m + 1 has ended with a measurement (R453, R477). -/
def windowEnds (s : State) (m v : Nat) : State :=
    let s1 := regPut s (monValueReg m) v
    if !monTrips s1 m v then monPut s1 m (withField (monGet s1 m) 33 1 0)
    else if (monGet s1 m).testBit 33 then s1
    else
      let s2 := sendEvent (monPut s1 m (withField (monGet s1 m) 33 1 1)) 0x8004 0xFF (m + 1) v
      (List.range 16).foldl (fun s q =>
        if isBound (partAt s q) then
          modCkpt (raiseVote (raiseVote s q voteWarn) q voteCkpt) q (fun k => { k with pending := true })
        else s) s2

/-- MONITOR_WINDOW: monitor m + 1's window ends; the next begins with its counter clear. -/
def monitorWindow (m : Nat) (seen : Option Int) (s : State) : State :=
  match if 4 < m then none else monMeasure s.mgt.mon m seen with
  | none => s
  | some v => windowEnds (modMon s (fun w => monClear w m)) m v

def execMonitorWindow (m : Nat) (seen : Option Int) (s : State) : Host.Outcome State Fault Refusal := .next (monitorWindow m seen s)

/-! ### CONNECT and DISCONNECT (R365) -/

/-- CONNECT's fields, in the order R365 lists them and the widths R352 gives: peer address, QPN, PSN, PMTU, port, kind. -/
def connectFails (c : Cmd) : List (Nat × Nat) :=
  let pl := c.payload
  check (decide (c.payloadLen ≠ 32)) stBadField 8
  ++ check (decide (2 ^ 24 ≤ le pl 16 4)) stBadField 80 ++ check (decide (2 ^ 24 ≤ le pl 20 4)) stBadField 84
  ++ check (outside (le pl 24 1) 3 5) stBadField 88 ++ check (decide (3 < le pl 25 1)) stBadField 89
  ++ check (outside (le pl 26 1) 1 2) stBadField 90 ++ check (!allZero (slice pl 27 5)) stBadField 91

/-- CONNECT. -/
def connect (h seq : Nat) (s : State) : State :=
  startCmd s h seq opConnect (fun s c =>
    let pl := c.payload
    let full := check (decide (65536 ≤ s.conns.length ∨ 262144 ≤ flowsInUse s)) stNoResource 0
    withChecks s c (connectFails c ++ full) (fun s =>
      let n := freshQpn s
      let x : Conn := {
        qpn := n
        port := le pl 25 1
        kind := le pl 26 1
        peer := slice pl 0 16
        peerQpn := le pl 16 4
        psn := le pl 20 4
        pmtu := le pl 24 1
        rkey := Config.newRkey s.fresh }
      let s1 := (drawFresh s).2
      complete { s1 with conns := s1.conns ++ [x.set s.fresh] } c stOk n 0 0 0))

def execConnect (h seq : Nat) (s : State) : Host.Outcome State Fault Refusal := .next (connect h seq s)

/-- DISCONNECT: a connection opened by CONNECT closes. -/
def disconnect (h seq : Nat) (s : State) : State :=
  startCmd s h seq opDisconnect (fun s c =>
    withChecks s c (check (!(connAt s c.arg0).any (fun x => x.kind ≠ 0)) stBadField 16) (fun s =>
      complete (closeConn s c.arg0) c stOk 0 0 0 0))

def execDisconnect (h seq : Nat) (s : State) : Host.Outcome State Fault Refusal := .next (disconnect h seq s)

end Sys2Proof.Machine
end

