-- ==== Sys2Proof/Machine/Commands.lean ====
section
/-! DEFINITION. Reading and attesting, contexts and host descriptor lists (R2, R228, R365, R367, R478, R519, R520, R526): the
meanings of IDENTIFY, READ_LOG, ATTEST, CTX_SAVE, CTX_RESTORE and DMA. -/

namespace Sys2Proof.Machine

/-! ### Fused values -/

/-- DEV_CAPS (R2). -/
def devCaps (s : State) : Nat :=
  let v := s.fuses.variant
  tileCount s
    + (match v with | .dj4096H => 12 | .dj3072H => 8 | .dj4096G => 16) * 2 ^ 16
    + (if isHbm s then 0 else 1) * 2 ^ 21
    + fsGib s * 2 ^ 24
    + b2n (hasPredictor s) * 2 ^ 36 + b2n (hasPredictor s) * 2 ^ 37 + b2n (hasDualEscrow s) * 2 ^ 38
    + variantCode s * 2 ^ 40
    + s.fuses.stepping % 16 * 2 ^ 44
    + (2 ^ portCount s - 1) * 2 ^ 48

/-- MGT_POLICY (R526). -/
def mgtPolicy (s : State) : Nat :=
  b2n s.fuses.requireSigned + s.fuses.revoked.toNat * 2 ^ 8 + s.fuses.minSvn % 256 * 2 ^ 16

/-- The seed of the identity key (R519). -/
def identitySeed (s : State) : List Byte :=
  shake256 32 (Config.deviceSecret ++ [0x44, 0x52, 0x46, 0x2D, 0x49, 0x44] ++ toLe 1 s.fuses.stepping)

/-- The identity public key, and its digest (R519). -/
def identityKey (s : State) : List Byte := Config.falconPublic (identitySeed s)
def identityDigest (s : State) : List Byte := shake256 32 (identityKey s)

/-- Version of the running firmware, 0 in BOOT (R512, R527). -/
def fwVersion (s : State) : Nat := if s.dev = .boot then 0 else s.mgt.fw.version

/-! ### IDENTIFY and READ_LOG -/

/-- IDENTIFY. -/
def identify (h seq : Nat) (s : State) : State :=
  startCmd s h seq opIdentify (fun s c => withChecks s c [] (fun s =>
    complete s c stOk (devCaps s) (fwVersion s + s.incarnation % 2 ^ 32 * 2 ^ 32) 0 0))

def execIdentify (h seq : Nat) (s : State) : Host.Outcome State Fault Refusal := .next (identify h seq s)

/-- Bytes of the log held. -/
def logBytes (s : State) : Nat := 64 * s.mgt.log.length

/-- The checks of READ_LOG's extent; a count of 0 moves nothing and passes (R6, R362, R478). -/
def readLogFails (s : State) (c : Cmd) : List (Nat × Nat) :=
  check (decide (c.arg0 % 64 ≠ 0)) stBadField 16 ++ check (decide (c.arg1 % 64 ≠ 0)) stBadField 24
  ++ (if c.arg1 = 0 then []
      else check (decide (logBytes s < c.arg0 + c.arg1)) stBadLength 24 ++ check (decide (c.bulkLen < c.arg1)) stBadLength 40)

/-- READ_LOG. -/
def readLog (h seq : Nat) (s : State) : State :=
  startCmd s h seq opReadLog (fun s c => withChecks s c (readLogFails s c) (fun s =>
    if c.arg1 = 0 then complete s c stOk (logBytes s) 0 0 0
    else giveBulk s c (logBytes s) 0 ((s.mgt.log.drop (c.arg0 / 64)).take (c.arg1 / 64)).flatten))

def execReadLog (h seq : Nat) (s : State) : Host.Outcome State Fault Refusal := .next (readLog h seq s)

/-! ### ATTEST (R520) -/

/-- A byte string cut or zero-padded to n bytes. -/
def padTo (n : Nat) (b : List Byte) : List Byte := slice b 0 n

/-- The partitions a report lists. -/
def attested (s : State) : List Nat := (List.range 16).filter (fun q => decide ((partAt s q).state ≠ .empty))

/-- Bytes of a report. -/
def reportLength (s : State) : Nat := 3400 + 128 * (attested s).length

/-- The first 256 bytes of a report. -/
def reportHead (s : State) (nonce : List Byte) : List Byte :=
  let f := s.mgt.fw
  [0x44, 0x52, 0x41, 0x54] ++ toLe 2 1 ++ toLe 2 (attested s).length ++ toLe 8 s.fuses.serial.toNat ++ toLe 8 (now s)
    ++ toLe 4 s.incarnation ++ toLe 4 (fwVersion s) ++ toLe 1 f.svn ++ toLe 1 f.keySlot ++ toLe 1 f.imageKeys.length ++ [0]
    ++ toLe 4 (mgtPolicy s) ++ padTo 64 f.digest ++ shake256 32 f.appendix ++ toLe 1 nonce.length ++ List.replicate 7 0
    ++ padTo 64 nonce ++ List.replicate 48 0

/-- A report's record of one partition. -/
def reportPart (s : State) (q : Nat) : List Byte :=
  let p := partAt s q
  let i := imageOf p
  toLe 1 q ++ toLe 1 p.state.code ++ toLe 1 i.sigState ++ toLe 1 i.keyIndex ++ toLe 4 i.toolVersion ++ toLe 8 i.id
    ++ padTo 64 i.digest ++ toLe 8 (jobIdOf p) ++ toLe 4 (jobEpochOf p) ++ List.replicate 4 0
    ++ (match p.binding with
        | some b => shake256 32 b.keys.flatten
        | none => List.replicate 32 0)

/-- A report, signed with the identity key. -/
def report (s : State) (nonce : List Byte) : List Byte :=
  let body := reportHead s nonce ++ padTo 1856 (identityKey s) ++ (attested s).flatMap (reportPart s)
  let sig := (Config.falconSign (identitySeed s) (shake256 64 body)).take 1280
  body ++ toLe 2 sig.length ++ List.replicate 6 0 ++ padTo 1280 sig

/-- The checks of ATTEST's nonce and of the room for its report. -/
def attestFails (s : State) (c : Cmd) : List (Nat × Nat) :=
  check (decide (c.payload.length = 0 ∨ 64 < c.payload.length)) stBadField 8
  ++ check (decide (c.bulkLen < reportLength s)) stBadLength 40

/-- ATTEST; a bulk region too small is told the size needed. -/
def attest (h seq : Nat) (s : State) : State :=
  startCmd s h seq opAttest (fun s c =>
    if judge s c (attestFails s c) = some (stBadLength, 40) then complete s c stBadLength (reportLength s) 0 40 0
    else withChecks s c (attestFails s c) (fun s => giveBulk s c (reportLength s) 0 (report s c.payload)))

def execAttest (h seq : Nat) (s : State) : Host.Outcome State Fault Refusal := .next (attest h seq s)

/-! ### CTX_SAVE and CTX_RESTORE (R228) -/

/-- Bytes of one tile's context record, its CRC-64 trailer included. -/
def ctxBytes : Nat := 98304

/-- A tile's context record of a number. -/
def ctxRecord (key : Nat) : List Byte :=
  let b := padTo (ctxBytes - 8) (Config.contextRecord key)
  b ++ toLe 8 (cvOf crc64xz b)

/-- The checks of a context's place in the carve-out. -/
def ctxFails (s : State) (c : Cmd) : List (Nat × Nat) :=
  let p := partAt s c.partition
  check (decide (c.arg0 % 65536 ≠ 0)) stBadField 16
  ++ check (decide ((imageOf p).carveGib * 2 ^ 30 < c.arg0 + ctxBytes * localCount p)) stBadLength 16

/-- One tile's context saved: the i-th of its partition. -/
def saveTile (base : Nat) (p : Part) (s : State) (x : Nat × Nat) : State :=
  let k := drawFresh s
  let t := tileAt s x.2
  let r : CtxRec := {
    key := k.1
    gw := p.gw
    gh := p.gh
    digest := (imageOf p).digest
    stepping := s.fuses.stepping
    arr := t.arr
    drain := { t.drain with accs := [], blocks := [] }
    vec := t.vec
    sched := t.sched
    dma := t.dma
    spots := t.spots }
  spanWrite { k.2 with ctxBook := r :: k.2.ctxBook } (base + ctxBytes * x.1) (ctxRecord k.1)

/-- CTX_SAVE. -/
def ctxSave (h seq : Nat) (s : State) : State :=
  startCmd s h seq opCtxSave (fun s c => withChecks s c (ctxFails s c) (fun s =>
    let p := partAt s c.partition
    let s1 := (withPos (partTiles p)).foldl (saveTile (p.carve + c.arg0) p) s
    complete s1 c stOk (ctxBytes * localCount p) 0 0 0))

def execCtxSave (h seq : Nat) (s : State) : Host.Outcome State Fault Refusal := .next (ctxSave h seq s)

/-- The saved context that a tile's record in the carve-out holds. -/
def savedCtx (s : State) (b : List Byte) : Option CtxRec := s.ctxBook.find? (fun r => ctxRecord r.key = b)

/-- Whether a context was saved from a partition like this one. -/
def ctxMatches (s : State) (p : Part) (r : CtxRec) : Bool :=
  decide (r.gw = p.gw ∧ r.gh = p.gh ∧ r.digest = (imageOf p).digest ∧ r.stepping = s.fuses.stepping)

/-- The records of a partition's tiles, in order. -/
def ctxRecords (s : State) (p : Part) (off : Nat) : List (List Byte) :=
  (List.range (localCount p)).map (fun i => spanRead s (p.carve + off + ctxBytes * i) ctxBytes)

/-- The checks of the records a restore reads. -/
def ctxReadFails (s : State) (c : Cmd) : List (Nat × Nat) :=
  let p := partAt s c.partition
  if !(ctxFails s c).isEmpty then []
  else
    let l := ctxRecords s p c.arg0
    check (l.any (fun b => !((savedCtx s b).any (ctxMatches s p)) && decide (le b (ctxBytes - 8) 8 = cvOf crc64xz (b.take (ctxBytes - 8)))))
      stBadField 16
    ++ check (l.any (fun b => decide (le b (ctxBytes - 8) 8 ≠ cvOf crc64xz (b.take (ctxBytes - 8))))) stBadSignature 0

/-- One tile's context restored; its accumulators are moved through their window. -/
def restoreTile (s : State) (x : Nat × List Byte) : State :=
  match savedCtx s x.2 with
  | none => s
  | some r => modTile s x.1 (fun t =>
      { t with
        arr := r.arr
        drain := { r.drain with accs := t.drain.accs, blocks := t.drain.blocks }
        vec := r.vec
        sched := r.sched
        dma := r.dma
        spots := r.spots })

/-- CTX_RESTORE. -/
def ctxRestore (h seq : Nat) (s : State) : State :=
  startCmd s h seq opCtxRestore (fun s c => withChecks s c (ctxFails s c ++ ctxReadFails s c) (fun s =>
    let p := partAt s c.partition
    let s1 := ((partTiles p).zip (ctxRecords s p c.arg0)).foldl restoreTile
      (fcUseSpan s (p.carve + c.arg0) (ctxBytes * localCount p) false false)
    complete (modPart s1 c.partition (fun p => { p with heldReset := false })) c stOk 0 0 0 0))

def execCtxRestore (h seq : Nat) (s : State) : Host.Outcome State Fault Refusal := .next (ctxRestore h seq s)

/-! ### DMA (R367) -/

/-- The tile of a host descriptor list. -/
def dmaTile (s : State) (c : Cmd) : Nat := tileOfLocal (partAt s c.partition) c.arg0

/-- The checks of a host descriptor list; offsets count from the record's first byte. -/
def dmaFails (s : State) (c : Cmd) : List (Nat × Nat) :=
  let p := partAt s c.partition
  let out := decide (p.state = .empty ∨ localCount p ≤ c.arg0)
  check (decide (c.payloadLen % 64 ≠ 0)) stBadField 8
  ++ check out stBadField 16
  ++ check (!out && !tilePresent s (dmaTile s c)) stAbsent 16
  ++ (if out || c.payloadLen % 64 ≠ 0 then []
      else (withPos ((pieces 64 (c.payload.take c.payloadLen)).filter (fun d => d.length = 64))).flatMap (fun x =>
        (descFails s c.partition true (descOf x.2)).map (fun f => (f.1, f.2 + 64 + 64 * x.1))))

/-- DMA: the list joins its tile's engine, and completes with its last descriptor. -/
def dmaCmd (h seq : Nat) (s : State) : State :=
  startCmd s h seq opDma (fun s c => withChecks s c (dmaFails s c) (fun s =>
    if c.payload.isEmpty then complete s c stOk 0 0xFFFFFFFF 0 0
    else
      let run : DmaRun := {
        host := some (h, seq)
        tick := now s
        descs := (withPos (pieces 64 c.payload)).map (fun x => { off := 64 * x.1, bytes := x.2 }) }
      modTile (modCmd s h seq (fun c => { c with phase := 2 })) (dmaTile s c) (fun x => { x with dma := x.dma ++ [run] })))

def execDma (h seq : Nat) (s : State) : Host.Outcome State Fault Refusal := .next (dmaCmd h seq s)

end Sys2Proof.Machine
end

