-- ==== Sys2Proof/Machine/FarStore.lean ====
section
/-! DEFINITION. The near-store banks, the on-die packet layer and the far-store engine (R24, R232, R246, R248, R262 to R274,
R487, R489, R490): the meanings of BANK_GRANT, MESH_REQUEST_ARRIVAL, MESH_REPLY_ARRIVAL, FS_REQUEST_ISSUE,
FAR_CACHE_ACCESS and WRITEBACK_TIMEOUT. -/

namespace Sys2Proof.Machine

/-! ### BANK_GRANT (R21, R246, R248) -/

/-- Whether a bank has served no access in this cycle, neither a grant nor the test port (R21, R246). -/
def bankFree (s : State) (t bank : Nat) : Bool :=
  decide ((tileAt s t).granted.find bank ≠ some s.cycle ∧ (tileAt s t).testPort.find bank ≠ some s.cycle)

/-- BANK_GRANT: a bank that has served no access in this cycle grants its oldest waiting request; the row may show a stored
error (R21, R246, R248). -/
def bankGrant (t bank : Nat) (ecc : EccEvent) (s : State) : State :=
  match oldestReq ((tileAt s t).banks.at bank []) with
  | none => s
  | some b =>
    if 32 ≤ bank || !bankFree s t bank then s
    else
      let s0 := modTile s t (fun x => { x with granted := x.granted.put bank s.cycle })
      let s1 := match ecc with
        | .corrected => nsUpset s0 (b.addr / 8) false
        | .uncorrectable => nsUpset s0 (b.addr / 8) true
        | _ => s0
      serveBank s1 t bank b

def execBankGrant (t bank : Nat) (ecc : EccEvent) (s : State) : Host.Outcome State Fault Refusal := .next (bankGrant t bank ecc s)

/-! ### The packet layer (R26, R224, R226, R232, R487, R489, R490) -/

/-- The far-store engine as a unit of the packet layer. -/
def farUnit : Nat := 1024

/-- The reset epoch a requester holds now: a tile's, or engine e's as requester 1024 + e. -/
def requesterEpoch (s : State) (r : Nat) : Nat :=
  if r < 1024 then (tileAt s r).resetEpoch else s.engineEpoch.getD (r - 1024) 0

/-- Whether on-die traffic of a partition carries an abort epoch that is not its own (R224, R226). -/
def staleTraffic (s : State) (q epoch : Nat) : Bool := decide (q < 16 ∧ epoch ≠ (partAt s q).abortEpoch)

/-- MESH_REQUEST_ARRIVAL: a packet-layer request reaches its target; one of another abort epoch is discarded and counted. -/
def meshRequest (r : MeshReq) (s : State) : State :=
  let t := tileOf r.addr
  if staleTraffic s r.part r.abortEpoch then dropStale s
  else if isTileAddr r.addr then
    if !tilePresent s t then meshAnswer s t r stAbsent false []
    else if tileGone s t r.requester then meshAnswer s t r stTargetReset false []
    else if !within r.addr r.len (tileBase t) (partEnd (windowPart (offOf r.addr))) || 4 ≤ windowPart (offOf r.addr) then
      meshAnswer s t r stBadLength false []
    else if windowPart (offOf r.addr) = 0 && r.len ≠ 0 then
      let req := if r.isWrite then r else { r with data := List.replicate r.len 0 }
      (linesOf r.addr r.len).foldl (fun s l =>
        let lo := max (64 * l) r.addr
        let hi := min (64 * l + 64) (r.addr + r.len)
        modTile s t (fun x => joinBank x { port := meshPort, addr := lo, len := hi - lo, req := req, age := s.cycle })) s
    else if r.isWrite then meshAnswer (spanWrite s r.addr (slice r.data 0 r.len)) t r stOk false []
    else
      let x := spanFetch s r.addr r.len false
      meshAnswer x.2.2 t r stOk x.2.1 x.1
  else if !within r.addr r.len fsBase (fsCapacity s) then meshAnswer s farUnit r stBadLength false []
  else if s.fs.resetting then meshAnswer s farUnit r stTargetReset false []
  else if r.isWrite then meshAnswer (spanWrite s r.addr (slice r.data 0 r.len)) farUnit r stOk false []
  else
    let x := spanFetch s r.addr r.len false
    meshAnswer x.2.2 farUnit r stOk x.2.1 x.1

def execMeshRequestArrival (r : MeshReq) (s : State) : Host.Outcome State Fault Refusal := .next (meshRequest r s)

/-- Whether two replies under way go from one unit to one requester. -/
def samePath (x y : Nat × MeshReply) : Bool := decide (x.1 = y.1) && decide (x.2.requester = y.2.requester)

/-- MESH_REPLY_ARRIVAL: a reply under way arrives, those between two units in the order sent (R26). One of an older reset epoch is
discarded and counted (R489), and one of another abort epoch (R226); any other is delivered. -/
def meshReply (r : MeshReply) (s : State) : State :=
  match takeOldest samePath (fun x => decide (x.2 = r)) s.replies with
  | none => s
  | some x =>
    let s1 := { s with replies := x.2 }
    if r.epoch ≠ requesterEpoch s r.requester then
      if r.requester < 1024 then regBump s1 (tileReg r.requester 0x780100) 16 16 1
      else logWith s1 (Config.logCode 5) 0 0 (r.requester - 1024) 0xFF [r.epoch, r.tag]
    else if staleTraffic s r.part r.abortEpoch then dropStale s1
    else { s1 with delivered := r :: s1.delivered }

def execMeshReplyArrival (r : MeshReply) (s : State) : Host.Outcome State Fault Refusal := .next (meshReply r s)

/-! ### The regulator and the request slots (R271 to R273) -/

/-- FS_REQUEST_ISSUE: a source's oldest request whose bank's share is not full takes a slot. -/
def fsRequestIssue (source : Nat) (s : State) : State :=
  match s.fs.waiting.find? (fun w => w.source = source && slotFree s w.addr) with
  | none => s
  | some w => modFs s (fun f => { f with waiting := f.waiting.erase w, issued := f.issued ++ [w] })

def execFsRequestIssue (source : Nat) (s : State) : Host.Outcome State Fault Refusal := .next (fsRequestIssue source s)

/-! ### FAR_CACHE_ACCESS (R263 to R265) -/

/-- An error of a channel counted, at FS_ERR's count from bit lo and at FS_CHAN's from bit clo. -/
def fsCount (s : State) (a lo clo : Nat) : State :=
  regBump (regBump s (ctl 0x408) lo 16 1) (ctl (0x31000 + 8 * (fsLocate s a).1)) clo 16 1

/-- An uncorrected far-store error of a kind: counted, held, logged, the line poisoned. -/
def fsUncorrected (s : State) (a kind : Nat) : State :=
  let c := (fsLocate s a).1
  poisonLine (logError (fsFirstErr (fsCount s a 32 40) a kind) 0x07 c c 0xFF false [a, kind]) (a / 64)

/-- The 64-byte line of an address. -/
def lineBytes (s : State) (a : Nat) : List Byte := readBytes s.mem (a / 64 * 64) 64

/-- The metadata bits of a line: CHECK in [15:0], POISON in bit 16 (R262). -/
def lineMeta (s : State) (a : Nat) : Nat := lineCheck a (lineBytes s a) + 2 ^ 16 * b2n (s.poison.contains (a / 64))

/-- Whether data delivered for a line fails the CHECK made where its data entered the engine (R262). -/
def checkFails (s : State) (a : Nat) (data : List Byte) : Bool := decide (lineCheck a data ≠ lineMeta s a % 2 ^ 16)

/-- A read through the path: a mismatch of CHECK is cured by a second read that matches; two leave the line poisoned (R263). -/
def pathError (s : State) (a : Nat) (first second : List Byte) : State :=
  if !checkFails s a first then s
  else if checkFails s a second then fsUncorrected s a 1
  else modMon (regBump s (ctl 0x408) 16 16 1) (fun m => { m with fsCe := m.fsCe + 1 })

/-- The error that the far cache's line of a unit shows (R265). -/
def fcError (s : State) (a : Nat) (ecc : EccEvent) : State :=
  let l := (a - fsBase) / 256
  let dirty := (fcLines s l).any (fun c => c.unit = l && c.dirty)
  match ecc with
  | .corrected => regBump s (ctl 0x480) 32 16 1
  | .uncorrectable =>
    let s1 := logError s 0x08 (fcSet l) (fcSet l) 0xFF false [l]
    if !dirty then s1
    else
      let s2 := regBump (poisonSpan s1 (fsBase + 256 * l) 256) (ctl 0x480) 48 16 1
      modFs s2 (fun f => { f with cache := f.cache.put (fcSet l) ((f.cache.at (fcSet l) []).map (fun c =>
        if c.unit = l then { c with dirty := false } else c)) })
  | .path first second => pathError s a first second
  | _ => s

/-- The error that the DRAM or its path shows on a miss (R263); only GDDR7 has transfer errors. -/
def dramError (s : State) (a : Nat) (ecc : EccEvent) : State :=
  match ecc with
  | .corrected => modMon (fsCount s a 0 24) (fun m => { m with fsCe := m.fsCe + 1 })
  | .uncorrectable => fsUncorrected s a 0
  | .path first second => pathError s a first second
  | .transfer => if isHbm s then s else fsUncorrected s a 4
  | _ => s

/-- The request that an access serves: a source's oldest issued one that covers the address (R271). -/
def servedReq (s : State) (source a : Nat) : Option FsReq :=
  s.fs.issued.find? (fun r => r.source = source && decide (r.addr ≤ a ∧ a < r.addr + r.bytes))

/-- A write within one unit served through the far cache: incoming data whose CHECK fails at the controller is written poisoned (R263). -/
def farWriteAccess (s : State) (a : Nat) (bs : List Byte) (ecc : EccEvent) : State :=
  let s1 := farWriteF bs.length s a (bs.take (256 - a % 256))
  match ecc with
  | .pathWrite got => if checkFails s1 a got then fsUncorrected s1 a 2 else s1
  | _ => s1

/-- A read of a line served through the far cache: a line already poisoned or fenced counts as such (R261, R263). -/
def farReadAccess (s old : State) (a : Nat) (noalloc : Bool) : State :=
  let s1 := fcUse s ((a - fsBase) / 256) false noalloc
  if linePoisoned old (a / 64) then fsReadMark s1 a 1 else s1

/-- FAR_CACHE_ACCESS: a read of a 64-byte line, or a write within one unit, served through the far cache: for a descriptor's issued
request, whose slot it gives back, or for traffic of no partition, which finds a slot (R265, R271). -/
def farCacheAccess (source : Option Nat) (addr : Nat) (wdata : Option (List Byte)) (noalloc : Bool) (ecc : EccEvent) (s : State) : State :=
  if !isFsAddr s addr then s
  else
    let serve (s : State) : State :=
      let s1 := if fcHit s ((addr - fsBase) / 256) then fcError s addr ecc else dramError s addr ecc
      match wdata with
      | some bs => farWriteAccess s1 addr bs ecc
      | none => farReadAccess s1 s addr noalloc
    match source with
    | none => if slotFree s addr then serve s else s
    | some src =>
      match servedReq s src addr with
      | none => s
      | some r => modFs (serve s) (fun f => { f with issued := f.issued.erase r })

def execFarCacheAccess (source : Option Nat) (addr : Nat) (wdata : Option (List Byte)) (noalloc : Bool) (ecc : EccEvent) (s : State) :
    Host.Outcome State Fault Refusal := .next (farCacheAccess source addr wdata noalloc ecc s)

/-! ### WRITEBACK_TIMEOUT (R266, R478) -/

/-- Everything the far store holds lost: the bytes, the journals, retained sends and staged granules in its pools, and the error log
(R266, R275). -/
def loseFarStore (s : State) : State :=
  let far (a : Nat) : Bool := decide (fsBase ≤ a ∧ a < 0xFF000000000)
  let s1 := { s with
    mem := s.mem.filter (fun c => !far c.1)
    poison := s.poison.filter (fun l => !far (64 * l))
    parts := s.parts.map (fun x => (x.1, { x.2 with
      settle := { x.2.settle with journal := [], retention := [], pieces := [], settledPrint := none }
      ckpt := { x.2.ckpt with copy := x.2.ckpt.copy.map (fun c => { c with staged := [] }) } })) }
  modMgt (modFs s1 (fun f => { f with cache := [] })) (fun m => { m with log := [], dumpValid := [false, false] })

/-- WRITEBACK_TIMEOUT: the write-back of a reset is not complete after 2 ms. -/
def writebackTimeout (s : State) : State :=
  if !s.fs.draining then s
  else modFs (loseFarStore s) (fun f => { f with lost := true, draining := false })

def execWritebackTimeout (s : State) : Host.Outcome State Fault Refusal := .next (writebackTimeout s)

end Sys2Proof.Machine
end

