-- ==== Sys2Proof/Machine/Ports.lean ====
section
/-! DEFINITION. Renzia Link ports (R290 to R298, R311, R321 to R325, R562): training, retrains, lanes, silence, retry, and the
meanings of FLIT_RECEIVE, RETRY_REQUEST, RETRAIN_COMPLETE, PORT_TRAINED, LANE_FAULT, PORT_SILENT, TIMING_PARENT_LOST and
LNK_CFG_WRITE. -/

namespace Sys2Proof.Machine

/-- LNK_ERR of a port. -/
def lnkErr (p : Nat) : Nat := lnkReg p 0x10

/-- One second in reference cycles. -/
def oneSecond : Nat := 1250000000

/-! ### Losing a port (R298, R311, R321) -/

/-- The bound partitions with their tree contexts. -/
def boundParts (s : State) : List (Nat × Nat) :=
  (List.range 16).filterMap (fun q => (treeOf (partAt s q)).map (fun k => (q, k)))

/-- The timing tree of a LOCKED module with its parent port. -/
def timingParent (s : State) : Option (Nat × Nat) :=
  if !s.tick.locked then none
  else
    ((List.range 16).find? (fun k => (treeAt s k).valid && (treeAt s k).timing && !(treeAt s k).root)).map
      (fun k => (k, (treeAt s k).parent))

/-- TIMING_PARENT_LOST: a LOCKED module clears LOCKED, free-runs and aborts naming its parent (R311). -/
def timingParentLost (s : State) : State :=
  match timingParent s with
  | none => s
  | some (k, p) =>
    let s1 := { s with tick := { s.tick with locked := false } }
    let s2 := nameSuspect s1 k (portAt s1 p).partnerDev
    stepAbort s2 (treeAt s2 k).part causeSuspect (now s2) false false

def execTimingParentLost (s : State) : Host.Outcome State Fault Refusal := .next (timingParentLost s)

/-- Whether a job uses a port: its tree or its flows. -/
def usesPort (s : State) (q k p : Nat) : Bool := (treePorts (treeAt s k)).contains p || (flowPorts s q).contains p

/-- Whether a job has packets in flight that a port may carry. -/
def inFlight (s : State) (q p : Nat) : Bool :=
  !(portAt s p).replay.isEmpty
    || s.slots.any (fun x => x.q = q && s.flows.any (fun f => f.q = q && f.idx = x.flow && f.portMask.testBit p))

/-- Every job that uses a lost port aborts with cause SUSPECT and names the partner. -/
def suspectJobs (s : State) (p : Nat) (all : Bool) (except_ : Option Nat) : State :=
  (boundParts s).foldl (fun s x =>
    if some x.2 = except_ || !usesPort s x.1 x.2 p || !(all || inFlight s x.1 p) then s
    else stepAbort (nameSuspect s x.2 (portAt s p).partnerDev) x.1 causeSuspect (now s) false false) s

/-- A port goes DOWN: what it held on the wire is lost. A silent port aborts every job that uses it, any other the jobs
with packets in flight on it; a LOCKED module whose parent port it is unlocks. -/
def portDown (s : State) (p : Nat) (silent : Bool) : State :=
  let up := decide (2 ≤ (portAt s p).state)
  let lostParent := (timingParent s).filter (fun x => x.2 = p)
  let s1 := if up then suspectJobs s p silent (lostParent.map Prod.fst) else s
  let s2 := modPort (if up then regFlag s1 (lnkErr p) 57 else s1) p (fun x =>
    { x with
      state := 0
      wasUp := x.wasUp || up
      retryAsked := false
      replay := []
      retries := 0
      ctlWait := []
      txTail := []
      rxBytes := []
      owedReq := 0
      owedRsp := 0
      timeReqAt := none
      delayValid := false })
  let s3 := if silent then regFlag s2 (lnkErr p) 58 else s2
  if lostParent.isSome then timingParentLost s3 else s3

/-- PORT_SILENT: a port that is UP has received no valid flit for 10 µs (R298). -/
def portSilent (p : Nat) (s : State) : State := if portUp s p then portDown s p true else s

def execPortSilent (p : Nat) (s : State) : Host.Outcome State Fault Refusal := .next (portSilent p s)

/-! ### Lanes and retrains (R294, R296) -/

/-- The lanes in the stripe. -/
def activeLanes (x : Port) : Nat := (x.lanes.filter (fun l => l.state = 0)).length

/-- A port's retrain starts; a TIME exchange under way is discarded (R321). -/
def startRetrain (s : State) (p : Nat) : State :=
  regBump (modPort s p (fun x => { x with state := 3, retries := 0, retryAsked := false, timeReqAt := none })) (lnkErr p) 48 8 1

/-- Lanes taken out of the stripe and brought back at a retrain: a marked lane leaves it for its test, one that passed
returns a second or more after it. -/
def turnLane (now_ : Nat) (l : Lane) : Lane :=
  if l.state = 3 then l
  else if l.faulty then { l with state := 1, faulty := false, passedAt := none }
  else
    match l.passedAt with
    | some t => if t + oneSecond ≤ now_ then { l with state := 0, passedAt := none } else l
    | none => l

/-- The lanes that a retrain takes out, logged for their tests (R480). -/
def logLanes (s : State) (p : Nat) : State :=
  (withPos (portAt s p).lanes).foldl (fun s x =>
    if x.2.faulty && x.2.state ≠ 3 then logError s 0x09 (4 * p + x.1) (4 * p + x.1) 0xFF false [] else s) s

/-- The lanes as a retrain or a training leaves them. -/
def turnLanes (s : State) (p : Nat) : State :=
  modPort (logLanes s p) p (fun x => { x with lanes := x.lanes.map (turnLane s.cycle) })

/-- What a training or a retrain reports to the partner: the module's identifier, where one has been set, its port number and its FEC mode
(R297, R562). -/
def reportSelf (s : State) (p : Nat) : State :=
  emit s (.training p (if s.devIdValid then some s.devId else none) (portAt s p).fecReq)

/-- Every unacknowledged flit resent (R294). -/
def resendAll (s : State) (p : Nat) : State := (portAt s p).replay.foldl (fun s f => emit s (.flit p f.2)) s

/-- RETRAIN_COMPLETE: a retrain ends, and what LNK_CFG asks for is in effect (R323). A third failure within a second, or fewer than two lanes, takes the port DOWN. -/
def retrainComplete (p : Nat) (ok : Bool) (s : State) : State :=
  if (portAt s p).state ≠ 3 then s
  else if ok then
    let s1 := turnLanes s p
    if activeLanes (portAt s1 p) < 2 then portDown s1 p false
    else resendAll (reportSelf (modPort s1 p (fun x => { x with state := 2, fecMode := x.fecReq || x.partnerLR })) p) p
  else
    let fails := (portAt s p).retrainFails.filter (fun t => decide (s.cycle < t + oneSecond)) ++ [s.cycle]
    if 3 ≤ fails.length then
      let s1 := modPort s p (fun x => { x with retrainFails := [] })
      let s2 := (withPos (portAt s1 p).lanes).foldl (fun s x =>
        if x.2.state = 0 then queueTest s 4 (4 * p + x.1) false 0xFF else s) (logWith s1 0x0A 4 0 (4 * p) 0xFF [])
      portDown s2 p false
    else startRetrain (modPort s p (fun x => { x with retrainFails := fails })) p

def execRetrainComplete (p : Nat) (ok : Bool) (s : State) : Host.Outcome State Fault Refusal := .next (retrainComplete p ok s)

/-- PORT_TRAINED: the two ends have exchanged identifiers, ports and FEC modes, and the port comes UP (R297). Coming from
DOWN it starts with empty buffers and full credits; after a retrain it resends what is unacknowledged. -/
def portTrained (p partnerPort : Nat) (partnerDev : Option Nat) (partnerSwitch partnerLR : Bool) (s : State) : State :=
  let x := portAt s p
  if portCount s ≤ p || !x.enable || x.state = 2 || s.dev = .off then s
  else
    let s1 := turnLanes s p
    if activeLanes (portAt s1 p) < 2 then portDown s1 p false
    else
      let fresh := decide (x.state ≠ 3)
      let s2 := modPort s1 p (fun x =>
        { x with
          state := 2
          fecMode := x.fecReq || partnerLR
          partnerLR := partnerLR
          partnerPort := partnerPort % 16
          partnerDev := if partnerSwitch then 0 else partnerDev.getD 0 % 65536
          partnerSwitch := partnerSwitch
          txSeq := if fresh then 0 else x.txSeq
          rxSeq := if fresh then 0 else x.rxSeq
          creditReq := if fresh then 4096 else x.creditReq
          creditRsp := if fresh then 4096 else x.creditRsp
          txTail := if fresh then [] else x.txTail
          retrainFails := if fresh then [] else x.retrainFails })
      resendAll (reportSelf s2 p) p

def execPortTrained (p partnerPort : Nat) (partnerDev : Option Nat) (partnerSwitch partnerLR : Bool) (s : State) :
    Host.Outcome State Fault Refusal := .next (portTrained p partnerPort partnerDev partnerSwitch partnerLR s)

/-- LANE_FAULT: a lane has lost lock or exceeded its corrected-symbol ratio; it is marked, and a port that is UP retrains
to the narrower width. -/
def laneFault (p l : Nat) (s : State) : State :=
  match (portAt s p).lanes[l]? with
  | none => s
  | some x =>
    if x.state ≠ 0 || portCount s ≤ p then s
    else
      let s1 := modPort s p (fun y => { y with lanes := setNth y.lanes l { x with faulty := true } })
      if portUp s1 p then startRetrain s1 p else s1

def execLaneFault (p l : Nat) (s : State) : Host.Outcome State Fault Refusal := .next (laneFault p l s)

/-- LNK_CFG_WRITE (R323): ENABLE 0 holds the port DOWN; ENABLE from 0 to 1 starts its training. -/
def lnkCfgWrite (p : Nat) (v : Word) (s : State) : State :=
  if portCount s ≤ p then s
  else
    let en := v.getLsbD 0
    let was := (portAt s p).enable
    let s1 := modPort s p (fun x => { x with enable := en, fecReq := v.getLsbD 1 })
    if !en then (if (portAt s1 p).state = 0 then s1 else portDown s1 p false)
    else if was then s1
    else regBump (modPort s1 p (fun x => { x with state := 1 })) (lnkErr p) 48 8 1

def execLnkCfgWrite (p : Nat) (v : Word) (s : State) : Host.Outcome State Fault Refusal := .next (lnkCfgWrite p v s)

/-! ### Retry (R294) -/

/-- Replay entries acknowledged by an ACK: those up to it; whether there were any. -/
def ackReplay (x : Port) (ack : Nat) : Bool × Port :=
  match (withPos x.replay).find? (fun f => f.2.1 = ack) with
  | none => (false, x)
  | some f => (true, { x with replay := x.replay.drop (f.1 + 1), retries := 0 })

/-- Control slots that waited for room in the replay buffer sent; the fuel bounds their number. -/
def drainControl : Nat → State → Nat → State
  | 0, s, _ => s
  | fuel + 1, s, p =>
    match (portAt s p).ctlWait with
    | [] => s
    | c :: rest =>
      if 512 ≤ (portAt s p).replay.length then s
      else drainControl fuel (sendSymbol (modPort s p (fun x => { x with ctlWait := rest })) p c) p

/-- An acknowledgement taken. -/
def takeAck (s : State) (p ack : Nat) : State :=
  drainControl 512 (modPort s p (fun x => (ackReplay x ack).2)) p

/-- RETRY_REQUEST: the transmitter resends from the flit after ACK on; after 8 retries without progress it retrains. -/
def retryRequest (p ack : Nat) (s : State) : State :=
  if !portUp s p then s
  else
    let s1 := modPort s p (fun x => (ackReplay x ack).2)
    if 8 ≤ (portAt s1 p).retries then startRetrain s1 p
    else resendAll (modPort s1 p (fun x => { x with retries := x.retries + 1 })) p

def execRetryRequest (p ack : Nat) (s : State) : Host.Outcome State Fault Refusal := .next (retryRequest p ack s)

/-- A retry request sent, whose ACK names the last good flit. -/
def askRetry (s : State) (p : Nat) : State :=
  let s1 := modMon s (fun m => { m with retry := m.retry.put p (m.retry.at p 0 + 1) })
  sendFlit (regBump (modPort s1 p (fun x => { x with retryAsked := true })) (lnkErr p) 32 16 1) p 3 []

/-- How far a received SEQ lies ahead of the last one in order, modulo 4,096. -/
def seqAhead (x : Port) (seq : Nat) : Nat := (seq + 4096 - x.rxSeq) % 4096

/-- A flit with a good CRC: its acknowledgement and credits. -/
def takeCtrl (s : State) (p c : Nat) : State :=
  let s1 := takeAck s p (field c 12 12)
  modPort s1 p (fun x => { x with
    creditReq := min 4096 (x.creditReq + field c 26 8)
    creditRsp := min 4096 (x.creditRsp + field c 34 8) })

/-- A data or control flit in order: its packets or symbols are received; an idle flit carries the acknowledgement where
nothing else waits. -/
def acceptFlit (s : State) (p c : Nat) (body : List Byte) : State :=
  let s1 := takeCtrl (modPort s p (fun x => { x with rxSeq := field c 0 12, retryAsked := false })) p c
  let s2 :=
    if field c 24 2 = 1 then modPort s1 p (fun x => { x with rxSyms := x.rxSyms ++ (parseSlots body).filter (fun k => k.typ ≠ 0) })
    else modPort s1 p (fun x =>
      let r := takePackets 242 (x.rxBytes ++ body)
      { x with rxReady := x.rxReady ++ r.1, rxBytes := r.2 })
  if (nextOut s2 p).isNone then sendFlit s2 p 2 [] else s2

/-- The codewords of a flit counted: those corrected, with the symbols corrected on each lane, and those that are uncorrectable (R291, R324,
R325). -/
def countCodewords (s : State) (p : Nat) (cw : Codewords) : State :=
  match cw with
  | .clean => s
  | .corrected l =>
    let s1 := modMon (regBump s (lnkErr p) 0 16 1) (fun m => { m with fec := m.fec.put p (m.fec.at p 0 + 1) })
    (withPos (l.take 4)).foldl (fun s x => regBump s (lnkReg p (0x18 + 8 * x.1)) 0 32 x.2) s1
  | .uncorrectable => regBump s (lnkErr p) 16 16 1

/-- FLIT_RECEIVE: a flit arrives; a bad one, or a gap in SEQ, is discarded and asks for a retry (R293, R294). -/
def flitReceive (p : Nat) (cw : Codewords) (flit : List Byte) (s : State) : State :=
  if !portUp s p then s
  else
    let s0 := countCodewords s p cw
    let c := le flit 242 6
    let typ := field c 24 2
    let good := decide (cw ≠ .uncorrectable) && decide (flit.length = 256 ∧ le flit 248 8 = cvOf crc64we (flit.take 248))
    if !good then askRetry s0 p
    else if typ = 3 then retryRequest p (field c 12 12) (takeCtrl s0 p c)
    else
      let d := seqAhead (portAt s0 p) (field c 0 12)
      let gap := if typ = 2 then decide (1 ≤ d ∧ d < 2048) else decide (2 ≤ d ∧ d < 2048)
      if gap then (if (portAt s0 p).retryAsked then s0 else askRetry s0 p)
      else if typ = 2 then takeCtrl s0 p c
      else if d = 1 then acceptFlit s0 p c (flit.take 242)
      else s0

def execFlitReceive (p : Nat) (cw : Codewords) (flit : List Byte) (s : State) : Host.Outcome State Fault Refusal :=
  .next (flitReceive p cw flit s)

end Sys2Proof.Machine
end

