-- ==== Sys2Proof/Machine/Firing.lean ====
section
/-! DEFINITION. FIRE_DMA and FIRING_COMPLETE (R95, R131, R205 to R210, R220, R249, R254, R269, R382). -/

namespace Sys2Proof.Machine

/-! ### FIRE_DMA -/

/-- Descriptor k of a list at a near-store offset, with the state after its fetch: whether its line was poisoned (R254). -/
def fetchDesc (s : State) (t o : Nat) : Desc × State :=
  let a := tileBase t + o
  let s1 := nsTouch s a 64
  ({ off := o, bytes := readBytes s1.mem a 64, poisoned := spanPoisoned s1 a 64 }, s1)

/-- The n descriptors of a list, in order. -/
def fetchList (t o : Nat) : Nat → State → List Desc × State
  | 0, s => ([], s)
  | n + 1, s =>
    let d := fetchDesc s t o
    let r := fetchList t (o + 64) n d.2
    (d.1 :: r.1, r.2)

/-- FIRE_DMA: an idle engine takes its next firing and fetches its list; an empty list is at once complete. -/
def fireDma (t : Nat) (s : State) : State :=
  if !(tileAt s t).dma.isEmpty then s
  else
    match fireOf s t kindDma with
    | none => s
    | some x =>
      if !x.1.work then x.2.2
      else
        let l := fetchList t x.2.1.arg x.2.1.len x.2.2
        if l.1.isEmpty then finishFiring l.2 t x.1.actor
        else
          let run : DmaRun := { actor := some x.1.actor, spec := x.1.spec, tick := x.1.tick, descs := l.1 }
          startReserved (partNum s t) t (modTile l.2 t (fun y => { y with dma := y.dma ++ [run] }))

def execFireDma (t : Nat) (s : State) : Host.Outcome State Fault Refusal := .next (fireDma t s)

/-! ### FIRING_COMPLETE -/

/-- Buckets whose trigger is an actor of a tile. -/
def triggered (p : Part) (l a : Nat) : List Nat :=
  ((withPos (imageOf p).buckets).filter (fun b => b.2.trigTile = l && b.2.trigActor = a)).map Prod.fst

/-- One past the places of all triggers on the device (R383). -/
def nextAsked (s : State) : Nat := s.parts.foldl (fun n x => x.2.buckets.foldl (fun n r => max n (r.asked + 1)) n) 0

/-- The buckets an actor triggers join the exchanges waiting to open, in order (R382, R383). -/
def triggerBuckets (s : State) (q t : Nat) (f : Firing) : State :=
  let taken := f.work && f.status = stOk
  modPart s q (fun p =>
    { p with buckets := p.buckets ++ (withPos (triggered p (localOfTile p t) f.actor)).map (fun b =>
        { b := b.2, asked := nextAsked s + b.1, tick := f.tick, taken := taken }) })

/-- A firing of a layer that may yet repeat is remembered (R131). -/
def logFiring (s : State) (q t : Nat) (r : ActorRec) (f : Firing) : State :=
  if f.work && r.kind ≠ kindClose && (layerOf (partAt s q) r.layerSlot).isSome then
    modSched s t (fun c => { c with log := c.log ++ [(r.layerSlot, { f with finished := false, status := stOk })] })
  else s

/-- The firing leaves the running ones: an actor's oldest finished firing. -/
def removeFirst {α : Type} (c : α → Bool) : List α → List α
  | [] => []
  | x :: l => if c x then l else x :: removeFirst c l

/-- A confirmed firing's completion: its tokens leave, its guards learn of it, it counts, its buckets start, a GATE_CLOSE closes its
layer slot's stream (R95). -/
def settleFiring (s : State) (q t : Nat) (r : ActorRec) (f : Firing) (tokens : List (BitVec 128)) : State :=
  let s1 := sendTokens s t tokens
  let s2 := guardTokens s1 t f.actor
  let s3 := modActor s2 t f.actor (fun c => { c with completed := c.completed + 1 })
  let s4 := triggerBuckets (logFiring s3 q t r f) q t f
  let s5 := if r.gateClose then gateClose s4 t r.layerSlot else s4
  refresh (noteFinish s s5 t) t

/-- FIRING_COMPLETE: an actor's oldest finished firing ends. A speculative one's tokens go to the hold (R220); one that a
layer repeat ran again sends none. -/
def firingComplete (t a : Nat) (s : State) : State :=
  let mine (f : Firing) : Bool := f.actor = a && f.finished
  match partOfTile s t, actorRec s t a, (tileAt s t).sched.running.find? mine with
  | some q, some r, some f =>
    let s1 := modSched s t (fun c => { c with running := removeFirst mine c.running })
    let tokens := firingTokens s q t r f
    if f.rerun then
      let s2 := guardTokens s1 t a
      if r.gateClose then gateClose s2 t r.layerSlot else s2
    else if f.spec then
      modSched s1 t (fun c => { c with
        hold := c.hold ++ tokens.map (fun k => (a, k))
        specDone := c.specDone ++ [f] })
    else settleFiring s1 q t r f tokens
  | _, _, _ => s

def execFiringComplete (t actor : Nat) (s : State) : Host.Outcome State Fault Refusal := .next (firingComplete t actor s)

end Sys2Proof.Machine
end

