-- ==== Sys2Proof/Machine/Suspense.lean ====
section
/-! DEFINITION. The check of a speculation against its real slot-0 token (R221, R222), tokens as they reach a scoreboard (R206, R226), and
the meaning of TOKEN_ARRIVAL. -/

namespace Sys2Proof.Machine

/-! ### The check (R219 to R223) -/

/-- A speculative firing's marks taken off: its list, its body and its slots are those of any firing. -/
def unmarkSpec (s : State) (t a : Nat) : State :=
  let s1 := if specRun s t a then { s with slots := s.slots.map (fun x => if x.usage.ofTile t then { x with spec := false } else x) } else s
  let s2 := modSched s1 t (fun c => { c with
    running := c.running.map (fun f => if f.actor = a then { f with spec := false } else f) })
  modTile s2 t (fun x =>
    { x with
      dma := x.dma.map (fun d => if d.actor = some a then { d with spec := false } else d)
      vec := { x.vec with body := x.vec.body.map (fun b => if b.actor = a then { b with spec := false } else b) } })

/-- What a speculative firing withheld takes effect: its layer runs, its registers and reports, and a failed transfer's consequences. -/
def releaseHeld (s : State) (q t a : Nat) (r : ActorRec) : State :=
  let layer := (layerOf (partAt s q) r.layerSlot).map (fun _ => (q, r.layerSlot))
  let s1 := ((tileAt s t).sched.suspense.at a []).foldl (fun s h => applyHeld s t layer h) (layerRuns s t r true)
  modSched s1 t (fun c => { c with suspense := c.suspense.drop a })

/-- The real token is TAKEN: the firing is confirmed. One that still waits in its queue consumes its tokens when it is served; one that is
complete sends what it holds, and counts (R221). -/
def confirmSpec (s : State) (q t a : Nat) (r : ActorRec) : State :=
  let s0 := modActor s t a (fun c => { c with specOpen := false })
  if (tileAt s t).sched.ready.any (fun f => f.actor = a && f.spec) then
    modSched s0 t (fun c => { c with ready := c.ready.map (fun f => if f.actor = a then { f with spec := false } else f) })
  else
    let s1 := releaseHeld (unmarkSpec (guardRelease (consume s0 t a r) t a) t a) q t a r
    match (tileAt s t).sched.specDone.find? (fun f => f.actor = a) with
    | none =>
      match (tileAt s t).sched.running.find? (fun f => f.actor = a && f.spec && f.finished && f.status ≠ stOk) with
      | some f => failList s1 q t a f.status
      | none => s1
    | some f =>
      let held := ((tileAt s t).sched.hold.filter (fun x => x.1 = a)).map Prod.snd
      let s2 := modSched s1 t (fun c => { c with
        hold := c.hold.filter (fun x => x.1 ≠ a)
        specDone := c.specDone.filter (fun g => g.actor ≠ a) })
      let s3 := settleFiring s2 q t r { f with spec := false } held
      if f.status ≠ stOk then failList s3 q t a f.status else s3

/-- The real token is not TAKEN: the firing is cancelled, and an untaken one consumes the reserved tokens (R221). -/
def missSpec (s : State) (q t a : Nat) (r : ActorRec) : State :=
  let s1 := addCause (cancelSpec (regBump s (schReg q 0x30) 32 32 1) q t a) q 8
  modSched (guardRelease (consume s1 t a r) t a) t (fun c =>
    { c with running := c.running ++ [{
        actor := a
        tick := assignedTick (partAt s q) r
        work := false
        finished := true
        taken := List.replicate r.outCount false }] })

/-- The check of a speculation against its real slot-0 token (R221). -/
def checkSpec (s : State) (q t a : Nat) (r : ActorRec) : State :=
  let c := ctxOf s t a
  if !c.specOpen || c.counts.getD 0 0 < r.need.getD 0 0 then s
  else
    let s1 := regBump s (schReg q 0x30) 0 32 1
    if readsTaken s t a r then confirmSpec s1 q t a r else missSpec s1 q t a r

/-! ### TOKEN_ARRIVAL (R206, R226, R234) -/

/-- A token stops the tile (R206): EXTRA_TOKEN, array and engines as faults. -/
def extraToken (s : State) (t : Nat) : State :=
  let s1 := logError (regFlag s (tileReg t 0x780200) 14) 0x05 t t (partNum s t) true [1]
  tileFault (engineStop (queueInvalid (arrayStop s1 t) t) t) t

/-- A token counted on its slot, or a fault. `fromFlow` marks a TOKEN packet's. -/
def acceptToken (s : State) (t a slot : Nat) (taken : Bool) : State :=
  match partOfTile s t with
  | none => s
  | some q =>
    match actorRec s t a with
    | none => extraToken s t
    | some r =>
      let c := ctxOf s t a
      if decide (r.slots ≤ slot) || decide (r.firings ≤ c.fired) || decide (65535 ≤ c.counts.getD slot 0)
          || (!r.remote && !isFed s q t a slot) then extraToken s t
      else
        let s1 := modActor s t a (fun c =>
          { c with
            counts := setNth c.counts slot (c.counts.getD slot 0 + 1)
            takens := if slot = 0 then c.takens ++ [taken] else c.takens })
        refresh (checkSpec s1 q t a r) t

/-- TOKEN_ARRIVAL: a token under way reaches its tile's scoreboard, those between two units in the order sent (R26); one of another
abort epoch is discarded and counted (R226). -/
def tokenArrival (tok : BitVec 128) (s : State) : State :=
  let v := tok.toNat
  let t := tokenTile tok
  match takeOldest sameRoute (fun x => decide (x.2 = tok)) s.tokens with
  | none => s
  | some x =>
    let s1 := { s with tokens := x.2 }
    match partOfTile s t with
    | none => s1
    | some q =>
      if field v 64 16 ≠ (partAt s q).abortEpoch then dropStale s1
      else acceptToken (guardReached s1 x.1.1 t (field v 0 11)) t (field v 0 11) (field v 11 3) (v.testBit 14)

def execTokenArrival (tok : BitVec 128) (s : State) : Host.Outcome State Fault Refusal := .next (tokenArrival tok s)

end Sys2Proof.Machine
end

