-- ==== Sys2Proof/Machine/Packets.lean ====
section
/-! DEFINITION. Packets received (R222, R226, R253, R300 to R303, R315, R338, R339, R408, R416 to R420, R431, R439, R563): the
checks of R302, the journal, the replies, and the meanings of WRITE, READ_REQ, READ_DATA, ACK, TOKEN, DEPOSIT, FLOW_TIMEOUT and REGULATOR_ADMIT. -/

namespace Sys2Proof.Machine

/-! ### Arrival -/

/-- A packet taken from its port: its buffer's credits are owed to the sender (R295). What the wire brought has no poison marks. -/
def takePacket (s : State) (p : Nat) (k : Packet) : State :=
  let wire := { k with poison := [] }
  if p < 16 && (portAt s p).rxReady.contains wire then
    modPort s p (fun x =>
      { x with
        rxReady := x.rxReady.erase wire
        owedReq := if isReply k then x.owedReq else x.owedReq + packetCredits k
        owedRsp := if isReply k then x.owedRsp + packetCredits k else x.owedRsp })
  else s

/-- LNK_FABRIC and LNK_FABRIC2. -/
def lnkFabric : Nat := ctl 0x600
def lnkFabric2 : Nat := ctl 0x608

/-- Check 1 of R302. -/
def malformed (k : Packet) : Bool :=
  decide (k.typ = 0 ∨ 6 < k.typ) || k.reserved ≠ 0 || decide (2048 < k.length)
    || (k.typ ≠ 2 && k.data.length ≠ k.length) || (k.comp && k.typ ≠ 2 && !wholeRecords 1024 k.data)

/-- The flow a packet came on (check 2): row operand p is a port, or 16 + q for a LOOPBACK packet into partition q. With no identifier set
no packet is accepted on a port (R562). -/
def arrivalFlow (s : State) (p : Nat) (k : Packet) : Option Flow :=
  if k.dstDev ≠ s.devId then none
  else if p < 16 then
    if !s.devIdValid then none
    else (List.range 16).findSome? (fun q => s.flows.find? (fun f => f.q = q && f.idx = k.flow && f.cfg.kind = 1 && f.dstDev = k.srcDev))
  else if k.srcDev ≠ s.devId then none
  else s.flows.find? (fun f => f.q = p - 16 && f.idx = k.flow && f.cfg.kind = 2)

/-- Whether epoch e is newer than c (R431). -/
def newerEpoch (e c : Nat) : Bool :=
  let d := (e + 2 ^ 32 - c) % 2 ^ 32
  decide (1 ≤ d ∧ d < 2 ^ 31)

/-- The open slot that a reply names. -/
def replySlot (s : State) (f : Flow) (k : Packet) : Option ReqSlot :=
  s.slots.find? (fun x => x.num = k.slot && x.gen = k.gen && x.q = f.q && x.flow = f.idx)

/-- Whether a packet is a shadow's request to its member, or the answer to one (R438): it carries an abort epoch that its receiver
does not share yet. -/
def isShadowCall (s : State) (f : Flow) (k : Packet) : Bool :=
  (k.typ = 1 && k.addr = shadowAddr && k.length = 0)
    || (k.typ = 4 && (match (replySlot s f k).map ReqSlot.usage with | some (.shadow _) => true | _ => false))

/-- Checks 1 to 5 of R302, then what the packet's type does. A unit that a parity error has stopped takes no packet with a trailer, and a
running value whose parity is wrong is met as the packet takes it up (R347, R351). -/
def receive (s : State) (p typ : Nat) (k : Packet) (go : State → Nat → Flow → State) : State :=
  if k.typ ≠ typ && !malformed k then s
  else
    let s0 := takePacket s p k
    if malformed k then regBump s0 lnkFabric2 0 16 1
    else
      match arrivalFlow s0 p k with
      | none => regBump s0 lnkFabric 48 16 1
      | some f =>
        let x := partAt s0 f.q
        if isFencedPart x then regBump s0 lnkFabric 0 16 1
        else if isBound x && k.jobEpoch ≠ jobEpochOf x then
          if newerEpoch k.jobEpoch (jobEpochOf x) then
            stepAbort (regBump s0 lnkFabric 16 16 1) f.q causeEpoch (now s0) false false
          else regBump s0 lnkFabric 0 16 1
        else if k.abortEpoch ≠ x.abortEpoch && !isShadowCall s0 f k then
          let s1 := regBump s0 lnkFabric 32 16 1
          match (if isReply k then replySlot s1 f k else none) with
          | some r => releaseSlot s1 r.num
          | none => s1
        else if k.cval && p < 16 && cvuStopped s0 (rxUnit p) then s0
        else if k.cval && p < 16 && k.typ ≠ 3 && f.rxRun.isSome && runBad s0 (rxUnit p) f.q then cvuParity s0 (rxUnit p) f.q
        else go s0 f.q f

/-! ### Replies -/

/-- A reply to a request: READ_DATA (3) or ACK (4), with its own trailer under CVU_MODE 1, made in the transmit unit of the port it goes by;
`poison` names the parts of its data from poisoned lines. -/
def replyPacket (s : State) (p : Nat) (f : Flow) (k : Packet) (typ status : Nat) (data : List Byte) (poison : List (Nat × Nat)) :
    Packet × State :=
  let x := partAt s f.q
  let cval := decide (typ = 3) && linkChecked f
  let t := if cval then linkStream s (txUnit p) f.q none data true else (0, 0, s)
  ({ typ := typ
     comp := false
     cval := cval
     spec := k.spec
     last := true
     flow := f.cfg.remoteFlow
     srcDev := s.devId
     dstDev := k.srcDev
     jobEpoch := if isBound x then jobEpochOf x else k.jobEpoch
     abortEpoch := x.abortEpoch
     tick := k.tick
     slot := k.slot
     gen := k.gen
     length := data.length
     status := status
     addr := k.addr
     reserved := 0
     data := data
     trailer := word t.2.1
     poison := poison }, t.2.2)

/-- A request answered: on the port it came by, or another of the flow where that is not UP. -/
def reply (s : State) (p : Nat) (f : Flow) (k : Packet) (typ status : Nat) (data : List Byte) (poison : List (Nat × Nat)) : State :=
  let port := if 16 ≤ p || portUp s p then p else portFor s f
  let r := replyPacket s port f k typ status data poison
  if 16 ≤ p then emit r.2 (.packet (16 + f.cfg.dstPart) r.1)
  else modPort r.2 port (fun x => { x with sendRsp := x.sendRsp ++ [{ q := f.q, flow := f.idx, pkt := r.1 }] })

/-- An acknowledgement. -/
def answer (s : State) (p : Nat) (f : Flow) (k : Packet) (status : Nat) : State := reply s p f k 4 status [] []

/-- Check 7 of R302: the status a request ends with at this side, of n bytes at its address (R251, R303). -/
def requestStatus (s : State) (q a n : Nat) : Nat :=
  let x := partAt s q
  if partGone x then stTargetReset
  else if n = 0 then stOk
  else ((decideFail (extentFails s x false a n 0)).map Prod.fst).getD stOk

/-! ### Trailers (R338, R339) -/

/-- The stream of a message received, through the receive unit of its port: whether it has shown a mismatch, and the state with the flow's
running value, the unit's slot and counts and the log entry of a first mismatch. A READ_DATA is a message of its own. -/
def checkTrailer (s : State) (p q : Nat) (f : Flow) (k : Packet) : Bool × State :=
  if !k.cval || 16 ≤ p then (false, s)
  else
    let u := rxUnit p
    let alone := decide (k.typ = 3)
    let was := !alone && f.rxBad
    let r := linkStream s u q (if alone then none else f.rxRun) k.data k.last
    let bad := was || !trailerMatches r.2.1 k.trailer.toNat
    let s1 := if bad && !was then logEntry (cvMismatch r.2.2 u q) (Config.logCode 4) p q [k.flow, k.srcDev] else r.2.2
    let s2 := if alone then s1 else modFlow s1 q f.idx (fun f => { f with
      rxRun := if k.last then none else some (word r.1)
      rxPort := if k.last then none else some p
      rxBad := !k.last && bad })
    (bad, s2)

/-- The lines a message writes, kept so that a mismatch poisons them all. -/
def noteLines (s : State) (q : Nat) (f : Flow) (k : Packet) (bad : Bool) : State :=
  let ls := if k.cval then f.rxLines ++ linesOf k.addr k.length else linesOf k.addr k.length
  let s1 := if bad then ls.foldl poisonLine s else s
  modFlow s1 q f.idx (fun f => { f with rxLines := if k.last || !k.cval then [] else ls })

/-! ### The journal (R415 to R420) -/

/-- Whether [a, a + n) touches a region k of the partition. -/
def touchesRegion (p : Part) (k a n : Nat) : Bool :=
  let r := regionOf p k
  decide (0 < r.2 ∧ a < r.1 + r.2 ∧ r.1 < a + n)

/-- Whether a write lands in a hold (R416). -/
def landsInHold (p : Part) (a n : Nat) : Bool :=
  (List.range 2).any (fun k => touchesRegion p (2 + k) a n && decide (holdAddr p k 0 ≤ a))

/-- Whether a message is journaled: not a write into the partition's own version, escrow or narrow regions. -/
def journals (p : Part) (k : Packet) : Bool :=
  isBound p && !(k.typ = 1 && (List.range 5).any (fun i => touchesRegion p i k.addr k.length))

/-- The tick offset of a packet's assigned tick. -/
def packetOffset (s : State) (p : Part) (k : Packet) : Nat := offsetOf p (fullTick (now s) k.tick)

/-- What a message carries, without the tick and the abort epoch that a token takes from its attempt (R205). -/
def msgBody (k : Packet) : List Byte :=
  if k.typ = 5 then k.data.take 4 ++ List.replicate 3 0 ++ slice k.data 7 1 ++ [0, 0] ++ k.data.drop 10 else k.data

/-- The journal's entry for a message that the present attempt has not met yet. -/
def journalEntry (s : State) (p : Part) (f : Flow) (k : Packet) : Option (Nat × Msg) :=
  (withPos p.settle.journal).find? (fun x =>
    !x.2.acked && (x.2.flow = f.idx || (decide (0 < p.join.qualify) && x.2.flow = p.join.memberFlow))
      && x.2.off = packetOffset s p k && x.2.pkt.typ = k.typ && x.2.pkt.addr = k.addr && x.2.pkt.comp = k.comp && msgBody x.2.pkt = msgBody k)

/-- The message at place i of the journal has been met. -/
def meetEntry (s : State) (q i : Nat) : State :=
  modSettle s q (fun x => { x with journal := x.journal.modify i (fun m => { m with acked := true }) })

/-- Whether the journal has no room for a flow's packet: entries, the partition's share, or the largest message (R420). -/
def journalFull (s : State) (p : Part) (flow : Nat) (k : Packet) : Bool :=
  decide (entryLimit s ≤ wholeMessages p.settle.journal ∨ messageLimit s < openBytes p.settle.journal flow + k.data.length
    ∨ p.quota.getD 0 0 * 2 ^ 20 < msgBytes p.settle.journal + k.data.length)

/-- Where a journal entry lies in the journal pool (R275, R416). -/
def journalPlace (s : State) (q flow off idx : Nat) : Nat := poolAddr s 0 q (flow * 2 ^ 40 + off * 2 ^ 20 + idx)

/-- A message entered in the journal. -/
def enterJournal (s0 : State) (q : Nat) (f : Flow) (k : Packet) : State :=
  let p := partAt s0 q
  let s := fcUseSpan s0 (journalPlace s0 q f.idx (packetOffset s0 p k) (countAt f.rcvdIdx (packetOffset s0 p k))) (32 + k.length) true false
  let off := packetOffset s p k
  let m : Msg := {
    flow := f.idx
    step := p.ctx.step
    off := off
    idx := countAt f.rcvdIdx off
    tick := fullTick (now s) k.tick
    pkt := k
    acked := true }
  modFlow (modSettle s q (fun x => { x with journal := x.journal ++ [m] })) q f.idx (fun f => { f with rcvdIdx := countUp f.rcvdIdx off })

/-- A member forwards to its shadow what it accepts, from the step after the copy was completed (R439). -/
def forwardToShadow (s : State) (q : Nat) (f : Flow) (k : Packet) : State :=
  let p := partAt s q
  match p.join.serves, p.join.servedStep with
  | some g, some st =>
    if g = f.idx || p.ctx.step ≤ st || !(journals p k || landsInHold p k.addr k.length) then s
    else enqueue s q g k.typ k.addr (fullTick (now s) k.tick) k.data k.poison k.comp false false .send
  | _, _ => s

/-! ### What a WRITE does -/

/-- Data that came in a packet stored, their poisoned parts as poisoned lines (R254). -/
def landData (s : State) (k : Packet) : State :=
  k.poison.foldl (fun s x => poisonSpan s (k.addr + x.1) x.2) (spanWrite s k.addr k.data)

/-- Bytes of a whole copy to a shadow: the settled version, each escrow copy, each hold (R439). -/
def copyBytes (p : Part) : Nat :=
  12 * shardSize p + ((List.range 2).map (fun k => 12 * ownerParams p k + 132 * ownerBlocks p k)).foldl (· + ·) 0

/-- The bytes of a shadow's copy counted as they land in the settled version or an escrow (R439). -/
def countCopy (s : State) (q a n : Nat) : State :=
  let p := partAt s q
  let v := p.settle.settledVer
  if isShadowing p && ((touchesRegion p v a n && decide (versionBase p v + 65536 ≤ a))
      || (List.range 2).any (fun k => touchesRegion p (2 + k) a n && decide (escrowBase p k + 65536 ≤ a))) then
    modJoin s q (fun j => { j with copied := j.copied + n, copyDone := j.copyDone || decide (copyBytes p ≤ j.copied + n) })
  else s

/-- A member's tick fingerprint, written to mailbox slot 4 of its shadow (R439, R440). -/
def notePrint (s : State) (q a : Nat) : State :=
  let p := partAt s q
  if isShadowing p && a = mailAddr p 4 then
    let m := readBytes s.mem a 16
    modJoin s q (fun j => { j with peerPrints := j.peerPrints ++ [(le m 0 8, le m 8 8)] })
  else s

/-- The parts of the holds that a forward write reaches noted with its stamped tick (R422). -/
def noteHold (s : State) (q : Nat) (k : Packet) : State :=
  (List.range 2).foldl (fun s i =>
    let p := partAt s q
    let base := holdAddr p i 0
    let lo := max k.addr base
    let hi := min (k.addr + k.data.length) (base + 132 * ownerBlocks p i)
    if hi ≤ lo then s
    else modEscrow s q (2 + i) (fun e => { e with arrived := e.arrived ++ [(lo - base, hi - base, fullTick (now s) k.tick)] })) s

/-- A WRITE's data stored, poisoned as they came, and wholly where its message has shown a mismatch. -/
def storeWrite (s : State) (q : Nat) (f : Flow) (k : Packet) (bad : Bool) : State :=
  let s1 := noteLines (noteHold (landData (passCatchUp (shadowCount s q k.addr k.data) q k.addr k.data.length) k) q k) q f k bad
  notePrint (countCopy s1 q k.addr k.length) q k.addr

/-- A token of a packet delivered to its tile's scoreboard: one whose tile is not the partition's faults it. -/
def deliverToken (s : State) (q : Nat) (data : List Byte) : State :=
  let v := le data 0 16
  let t := field v 16 10
  if partOfTile s t ≠ some q then partFault s q else acceptToken s t (field v 0 11) (field v 11 3) (v.testBit 14)

/-! ### Requests served (R222, R271, R273, R303) -/

/-- A READ_REQ's data sent, with the marks of the poisoned lines they come from. -/
def serveRead (s : State) (p : Nat) (f : Flow) (k : Packet) : State :=
  let x := spanFetch s k.addr k.length false
  reply x.2.2 p f k 3 stOk x.1 (poisonedParts s k.addr k.length)

/-- What a request does once it is served. -/
def requestEffect (s : State) (q : Nat) (f : Flow) (k : Packet) (bad : Bool) : State :=
  if k.typ = 1 then storeWrite s q f k bad
  else if k.typ = 5 then (if bad then partFault s q else deliverToken s q k.data)
  else if bad then blockFault s q (field k.addr 0 16) else depositReceive s q k

/-- A request served: a read is answered with its data; any other enters the journal, has its effect, and is acknowledged. -/
def serveNow (s : State) (q : Nat) (v : Served) : State :=
  match flowAt s q v.flow with
  | none => s
  | some f =>
    if v.pkt.typ = 2 then serveRead s v.port f v.pkt
    else
      let s1 := if journals (partAt s q) v.pkt then enterJournal s q f v.pkt else s
      answer (forwardToShadow (requestEffect s1 q f v.pkt v.bad) q f v.pkt) v.port f v.pkt stOk

/-- The far-store accesses that serving a request makes: its journal entry, and what it reads or writes there. -/
def servedSpans (s : State) (q : Nat) (f : Flow) (k : Packet) : List (Nat × Nat) :=
  let p := partAt s q
  (if k.typ ≠ 2 && journals p k then [(journalPlace s q f.idx (packetOffset s p k) (countAt f.rcvdIdx (packetOffset s p k)), 32 + k.length)]
    else [])
    ++ farSpans (if k.typ = 1 || k.typ = 2 then [(k.addr, k.length)] else [])

/-- Whether a request that waits may be served: its far-store requests have entered, and a read finds a fabric slot of the server. -/
def servedReady (s : State) (q : Nat) (o : RegOp) : Bool :=
  match o.served with
  | none => false
  | some v => opReady s q o && (decide (v.pkt.typ ≠ 2) || decide (slotsInUse s ≤ 524288))

/-- The requests of other modules that may be served now, in the order they came; the fuel bounds them. -/
def serveReady : Nat → State → Nat → State
  | 0, s, _ => s
  | fuel + 1, s, q =>
    match (partAt s q).regOps.find? (servedReady s q) with
    | none => s
    | some o => serveReady fuel ((o.served.map (serveNow (dropOp s q o.id) q)).getD s) q

/-- A request that has passed the checks of R302 comes to be served: at once where it makes no far-store request and needs no slot that
is not free, else once its requests have entered. -/
def serve (s : State) (q : Nat) (f : Flow) (v : Served) : State :=
  let spans := if (partAt s q).image.isNone then [] else servedSpans s q f v.pkt
  if spans.isEmpty && (decide (v.pkt.typ ≠ 2) || decide (slotsInUse s < 524288)) then serveNow s q v
  else
    let o : RegOp := { id := (partAt s q).nextOp, engine := engRemote, spans := spans, served := some v }
    serveReady 1 (makeOp s q o) q

/-- A request accepted (R302, R416, R419): its trailer is checked; a message that the journal holds is acknowledged and counted, one that it
has no room for aborts unanswered, any other is served. -/
def accept (s : State) (p q : Nat) (f : Flow) (k : Packet) : State :=
  let t := checkTrailer s p q f k
  let x := partAt s q
  let v : Served := { port := p, flow := f.idx, bad := t.1, pkt := k }
  if !journals x k then serve t.2 q f v
  else
    match journalEntry s x f k with
    | some (i, _) => answer (regBump (meetEntry t.2 q i) (updReg q 0x60) 48 16 1) p f k stOk
    | none => if journalFull s x f.idx k then messageFull t.2 q 4 else serve t.2 q f v

/-- REGULATOR_ADMIT: a partition's oldest waiting request, of at most one 256-byte unit, enters when its bucket covers it; the requests of
other modules that waited for it are served, and the checkpoint engine issues what it can (R273, R459). -/
def regulatorAdmit (q : Nat) (s : State) : State :=
  match enterOne s q with
  | none => s
  | some s1 => issueObjects 5 (serveReady (partAt s1 q).regOps.length s1 q) q

def execRegulatorAdmit (q : Nat) (s : State) : Host.Outcome State Fault Refusal := .next (regulatorAdmit q s)

/-! ### WRITE -/

/-- A shadow asks to be served (R438): one at a time. -/
def serveShadow (s : State) (p q : Nat) (f : Flow) (k : Packet) : State :=
  if (partAt s q).join.serves.isSome || f.cfg.kind ≠ 1 then answer s p f k stNoResource
  else answer (modJoin s q (fun j => { j with serves := some f.idx, served := 0, servedStep := none })) p f k stOk

/-- WRITE. -/
def writePacket (p : Nat) (k : Packet) (s : State) : State :=
  receive s p 1 k (fun s q f =>
    if isShadowCall s f k then serveShadow s p q f k
    else
      let st := requestStatus s q k.addr k.length
      if st ≠ stOk then answer s p f k st else accept s p q f k)

def execWrite (p : Nat) (k : Packet) (s : State) : Host.Outcome State Fault Refusal := .next (writePacket p k s)

/-! ### READ_REQ -/

/-- DEV_FD_TAG as a register reads. -/
def fdTagBytes (s : State) : List Byte := toLe 8 s.fdTag.toNat

/-- READ_REQ: served with READ_DATA; of the control window, only DEV_FD_TAG (R408). -/
def readReq (p : Nat) (k : Packet) (s : State) : State :=
  receive s p 2 k (fun s q f =>
    if k.addr = fdTagAddr && k.length = 8 then reply s p f k 3 stOk (fdTagBytes s) []
    else
      let st := requestStatus s q k.addr k.length
      if st ≠ stOk then reply s p f k 3 st [] [] else serve s q f { port := p, flow := f.idx, pkt := k })

def execReadReq (p : Nat) (k : Packet) (s : State) : Host.Outcome State Fault Refusal := .next (readReq p k s)

/-! ### Replies received -/

/-- Check 6: the slot a reply ends, or a late reply. -/
def withSlot (s : State) (q : Nat) (f : Flow) (k : Packet) (go : State → ReqSlot → State) : State :=
  match replySlot s f k with
  | none => regBump s (schReg q 0x38) 32 32 1
  | some x => go (releaseSlot s x.num) x

/-- A read's data kept with the descriptor whose stream they are part of (R342). -/
def keepStream (s : State) (t k at_ : Nat) (data : List Byte) : State :=
  modDesc s t k (fun x => if (descOf x.bytes).check then { x with got := x.got ++ [(at_, data)] } else x)

/-- The data of a read land where it was to put them. -/
def landRead (s : State) (p q : Nat) (f : Flow) (k : Packet) (u : SlotUse) : State :=
  match u with
  | .read t i dst at_ =>
    if k.status ≠ stOk then failUse s u k.status
    else
      let x := checkTrailer s p q f k
      let s1 := landData (keepStream x.2 t i at_ k.data) { k with addr := dst }
      if x.1 then poisonSpan s1 dst k.data.length else s1
  | .trailer t i =>
    if k.status ≠ stOk then failUse s u k.status
    else modDesc (checkTrailer s p q f k).2 t i (fun x => { x with trailer := le k.data 0 8 })
  | .fdTag h seq partner => if k.status = stOk && k.data.length = 8 then bindTag s h seq partner (le k.data 0 8) else bindTimeout s h seq
  | _ => s

/-- READ_DATA. -/
def readData (p : Nat) (k : Packet) (s : State) : State :=
  receive s p 3 k (fun s q f => withSlot s q f k (fun s x => landRead s p q f k x.usage))

def execReadData (p : Nat) (k : Packet) (s : State) : Host.Outcome State Fault Refusal := .next (readData p k s)

/-- Outbound retention notes that a message was acknowledged (R417). -/
def retentionAcked (s : State) (q : Nat) (x : ReqSlot) : State :=
  match x.ident with
  | none => s
  | some (off, n) => modSettle s q (fun y => { y with retention := y.retention.map (fun m =>
      if m.flow = x.flow && m.off = off && m.idx = n then { m with acked := true } else m) })

/-- A request's acknowledgement: a shadow's request has its answer, a DEPOSIT refused aborts, a transfer takes the status. -/
def endRequest (s : State) (k : Packet) (x : ReqSlot) : State :=
  match x.usage with
  | .shadow q => shadowAnswer s q k.status k.abortEpoch
  | .deposit q _ => if k.status = stOk then s else stepAbort s q causeTransfer (now s) false false
  | u => if k.status = stOk then s else failUse s u k.status

/-- ACK. -/
def ackPacket (p : Nat) (k : Packet) (s : State) : State :=
  receive s p 4 k (fun s q f => withSlot s q f k (fun s x =>
    endRequest (if k.status = stOk then retentionAcked s q x else s) k x))

def execAck (p : Nat) (k : Packet) (s : State) : Host.Outcome State Fault Refusal := .next (ackPacket p k s)

/-! ### TOKEN and DEPOSIT -/

/-- TOKEN. -/
def tokenPacket (p : Nat) (k : Packet) (s : State) : State :=
  receive s p 5 k (fun s q f =>
    if partGone (partAt s q) then answer s p f k stTargetReset
    else if k.length ≠ 16 then answer s p f k stBadLength
    else accept s p q f k)

def execToken (p : Nat) (k : Packet) (s : State) : Host.Outcome State Fault Refusal := .next (tokenPacket p k s)

/-- DEPOSIT. -/
def depositPacket (p : Nat) (k : Packet) (s : State) : State :=
  receive s p 6 k (fun s q f =>
    if partGone (partAt s q) then answer s p f k stTargetReset
    else accept s p q f k)

def execDeposit (p : Nat) (k : Packet) (s : State) : Host.Outcome State Fault Refusal := .next (depositPacket p k s)

/-! ### FLOW_TIMEOUT (R301) -/

/-- A timed-out request ends: a transfer takes TIMEOUT, the member of a silent shadow stops serving it, any other message of the job
aborts the step. -/
def timeoutUse (s : State) (x : ReqSlot) : State :=
  match x.usage with
  | .deposit q _ => stepAbort s q causeTimeout (now s) false false
  | .send =>
    if (partAt s x.q).join.serves = some x.flow then modJoin s x.q (fun j => { j with serves := none, served := 0, servedStep := none })
    else stepAbort s x.q causeTimeout (now s) false false
  | u => failUse s u stTimeout

/-- FLOW_TIMEOUT: a held slot's reply has not come in time. A checked message partly sent ends with it, its running value discarded (R347). -/
def flowTimeout (n : Nat) (s : State) : State :=
  match s.slots.find? (fun x => x.num = n) with
  | none => s
  | some x =>
    let gone (o : OutPkt) : Bool := o.pkt.slot = n && o.pkt.gen = x.gen && o.q = x.q && o.flow = x.flow
    let s1 := releaseSlot s n
    let s2 := { s1 with ports := s1.ports.map (fun y => (y.1, { y.2 with sendReq := y.2.sendReq.filter (fun o => !gone o) })) }
    let s3 := modFlow s2 x.q x.flow (fun f => { f with
      queue := if f.txRun.isSome then (f.queue.dropWhile (fun o => !o.pkt.last)).drop 1 else f.queue
      txRun := none
      txPort := none })
    sourceLost (timeoutUse s3 x) x.q x.flow

def execFlowTimeout (n : Nat) (s : State) : Host.Outcome State Fault Refusal := .next (flowTimeout n s)

end Sys2Proof.Machine
end

