-- ==== Sys2Proof/Machine/Symbols.lean ====
section
/-! DEFINITION. Control symbols received (R304, R308 to R314, R431, R439): their checks and roles, and the meanings of UPWARD_TICK,
DOWNWARD_TICK, ABORT_SYMBOL, FENCE_SYMBOL, TIME_REQ_SEND, TIME_REQ, TIME_RSP and PERIOD_SYMBOL. -/

namespace Sys2Proof.Machine

/-- Whether slot epoch e is newer than c, modulo 2^16 (R304). -/
def newerEpoch16 (e c : Nat) : Bool :=
  let d := (e + 65536 - c % 65536) % 65536
  decide (1 ≤ d ∧ d < 2 ^ 15)

/-- Whether a symbol's CRC is right. -/
def symOk (c : CtlSlot) : Bool := decide (field c.sym.toNat 48 16 = symCrc (field c.sym.toNat 0 48))

/-- A symbol taken from its port. -/
def takeSymbol (s : State) (p : Nat) (c : CtlSlot) : State :=
  if (portAt s p).rxSyms.contains c then modPort s p (fun x => { x with rxSyms := x.rxSyms.erase c }) else s

/-- The checks of R304 and the role of R308, then what the symbol does with its tree context. -/
def receiveSymbol (s : State) (p typ : Nat) (c : CtlSlot) (role : State → TreeCtx → Bool) (go : State → Nat → State) : State :=
  if c.typ ≠ typ && c.typ < 7 then s
  else
    let s0 := takeSymbol s p c
    let k := c.tree
    let x := treeAt s0 k
    if 7 ≤ c.typ then regBump s0 lnkFabric2 0 16 1
    else if !symOk c then regBump s0 lnkFabric2 16 16 1
    else if !x.valid then regBump s0 lnkFabric 0 16 1
    else if typ ≠ 3 && c.epoch ≠ x.epoch % 65536 then
      if newerEpoch16 c.epoch x.epoch then stepAbort (regBump s0 lnkFabric 16 16 1) x.part causeEpoch (now s0) false false
      else regBump s0 lnkFabric 0 16 1
    else if !role s0 x then regBump s0 lnkFabric 48 16 1
    else go s0 k

/-- Roles: a child port, the parent port, any port. -/
def isChildPort (p : Nat) (_ : State) (x : TreeCtx) : Bool := decide (p < 16) && x.childMask.getLsbD p
def isParentPort (p : Nat) (_ : State) (x : TreeCtx) : Bool := !x.root && decide (x.parent = p)
def anyPort (_ : State) (_ : TreeCtx) : Bool := true

/-- The first symbol of the timing tree from its parent disciplines a module bound to it. -/
def lockOn (s : State) (k : Nat) : State :=
  if (treeAt s k).timing && s.tick.armed then { s with tick := { s.tick with locked := true, armed := false } } else s

/-! ### TICK (R305, R308) -/

/-- UPWARD_TICK: a child's vote; one for a tick already sent for is late. -/
def upwardTick (p : Nat) (c : CtlSlot) (s : State) : State :=
  receiveSymbol s p 1 c (isChildPort p) (fun s k =>
    let x := treeAt s k
    let t := fullTick (now s) (field c.sym.toNat 0 24)
    if x.sentAny && t ≤ x.sentTick then regBump s lnkFabric2 32 8 1
    else
      sendVotes 64 (modTree s k (fun x =>
        { x with got := x.got ++ [(t, p, BitVec.ofNat 8 (field c.sym.toNat 24 8))] })) k)

def execUpwardTick (p : Nat) (c : CtlSlot) (s : State) : Host.Outcome State Fault Refusal := .next (upwardTick p c s)

/-- DOWNWARD_TICK: the result of a tick, forwarded to the children at once and applied (R427). -/
def downwardTick (p : Nat) (c : CtlSlot) (s : State) : State :=
  receiveSymbol s p 1 c (isParentPort p) (fun s k =>
    takeResult (lockOn s k) k (fullTick (now s) (field c.sym.toNat 0 24)) (BitVec.ofNat 8 (field c.sym.toNat 24 8)))

def execDownwardTick (p : Nat) (c : CtlSlot) (s : State) : Host.Outcome State Fault Refusal := .next (downwardTick p c s)

/-! ### ABORT and FENCE (R312 to R314) -/

/-- An abort passed on by a partition with no step to abort. -/
def passAbort (s : State) (q cause a : Nat) : State :=
  let p := partAt s q
  modPart (flood s q (abortSlot p p.abortEpoch a cause)) q (fun p =>
    { p with
      aborted := some (p.abortEpoch, a)
      abortEpoch := next16 p.abortEpoch })

/-- An earlier tick of the recorded abort, adopted and flooded: the purge extends to it, and a replay that has begun is given up for the one
that follows the earlier tick (R313). -/
def adoptAbort (s : State) (q cause a : Nat) : State :=
  let p := partAt s q
  let s1 := flood s q (abortSlot p ((p.aborted.map Prod.fst).getD 0) a cause)
  if p.state = .aborting || p.state = .held then extendAbort s1 q a
  else
    let s2 := modPart s1 q (fun p => { p with aborted := p.aborted.map (fun x => (x.1, a)) })
    if p.state = .running then beginPurge s2 q a false false else s2

/-- ABORT_SYMBOL. -/
def abortSymbol (p : Nat) (c : CtlSlot) (s : State) : State :=
  receiveSymbol s p 2 c anyPort (fun s k =>
    let q := (treeAt s k).part
    let x := partAt s q
    let a := fullTick (now s) (field c.sym.toNat 0 24)
    let cause := field c.sym.toNat 24 8
    let e := field c.sym.toNat 32 16
    if e = x.abortEpoch then
      (if x.state = .running || x.state = .held || x.state = .aborting then doAbort s q cause a false false else passAbort s q cause a)
    else
      match x.aborted with
      | some (e0, a0) => if e = e0 && a < a0 then adoptAbort s q cause a else regBump s lnkFabric2 40 8 1
      | none => regBump s lnkFabric2 40 8 1)

def execAbortSymbol (p : Nat) (c : CtlSlot) (s : State) : Host.Outcome State Fault Refusal := .next (abortSymbol p c s)

/-- FENCE_SYMBOL: forwarded once; it fences a module that it names with an epoch newer than its own. -/
def fenceSymbol (p : Nat) (c : CtlSlot) (s : State) : State :=
  receiveSymbol s p 3 c anyPort (fun s k =>
    let q := (treeAt s k).part
    let dev := field c.sym.toNat 0 16
    let epoch := field c.sym.toNat 16 32
    if s.fencesSeen.contains (dev + 65536 * q, epoch) then s
    else
      let s1 := flood { s with fencesSeen := s.fencesSeen ++ [(dev + 65536 * q, epoch)] } q (fenceSlot (partAt s q) dev epoch)
      if s1.devIdValid && dev = s1.devId && newerEpoch epoch (jobEpochOf (partAt s1 q)) then enterFenced s1 (jobIdOf (partAt s1 q)) else s1)

def execFenceSymbol (p : Nat) (c : CtlSlot) (s : State) : Host.Outcome State Fault Refusal := .next (fenceSymbol p c s)

/-! ### Delay measurement (R309) -/

/-- The tick time, in 1/16 reference cycles: the phase last steered to, and since then the cycles at the disciplined rate, which is the
parent's against this module's reference in units of 2^-32 (R309). -/
def tickTime (s : State) : Int :=
  16 * (s.cycle : Int) + s.tick.time16 + 16 * ((s.cycle : Int) - s.tick.steeredAt) * s.tick.rate / 2 ^ 32

/-- The tick time steered to a time that the parent's has now: in phase to that time, in frequency to what the parent's time advanced since
the steering before it. DESIGN CHOICE (log entry 77): R309 names the discipline in frequency and gives no filter. -/
def steer (s : State) (t : Int) : State :=
  let d : Int := 16 * ((s.cycle : Int) - s.tick.steeredAt)
  { s with tick := { s.tick with
    rate := if s.tick.disciplined && 0 < d then ((t - s.tick.steeredTo - d) * 2 ^ 32) / d else s.tick.rate
    time16 := t - 16 * (s.cycle : Int)
    steeredAt := s.cycle
    steeredTo := t
    disciplined := true } }

/-- TIME_REQ_SEND: the port to the timing tree's parent sends a request and notes its departure. -/
def timeReqSend (p : Nat) (s : State) : State :=
  match (List.range 16).find? (fun k => (treeAt s k).valid && (treeAt s k).timing && isParentPort p s (treeAt s k)) with
  | none => s
  | some k =>
    let q := partAt s (treeAt s k).part
    if !portUp s p || isFencedPart q then s
    else sendSymbol (modPort s p (fun x => { x with timeReqAt := some (16 * s.cycle) })) p (treeSlot q 4 0)

def execTimeReqSend (p : Nat) (s : State) : Host.Outcome State Fault Refusal := .next (timeReqSend p s)

/-- TIME_REQ: answered with TIME_RSP, which carries the tick time of its departure and the turn-round, here nothing. -/
def timeReq (p : Nat) (c : CtlSlot) (s : State) : State :=
  receiveSymbol s p 4 c (fun s x => isChildPort p s x || (shadowPorts s x.part).contains p) (fun s k =>
    let q := partAt s (treeAt s k).part
    if isFencedPart q then s else sendSymbol s p (treeSlot q 5 (unsigned 28 (tickTime s))))

def execTimeReq (p : Nat) (c : CtlSlot) (s : State) : Host.Outcome State Fault Refusal := .next (timeReq p c s)

/-- The full time whose low 28 bits are given that lies nearest to a time. -/
def fullTime (cur : Int) (low : Nat) : Int :=
  let d := ((low : Int) - cur) % 2 ^ 28
  if d < 2 ^ 27 then cur + d else cur + d - 2 ^ 28

/-- TIME_RSP: the hop delay, and the tick time steered to the parent's. -/
def timeRsp (p : Nat) (c : CtlSlot) (s : State) : State :=
  receiveSymbol s p 5 c (isParentPort p) (fun s0 k =>
    let s := lockOn s0 k
    match (portAt s p).timeReqAt with
    | none => s
    | some t1 =>
      let turn := field c.sym.toNat 28 20
      let delay := (16 * s.cycle - t1 - turn) / 2
      let s1 := modPort s p (fun x => { x with timeReqAt := none, delay := delay, delayValid := true })
      if (treeAt s k).timing then
        let t := fullTime (tickTime s) (field c.sym.toNat 0 28) + delay
        steer s1 t
      else s1)

def execTimeRsp (p : Nat) (c : CtlSlot) (s : State) : Host.Outcome State Fault Refusal := .next (timeRsp p c s)

/-! ### PERIOD (R310) -/

/-- A PERIOD symbol. -/
def periodSlot (p : Part) (period at_ : Nat) : CtlSlot := treeSlot p 6 (period % 2 ^ 32 + at_ % 65536 * 2 ^ 32)

/-- PERIOD_SYMBOL: forwarded to the children and loaded. -/
def periodSymbol (p : Nat) (c : CtlSlot) (s : State) : State :=
  receiveSymbol s p 6 c (fun s x => isParentPort p s x && x.timing) (fun s0 k =>
    let s := lockOn s0 k
    let period := field c.sym.toNat 0 32
    let at_ := now s + (field c.sym.toNat 32 16 + 65536 - now s % 65536) % 65536
    let s1 := sendDown s k (periodSlot (partAt s (treeAt s k).part) period at_)
    { s1 with tick := { s1.tick with pendingPeriod := period, pendingAt := at_ } })

def execPeriodSymbol (p : Nat) (c : CtlSlot) (s : State) : Host.Outcome State Fault Refusal := .next (periodSymbol p c s)

end Sys2Proof.Machine
end

