-- ==== Sys2Proof/Machine/Tick.lean ====
section
/-! DEFINITION. The tick (R95, R98, R211 to R218, R227, R228, R308, R310, R389 to R391, R419, R426 to R428, R438 to R443, R451,
R471): the end of a tick, the start of the next, run control, and the meanings of TICK_BOUNDARY, TICK_RECORD, PREEMPT_BOUNDARY, START,
HOLD, RESUME and ABORT_STEP. -/

namespace Sys2Proof.Machine

/-! ### Run-control commands waiting for their effect -/

/-- The command of an opcode whose effect on a partition is in progress. -/
def waitingCmd (s : State) (q op : Nat) : Option Cmd :=
  s.cmds.find? (fun c => decide (c.opcode = op ∧ c.partition = q ∧ c.phase = 2))

/-- That command, if any, completed. -/
def endWaiting (s : State) (q op st r0 : Nat) : State :=
  match waitingCmd s q op with
  | some c => complete s c st r0 0 0 0
  | none => s

/-- A partition that can no longer start, hold, resume or abort: the commands that wait for that end with TARGET_RESET. -/
def endRunCmds (s : State) (q : Nat) : State :=
  [opStart, opHold, opResume, opAbortStep].foldl (fun s op => endWaiting s q op stTargetReset 0) s

/-- A run-control command in progress. -/
def effectPending (s : State) (c : Cmd) : State := modCmd s c.host c.seq (fun c => { c with phase := 2 })

/-- START: the partition begins the named step at tick F (R213, R471). -/
def start (h seq : Nat) (s : State) : State :=
  startCmd s h seq opStart (fun s c =>
    let p := partAt s c.partition
    let own := check (match p.settle.restored with | some st => decide (c.arg0 ≠ st) | none => false) stBadField 16
      ++ check (decide (c.arg1 ≤ now s)) stBadField 24
    withChecks s c own (fun s =>
      modPart (effectPending s c) c.partition (fun p => { p with startAt := some c.arg1, ctx := { p.ctx with step := c.arg0 } })))

def execStart (h seq : Nat) (s : State) : Host.Outcome State Fault Refusal := .next (start h seq s)

/-- HOLD: a pre-emption request; the command completes when the partition is HELD (R98, R373). -/
def hold (h seq : Nat) (s : State) : State :=
  startCmd s h seq opHold (fun s c => withChecks s c [] (fun s => requestPreempt (effectPending s c) c.partition))

def execHold (h seq : Nat) (s : State) : Host.Outcome State Fault Refusal := .next (hold h seq s)

/-- RESUME: the partition runs again from its resume tick (R364). -/
def resume (h seq : Nat) (s : State) : State :=
  startCmd s h seq opResume (fun s c => withChecks s c (check (decide (c.arg0 ≤ now s)) stBadField 16)
    (fun s => resumeAt (effectPending s c) c.partition c.arg0))

def execResume (h seq : Nat) (s : State) : Host.Outcome State Fault Refusal := .next (resume h seq s)

/-- ABORT_STEP: a step abort with cause HOST; the command completes with the abort tick when the purge does. -/
def abortStep (h seq : Nat) (s : State) : State :=
  startCmd s h seq opAbortStep (fun s c => withChecks s c [] (fun s =>
    stepAbort (modCmd s h seq (fun c => { c with phase := 2, r0 := now s })) c.partition causeHost (now s) false false))

def execAbortStep (h seq : Nat) (s : State) : Host.Outcome State Fault Refusal := .next (abortStep h seq s)

/-! ### The end of a tick (R215 to R218, R391) -/

/-- The due tick record written (R218). -/
def writeDue (s : State) (q : Nat) : State :=
  match (partAt s q).ctx.recordDue with
  | none => s
  | some (t, fin, off, flags) => modCtx (tickRecord s q t fin off flags) q (fun c => { c with recordDue := none })

/-- TICK_RECORD: written within a microsecond of its tick's end. -/
def execTickRecord (q : Nat) (s : State) : Host.Outcome State Fault Refusal := .next (writeDue s q)

/-- A tick record made due, after one still due. -/
def recordDue (s : State) (q t fin off flags : Nat) : State :=
  modCtx (writeDue s q) q (fun c => { c with recordDue := some (t, fin, off, flags) })

/-- Flags of a tick record, less OVERRUN. -/
def recordFlags (c : StepCtx) : Nat :=
  2 * b2n c.throttled + 4 * b2n (c.causes.getLsbD 0) + 8 * b2n (c.causes.getLsbD 3)

/-- Whether a request reads remote data for a tile. -/
def SlotUse.reads (u : SlotUse) (t : Nat) : Bool := match u with | .read v _ _ _ | .trailer v _ => decide (v = t) | _ => false

/-- Whether a tile's DMA engine awaits remote data for the list of an actor, or has a read of it still to send. -/
def awaitsData (s : State) (q t a : Nat) : Bool :=
  ((tileAt s t).dma.head?).any (fun r => r.actor = some a)
    && (s.slots.any (fun x => x.q = q && x.usage.reads t)
      || s.flows.any (fun f => f.q = q && f.queue.any (fun o => o.usage.reads t))
      || s.ports.any (fun x => x.2.sendReq.any (fun o => o.q = q && o.usage.reads t)))

/-- Whether an actor is the done actor of an exchange that is not complete (R382). -/
def awaitsBucket (p : Part) (l a : Nat) : Bool :=
  p.buckets.any (fun r => !r.written && (bucketRec p r.b).any (fun k => k.doneTile = l && k.doneActor = a))

/-- Whether an unfinished actor of a tile waits on a token or data from another module or partition (R217). -/
def waitsRemote (s : State) (q t off : Nat) : Bool :=
  (withPos (tileAt s t).conf.actors).any (fun x =>
    decide (x.2.tickOffset = off ∧ (ctxOf s t x.1).completed < x.2.firings)
      && (awaitsData s q t x.1 || awaitsBucket (partAt s q) (localOfTile (partAt s q) t) x.1
        || x.2.remote && (List.range x.2.slots).any (fun i => !isFed s q t x.1 i && !slotFull s q t x.1 x.2 i)))

/-- Whether a reduction tree of a tick is open: a contribution of that tick waits in it. -/
def treeWaits (p : Part) (tick : Nat) : Bool := p.trees.any (fun x => x.2.any (fun c => c.tick = tick))

/-- Cause flags of an overrun (R217). -/
def overrunCauses (s : State) (q tick off : Nat) (bad : List Nat) : Nat :=
  let c := (partAt s q).ctx
  (c.causes.toNat ||| (if c.throttled then 2 else 0)) ||| (if bad.any (fun t => waitsRemote s q t off) then 4 else 0)
    ||| (if treeWaits (partAt s q) tick then 0x20 else 0)

/-- SCH_OVERRUN holds the first overrun since it was cleared. -/
def noteOverrun (s : State) (q tick tile causes : Nat) : State :=
  let r := schReg q 0x28
  if regField s r 0 1 = 1 then s
  else regPut s r (1 + causes % 256 * 2 ^ 8 + tile % 1024 * 2 ^ 16 + tick % 2 ^ 32 * 2 ^ 32)

/-- The job's policy on a non-finite gradient, at the end of a settlement or hold tick (R391). -/
def applyPolicy (s : State) (q t : Nat) : State :=
  let p := partAt s q
  let seen := p.ctx.nonfiniteSeen || p.ctx.votes.getLsbD voteNonfinite
  if !seen || isShadowing p then s
  else if (imageOf p).numerics.policy = 2 && !p.ctx.wide then
    stepAbort (numlog s q 7 0xFFFF 0xFFFFFFFF [if p.ctx.nonfiniteSeen then p.ctx.firstNfTick else t]) q causeFault t false true
  else raiseVote s q voteSkip

/-- What ends with a settlement or hold tick: its result is awaited, HOLD is raised where the module must, the policy applies. -/
def awaitResult (s : State) (q t : Nat) : State :=
  let s1 := modCtx s q (fun c => { c with waitResult := true, awaited := t, holding := false })
  applyPolicy (if mustHold (partAt s1 q) then raiseVote s1 q voteHold else s1) q t

/-- The last tick of an attempt has ended with its work done: the actors are ready for the next step's firings. -/
def endAttempt (s : State) (q t : Nat) : State :=
  let s1 := modCtx s q (fun c => { c with active := false, endCycle := s.cycle })
  let s2 := (partTiles (partAt s1 q)).foldl (fun s u => modSched s u (fun c =>
    { c with ctx := c.ctx.map (fun x => (x.1, { x.2 with fired := 0, completed := 0 })) })) s1
  awaitResult s2 q t

/-- The finish cycles of a tick put away, and each tile's OVERRUN (R241). -/
def closeTiles (s : State) (q : Nat) (bad : List Nat) : State :=
  (partTiles (partAt s q)).foldl (fun s t => modSched s t (fun c =>
    { c with
      lastFinish := c.finish
      overrun := bad.contains t
      finish := 0 })) s

/-- Tick t of an attempt is judged (R216). -/
def judgeTick (s : State) (q t : Nat) : State :=
  let p := partAt s q
  let off := offsetOf p t
  let bad := (partTiles p).filter (fun u => tilePresent s u && !workDone s u off)
  let fin := maxNat ((partTiles p).map (fun u => (tileAt s u).sched.finish))
  let flags := recordFlags p.ctx
  match bad with
  | [] =>
    let s1 := recordDue (closeTiles s q []) q t fin off flags
    let s2 := modCtx s1 q (fun c => { c with causes := 0, throttled := false })
    if off + 1 = (imageOf p).ticksPerStep then endAttempt s2 q t else s2
  | u :: _ =>
    let causes := overrunCauses s q t off bad
    let s1 := noteOverrun (closeTiles s q bad) q t (localOfTile p u) causes
    let s2 := recordDue s1 q t 0xFFFFFFFF off (flags ||| 1)
    stepAbort (modCtx s2 q (fun c => { c with causes := 0, throttled := false })) q causeOverrun t false false

/-- A hold tick ends (R428). -/
def endHoldTick (s : State) (q t : Nat) : State :=
  let s1 := recordDue s q t 0 (Config.holdOffset t) (recordFlags (partAt s q).ctx)
  awaitResult (modCtx s1 q (fun c => { c with causes := 0, throttled := false })) q t

/-! ### Tick fingerprints (R345, R439, R440) -/

/-- The tick fingerprint of a tick: the data posted with it, by flow and send order. -/
def tickPrint (p : Part) (t : Nat) : Nat :=
  let l := p.settle.posted.filter (fun x => x.1 = t)
  let flows := maxNat (l.map (fun x => x.2.1)) + 1
  cvOf crc64xz ((List.range flows).flatMap (fun i => (l.filter (fun x => x.2.1 = i)).flatMap (fun x => x.2.2)))

/-- A member sends its shadow the fingerprint of an ended tick. -/
def sendPrint (s : State) (q t : Nat) : State :=
  let p := partAt s q
  match p.join.serves, p.join.servedStep with
  | some g, some st =>
    if st < p.ctx.step then
      enqueue s q g 1 (Config.mailboxAddress ((flowAt s q g).map Flow.dstDev |>.getD 0) g) t
        (toLe 8 t ++ toLe 8 (tickPrint p t) ++ toLe 16 1) [] false false false .send
    else s
  | _, _ => s

/-- A mismatch of one tick's fingerprints: the count goes back to 0, the step counts once, an entry is logged. -/
def printMismatch (s : State) (q t : Nat) : State :=
  let s1 := if (partAt s q).join.stepMatched then regBump s (updReg q 0x40) 49 15 1 else s
  logWith (modJoin s1 q (fun j => { j with matched := 0, stepMatched := false })) (Config.logCode 3) 0 0 0 q [t]

/-- Own and received fingerprints of the same ticks compared. -/
def comparePrints (s : State) (q : Nat) : State :=
  let j := (partAt s q).join
  let both := j.ownPrints.filter (fun x => j.peerPrints.any (fun y => y.1 = x.1))
  let s1 := both.foldl (fun s x => if j.peerPrints.contains x then s else printMismatch s q x.1) s
  modJoin s1 q (fun j => { j with
    ownPrints := j.ownPrints.filter (fun x => !both.contains x)
    peerPrints := j.peerPrints.filter (fun y => !both.any (fun x => x.1 = y.1)) })

/-- A step of a computing shadow all of whose ticks matched counts (R440). -/
def countMatched (s : State) (q : Nat) : State :=
  let p := partAt s q
  let left := p.join.ownPrints.any (fun x => decide (x.1 < p.ctx.firstTick))
  modJoin s q (fun j =>
    let m := if j.stepMatched && !left then min (j.matched + 1) 0x1FFFF else 0
    { j with
      matched := m
      mode := if j.mode = 1 && j.qualify ≤ m then 2 else j.mode
      stepMatched := true
      ownPrints := j.ownPrints.filter (fun x => decide (p.ctx.firstTick ≤ x.1))
      peerPrints := j.peerPrints.filter (fun x => decide (p.ctx.firstTick ≤ x.1)) })

/-- The fingerprints of an ended tick. -/
def printTick (s : State) (q t : Nat) : State :=
  let p := partAt s q
  let s1 := sendPrint s q t
  let s2 :=
    if p.join.computing && isShadowing p then
      let s2 := comparePrints (modJoin s1 q (fun j => { j with ownPrints := j.ownPrints ++ [(t, tickPrint p t)] })) q
      if offsetOf p t = 0 && p.ctx.active && Config.shadowFirst q < p.ctx.firstTick then countMatched s2 q else s2
    else s1
  modSettle s2 q (fun x => { x with posted := x.posted.filter (fun m => decide (t < m.1)) })

/-! ### The end of a tick, whole -/

/-- A partition's tick t has ended. -/
def endTick (t : Nat) (s : State) (q : Nat) : State :=
  let p := partAt s q
  let s1 :=
    if p.state ≠ .running then s
    else if p.ctx.active && decide (p.ctx.firstTick ≤ t) then judgeTick s q t
    else if p.ctx.holding then endHoldTick s q t
    else s
  let s2 := if p.state = .empty then s1 else printTick s1 q t
  if (partAt s2 q).ckpt.pending && isBound (partAt s2 q) then raiseVote s2 q voteCkpt else s2

/-- The votes of an ended tick given to the partition's tree context. -/
def collectVotes (t : Nat) (s : State) (x : Nat × Nat) : State :=
  let v := (partAt s x.1).ctx.votes
  let s1 := modTree s x.2 (fun y => if y.valid then { y with own := y.own ++ [(t, v)] } else y)
  modCtx s1 x.1 (fun c => { c with votes := 0 })

/-! ### The start of a tick -/

/-- A message of the journal delivered as on first arrival (R419). -/
def deliverMsg (q : Nat) (s0 : State) (m : Msg) : State :=
  let s := chargeNow s0 q engJournal [(journalPlace s0 q m.flow m.off m.idx, 32 + m.pkt.length)]
  if m.pkt.typ = 1 then landData s m.pkt
  else if m.pkt.typ = 5 then deliverToken s q m.pkt.data
  else depositReceive s q m.pkt

/-- The journal entries of a replay tick delivered: those of earlier attempts, by their tick offset. -/
def deliverJournal (s : State) (q n : Nat) : State :=
  let p := partAt s q
  if p.state = .running && p.ctx.active && p.ctx.firstTick ≤ n then
    (p.settle.journal.filter (fun m => decide (m.tick < p.ctx.firstTick) && m.step = p.ctx.step && m.off = offsetOf p n)).foldl
      (deliverMsg q) s
  else s

/-- An attempt of the step begins anew at tick n; a cold newcomer without its narrow weights aborts in it (R443). -/
def beginReplay (s : State) (q n : Nat) : State :=
  let s1 := modJoin (beginAttempt (setPartState s q .running) q n true) q (fun j => { j with ownPrints := [], peerPrints := [] })
  if (partAt s1 q).join.mode = 3 then stepAbort s1 q causeTimeout n false false else s1

/-- A purge that is not complete by the replay tick: TICK_OVERRUN with cause PURGE, and a further abort (R227). -/
def purgeOverrun (s : State) (q n : Nat) : State :=
  doAbort (noteOverrun s q n 0 0x40) q causeOverrun n false false

/-- START's first tick. -/
def startPart (s : State) (q n : Nat) : State :=
  let p := partAt s q
  let s1 := modPart (setPartState s q .running) q (fun p =>
    { p with
      startAt := none
      preempt := false
      settle := { p.settle with restored := none }
      binding := p.binding.map (fun b => { b with slots := (withPos b.slots).map (fun x =>
        if x.1 < 2 && x.2.role = 1 then { x.2 with role := 2, copied := 0, joined := false } else x.2) }) })
  let s2 := endWaiting (beginStep s1 q p.ctx.step n) q opStart stOk n
  if p.join.mode = 3 then stepAbort s2 q causeTimeout n false false else s2

/-- A HELD partition's resume tick (R228, R364, R488). -/
def resumePart (s : State) (q n : Nat) : State :=
  let p := partAt s q
  let s1 := modPart s q (fun p => { p with startAt := none, preempt := false, heldReset := false })
  let s2 := endWaiting s1 q opResume stOk 0
  if p.replay then (if p.purge.isSome then purgeOverrun (setPartState s2 q .running) q n else beginReplay s2 q n)
  else
    let s3 := modCtx (setPartState s2 q .running) q (fun c => { c with shift := if c.active then c.shift + (n - p.heldTick) else c.shift })
    if p.heldReset then stepAbort s3 q causeHost n false false else s3

/-- Whether a tick at or before n is named. -/
def dueAt (t : Option Nat) (n : Nat) : Bool := match t with | some t => decide (t ≤ n) | none => false

/-- What a partition does as tick n begins. -/
def startTick (n : Nat) (s : State) (q : Nat) : State :=
  let p := partAt s q
  let s1 :=
    match p.state with
    | .loaded => if dueAt p.startAt n then startPart s q n else s
    | .held => if dueAt p.startAt n && !p.resetting then resumePart s q n else s
    | .aborting => if dueAt p.replayAt n && !p.resetting then (if p.purge.isSome then purgeOverrun s q n else beginReplay s q n) else s
    | .running => if p.preempt then modPart s q (fun p => { p with preemptDue := true }) else s
    | _ => s
  let p1 := partAt s1 q
  if p1.state ≠ .running then s1
  else
    let s2 := modCtx s1 q (fun c => { c with
      runTicks := if p1.preemptDue then c.runTicks else c.runTicks + 1
      throttled := decide (0 < stretch s1.pwr) })
    let s3 := (partTiles p1).foldl refresh (deliverJournal s2 q n)
    let last := p1.ctx.active && decide (offsetOf p1 n + 1 = (imageOf p1).ticksPerStep)
    if (last || p1.ctx.holding) && isBound p1 then sendFprints s3 q else s3

/-- The period of the tick that begins (R212). -/
def turnPeriod (t : TickGen) (n : Nat) : TickGen :=
  if t.pendingPeriod ≠ 0 ∧ t.pendingAt ≤ n then { t with period := t.pendingPeriod, pendingPeriod := 0 } else t

/-- The master announces a pending period from 16,384 ticks before it applies (R310). -/
def announcePeriod (s : State) : State :=
  if s.tick.pendingPeriod = 0 || s.tick.pendingAt ≤ now s || now s + 16384 < s.tick.pendingAt then s
  else
    match (List.range 16).find? (fun k => (treeAt s k).valid && (treeAt s k).timing && (treeAt s k).root) with
    | none => s
    | some k => sendDown s k (periodSlot (partAt s (treeAt s k).part) s.tick.pendingPeriod s.tick.pendingAt)

/-- TICK_BOUNDARY: every partition's tick ends, the next tick begins, the votes go, and every partition starts the tick. -/
def tickBoundary (s : State) : State :=
  let t := now s
  let s1 := (List.range 16).foldl (endTick t) s
  let s2 := (boundParts s1).foldl (collectVotes t) s1
  let s3 := { s2 with tick := { turnPeriod s2.tick (t + 1) with count := (t + 1) % 2 ^ 64, began := s2.cycle } }
  let s4 := (boundParts s3).foldl (fun s x => sendVotes 64 s x.2) s3
  (List.range 16).foldl (startTick (t + 1)) (announcePeriod s4)

def execTickBoundary (s : State) : Host.Outcome State Fault Refusal := .next (tickBoundary s)

/-! ### PREEMPT_BOUNDARY (R98, R228) -/

/-- A partition becomes HELD; a waiting HOLD completes with the tick. -/
def becomeHeld (s : State) (q : Nat) : State :=
  let s1 := modPart s q (fun p => { p with
    preempt := false
    preemptDue := false
    heldTick := now s
    replayAt := none })
  endWaiting (setPartState s1 q .held) q opHold stOk (now s)

/-- A tile's shadow loads discarded and its SHADOW_FULL bits cleared: the next pass loads its set afresh. -/
def dropLoads (s : State) (t : Nat) : State :=
  modArr s t (fun a =>
    { a with
      loads := []
      expShadow := []
      cells := a.cells.map (fun c => (c.1, { c.2 with full := false }))
      plans := a.plans.map (fun x => { x with loaded := x.issued }) })

/-- A tile's speculative firings cancelled. -/
def cancelSpecs (q : Nat) (s : State) (t : Nat) : State :=
  ((tileAt s t).sched.ctx).foldl (fun s x => if x.2.specOpen then cancelSpec s q t x.1 else s) s

/-- PREEMPT_BOUNDARY: the pending pre-emption takes effect. -/
def preemptBoundary (q : Nat) (s : State) : State :=
  let p := partAt s q
  if p.state = .running && p.preemptDue then
    let ts := partTiles p
    becomeHeld (ts.foldl dropLoads (ts.foldl (cancelSpecs q) s)) q
  else s

def execPreemptBoundary (q : Nat) (s : State) : Host.Outcome State Fault Refusal := .next (preemptBoundary q s)

end Sys2Proof.Machine
end

