-- ==== Sys2Proof/Machine/Reset.lean ====
section
/-! DEFINITION. Purges, resets and self-tests (R18, R19, R99, R176, R225, R227, R232, R266, R296, R363, R373, R396, R399, R480 to
R484, R486 to R493, R501 to R503): the meanings of TILE_PURGE_REPORT, RESET, DEFERRED_RESET, RESET_COMPLETE, SELF_TEST,
TARGETED_SELF_TEST, SELF_TEST_COMPLETE, LANE_TEST_COMPLETE, AGENT_SILENT and MGT_LOCKSTEP. -/

namespace Sys2Proof.Machine

/-! ### What a reset clears (R486, R493) -/

/-- The units of a reset domain as (kind, index) of the dump walk. -/
def domainUnits (s : State) (domain idx : Nat) : List (Nat × Nat) :=
  let group (g : Nat) : List (Nat × Nat) := (5, g) :: (groupTiles g).map (fun t => (6, t))
  match domain with
  | 1 => [(6, idx)]
  | 2 => group idx
  | 3 => (partGroups (partAt s idx)).flatMap group
  | 4 => [(2, 0)]
  | 5 => [(3, 0)]
  | 6 => [(1, 0)]
  | 7 => [(0, 0)]
  | _ => s.mgt.marked

/-- Marks of UNRESPONSIVE cleared by the reset of their domain (R498). -/
def unmark (s : State) (l : List (Nat × Nat)) : State := modMgt s (fun m => { m with marked := m.marked.filter (fun u => !l.contains u) })

/-- Bytes of a span of the tile windows cleared, with their poison and stored errors. -/
def zeroSpan (s : State) (a n : Nat) : State := curePoison { s with mem := clearBytes s.mem a n } a n

/-- A ring with nothing in it. -/
def Ring.emptied (r : Ring) : Ring := { slotBase := r.slotBase, slotSize := r.slotSize, tagBase := r.tagBase, tagSize := r.tagSize }

/-- The host's descriptor lists of a tile that is reset end with TARGET_RESET (R490). -/
def endHostRuns (s : State) (t : Nat) : State := (tileAt s t).dma.foldl endPurgedRun s

/-- A tile's logic in reset state: its till zero, and its configuration and near store too where the reset takes them. -/
def clearTile (s : State) (t : Nat) (conf near : Bool) : State :=
  let s1 := endHostRuns s t
  let s2 := modTile s1 t (fun x =>
    { x with
      arr := { rings := if conf then [] else x.arr.rings.map (fun r => (r.1, r.2.emptied)) }
      drain := {}
      vec := {}
      sched := {}
      dma := []
      conf := if conf then {} else x.conf
      banks := []
      testPort := []
      spots := [] })
  let kept (a : Nat) : Bool := decide (a < tileReg t 0x780000 ∨ tileReg t 0x800000 ≤ a) || decide (a = tileReg t 0x780100)
  let s3 := { s2 with regs := s2.regs.filter (fun r => kept r.1) }
  let s4 := zeroSpan s3 (tileReg t 0x700000) 0x40000
  if near then zeroSpan s4 (tileBase t) 0x600000 else s4

/-- A reset epoch raised (R487). -/
def raiseTile (s : State) (t : Nat) : State := modTile s t (fun x => { x with resetEpoch := next16 x.resetEpoch, resetting := false })
def raiseGroup (s : State) (g : Nat) : State := modMgt s (fun m => { m with gcEpoch := m.gcEpoch.put g (next16 (m.gcEpoch.at g 0)) })
def raiseEngine (s : State) (e : Nat) : State :=
  { s with engineEpoch := setNth s.engineEpoch e (next16 (s.engineEpoch.getD e 0)) }

/-- A reset under way. -/
def beginReset (s : State) (domain idx : Nat) (host : Option (Nat × Nat)) (fault : Bool) : State :=
  if s.mgt.resets.any (fun r => r.domain = domain && r.idx = idx && (host.isNone || r.host = host)) then s
  else trace (modMgt s (fun m => { m with resets := m.resets ++ [{ domain := domain, idx := idx, host := host, fault := fault }] })) 0 5
    (domain * 4096 + idx)

/-- The tiles of a tile or group reset put in reset state; they answer TARGET_RESET until it completes (R490). -/
def beginTiles (s : State) (l : List Nat) : State :=
  l.foldl (fun s t => modTile (clearTile s t false false) t (fun x => { x with resetting := true })) s

/-- A partition stopped for good, with nothing said to its job: it is FAULTED (R364, R486, R496). -/
def haltPart (s : State) (q : Nat) : State :=
  let p := partAt s q
  if p.state = .empty || p.state = .faulted then s
  else
    let s1 := if p.state = .loaded then s else quietStop s q
    let s2 := modPart s1 q (fun p =>
      { p with
        startAt := none
        replayAt := none
        preempt := false
        preemptDue := false
        heldReset := false
        replay := false
        purge := none })
    endRunCmds (setPartState s2 q .faulted) q

/-- Every partition halted. -/
def haltAll (s : State) : State := (List.range 16).foldl haltPart s

/-! ### The die's own reset (R18, R266, R363, R374, R493, R537, R549) -/

/-- A link lane after a warm reset: only a retirement stays. -/
def keepLane (l : Lane) : Lane := { state := if l.state = 3 then 3 else 0 }

/-- Everything on the die reset: the far store, the error log, the repair maps and the retirements are kept. -/
def clearDie (s : State) : State :=
  let far (a : Nat) : Bool := decide (fsBase ≤ a)
  { s with
    mem := s.mem.filter (fun c => far c.1)
    poison := s.poison.filter (fun l => far (64 * l))
    upsets := s.upsets.filter (fun u => far (8 * u.1))
    tokens := []
    replies := []
    delivered := []
    regs := s.regs.filter (fun r => decide (r.1 = ctl 0x818))
    cycle := 0
    dev := .boot
    devId := 0
    devIdValid := false
    cols := s.cols.map (fun c => { c with shift := c.next })
    tick := {}
    parts := []
    tiles := []
    fs := {
      chans := s.fs.chans
      active := s.fs.active
      lost := s.fs.lost
      setsOff := s.fs.setsOff
      updFailed := s.fs.updFailed
      failed := s.fs.failed }
    cvus := (s.cvus.filter (fun c => c.2.absent)).map (fun c => (c.1, { absent := true }))
    ports := s.ports.map (fun p => (p.1, { lanes := p.2.lanes.map keepLane }))
    trees := []
    flows := []
    slots := []
    slotGen := []
    fencesSeen := []
    conns := []
    eths := []
    bootPort := none
    hosts := [{}, {}, {}, {}]
    cmds := []
    incarnation := s.incarnation + 1
    eventNo := 0
    engineEpoch := [0, 0, 0, 0]
    mgt := {
      log := s.mgt.log
      logWritten := s.mgt.logWritten
      dumpValid := s.mgt.dumpValid
      gcFailed := s.mgt.gcFailed
      refLossPending := s.mgt.refLossPending
      bistPending := s.mgt.bistPending }
    pwr := { s.pwr with
      droop := 0
      cap := 0
      therm := 0
      capW := 3000
      margin := 0
      vinMv := 0
      pinW := 0
      iinCa := 0
      dieHot := 0
      memHot := 0
      coolIn := 0
      coolOut := 0 } }

/-- Whether nothing holds the die in reset: its rails, MOD_RESET_N, REFCLK and JTAG. -/
def dieFree (s : State) : Bool := decide (s.pwr.rails = 8) && s.pwr.modResetN && s.pwr.refclk && !s.pwr.extest && !s.pwr.switchOpen

/-- The die released into BOOT: the straps are sampled, the Ethernet ports negotiate, a lost reference is logged (R512, R547,
R549). -/
def releaseDie (s : State) : State :=
  let s1 := { s with
    dev := .boot
    fdTag := s.fuses.fdTagStrap
    cycle := 0
    eths := (List.range 4).map (fun e => (e, { state := 1 })) }
  if s1.mgt.refLossPending then
    modMgt (logEntry s1 0x11 0 0xFF [8, 1]) (fun m => { m with refLossPending := false })
  else s1

/-- A warm device reset begins: the far cache writes back, and the Ethernet side answers no more (R266, R355, R373). -/
def beginWarm (s : State) : State :=
  if s.dev = .off || s.mgt.resets.any (fun r => r.domain = 8) then s
  else
    let s1 := beginReset s 8 0 none false
    let s2 := modFs s1 (fun f => { f with draining := true })
    { s2 with hosts := [{}, {}, {}, {}], cmds := [], conns := [] }

/-- A warm device reset ends: the write-back is done or lost, the die is cleared, and BOOT follows once nothing holds the die. -/
def endWarm (s : State) : State :=
  let s1 := clearDie (if s.fs.draining then fcWriteBack s else s)
  let s2 := if s1.mgt.refLossPending then s1 else logEntry s1 0x11 0 0xFF [8]
  if dieFree s2 then releaseDie s2 else modPwr s2 (fun p => { p with rails := min p.rails 3 })

/-! ### The purge (R227) -/

/-- A commanded tile or group reset that waited for the purge begins (R488). -/
def beginHeldResets (s : State) (q : Nat) : State :=
  let l := (partAt s q).resetAfter
  beginTiles (modPart s q (fun p => { p with resetAfter := [] })) l

/-- The purge of a partition is complete: its audits and spots are written, its engines are free; a pre-emption takes effect, even
after a fault (R100), a fault goes on to the partition's reset, and a waiting ABORT_STEP ends with its abort tick. -/
def purgeComplete (s : State) (q : Nat) : State :=
  let p := partAt s q
  let faulted := (p.purge.map Purge.faulted).getD false
  let s1 := trace (writeSpots (writeAudits s q (now s)) q (now s)) (unitKey 3 0) 6 q
  let s2 := modPart ((partTiles p).foldl reviveTile s1) q (fun p => { p with purge := none })
  let s3 := endWaiting s2 q opAbortStep stOk (((waitingCmd s2 q opAbortStep).map Cmd.r0).getD 0)
  let held (s : State) : State := if p.state = .aborting && p.preempt then becomeHeld s q else s
  if faulted then
    beginReset (modPart (held s3) q (fun p => { p with resetting := true, startAt := none, replayAt := none })) 3 q none true
  else held (beginHeldResets s3 q)

/-- TILE_PURGE_REPORT: tile t's agent reports its purge; the last report completes it. -/
def tilePurgeReport (t : Nat) (s : State) : State :=
  match partOfTile s t with
  | none => s
  | some q =>
    match (partAt s q).purge with
    | none => s
    | some x =>
      if !x.sent || !x.tiles.contains t then s
      else
        let left := x.tiles.erase t
        let s1 := modPart s q (fun p => { p with purge := some { x with tiles := left } })
        if left.isEmpty then purgeComplete s1 q else s1

def execTilePurgeReport (t : Nat) (s : State) : Host.Outcome State Fault Refusal := .next (tilePurgeReport t s)

/-! ### The management controller (R371, R373, R491, R492, R518) -/

/-- The controller leaves its firmware: the accepted commands end with TIMEOUT, a START or RESUME still to come is withdrawn,
a dump walk ends, and running targeted tests are abandoned, to run again. -/
def stopController (s : State) (keep : Option (Nat × Nat)) : State :=
  let s0 := timeoutCmds s keep
  let s1 := match s0.mgt.dump with
    | some d => setDev s0 d.from_
    | none => s0
  let s2 := { s1 with
    parts := s1.parts.map (fun x =>
      (x.1, if (x.2.state = .loaded && x.2.join.mode = 0) || x.2.state = .held then { x.2 with startAt := none } else x.2))
    tiles := s1.tiles.map (fun x => (x.1, { x.2 with testing := false })) }
  modMgt s2 (fun m =>
    { m with
      running := false
      tests := (m.tests.filter (fun t => t.host.isNone)).map (fun t => { t with started := false })
      dump := none })

/-- The broadcasts that waited for the controller reach the tiles (R491). -/
def startController (s : State) : State :=
  let s1 := modMgt s (fun m => { m with running := true, romWait := false, refetching := false, restarting := false })
  (List.range 16).foldl (fun s q =>
    match (partAt s q).purge with
    | some x => if x.sent then s else broadcastPurge s q
    | none => s) s1

/-- The ROM reads the recorded firmware source again, or waits (R518). -/
def refetch_ (s : State) : State :=
  match s.mgt.source with
  | some (h, a, n, key, _) =>
    if (hostAt s h).attached then modMgt (emit s (.bulkRead h 0 a n key)) (fun m => { m with refetching := true })
    else modMgt s (fun m => { m with romWait := true })
  | none => modMgt s (fun m => { m with romWait := true })

/-- The firmware source recorded after a load: the command's slot and bulk region, and the digest (R518). -/
def recordSource (s : State) (c : Cmd) (f : Firmware) : State :=
  modMgt s (fun m => { m with source := some (c.host, c.bulkAddr, c.bulkLen, c.bulkRkey, f.digest) })

/-- The verified image is started: it is the running firmware, and its FW_RESTART has left its mark as the source. -/
def installNext (s : State) : State :=
  match s.mgt.next with
  | none => s
  | some f =>
    let s1 := modMgt s (fun m => { m with fw := f, next := none, fwCmd := none, fromSource := false })
    match s.mgt.fwCmd.bind (fun h => cmdAt s h.1 h.2) with
    | some c => recordSource s1 c f
    | none => s1

/-- FW_RESTART's command completed by the new firmware. -/
def endRestart (s : State) (h : Option (Nat × Nat)) : State :=
  match h.bind (fun h => cmdAt s h.1 h.2) with
  | some c => complete s c stOk s.mgt.fw.version 0 0 c.bulk.length
  | none => s

/-- The controller's restart into a held image ends (R517). -/
def finishRestart (s : State) : State := endRestart (startController (installNext s)) s.mgt.fwCmd

/-- MGT_LOCKSTEP: a shared-unit fault that resets the controller and leaves the active partitions FAULTED (R492). -/
def mgtLockstep (s : State) : State :=
  let s1 := logEntry s 0x0C 0 0xFF []
  let s2 := stopController s1 none
  let s3 := (List.range 16).foldl (fun s q =>
    let st := (partAt s q).state
    if st = .running || st = .held || st = .aborting then partFault s q else s) s2
  beginReset s3 7 0 none true

def execMgtLockstep (s : State) : Host.Outcome State Fault Refusal := .next (mgtLockstep s)

/-! ### RESET (R365, R486, R488) -/

/-- The tiles that a tile or group reset names. -/
def resetTiles (domain idx : Nat) : List Nat := if domain = 1 then [idx] else groupTiles idx

/-- The checks of RESET's target. -/
def resetFails (s : State) (c : Cmd) : List (Nat × Nat) :=
  let p := partAt s c.partition
  if noDomain c then check true stBadField 16
  else if c.arg0 = 1 then
    check (p.state = .empty || !inRect p c.arg1) stBadField 24 ++ check (inRect p c.arg1 && !tilePresent s c.arg1) stAbsent 24
  else if c.arg0 = 2 then check (!(partGroups p).contains c.arg1) stBadField 24
  else []

/-- A tile or group reset of a partition's tiles, according to its state (R488). -/
def resetInPart (s : State) (c : Cmd) : State :=
  let q := c.partition
  let l := (resetTiles c.arg0 c.arg1).filter (tilePresent s)
  let s1 := beginReset (effectPending s c) c.arg0 c.arg1 (some (c.host, c.seq)) false
  match (partAt s q).state with
  | .running | .aborting => stepAbort (modPart s1 q (fun p => { p with resetAfter := p.resetAfter ++ l })) q causeHost (now s) false false
  | .held => beginTiles (modPart s1 q (fun p => { p with heldReset := true })) l
  | _ => beginTiles s1 l

/-- A shared engine's reset begins. -/
def resetEngine (s : State) (c : Cmd) : State :=
  let me := some (c.host, c.seq)
  if c.arg0 = 4 then
    modFs (haltAll (beginReset (effectPending s c) 4 0 me false)) (fun f => { f with draining := true, resetting := true })
  else if c.arg0 = 5 then haltAll (beginReset (effectPending s c) 5 0 me false)
  else if c.arg0 = 7 then beginReset (stopController (effectPending s c) me) 7 0 me false
  else complete (modMgt s (fun m => { m with deferred := m.deferred ++ [c.arg0] })) c stOk 0 0 0 0

/-- RESET. -/
def reset (h seq : Nat) (s : State) : State :=
  startCmd s h seq opReset (fun s c =>
    withChecks s c (resetFails s c) (fun s =>
      if c.arg0 < 3 then resetInPart s c
      else if c.arg0 = 3 then
        beginReset (modPart (haltPart (effectPending s c) c.partition) c.partition (fun p => { p with resetting := true })) 3 c.partition
          (some (c.host, c.seq)) false
      else resetEngine s c))

def execReset (h seq : Nat) (s : State) : Host.Outcome State Fault Refusal := .next (reset h seq s)

/-- DEFERRED_RESET: one millisecond after its command, an Ethernet-engine or warm device reset begins (R373). -/
def deferredReset (s : State) : State :=
  match s.mgt.deferred with
  | [] => s
  | d :: rest =>
    let s1 := modMgt s (fun m => { m with deferred := rest })
    if d = 8 then beginWarm s1
    else beginReset { s1 with hosts := [{}, {}, {}, {}], cmds := [], conns := [] } 6 0 none false

def execDeferredReset (s : State) : Host.Outcome State Fault Refusal := .next (deferredReset s)

/-! ### RESET_COMPLETE (R486 to R488, R503) -/

/-- Whether a test of a unit of a domain is running: the reset waits for its verdict (R503). -/
def domainTested (s : State) (domain idx : Nat) : Bool :=
  let units := domainUnits s domain idx
  s.mgt.tests.any (fun t => t.started && (match t.kind with
    | 1 => units.contains (6, t.idx)
    | 2 => units.contains (6, t.idx / 32)
    | 3 => units.contains (5, t.idx)
    | 4 => domain = 5
    | 5 | 6 | 7 => domain = 4
    | 8 => domain = 5
    | _ => false))

/-- A reset's end logged, its units' marks cleared, its command completed. -/
def closeReset (s : State) (r : ResetRun) (part : Nat) : State :=
  let s1 := logEntry (unmark s (domainUnits s r.domain r.idx)) 0x11 r.idx part [r.domain]
  let s2 := modMgt s1 (fun m => { m with resets := m.resets.erase r })
  match r.host.bind (fun h => cmdAt s2 h.1 h.2) with
  | some c => complete s2 c stOk 0 0 0 0
  | none => s2

/-- A partition reset ends: every tile of it cleared, epochs raised, FAULTED; tile and group resets that a fault overtook end
with it. -/
def endPartReset (s : State) (r : ResetRun) : State :=
  let q := r.idx
  let p := partAt s q
  let s1 := (partTiles p).foldl (fun s t => raiseTile (clearTile s t true true) t) s
  let s2 := (partGroups p).foldl raiseGroup s1
  let s3 := haltPart (modPart s2 q (fun p => { p with
    resetEpoch := next16 p.resetEpoch
    resetting := false
    resetAfter := [] })) q
  let inner := s3.mgt.resets.filter (fun x => (x.domain = 1 || x.domain = 2) && (resetTiles x.domain x.idx).any (inRect p))
  inner.foldl (fun s x => closeReset s x q) (closeReset s3 r q)

/-- The far-store engine's reset ends (R266, R461). -/
def endFsReset (s : State) (r : ResetRun) : State :=
  let s1 := if s.fs.draining then fcWriteBack s else s
  let s2 := modFs s1 (fun f =>
    { f with
      guards := []
      issued := []
      waiting := []
      guardWait := []
      resetting := false
      draining := false })
  let s3 := (List.range 16).foldl (fun s q => failCopy s q stTargetReset) s2
  let s4 := { s3 with parts := s3.parts.map (fun x => (x.1, { x.2 with bucketTokens := 0, bucketFrac := 0, regWait := [], regOps := [] })) }
  closeReset (haltAll (raiseEngine s4 0)) r 0xFF

/-- The fabric engine's reset ends: contexts and slots cleared, the ports retrain. -/
def endFabricReset (s : State) (r : ResetRun) : State :=
  let s1 := s.slots.foldl (fun s x => releaseSlot s x.num) s
  let s2 := { s1 with
    flows := []
    trees := []
    parts := s1.parts.map (fun x => (x.1, { x.2 with buckets := [], earlyDeposits := [] }))
    ports := s1.ports.map (fun x => (x.1, { x.2 with sendReq := [], sendRsp := [], ctlWait := [], txTail := [], rxReady := [], rxSyms := [], timeReqAt := none, delayValid := false })) }
  let s3 := (List.range 16).foldl (fun s p => if portUp s p then startRetrain s p else s) s2
  closeReset (haltAll (raiseEngine s3 1)) r 0xFF

/-- The Ethernet engine's reset ends: connections, slots and caches are gone, the ports negotiate, the firmware source is
forgotten (R355, R461, R518). -/
def endEthReset (s : State) (r : ResetRun) : State :=
  let s1 := (List.range 16).foldl (fun s q => failCopy s q stTargetReset) s
  let s2 := { s1 with
    conns := []
    hosts := [{}, {}, {}, {}]
    cmds := []
    incarnation := s.incarnation + 1
    eventNo := 0
    eths := (List.range 4).map (fun e => (e, { state := 1 })) }
  closeReset (raiseEngine (modMgt s2 (fun m => { m with source := none })) 2) r 0xFF

/-- RESET_COMPLETE: a reset domain finishes. A tile or group's index is its own, a partition's is q, any other's 0. -/
def resetComplete (domain idx : Nat) (s : State) : State :=
  match s.mgt.resets.find? (fun r => r.domain = domain && r.idx = idx) with
  | none => s
  | some r =>
    if domainTested s domain idx && domain ≠ 8 then s
    else
      match domain with
      | 1 | 2 =>
        let l := resetTiles domain idx
        if !s.mgt.running || l.any (fun t => tilePresent s t && !(tileAt s t).resetting) then s
        else
          let s1 := l.foldl raiseTile s
          closeReset (if domain = 2 then raiseGroup s1 idx else s1) r (partNum s (l.headD 0))
      | 3 => if !s.mgt.running || (partAt s idx).purge.isSome || s.mgt.tests.any (fun t => t.afterPurge && t.part = idx) then s
             else endPartReset s r
      | 4 => endFsReset s r
      | 5 => endFabricReset s r
      | 6 => endEthReset s r
      | 7 =>
        if s.mgt.restarting then finishRestart (closeReset (raiseEngine s 3) r 0xFF)
        else closeReset (refetch_ (raiseEngine s 3)) r 0xFF
      | _ => endWarm s

def execResetComplete (domain idx : Nat) (s : State) : Host.Outcome State Fault Refusal := .next (resetComplete domain idx s)

/-! ### Tests (R481 to R483, R501) -/

/-- Indices of a test kind (R482). -/
def testCount (kind : Nat) : Nat :=
  match kind with
  | 1 => 1024 | 2 => 32768 | 3 => 16 | 4 => 64 | 5 => 384 | 6 => 65536 | 7 => 12 | 8 => 48 | _ => 1

/-- Whether a test's target is there (R3). DESIGN CHOICE (log entry 87): R482 numbers the update engines 0 to 11 and R3 takes no far store from any
variant, so engines 8 to 11 count as present on DJ-3072-H also, though 00_scope.md counts one engine for each far-store stack. -/
def testPresent (s : State) (kind idx : Nat) : Bool :=
  match kind with
  | 1 => tilePresent s idx
  | 2 => tilePresent s (idx / 32)
  | 3 => decide (idx < groupCount s)
  | 4 => decide (idx / 4 < portCount s)
  | 5 => decide ((chanAt s idx).state = 1 ∨ (chanAt s idx).state = 2)
  | 7 => !s.fs.failed
  | 8 => cvuPresent s idx
  | _ => true

/-- The tiles that a test runs on. -/
def testTiles (kind idx : Nat) : List Nat :=
  match kind with
  | 1 => [idx] | 2 => [idx / 32] | 3 => groupTiles idx | _ => []

/-- Units of the dump walk that a test addresses. -/
def testUnits (kind idx : Nat) : List (Nat × Nat) :=
  match kind with
  | 1 => [(6, idx)] | 2 => [(6, idx / 32)] | 3 => [(5, idx)] | 4 => [(3, 0)] | 8 => [(4, idx)] | _ => [(2, 0)]

/-- Variant and stepping as one number. -/
def partNumber (s : State) : Nat :=
  s.fuses.stepping + 256 * (match s.fuses.variant with | .dj4096H => 0 | .dj3072H => 1 | .dj4096G => 2)

/-- A test starts: its tiles show TESTING, a lane leaves the stripe, a far-cache set writes back and stands aside. -/
def startTest (s : State) (kind idx : Nat) : State :=
  let s1 := trace (modMgt s (fun m => { m with tests := m.tests.map (fun t => if t.kind = kind && t.idx = idx then { t with started := true } else t) }))
    0 7 (kind * 65536 + idx)
  let s2 := (testTiles kind idx).foldl (fun s t => modTile s t (fun x => { x with testing := true })) s1
  if kind = 4 then
    let p := idx / 4
    let was := ((portAt s2 p).lanes.getD (idx % 4) {}).state
    let s3 := modPort s2 p (fun x => { x with lanes := x.lanes.modify (idx % 4) (fun l => if l.state = 3 then l else { l with state := 2, faulty := false }) })
    if was = 0 && portUp s3 p then startRetrain s3 p else s3
  else if kind = 6 then modFs s2 (fun f => { f with cache := f.cache.put idx [], setsOff := insertNat f.setsOff idx })
  else s2

/-- The checks of SELF_TEST (R501). -/
def selfTestFails (s : State) (c : Cmd) : List (Nat × Nat) :=
  let kind := c.arg0 % 256
  let bad := decide (kind = 0 ∨ 9 < kind ∨ 512 ≤ c.arg0)
  check bad stBadField 16
  ++ check (!bad && decide (testCount kind ≤ c.arg1)) stBadField 24
  ++ check (!bad && decide (c.arg1 < testCount kind) && !testPresent s kind c.arg1) stAbsent 24

/-- SELF_TEST: kind DEVICE answers at once and resets the device a millisecond later; any other starts its test (R501, R502). -/
def selfTest (h seq : Nat) (s : State) : State :=
  startCmd s h seq opSelfTest (fun s c =>
    withChecks s c (selfTestFails s c) (fun s =>
      let kind := c.arg0 % 256
      if kind = 9 then
        complete (modMgt s (fun m => { m with bistPending := true, deferred := m.deferred ++ [8] })) c stOk 0 0 0 0
      else
        let t : TestRun := { kind := kind, idx := c.arg1, host := some (h, seq), retire := c.arg0.testBit 8, part := c.partition }
        startTest (modMgt (effectPending s c) (fun m => { m with tests := m.tests ++ [t] })) kind c.arg1))

def execSelfTest (h seq : Nat) (s : State) : Host.Outcome State Fault Refusal := .next (selfTest h seq s)

/-- Whether the purge that a test waits for is complete. -/
def testPurged (s : State) (t : TestRun) : Bool :=
  !t.afterPurge
    || (if t.part < 16 then (partAt s t.part).purge.isNone else s.parts.all (fun x => x.2.purge.isNone))

/-- TARGETED_SELF_TEST: the test of a logged error starts, those of one partition in the order they were logged. -/
def targetedSelfTest (kind idx : Nat) (s : State) : State :=
  match s.mgt.tests.find? (fun t => t.kind = kind && t.idx = idx && t.host.isNone) with
  | none => s
  | some t =>
    let first := s.mgt.tests.find? (fun x => x.host.isNone && x.part = t.part && x.afterPurge = t.afterPurge)
    if t.started || !s.mgt.running || !testPurged s t || (t.afterPurge && first ≠ some t) then s else startTest s kind idx

def execTargetedSelfTest (kind idx : Nat) (s : State) : Host.Outcome State Fault Refusal := .next (targetedSelfTest kind idx s)

/-! ### Verdicts and retirement (R18, R19, R296, R483, R484) -/

/-- A RETIRED entry, with its event where the kind of resource has one; a tile, channel or lane makes READY DEGRADED. -/
def retired (s : State) (ev idx : Nat) : State :=
  let s1 := logEntry s 0x10 idx 0xFF [ev]
  if ev = 0 then s1 else degrade (sendEvent s1 0x8006 0xFF ev idx)

/-- A tile's site retired: the column's shift is staged, or the tile is lost (R18, R19). -/
def retireTile (s : State) (t : Nat) : State :=
  if siteRetired s t || tileCount s ≤ t then s
  else
    let x := t % 32
    let y := siteRow s t
    let c := colAt s x
    let h := gridRows s
    let free := decide (h ≤ c.next) && !c.retired.getLsbD h
    let c' := { c with
      retired := c.retired ||| BitVec.ofNat 33 (2 ^ y)
      next := if free then y else c.next
      lost := c.lost || !free }
    retired { s with cols := setNth s.cols x c' } 1 t

/-- A lane retired until a power cycle, shown in LNK_ERR; a TIME exchange under way is discarded (R321, R324). -/
def retireLane (s : State) (i : Nat) : State :=
  let s1 := modPort s (i / 4) (fun x => { x with
    lanes := x.lanes.modify (i % 4) (fun l => { l with state := 3, passedAt := none })
    timeReqAt := none })
  retired (regFlag s1 (lnkReg (i / 4) 0x10) 56) 3 i

/-- A PERMANENT verdict's retirement; a group's signature says which of its tiles fail, and whether its controller does. -/
def retire_ (s : State) (kind idx : Nat) (answered : Bool) (sig : Word) : State :=
  match kind with
  | 1 => retireTile s idx
  | 2 => retireTile s (idx / 32)
  | 3 =>
    let bad := if answered then Config.groupFailing sig else BitVec.ofNat 65 (2 ^ 64)
    let s1 := (withPos (groupTiles idx)).foldl (fun s x => if bad.getLsbD x.1 then retireTile s x.2 else s) s
    if bad.getLsbD 64 then retired (modMgt s1 (fun m => { m with gcFailed := m.gcFailed ||| BitVec.ofNat 16 (2 ^ idx) })) 0 idx else s1
  | 4 => retireLane s idx
  | 5 => retired (modFs s (fun f => { f with chans := f.chans.put idx { f.chans.at idx {} with state := 3 } })) 2 idx
  | 6 => retired (modFs s (fun f => { f with setsOff := insertNat f.setsOff idx })) 0 idx
  | 7 => retired (modFs s (fun f => { f with updFailed := f.updFailed ||| BitVec.ofNat 12 (2 ^ idx), failed := true })) 0 idx
  | 8 => retired (modCvu s idx (fun c => { c with absent := true })) 0 idx
  | _ => s

/-- The near-store bytes of a bank cleared: its 64-byte lines recur every 32 lines. -/
def clearBank (s : State) (t b : Nat) : State :=
  let mine (a : Nat) : Bool := decide (tileOf a = t ∧ isTileAddr a = true ∧ windowPart (offOf a) = 0 ∧ offOf a / 64 % 32 = b)
  { s with
    mem := s.mem.filter (fun c => !mine c.1)
    poison := s.poison.filter (fun l => !mine (64 * l))
    upsets := s.upsets.filter (fun u => !mine (8 * u.1)) }

/-- The scrub of a channel: corrected words rewritten, uncorrectable lines marked poisoned. -/
def scrub (s : State) (c : Nat) : State :=
  let mine (u : Nat × Bool) : Bool := isFsAddr s (8 * u.1) && decide ((fsLocate s (8 * u.1)).1 = c)
  let hit := s.upsets.filter mine
  hit.foldl (fun s u => if u.2 then poisonLine s (u.1 / 8) else s) { s with upsets := s.upsets.filter (fun u => !mine u) }

/-- A channel trained again by its test: failing lanes of an HBM4 channel are replaced, and FS_CHAN records it (R261, R284). A channel that
cannot be repaired shows it by its signature, and is fenced by its verdict (R484). -/
def retrainChan (s : State) (c : Nat) : State :=
  let k := chanAt s c
  let n := min 255 (k.spares + (if isHbm s then Config.lanesReplaced (drawFresh s).1 else 0))
  if k.state ≠ 1 && k.state ≠ 2 then s
  else modFs (drawFresh s).2 (fun f => { f with chans := f.chans.put c { k with spares := n, state := if n = 0 then 1 else 2 } })

/-- What a test leaves of its target (R482). -/
def testEffect (s : State) (kind idx : Nat) : State :=
  match kind with
  | 1 => clearTile s idx true false
  | 2 => clearBank s (idx / 32) (idx % 32)
  | 3 => (groupTiles idx).foldl (fun s t => clearTile s t true true) s
  | 5 => scrub (retrainChan s idx) idx
  | 6 => modFs s (fun f => { f with setsOff := f.setsOff.filter (· ≠ idx) })
  | 8 => modCvu s idx (fun c => { c with slots := c.slots.map (fun x => (x.1, { x.2 with run := x.2.init })), badRuns := [] })
  | _ => s

/-- A test's verdict: the entry, LAST_VERDICT, the retirement, the command's end (R483, R484, R501, R511). -/
def verdict (s : State) (t : TestRun) (answered : Bool) (sig : Word) : State :=
  let want := Config.testSignature (partNumber s) t.kind t.idx
  let answers := answered && (testUnits t.kind t.idx).all (fun u => !s.mgt.marked.contains u)
  let perm := !answers || decide (sig ≠ want)
  let v := if perm then 2 else 1
  let s0 := modMgt s (fun m => { m with tests := m.tests.erase t })
  let s1 := if answers || t.kind = 6 then testEffect s0 t.kind t.idx else s0
  let s2 := (testTiles t.kind t.idx).foldl (fun s u =>
    regSet (modTile s u (fun x => { x with testing := false })) (tileReg u 0x780100) 33 3 v) s1
  let s3 := trace (logWith s2 0x13 t.kind v t.idx t.part [if answers then sig.toNat else 0, want.toNat]) 0 8 v
  let s4 := if t.kind = 4 then
      modPort s3 (t.idx / 4) (fun x => { x with lanes := x.lanes.modify (t.idx % 4) (fun l =>
        if l.state = 3 then l else { l with state := 1, passedAt := some s.cycle }) })
    else s3
  let s5 := if perm && t.retire then retire_ s4 t.kind t.idx answers sig else s4
  match t.host.bind (fun h => cmdAt s5 h.1 h.2) with
  | some c => complete s5 c stOk sig.toNat want.toNat 0 0
  | none => s5

/-- SELF_TEST_COMPLETE: a running test's signature is compared. -/
def selfTestComplete (kind idx : Nat) (answered : Bool) (sig : Word) (s : State) : State :=
  match s.mgt.tests.find? (fun t => t.kind = kind && t.idx = idx && t.started) with
  | some t => verdict s t answered sig
  | none => s

def execSelfTestComplete (kind idx : Nat) (answered : Bool) (sig : Word) (s : State) : Host.Outcome State Fault Refusal :=
  .next (selfTestComplete kind idx answered sig s)

/-- LANE_TEST_COMPLETE: a lane's PRBS31 test ends; it shows the expected signature where it passes (R296). -/
def laneTestComplete (p l : Nat) (pass : Bool) (s : State) : State :=
  let i := 4 * p + l
  let f := drawFresh s
  if pass then selfTestComplete 4 i true (Config.testSignature (partNumber s) 4 i) s
  else
    match s.mgt.tests.find? (fun t => t.kind = 4 && t.idx = i && t.started) with
    | some t => verdict f.2 t false (Config.laneSignature f.1)
    | none => s

def execLaneTestComplete (p l : Nat) (pass : Bool) (s : State) : Host.Outcome State Fault Refusal := .next (laneTestComplete p l pass s)

/-- AGENT_SILENT: a tile agent's or group controller's silence is logged and tested, and is a fault of its partition (R30, R231,
R480). -/
def agentSilent (isGroup : Bool) (idx : Nat) (s : State) : State :=
  if !isGroup then tileFault (logError s 4 idx idx (partNum s idx) true []) idx
  else
    let t := (groupTiles idx).headD 0
    let v := if testKnown s 3 idx then 4 else 0
    tileFault (queueTest (trace (logWith s 4 3 v idx (partNum s t) []) 0 3 4) 3 idx true (partNum s t)) t

def execAgentSilent (isGroup : Bool) (idx : Nat) (s : State) : Host.Outcome State Fault Refusal := .next (agentSilent isGroup idx s)

end Sys2Proof.Machine
end

