-- ==== Sys2Proof/Machine/Boot.lean ====
section
/-! DEFINITION. Firmware, boot and the Ethernet side (R18, R19, R261, R316, R318, R320, R352, R353, R361, R363, R371, R502, R512 to
R518): the meanings of FW_RESTART, BULK_ACCESS_RESPONSE, BOOT_COMPLETE, ATTACH, ETH_LINK_UP, ETH_LINK_LOSS, ROCE_ACK_TIMEOUT,
CNP_RECEIVE, RATE_RECOVERY and MGT_PULSE_INCREMENT. -/

namespace Sys2Proof.Machine

/-! ### The firmware image (R514, R515, R524) -/

/-- Offsets of the signer key's part, the signature block and the appendix, and the sum of the parts. -/
def fwKeyAt (b : List Byte) : Nat := 256 + le b 20 4
def fwSigAt (b : List Byte) : Nat := fwKeyAt b + 1856
def fwAppAt (b : List Byte) : Nat := fwSigAt b + 1344
def fwSum (b : List Byte) : Nat := fwAppAt b + 1856 * le b 19 1

/-- The digest: over the header, the body and the whole signer-key part. -/
def fwDigest (b : List Byte) : List Byte := shake256 64 (slice b 0 (fwSigAt b))

/-- The signer's key, and key k of the appendix. -/
def fwKey (b : List Byte) : List Byte := slice b (fwKeyAt b) keyBytes
def fwAppKey (b : List Byte) (k : Nat) : List Byte := slice b (fwAppAt b + 1856 * k) keyBytes

/-- A root slot's fused digest. -/
def rootDigest (s : State) (k : Nat) : List Byte := s.fuses.rootDigests.getD k []

/-- A key's part: its padding is zero, and the key is well formed. -/
def keyPartFails (b : List Byte) (at_ : Nat) : List (Nat × Nat) :=
  badF (badKey (slice b at_ keyBytes)) ++ badF (!allZero (slice b (at_ + keyBytes) 63))

/-- The header's checks. -/
def fwHeadFails (s : State) (b : List Byte) : List (Nat × Nat) :=
  badF (decide (slice b 0 4 ≠ [0x44, 0x52, 0x46, 0x57])) ++ badF (decide (le b 4 2 ≠ 1)) ++ badF (decide (3 < le b 6 1))
  ++ badF (decide (1 < le b 7 1)) ++ badF (decide (le b 12 4 = 0))
  ++ badF (decide (8 ≤ le b 17 1) || !(le b 17 1).testBit (variantCode s - 1)) ++ badF (decide (s.fuses.stepping < le b 18 1))
  ++ badF (decide (8 < le b 19 1)) ++ badF (decide (le b 20 4 % 64 ≠ 0 ∨ le b 20 4 < 64)) ++ badF (!allZero (slice b 24 232))

/-- The length checks. -/
def fwLenFails (b : List Byte) (bulkLen : Nat) : List (Nat × Nat) :=
  badL (decide (33554432 < le b 8 4 ∨ bulkLen < le b 8 4)) ++ badL (decide (le b 8 4 ≠ fwSum b))

/-- The checks of the keys and the signature. -/
def fwKeyFails (s : State) (b : List Byte) : List (Nat × Nat) :=
  let slot := le b 6 1
  let g := slice b (fwSigAt b) 1344
  let root := rootDigest s slot
  keyPartFails b (fwKeyAt b) ++ (List.range (le b 19 1)).flatMap (fun k => keyPartFails b (fwAppAt b + 1856 * k))
  ++ badF (decide (g.take 16 ≠ root.take 16))
  ++ badF (outside (le g 16 2) 1 1280) ++ badF (!allZero (slice g 18 6)) ++ badF (!allZero (slice g (24 + le g 16 2) (1304 - (24 + le g 16 2))))
  ++ badF (!allZero (slice g 1304 40))
  ++ check (s.fuses.revoked.getLsbD slot || decide (shake256 32 (fwKey b) ≠ root) || !verifies (fwKey b) (fwDigest b) (slice g 24 (le g 16 2)))
      stBadSignature 0

/-- Every check of a firmware image (R515); one that does not fit its lengths is not read further. -/
def fwFails (s : State) (b : List Byte) (bulkLen : Nat) : List (Nat × Nat) :=
  let l := fwLenFails b bulkLen
  fwHeadFails s b ++ l ++ (if l.isEmpty then fwKeyFails s b else []) ++ check (decide (le b 16 1 < s.fuses.minSvn)) stDenied 0

/-- The firmware that an image holds. -/
def firmwareOf (b : List Byte) : Firmware :=
  { version := le b 12 4
    svn := le b 16 1
    keySlot := le b 6 1
    imageKeys := (List.range (le b 19 1)).map (fwAppKey b)
    digest := fwDigest b
    commit := (le b 7 1).testBit 0
    appendix := slice b (fwAppAt b) (1856 * le b 19 1) }

/-- FW_RESTART: its image is asked for. -/
def fwRestart (h seq : Nat) (s : State) : State :=
  startCmd s h seq opFwRestart (fun s c => askJudged s c (check (decide (c.bulkLen = 0)) stBadLength 40))

def execFwRestart (h seq : Nat) (s : State) : Host.Outcome State Fault Refusal := .next (fwRestart h seq s)

/-- The image has been read: a failed check ends the command; in BOOT the firmware comes up, in service the controller restarts
into it (R513, R517). -/
def fwBulk (s : State) (c : Cmd) (ok : Bool) (data : List Byte) : State :=
  match decideFail (heldFail c ++ (if ok then fwFails s data c.bulkLen else badL true)) with
  | some f => refuseCmd s { c with bulk := data } f
  | none =>
    let me := some (c.host, c.seq)
    let s1 := modCmd s c.host c.seq (fun c => { c with phase := 2, bulk := data })
    let s2 := modMgt s1 (fun m => { m with next := some (firmwareOf data), fwCmd := me })
    if s.dev = .boot then s2
    else modMgt (beginReset (stopController s2 me) 7 0 none false) (fun m => { m with restarting := true })

/-! ### BULK_ACCESS_RESPONSE (R361, R518) -/

/-- The ROM's own read of the recorded source: the same digest starts the firmware, anything else holds the ROM. -/
def sourceBulk (s : State) (ok : Bool) (data : List Byte) : State :=
  match s.mgt.source with
  | some (_, _, _, _, d) =>
    if ok && decide (fwDigest data = d) then startController (modMgt s (fun m => { m with fw := firmwareOf data, fromSource := true }))
    else modMgt s (fun m => { m with romWait := true, refetching := false })
  | none => modMgt s (fun m => { m with romWait := true, refetching := false })

/-- A command that wrote its output: the host took it, or refused it after the bytes given. -/
def outBulk (s : State) (c : Cmd) (ok : Bool) (data : List Byte) : State :=
  if ok then complete s c stOk c.r0 c.r1 0 c.bulk.length else refuseCmd s { c with bulk := data } (stBadLength, inBulk)

/-- A DUMP whose write the host refuses ends there, its header never written. -/
def dumpBulk (s : State) (c : Cmd) (ok : Bool) (data : List Byte) : State :=
  match s.mgt.dump with
  | none => s
  | some d =>
    if ok || d.host ≠ c.host || d.seq ≠ c.seq then s
    else refuseCmd (setDev (modMgt s (fun m => { m with dump := none })) d.from_) { c with bulk := data } (stBadLength, inBulk)

/-- BULK_ACCESS_RESPONSE: a read's bytes, or for a refusal the bytes already moved. -/
def bulkAccessResponse (h seq : Nat) (ok : Bool) (data : List Byte) (s : State) : State :=
  if s.mgt.refetching && decide (seq = 0) && s.mgt.source.any (fun x => decide (x.1 = h)) then sourceBulk s ok data
  else
    match cmdAt s h seq with
    | none => s
    | some c =>
      if c.opcode = opDump then dumpBulk s c ok data
      else if c.phase ≠ 1 then s
      else if c.opcode = opBindJob then bindBulk s c ok data
      else if c.opcode = opLoadImage then imageBulk s c ok data
      else if c.opcode = opFwRestart then fwBulk s c ok data
      else outBulk s c ok data

def execBulkAccessResponse (h seq : Nat) (ok : Bool) (data : List Byte) (s : State) : Host.Outcome State Fault Refusal :=
  .next (bulkAccessResponse h seq ok data (ackedConn s (hostAt s h).qpn))

/-! ### BOOT_COMPLETE (R18, R19, R261, R363, R502, R516) -/

/-- A site that failed its power-on test: its column shifts past it, or a tile is lost. -/
def bootSite (s : State) (site : Nat × Nat) : State :=
  let x := site.1
  let y := site.2
  let h := gridRows s
  let c := colAt s x
  if 32 ≤ x || h < y || c.retired.getLsbD y then s
  else
    let free := decide (h ≤ c.shift) && !c.retired.getLsbD h
    let c' : ColMap := {
      shift := if free then y else c.shift
      next := if free then y else c.shift
      lost := c.lost || !free
      retired := c.retired ||| BitVec.ofNat 33 (2 ^ y) }
    retired { s with cols := setNth s.cols x c' } 1 (32 * (if c.shift < y then y - 1 else y) + x)

/-- Channels fitted (R1, R260). -/
def chanCount (s : State) : Nat :=
  match s.fuses.variant with | .dj4096H => 384 | .dj3072H => 256 | .dj4096G => 64

/-- The result of a channel's training; a fitted channel that is not named trained without a spare lane. -/
def chanResult (l : List ChanResult) (c : Nat) : ChanResult := (l.find? (fun r => r.chan = c)).getD { chan := c, ok := true, spares := 0 }

/-- The channels as power-on training leaves them. -/
def trainedChans (s : State) (l : List ChanResult) : Tab Chan :=
  (List.range (chanCount s)).map (fun c =>
    let r := chanResult l c
    let spares := if isHbm s then r.spares % 256 else 0
    (c, { state := if !r.ok then 4 else if spares = 0 then 1 else 2, spares := spares }))

/-- Power-on training: failing channels are retired and left out of the interleave. -/
def trainAll (s : State) (l : List ChanResult) : State :=
  let t := trainedChans s l
  let s1 := modFs s (fun f => { f with chans := t, active := (t.filter (fun c => c.2.state ≠ 4)).map Prod.fst })
  (t.filter (fun c => c.2.state = 4)).foldl (fun s c => retired s 2 c.1) s1

/-- One channel trained after a warm reset: a failing one is fenced, a repair is recorded. -/
def retrainOne (s : State) (r : ChanResult) : State :=
  let k := chanAt s r.chan
  let put (k : Chan) : State := modFs s (fun f => { f with chans := f.chans.put r.chan k })
  if k.state ≠ 1 && k.state ≠ 2 then s
  else if !r.ok then retired (put { k with state := 3 }) 2 r.chan
  else
    let n := if isHbm s then max k.spares (r.spares % 256) else 0
    put { k with spares := n, state := if n = 0 then 1 else 2 }

/-- Training after a warm reset: the interleave is unchanged. -/
def retrainChans (s : State) (l : List ChanResult) : State := l.foldl retrainOne s

/-- The device test of a kind-DEVICE SELF_TEST (R502, R508). -/
def bootTest (s : State) (sig : Word) : State :=
  if !s.mgt.bistPending then s
  else
    let want := Config.testSignature (partNumber s) 9 0
    let s1 := regPut (regPut s (ctl 0x820) sig.toNat) (ctl 0x828) want.toNat
    modMgt (logWith s1 0x13 9 (if sig = want then 1 else 2) 0 0xFF [sig.toNat, want.toNat]) (fun m => { m with bistPending := false })

/-- MIN_SVN burnt up to a committing image's security version. -/
def burnSvn (s : State) : State :=
  if s.mgt.fw.commit then { s with fuses := { s.fuses with minSvn := max s.fuses.minSvn s.mgt.fw.svn } } else s

/-- The Ethernet ports that waited for the firmware begin to negotiate. -/
def startPorts (s : State) : State :=
  (List.range 4).foldl (fun s e => modEth s e (fun x => { x with state := if x.state = 0 then 1 else x.state })) s

/-- BOOT_COMPLETE: the sites that failed their tests, the trained channels, and the device signature. -/
def bootComplete (badSites : List (Nat × Nat)) (chans : List ChanResult) (sig : Word) (s : State) : State :=
  if s.dev ≠ .boot || s.mgt.next.isNone || !dieFree s then s
  else
    let cmd := s.mgt.fwCmd
    let s1 := badSites.foldl bootSite s
    let s2 := if s1.fs.chans.isEmpty then trainAll s1 chans else retrainChans s1 chans
    let s3 := startController (installNext (bootTest s2 sig))
    let s4 := burnSvn (setDev s3 (if retiredAny s3 then .degraded else .ready))
    endRestart (startPorts s4) cmd

def execBootComplete (badSites : List (Nat × Nat)) (chans : List ChanResult) (sig : Word) (s : State) :
    Host.Outcome State Fault Refusal := .next (bootComplete badSites chans sig s)

/-- MGT_PULSE_INCREMENT: the running firmware's millisecond (R371). -/
def mgtPulseIncrement (s : State) : State := if s.mgt.running then regCount s (ctl 0x18) 0 64 1 else s

def execMgtPulseIncrement (s : State) : Host.Outcome State Fault Refusal := .next (mgtPulseIncrement s)

/-! ### Ethernet ports (R316, R320, R331, R512) -/

/-- ETH_LINK_UP: in BOOT the first port up carries the boot responder and the others go DOWN. -/
def ethLinkUp (e : Nat) (s : State) : State :=
  if 4 ≤ e || (ethAt s e).state ≠ 1 || s.dev = .off then s
  else if s.dev ≠ .boot then modEth s e (fun x => { x with state := 2 })
  else
    match s.bootPort with
    | none =>
      let s1 := (List.range 4).foldl (fun s i => modEth s i (fun x => { x with state := 0 })) s
      { modEth s1 e (fun x => { x with state := 2 }) with bootPort := some e }
    | some b => if b = e then modEth s e (fun x => { x with state := 2 }) else s

def execEthLinkUp (e : Nat) (s : State) : Host.Outcome State Fault Refusal := .next (ethLinkUp e s)

/-- ETH_LINK_LOSS: the port negotiates again; its connections retransmit. -/
def ethLinkLoss (e : Nat) (s : State) : State :=
  if (ethAt s e).state ≠ 2 then s else regFlag (modEth s e (fun x => { x with state := 1 })) (ethReg e 0) 32

def execEthLinkLoss (e : Nat) (s : State) : Host.Outcome State Fault Refusal := .next (ethLinkLoss e s)

/-! ### ATTACH (R352, R353) -/

/-- An attach datagram. -/
def attachGram (typ host status pmtu qpn psn rkey : Nat) (cookie : Word) (inc : Nat) : List Byte :=
  toLe 1 typ ++ toLe 1 host ++ toLe 1 status ++ toLe 1 pmtu ++ toLe 4 (qpn % 2 ^ 24) ++ toLe 4 (psn % 2 ^ 24) ++ toLe 4 rkey
    ++ toLe 8 cookie.toNat ++ toLe 4 inc ++ List.replicate 4 0

/-- Whether an ATTACH has a bad field. -/
def attachBad (d : List Byte) : Bool :=
  decide (3 < le d 1 1 ∧ le d 1 1 ≠ 0xFF) || decide (le d 2 1 ≠ 0) || decide (le d 3 1 < 3 ∨ 5 < le d 3 1) || decide (le d 7 1 ≠ 0)
    || decide (le d 11 1 ≠ 0) || !allZero (slice d 12 4) || !allZero (slice d 24 8)

/-- REFUSE with a status. -/
def attachRefuse (e st : Nat) (s : State) : State :=
  let k := drawFresh s
  let f (i : Nat) : Nat := Config.refuseField i k.1
  emit k.2 (.attachReply e (attachGram 3 (f 0) st (f 1) (f 2) (f 3) 0 0 0))

/-- A slot granted to a new connection on port e: with a new cookie, or to the holder of its cookie with all it holds. -/
def attachGrant (e h : Nat) (d : List Byte) (s : State) : State :=
  let x := hostAt s h
  let s1 := if x.attached then closeConn s x.qpn else s
  let k := drawFresh s1
  let qpn := freshQpn s1
  let cookie := if x.held then x.cookie else Config.newCookie k.1
  let conn : Conn := {
    qpn := qpn
    port := e
    kind := 0
    host := h
    peerQpn := le d 4 3
    psn := Config.newPsn k.1 % 2 ^ 24
    pmtu := le d 3 1
    rkey := Config.newRkey k.1 % 2 ^ 32 }
  let s2 := { k.2 with conns := k.2.conns ++ [conn.set k.1] }
  let s3 := modHost s2 h (fun x => { x with attached := true, held := true, cookie := cookie, qpn := qpn })
  emit s3
    (.attachReply e (attachGram 2 h 0 (le d 3 1) qpn conn.psn conn.rkey cookie s3.incarnation))

/-- A slot granted to a connection beside those open, where there is room for one more (R317, R330). -/
def attachNew (e h : Nat) (d : List Byte) (s : State) : State :=
  if 65536 ≤ s.conns.length || 262144 ≤ flowsInUse s then attachRefuse e stNoResource s else attachGrant e h d s

/-- ATTACH: a datagram on port e. -/
def attach (e : Nat) (d : List Byte) (s : State) : State :=
  let busy := s.mgt.resets.any (fun r => r.domain = 6 || r.domain = 8)
  if (ethAt s e).state ≠ 2 || s.dev = .off || busy || d.length ≠ 32 || le d 0 1 ≠ 1 then s
  else
    let h := le d 1 1
    if attachBad d then attachRefuse e stBadField s
    else if h = 0xFF then
      match (List.range 4).find? (fun i => !(hostAt s i).held) with
      | some i => attachNew e i d s
      | none => attachRefuse e stNoResource s
    else if !(hostAt s h).held then attachNew e h d s
    else if word (le d 16 8) = (hostAt s h).cookie then (if (hostAt s h).attached then attachGrant e h d s else attachNew e h d s)
    else attachRefuse e stDenied s

def execAttach (e : Nat) (d : List Byte) (s : State) : Host.Outcome State Fault Refusal := .next (attach e d s)

/-! ### Connections (R318, R320, R332) -/

/-- ROCE_ACK_TIMEOUT: a retransmission, or with its retries run out the connection closes. -/
def roceAckTimeout (qpn : Nat) (s : State) : State :=
  match connAt s qpn with
  | none => s
  | some c => if c.retries < c.retryMax then modConn s qpn (fun c => { c with retries := c.retries + 1 }) else closeConn s qpn

def execRoceAckTimeout (qpn : Nat) (s : State) : Host.Outcome State Fault Refusal := .next (roceAckTimeout qpn s)

/-- The rate after a notification: cut by α/2, at least 100 Mbit/s. -/
def cutRate (c : Conn) : Nat := max 100000 (c.rate - c.rate * c.alphaNum / (2 * 256 ^ c.alphaExp))

/-- CNP_RECEIVE: target = current, current cut by α/2, α = (1 − g)·α + g, with g = 1/256. -/
def cnpReceive (qpn : Nat) (s : State) : State :=
  match connAt s qpn with
  | none => s
  | some c =>
    regBump (modConn s qpn (fun c =>
      { c with
        target := c.rate
        rate := cutRate c
        alphaNum := 255 * c.alphaNum + 256 ^ c.alphaExp
        alphaExp := c.alphaExp + 1
        steps := 0
        cnpSinceDecay := true })) (ethReg c.port 8) 48 16 1

def execCnpReceive (qpn : Nat) (s : State) : Host.Outcome State Fault Refusal := .next (cnpReceive qpn s)

/-- RATE_RECOVERY: α decays where the step is that of 55 µs and no notification arrived in them; from the sixth step on the target rises; the gap to it is halved. -/
def rateRecovery (qpn : Nat) (timer : Bool) (s : State) : State :=
  modConn s qpn (fun c =>
    let t := min 400000000 (if c.steps < 5 then c.target else if c.steps < 10 then c.target + 5000000 else c.target + 50000000)
    { c with
      target := t
      rate := if c.rate < t then c.rate + (t - c.rate) / 2 else c.rate
      alphaNum := if c.cnpSinceDecay || !timer then c.alphaNum else 255 * c.alphaNum
      alphaExp := if c.cnpSinceDecay || !timer then c.alphaExp else c.alphaExp + 1
      steps := c.steps + 1
      cnpSinceDecay := c.cnpSinceDecay && !timer })

def execRateRecovery (r : RateStep) (s : State) : Host.Outcome State Fault Refusal := .next (rateRecovery r.qpn r.timer s)

end Sys2Proof.Machine
end

