-- ==== Sys2Proof/Machine/Regs.lean ====
section
/-! DEFINITION. The registers by device-local address (R2, R12 to R14, R20, R101 to R103, R115, R138, R139, R178 to R186, R235 to R241,
R280 to R289, R322 to R332, R348 to R351, R374, R375, R403 to R406, R446 to R450, R474 to R477, R504 to R511, R526 to R531, R554 to
R558, R561, R562): what each reads as, which fields a read or a write clears, and what a write stores; the meanings of the register
rows. -/

namespace Sys2Proof.Machine

/-! ### Places -/

/-- Which of n registers, `step` bytes apart from a base, an offset names. -/
def oneOf (o base step n : Nat) : Option Nat :=
  if base ≤ o ∧ o < base + step * n ∧ (o - base) % step = 0 then some ((o - base) / step) else none

/-- Which of n blocks, `size` bytes each from a base, an offset lies in, and where in it. -/
def blockOf (o base size n : Nat) : Option (Nat × Nat) :=
  if base ≤ o ∧ o < base + size * n then some ((o - base) / size, (o - base) % size) else none

/-- A number's bits outside a mask. -/
def without (v m : Nat) : Nat := v - (v &&& m)

/-! ### Tile registers -/

/-- Whether every cell of a tile holds what a predicate asks. -/
def allCells (a : Arr) (f : Cell → Bool) : Bool := (a.cells.filter (fun c => decide (c.1 < 16384) && f c.2)).length = 16384

/-- ARR_STATUS (R101). -/
def arrStatus (s : State) (t : Nat) : Nat :=
  let a := (tileAt s t).arr
  b2n (allCells a Cell.installed) + 2 * b2n (allCells a Cell.full) + 4 * b2n a.faultStop
    + 8 * b2n ((partOfTile s t).any (fun q => (partAt s q).preempt)) + a.passCount % 2 ^ 24 * 2 ^ 8 + a.activeLayer % 65536 * 2 ^ 32

/-- ARR_FEED of segment b: the ring that ARR_FEED_SEL selects (R103, R561). -/
def arrFeed (s : State) (t b : Nat) : Nat :=
  let a := (tileAt s t).arr
  match a.rings.find (4 * (regGet s (tileReg t 0x780430) % 4096) + b) with
  | none => 0
  | some r =>
    let slot := regGet s (tileReg t 0x780430) % 4096
    let issuing := ((a.issue.at b []).find? (fun i => decide (i.ring = 4 * slot + b))).map PassIssue.rows
    let open_ := (a.plans.find? (fun x => x.opened && x.layerSlot = slot
      && decide (x.issued.getD b 0 < ((tileAt s t).conf.feeds.getD x.feed {}).setCount))).map Plan.rows
    let window := issuing.or open_
    r.issueSlot % r.ns + r.slotIn % r.ns * 2 ^ 16 + (r.rowsIn - r.rowsOut) % 65536 * 2 ^ 32 + window.getD 0 % 1024 * 2 ^ 48

/-- VEC_QUEUE (R180). -/
def vecQueue (s : State) (t : Nat) : Nat :=
  let l := (tileAt s t).drain.queue
  l.length + b2n (decide (l.length = 16)) * 2 ^ 8 + ((l.head?.map (fun e => e.hdr.toNat % 65536)).getD 0) * 2 ^ 16

/-- A coefficient of the selected entry of the Gwynis tables (R175, R183). -/
def gwtCoef (s : State) (t k : Nat) : Nat :=
  let v := regGet s (tileReg t 0x780960)
  if hasPredictor s then (Config.gwynis (field v 0 2) (field v 8 7) k).toNat else 0

/-- TILE_RESET and SCH_TILE (R241, R511). -/
def tileReset (s : State) (t : Nat) : Nat :=
  let x := tileAt s t
  withField (withField (regGet s (tileReg t 0x780100)) 0 16 x.resetEpoch) 32 1 (b2n x.testing)

def schTile (s : State) (t : Nat) : Nat :=
  let x := tileAt s t
  let purging := (partOfTile s t).any (fun q => (partAt s q).purge.any (fun p => p.sent && p.tiles.contains t))
  x.conf.actors.length + b2n x.sched.overrun * 2 ^ 12 + b2n purging * 2 ^ 13
    + field (regGet s (tileReg t 0x780200)) 14 2 * 2 ^ 14 + x.sched.hold.length % 512 * 2 ^ 16 + x.sched.lastFinish % 2 ^ 32 * 2 ^ 32

/-- A register of tile t by its tile-window offset; unassigned words are zero. -/
def tileView (s : State) (t o : Nat) : Nat :=
  let x := tileAt s t
  let raw := regGet s (tileReg t o)
  if o = 0x780100 then tileReset s t
  else if o = 0x780200 then schTile s t
  else if o = 0x780400 then arrStatus s t
  else if o = 0x780600 then withField raw 3 1 (b2n (x.drain.accs.any (fun a => a.2.tag.getLsbD tagInvalid)))
  else if o = 0x780800 then withField raw 8 1 (b2n x.vec.body.isSome)
  else if o = 0x780810 then vecQueue s t
  else if o = 0x780968 then gwtCoef s t 0 + gwtCoef s t 1 * 2 ^ 32
  else if o = 0x780970 then gwtCoef s t 2
  else if o = 0x780A00 then withField raw 8 5 x.vec.netOpen.length
  else if [0x780300, 0x780308, 0x780408, 0x780430, 0x780608, 0x780808, 0x780960].contains o then raw
  else
    match oneOf o 0x780410 8 4, oneOf o 0x780820 8 8, oneOf o 0x780860 8 32, oneOf o 0x781000 8 128, oneOf o 0x781400 8 8 with
    | some b, _, _, _, _ => arrFeed s t b
    | _, some k, _, _, _ => (x.vec.idx.getD k 0).toNat
    | _, _, some i, _, _ => field (x.vec.preds.getD (i / 4) 0).toNat (64 * (i % 4)) 64
    | _, _, _, some i, _ => field (tallyVal s t (i / 2)).toNat (64 * (i % 2)) 64
    | _, _, _, _, some j => leNat ((List.range 8).map (fun b => tallyTag s t (8 * j + b)))
    | _, _, _, _, _ => 0

/-! ### Device registers -/

/-- DEV_STATE (R374). -/
def devState (s : State) : Nat :=
  s.dev.code + b2n (retiredAny s) * 8 + b2n (anyShadowing s) * 16
    + ((List.range 4).map (fun h => b2n (hostAt s h).attached * 2 ^ (8 + h))).foldl (· + ·) 0 + s.incarnation % 2 ^ 32 * 2 ^ 16

/-- DEV_COL_MAP (R20). -/
def colMap (s : State) (x : Nat) : Nat :=
  let c := colAt s x
  let h := gridRows s
  min c.shift h + min c.next h * 2 ^ 8 + b2n (decide (h ≤ c.shift) && !c.retired.getLsbD h) * 2 ^ 16 + b2n c.lost * 2 ^ 17
    + c.retired.toNat % 2 ^ (h + 1) * 2 ^ 24

/-- DEV_TICK_REF (R558). -/
def tickRef (s : State) : Nat :=
  let t := s.tick
  b2n t.refEnable + 2 * b2n t.refInUse + t.edgeTicks % 2 ^ 20 * 2 ^ 4 + (regGet s (ctl 0x220) &&& 0xFF000004)

/-- FS_STATUS and FC_STATUS (R280, R283); a channel fenced in service keeps its place among the active ones (R260, R261). -/
def fsStatus (s : State) : Nat :=
  fsCapacity s / 2 ^ 20 % 2 ^ 20 + s.fs.active.length % 2 ^ 9 * 2 ^ 20
    + b2n (s.fs.chans.any (fun c => c.2.state = 3 || c.2.state = 4)) * 2 ^ 32 + b2n s.fs.lost * 2 ^ 33
    + b2n (s.dev = .boot || s.mgt.tests.any (fun t => t.kind = 5 && t.started)) * 2 ^ 34 + s.fs.guards.length % 2 ^ 14 * 2 ^ 35

def fcStatus (s : State) : Nat := dirtyLines s % 2 ^ 21 + b2n s.fs.draining * 2 ^ 24 + field (regGet s (ctl 0x480)) 32 32 * 2 ^ 32

/-- DEV_HEALTH and MGT_DUMP (R505, R507). -/
def devHealth (s : State) : Nat :=
  s.fs.updFailed.toNat + b2n (s.cvus.any (fun c => c.2.absent)) * 2 ^ 12 + min s.fs.setsOff.length 0xFFFF * 2 ^ 16 + s.mgt.gcFailed.toNat * 2 ^ 32

def mgtDump (s : State) : Nat :=
  without (regGet s (ctl 0x818)) 7 + b2n s.mgt.dump.isSome + 2 * b2n (s.mgt.dumpValid.getD 0 false)
    + 4 * b2n (isHbm s && s.mgt.dumpValid.getD 1 false)

/-- MGT_FW (R527). -/
def mgtFw (s : State) : Nat :=
  let f := s.mgt.fw
  fwVersion s % 2 ^ 32 + f.svn % 256 * 2 ^ 32 + b2n s.mgt.fromSource * 2 ^ 40 + b2n s.mgt.romWait * 2 ^ 41 + f.keySlot % 16 * 2 ^ 48
    + f.imageKeys.length % 16 * 2 ^ 52

/-- PWR_STATUS, PWR_INPUT and PWR_TEMP (R554, R556, R557). -/
def pwrStatus (s : State) : Nat :=
  let p := s.pwr
  stretch p % 64 + b2n (decide (0 < p.droop)) * 2 ^ 6 + b2n (decide (0 < p.cap)) * 2 ^ 7 + b2n (decide (0 < p.therm)) * 2 ^ 8
    + b2n p.uvWarn * 2 ^ 9 + (regGet s (ctl 0xB00) &&& 0xF0000) + unsigned 8 p.margin * 2 ^ 24

def pwrInput (p : Power) : Nat := p.vinMv % 65536 + p.pinW % 65536 * 2 ^ 16 + p.iinCa % 65536 * 2 ^ 32

def pwrTemp (p : Power) : Nat :=
  unsigned 8 p.dieHot + unsigned 8 p.memHot * 2 ^ 8 + unsigned 8 p.coolIn * 2 ^ 16 + unsigned 8 p.coolOut * 2 ^ 24

/-- GRP_STATUS (R509). -/
def grpStatus (s : State) (g : Nat) : Nat :=
  if groupCount s ≤ g then 0 else s.mgt.gcEpoch.at g 0 + b2n (s.mgt.gcFailed.getLsbD g) * 2 ^ 16 + b2n (s.mgt.gcFailed.getLsbD g) * 2 ^ 17

/-- The registers below offset 0x1000 that stand alone. -/
def devView (s : State) (o : Nat) : Nat :=
  let raw := regGet s (ctl o)
  let t := s.tick
  match o with
  | 0x08 => devCaps s
  | 0x10 => devState s
  | 0x20 => s.fdTag.toNat
  | 0x28 => s.devId % 65536 + b2n s.devIdValid * 2 ^ 16
  | 0x200 => t.period % 2 ^ 32 + t.pendingPeriod % 2 ^ 32 * 2 ^ 32
  | 0x208 => t.pendingAt
  | 0x210 => t.count
  | 0x218 => b2n t.master + 2 * b2n t.locked + (raw &&& 4)
  | 0x220 => tickRef s
  | 0x400 => fsStatus s
  | 0x480 => fcStatus s
  | 0x610 => flowsInUse s % 2 ^ 19 + slotsInUse s % 2 ^ 20 * 2 ^ 20
  | 0x800 => leNat ((s.engineEpoch.take 4).flatMap (toLe 2))
  | 0x808 => devHealth s
  | 0x810 => s.mgt.log.length % 2 ^ 32 + s.mgt.logWritten % 2 ^ 32 * 2 ^ 32
  | 0x818 => mgtDump s
  | 0xA00 => mgtPolicy s
  | 0xA08 => mgtFw s
  | 0xA70 => s.fuses.serial.toNat
  | 0xB00 => pwrStatus s
  | 0xB08 => s.pwr.capW
  | 0xB10 => pwrInput s.pwr
  | 0xB18 => pwrTemp s.pwr
  | _ =>
    if [0x18, 0x408, 0x410, 0x600, 0x608, 0x820, 0x828].contains o then raw
    else
      match oneOf o 0x100 8 32, oneOf o 0x700 16 5, oneOf o 0x708 16 5, oneOf o 0x900 8 16, oneOf o 0xA10 8 8, oneOf o 0xA50 8 4,
        oneOf o 0xA80 8 16 with
      | some x, _, _, _, _, _, _ => colMap s x
      | _, some m, _, _, _, _, _ => monGet s m
      | _, _, some _, _, _, _, _ => raw
      | _, _, _, some g, _, _, _ => grpStatus s g
      | _, _, _, _, some k, _, _ => le s.mgt.fw.digest (8 * k) 8
      | _, _, _, _, _, some k, _ => le (identityDigest s) (8 * k) 8
      | _, _, _, _, _, _, some q => (imageOf (partAt s q)).sigState % 4 + (imageOf (partAt s q)).keyIndex % 16 * 2 ^ 4
      | _, _, _, _, _, _, _ => 0

/-! ### Partition registers -/

/-- The scheduler's registers of a partition (R239, R240, R510). -/
def schView (s : State) (q r : Nat) : Nat :=
  let p := partAt s q
  match r with
  | 0x00 => p.state.code + (if p.state = .empty then 0 else p.origin % 16 * 2 ^ 8 + p.gw % 8 * 2 ^ 12 + p.gh % 8 * 2 ^ 15)
      + p.abortEpoch % 65536 * 2 ^ 24 + b2n p.purge.isSome * 2 ^ 40
  | 0x08 => p.ctx.step
  | 0x10 => p.ctx.firstTick
  | 0x40 => (imageOf p).id
  | 0x48 => le (imageOf p).digest 0 8
  | 0x50 => p.carve
  | 0x58 => p.resetEpoch % 65536
  | _ => if [0x18, 0x20, 0x28, 0x30, 0x38].contains r then regGet s (schReg q r) else 0

/-- The far-store registers of a partition (R285 to R287). -/
def fsView (s : State) (q r : Nat) : Nat :=
  let p := partAt s q
  if r = 0x80 then leNat ((p.quota.take 4).flatMap (toLe 2))
  else if r = 0x88 then p.bucketTokens / 1024 % 2 ^ 32 + min (regWaiting p) 0xFFFF * 2 ^ 32
  else
    match oneOf r 0 8 16 with
    | some k => (p.regions.getD k (0, 0)).1 % 2 ^ 32 + (p.regions.getD k (0, 0)).2 % 2 ^ 32 * 2 ^ 32
    | none => 0

/-- FS_CHAN (R284). -/
def chanView (s : State) (c : Nat) : Nat :=
  (chanAt s c).state % 8 + (chanAt s c).spares % 256 * 2 ^ 8 + field (regGet s (ctl (0x31000 + 8 * c))) 24 32 * 2 ^ 24

/-- The update engines' registers of a partition (R403 to R405, R447 to R450). -/
def updView (s : State) (q r : Nat) : Nat :=
  let p := partAt s q
  let raw := regGet s (updReg q r)
  let slots := (p.binding.map Binding.slots).getD []
  match r with
  | 0x08 => b2n p.ctx.nonfiniteSeen + 2 * b2n p.ctx.overdraftSeen + 4 * b2n p.ctx.wide + 8 * b2n p.ctx.skipLast
      + (if p.image.isNone then 0 else p.ctx.firstNf % 65536) * 2 ^ 8 + p.ctx.skippedSteps % 2 ^ 32 * 2 ^ 32
  | 0x10 => p.stashBase
  | 0x18 => p.settle.settledVer % 2 + 2 * b2n p.ctx.holding + 4 * b2n (slots.any EscrowSlot.catchUp) + (raw &&& 0x38)
      + p.settle.updateCount % 2 ^ 32 * 2 ^ 32
  | 0x40 => p.join.mode % 8 + p.join.memberDev % 65536 * 2 ^ 8 + min p.join.matched 0x1FFFF * 2 ^ 32 + field raw 49 15 * 2 ^ 49
  | 0x58 => (field raw 0 32 ^^^ 0x3F800000) + p.ctx.lrScale.toNat * 2 ^ 32
  | 0x60 => msgBytes p.settle.journal / 1024 % 2 ^ 24 + msgBytes p.settle.retention / 1024 % 2 ^ 24 * 2 ^ 24 + field raw 48 16 * 2 ^ 48
  | 0x00 | 0x48 | 0x50 => raw
  | _ =>
    match oneOf r 0x20 8 4 with
    | some i =>
      let e := slots.getD i {}
      e.role % 8 + e.dev % 65536 * 2 ^ 4 + (if 2 ≤ i then e.watermark % 2 ^ 22 else 0) * 2 ^ 32
    | none => 0

/-- The checkpoint registers of a partition (R474, R475). -/
def ckpView (s : State) (q r : Nat) : Nat :=
  let k := (partAt s q).ckpt
  match r with
  | 0x00 => b2n k.pending + 2 * b2n k.copy.isSome + 4 * b2n (k.copy.any (fun c => !c.waiting.isEmpty)) + (regGet s (ckpReg q 0) &&& 0x78)
      + (k.target.slots.filter (fun x => !x.2)).length % 8 * 2 ^ 8 + k.lastFail % 16 * 2 ^ 16
  | 0x08 => (k.copy.map CkptCopy.gen).getD 0
  | 0x10 => k.lastSealed
  | 0x18 => ((k.copy.map (fun c => c.copied.length)).getD 0) % 2 ^ 32 + ((k.copy.map (fun c => c.staged.length)).getD 0) % 2 ^ 32 * 2 ^ 32
  | _ => 0

/-- An anchor register (R115). -/
def anchorView (s : State) (q i : Nat) : Nat :=
  let p := partAt s q
  match layerOf p i with
  | none => 0
  | some l =>
    let a := p.anchors.at i {}
    unsigned 10 a.anchor + a.startRung % 4 * 2 ^ 10 + b2n a.established * 2 ^ 12 + l.headroom % 64 * 2 ^ 16 + a.lastRung % 4 * 2 ^ 24
      + b2n a.lastRepeat * 2 ^ 26 + l.tag % 65536 * 2 ^ 32

/-! ### Link, Ethernet and check-value registers -/

/-- Whether a port is a parent or child port of the timing tree (R326). -/
def timingPort (s : State) (p : Nat) : Bool := (List.range 16).any (fun k => (treeAt s k).timing && (treePorts (treeAt s k)).contains p)

/-- The link-port registers (R322 to R326); an absent port reads as zero (R333). -/
def lnkView (s : State) (p r : Nat) : Nat :=
  let x := portAt s p
  let raw := regGet s (lnkReg p r)
  let lanes (f : Lane → Bool) : Nat := ((withPos x.lanes).map (fun l => b2n (f l.2) * 2 ^ l.1)).foldl (· + ·) 0
  if portCount s ≤ p then 0
  else
    match r with
    | 0x00 => (if x.state < 2 then 0 else lanes (fun l => l.state = 0)) + x.state % 4 * 2 ^ 4 + b2n x.fecMode * 2 ^ 6
        + lanes (fun l => l.state = 3) * 2 ^ 8 + x.partnerPort % 16 * 2 ^ 12 + x.partnerDev % 65536 * 2 ^ 16 + b2n x.partnerSwitch * 2 ^ 32
    | 0x08 => b2n x.enable + 2 * b2n x.fecReq
    | 0x10 => raw
    | 0x38 => x.delay % 2 ^ 32 + b2n (x.delayValid && timingPort s p) * 2 ^ 32
    | _ =>
      match oneOf r 0x18 8 4 with
      | some l => raw % 2 ^ 32 + (x.lanes.getD l {}).state % 4 * 2 ^ 32
      | none => 0

/-- The tree registers (R327, R328). -/
def treeView (s : State) (k r : Nat) : Nat :=
  let t := treeAt s k
  if r = 0 then
    if t.valid then t.parent % 16 + b2n t.root * 2 ^ 4 + 2 ^ 5 + b2n t.timing * 2 ^ 6 + t.childMask.toNat * 2 ^ 8 + t.epoch % 2 ^ 32 * 2 ^ 32
    else 0
  else if r = 8 then
    t.lastTick % 2 ^ 24 + t.lastVote.toNat * 2 ^ 24 + t.suspectDev % 65536 * 2 ^ 32
      + field (regGet s (ctl (0x41008 + 0x20 * k))) 48 1 * 2 ^ 48
  else 0

/-- LNK_BUCKET (R406). -/
def bucketView (s : State) (q : Nat) : Nat :=
  ((partAt s q).buckets.filter (fun r => r.opened && !r.written)).length % 512 + field (regGet s (lnkBucket q)) 16 48 * 2 ^ 16

/-- The Ethernet-port registers (R331, R332). -/
def ethView (s : State) (e r : Nat) : Nat :=
  let l := s.conns.filter (fun c => c.port = e)
  if r = 0 then (ethAt s e).state % 4 + b2n (l.any (fun c => c.kind = 0)) * 4 + l.length % 2 ^ 17 * 2 ^ 8 + field (regGet s (ethReg e 0)) 32 1 * 2 ^ 32
  else if r = 8 then regGet s (ethReg e 8)
  else 0

/-- Whether a unit receives: the odd link and Ethernet units. -/
def isReceive (u : Nat) : Bool := decide (u < 40 ∧ u % 2 = 1)

/-- The check-value registers; the slot registers show the selected slot (R348 to R351). -/
def cvuView (s : State) (u r : Nat) : Nat :=
  let sel := (cvuAt s u).sel
  let c := cvSlotAt s u sel
  if !cvuPresent s u then 0
  else
    match r with
    | 0x00 => sel % 16
    | 0x08 => c.width % 128 + b2n c.refin * 2 ^ 7 + b2n c.refout * 2 ^ 8 + c.mode % 4 * 2 ^ 9 + b2n (c.verify || isReceive u) * 2 ^ 11
        + b2n c.cont * 2 ^ 12 + b2n c.hold * 2 ^ 13 + b2n c.valid * 2 ^ 14 + b2n (streamOpen s u sel) * 2 ^ 15
    | 0x10 => c.poly.toNat
    | 0x18 => c.init.toNat
    | 0x20 => c.xorout.toNat
    | 0x28 => c.run.toNat
    | 0x30 => c.expect.toNat
    | 0x38 => c.result.toNat
    | 0x40 => regGet s (cvuReg u 0x40)
    | _ => 0

/-! ### Reading -/

/-- A register of the control window by its offset; unassigned words are zero. -/
def ctlView (s : State) (o : Nat) : Nat :=
  if o < 0x1000 then devView s o
  else
    match blockOf o 0x20000 0x100 16, blockOf o 0x30000 0x100 16, oneOf o 0x31000 8 384, blockOf o 0x40000 0x100 16,
      blockOf o 0x41000 0x20 16, oneOf o 0x42000 0x20 16, blockOf o 0x50000 0x100 4, blockOf o 0x60000 0x80 48 with
    | some x, _, _, _, _, _, _, _ => schView s x.1 x.2
    | _, some x, _, _, _, _, _, _ => fsView s x.1 x.2
    | _, _, some c, _, _, _, _, _ => chanView s c
    | _, _, _, some x, _, _, _, _ => lnkView s x.1 x.2
    | _, _, _, _, some x, _, _, _ => treeView s x.1 x.2
    | _, _, _, _, _, some q, _, _ => bucketView s q
    | _, _, _, _, _, _, some x, _ => ethView s x.1 x.2
    | _, _, _, _, _, _, _, some x => cvuView s x.1 x.2
    | _, _, _, _, _, _, _, _ =>
      match blockOf o 0x70000 0x100 16, blockOf o 0x80000 0x100 16, oneOf o 0x100000 8 65536 with
      | some x, _, _ => updView s x.1 x.2
      | _, some x, _ => ckpView s x.1 x.2
      | _, _, some i => anchorView s (i / 4096) (i % 4096)
      | _, _, _ => 0

/-- A register by its device-local address; those of an absent tile read as zero (R3, R333). -/
def regView (s : State) (a : Nat) : Nat :=
  if isCtlAddr a then ctlView s (a - ctl 0) else if tilePresent s (tileOf a) then tileView s (tileOf a) (offOf a) else 0

/-- The RC fields of a tile register and of a control-window register. -/
def tileRc (o : Nat) : Nat :=
  match o with
  | 0x780100 => 0xFFFF0000
  | 0x780300 => 0xFFFFFFFF
  | 0x780308 => 0xFFFFFFFF00000000
  | 0x780808 => 0xFFFF00000000
  | _ => 0

def ctlRc (o : Nat) : Nat :=
  let all := 0xFFFFFFFFFFFFFFFF
  match o with
  | 0x220 => 0xFF000000
  | 0x408 | 0x600 => all
  | 0x480 => 0xFFFFFFFF00000000
  | 0x608 => 0xFFFFFFFFFFFF
  | _ =>
    match blockOf o 0x20000 0x100 16, oneOf o 0x31000 8 384, blockOf o 0x40000 0x100 16, oneOf o 0x42000 0x20 16, blockOf o 0x50000 0x100 4,
      blockOf o 0x60000 0x80 48, blockOf o 0x70000 0x100 16 with
    | some x, _, _, _, _, _, _ => if x.2 = 0x30 || x.2 = 0x38 then all else 0
    | _, some _, _, _, _, _, _ => 0xFFFFFFFF000000
    | _, _, some x, _, _, _, _ => if x.2 = 0x10 then 0xFFFFFFFFFFFFFF else if (oneOf x.2 0x18 8 4).isSome then 0xFFFFFFFF else 0
    | _, _, _, some _, _, _, _ => 0xFFFFFFFFFFFF0000
    | _, _, _, _, some x, _, _ => if x.2 = 8 then all else 0
    | _, _, _, _, _, some x, _ => if x.2 = 0x40 then 0xFFFFFFFF else 0
    | _, _, _, _, _, _, some x => if x.2 = 0x40 then 0xFFFE000000000000 else if x.2 = 0x60 then 0xFFFF000000000000 else 0
    | _, _, _, _, _, _, _ => 0

/-- The RC fields of a register. -/
def rcMask (a : Nat) : Nat := if isCtlAddr a then ctlRc (a - ctl 0) else tileRc (offOf a)

/-- A register's stored bits under a mask cleared. -/
def regClear (s : State) (a m : Nat) : State := if regGet s a &&& m = 0 then s else regPut s a (without (regGet s a) m)

/-- A read: the value, and the state with the RC fields cleared (R12). -/
def regRead (s : State) (a : Nat) : Nat × State := (regView s a % 2 ^ 64, regClear s a (rcMask a))

/-- A read by a row of its own, of a unit the map has: the value goes to the reader. -/
def readRow (s : State) (there : Bool) (a : Nat) : State :=
  if there then
    let r := regRead s a
    emit r.2 (.register a (word r.1))
  else s

/-! ### Writing -/

/-- The W1C fields of a tile register and of a control-window register. -/
def tileW1c (o : Nat) : Nat :=
  match o with
  | 0x780200 => 0xC000
  | 0x780300 => 0x2000000000
  | 0x780308 => 0x80
  | 0x780408 => 0x7F
  | 0x780600 => 7
  | 0x780800 => 0x1F
  | 0x780808 => 0xF
  | 0x780A00 => 3
  | _ => 0

def ctlW1c (o : Nat) : Nat :=
  match o with
  | 0x218 | 0x220 => 4
  | 0x410 => 0x1000000000000
  | 0xB00 => 0xF0000
  | _ =>
    match blockOf o 0x20000 0x100 16, blockOf o 0x40000 0x100 16, blockOf o 0x41000 0x20 16, blockOf o 0x50000 0x100 4,
      blockOf o 0x60000 0x80 48, blockOf o 0x70000 0x100 16, blockOf o 0x80000 0x100 16 with
    | some x, _, _, _, _, _, _ => if x.2 = 0x28 then 1 else 0
    | _, some x, _, _, _, _, _ => if x.2 = 0x10 then 0x700000000000000 else 0
    | _, _, some x, _, _, _, _ => if x.2 = 8 then 0x1000000000000 else 0
    | _, _, _, some x, _, _, _ => if x.2 = 0 then 0x100000000 else 0
    | _, _, _, _, some x, _, _ => if x.2 = 0x40 then 0x3000000000 else 0
    | _, _, _, _, _, some x, _ => if x.2 = 0x18 then 0x38 else 0
    | _, _, _, _, _, _, some x => if x.2 = 0 then 0x78 else 0
    | _, _, _, _, _, _, _ => 0

/-- A period write (R212, R235, R310): 1 to 1,249, or any value at a LOCKED module that is not the master, is discarded with REJECT. -/
def periodWrite (v : Word) (s : State) : State :=
  let n := field v.toNat 32 32
  if decide (1 ≤ n ∧ n < 1250) || (s.tick.locked && !s.tick.master) then regFlag s (ctl 0x218) 2
  else { s with tick := { s.tick with pendingPeriod := n } }

def periodAtWrite (v : Word) (s : State) : State := { s with tick := { s.tick with pendingAt := v.toNat } }

/-- DEV_ID, while every partition is EMPTY (R562). -/
def devIdWrite (v : Word) (s : State) : State :=
  if s.parts.all (fun x => x.2.state = .empty) then { s with devId := v.toNat % 65536, devIdValid := v.toNat.testBit 16 } else s

/-- PWR_CAP, held to 2,000 to 3,000 W (R555). -/
def capWrite (v : Word) (s : State) : State := modPwr s (fun p => { p with capW := min 3000 (max 2000 (v.toNat % 4096)) })

/-- DEV_TICK_REF: ENABLE, and EDGE_TICKS with 0 stored as 1; REF_LOST clears on 1 (R558). -/
def tickRefWrite (v : Word) (s : State) : State :=
  let n := field v.toNat 4 20
  let en := v.toNat.testBit 0
  let s1 := { s with tick := { s.tick with
    refEnable := en
    refInUse := s.tick.refInUse && en
    edgeTicks := if n = 0 then 1 else n } }
  if v.toNat.testBit 2 then regUnflag s1 (ctl 0x220) 2 else s1

/-- A write to a check-value unit's register: CVU_SEL anywhere, slot registers of general units only, and not while the slot's
partition is RUNNING or its stream is open (R344, R347). -/
def cvuWrite (u r : Nat) (v : Word) (s : State) : State :=
  let n := v.toNat
  let q := (cvuAt s u).sel
  if !cvuPresent s u then s
  else if r = 0 then modCvu s u (fun c => { c with sel := n % 16 })
  else if !isGeneral u || (partAt s q).state = .running || streamOpen s u q then s
  else
    modCvSlot s u q (fun c =>
      match r with
      | 0x08 => { c with
          width := n % 128
          refin := n.testBit 7
          refout := n.testBit 8
          mode := field n 9 2
          verify := n.testBit 11
          cont := n.testBit 12
          hold := n.testBit 13 }
      | 0x10 => { c with poly := v }
      | 0x18 => { c with init := v }
      | 0x20 => { c with xorout := v }
      | 0x28 => { c with run := v }
      | 0x30 => { c with expect := v }
      | _ => c)

/-- The tags of tallies 8·j to 8·j + 7, outside RUNNING; STREAM is kept (R186). -/
def tagsWrite (t j : Nat) (v : Word) (s : State) : State :=
  if tileRunning s t then s
  else (List.range 8).foldl (fun s b =>
    let k := 8 * j + b
    let new := BitVec.ofNat 8 (field v.toNat (8 * b) 8) &&& 0x2F
    modVec s t (fun x => { x with tags := x.tags.put k (new ||| (tallyTag s t k &&& 0x10)) })) s

/-- A write to a tile register: the rows of its own first, then its RW and W1C fields. -/
def tileWrite (t o : Nat) (v : Word) (s : State) : State :=
  let a := tileReg t o
  let n := v.toNat
  if !tilePresent s t then s
  else if o = 0x780430 then regPut s a (n % 4096)
  else if o = 0x780608 then windowWrite t true v s
  else if o = 0x780960 then regPut s a (n &&& 0x7F03)
  else
    match oneOf o 0x780820 8 8, oneOf o 0x780860 8 32, oneOf o 0x781000 8 128, oneOf o 0x781400 8 8 with
    | some k, _, _, _ => if tileRunning s t then s else modVec s t (fun x => { x with idx := setNth x.idx k (BitVec.ofNat 48 n) })
    | _, some i, _, _ =>
      if tileRunning s t || decide (i < 4) then s
      else modVec s t (fun x => { x with
        preds := setNth x.preds (i / 4) (BitVec.ofNat 256 (withField (x.preds.getD (i / 4) 0).toNat (64 * (i % 4)) 64 n)) })
    | _, _, some i, _ => tallyWrite t (i / 2) (i % 2) v s
    | _, _, _, some j => tagsWrite t j v s
    | _, _, _, _ => regClear s a (n &&& tileW1c o)

/-- A monitor's THRESHOLD and ENABLE; TRIPPED stays (R476). -/
def monWrite (m : Nat) (v : Word) (s : State) : State := monPut s m (v.toNat % 2 ^ 33 + field (monGet s m) 33 1 * 2 ^ 33)

/-- LR_SCALE_NEXT (R450). -/
def lrWrite (q : Nat) (v : Word) (s : State) : State := regSet s (updReg q 0x58) 0 32 (v.toNat % 2 ^ 32 ^^^ 0x3F800000)

/-- A write to a control-window register. -/
def ctlWrite (o : Nat) (v : Word) (s : State) : State :=
  let plain := regClear s (ctl o) (v.toNat &&& ctlW1c o)
  match o with
  | 0x28 => devIdWrite v s
  | 0x200 => periodWrite v s
  | 0x208 => periodAtWrite v s
  | 0x220 => tickRefWrite v s
  | 0xB08 => capWrite v s
  | _ =>
    match oneOf o 0x700 16 5, blockOf o 0x40000 0x100 16, blockOf o 0x60000 0x80 48, blockOf o 0x70000 0x100 16, oneOf o 0x100000 8 65536 with
    | some m, _, _, _, _ => monWrite m v s
    | _, some x, _, _, _ => if x.2 = 8 then lnkCfgWrite x.1 v s else plain
    | _, _, some x, _, _ => if x.2 = 0x40 then plain else cvuWrite x.1 x.2 v s
    | _, _, _, some x, _ => if x.2 = 0x58 then lrWrite x.1 v s else plain
    | _, _, _, _, some i => anchorWrite (i / 4096) (i % 4096) v s
    | _, _, _, _, _ => plain

/-- A write to a register by its device-local address, field by field under its access codes (R12, R13). -/
def regWrite (a : Nat) (v : Word) (s : State) : State :=
  if isCtlAddr a then ctlWrite (a - ctl 0) v s else tileWrite (tileOf a) (offOf a) v s

/-- Whether an address names a 64-bit register: aligned, in the control window or a tile's control registers. -/
def isRegAddr (a : Nat) : Bool := decide (a % 8 = 0) && (isCtlAddr a || (isTileAddr a && decide (windowPart (offOf a) = 4)))

/-! ### The rows -/

def execRegisterWrite (addr : Nat) (v : Word) (s : State) : Host.Outcome State Fault Refusal :=
  .next (if isRegAddr addr then regWrite addr v s else s)

def execDevTickPeriodWrite (v : Word) (s : State) : Host.Outcome State Fault Refusal := .next (periodWrite v s)

def execDevTickAtWrite (v : Word) (s : State) : Host.Outcome State Fault Refusal := .next (periodAtWrite v s)

def execDevIdWrite (v : Word) (s : State) : Host.Outcome State Fault Refusal := .next (devIdWrite v s)

def execPwrCapWrite (v : Word) (s : State) : Host.Outcome State Fault Refusal := .next (capWrite v s)

def execDevTickRefWrite (v : Word) (s : State) : Host.Outcome State Fault Refusal := .next (tickRefWrite v s)

def execCvuSlotWrite (u off : Nat) (v : Word) (s : State) : Host.Outcome State Fault Refusal :=
  .next (if u < 48 ∧ 8 ≤ off ∧ off ≤ 0x38 then cvuWrite u off v s else s)

def execVecErrRead (t : Nat) (s : State) : Host.Outcome State Fault Refusal := .next (readRow s (decide (t < 1024)) (tileReg t 0x780808))

def execNsErrRead (t : Nat) (s : State) : Host.Outcome State Fault Refusal := .next (readRow s (decide (t < 1024)) (tileReg t 0x780300))

def execNsDmaRead (t : Nat) (s : State) : Host.Outcome State Fault Refusal := .next (readRow s (decide (t < 1024)) (tileReg t 0x780308))

def execTileResetRead (t : Nat) (s : State) : Host.Outcome State Fault Refusal := .next (readRow s (decide (t < 1024)) (tileReg t 0x780100))

def execFsErrRead (s : State) : Host.Outcome State Fault Refusal := .next (readRow s true (ctl 0x408))

def execFcStatusRead (s : State) : Host.Outcome State Fault Refusal := .next (readRow s true (ctl 0x480))

def execFsChanRead (c : Nat) (s : State) : Host.Outcome State Fault Refusal := .next (readRow s (decide (c < 384)) (ctl (0x31000 + 8 * c)))

def execSchSpecRead (q : Nat) (s : State) : Host.Outcome State Fault Refusal := .next (readRow s (decide (q < 16)) (schReg q 0x30))

def execSchSpec2Read (q : Nat) (s : State) : Host.Outcome State Fault Refusal := .next (readRow s (decide (q < 16)) (schReg q 0x38))

def execLnkErrRead (p : Nat) (s : State) : Host.Outcome State Fault Refusal := .next (readRow s (decide (p < 16)) (lnkReg p 0x10))

def execLnkLaneRead (p l : Nat) (s : State) : Host.Outcome State Fault Refusal := .next (readRow s (decide (p < 16 ∧ l < 4)) (lnkReg p (0x18 + 8 * l)))

def execLnkFabricRead (s : State) : Host.Outcome State Fault Refusal := .next (readRow s true (ctl 0x600))

def execLnkFabric2Read (s : State) : Host.Outcome State Fault Refusal := .next (readRow s true (ctl 0x608))

def execEthErrRead (e : Nat) (s : State) : Host.Outcome State Fault Refusal := .next (readRow s (decide (e < 4)) (ethReg e 8))

def execCvuStatusRead (u : Nat) (s : State) : Host.Outcome State Fault Refusal := .next (readRow s (decide (u < 48)) (cvuReg u 0x40))

def execLnkBucketRead (q : Nat) (s : State) : Host.Outcome State Fault Refusal := .next (readRow s (decide (q < 16)) (lnkBucket q))

def execUpdJoinRead (q : Nat) (s : State) : Host.Outcome State Fault Refusal := .next (readRow s (decide (q < 16)) (updReg q 0x40))

def execUpdJournalRead (q : Nat) (s : State) : Host.Outcome State Fault Refusal := .next (readRow s (decide (q < 16)) (updReg q 0x60))

def execDevTickRefRead (s : State) : Host.Outcome State Fault Refusal := .next (readRow s true (ctl 0x220))

end Sys2Proof.Machine
end

