-- ==== Sys2Proof/Machine/Access.lean ====
section
/-! DEFINITION. Host RDMA and the control mesh (R14, R29 to R31, R142, R232, R242, R243, R246, R278, R317, R372, R490, R512): the meanings of
HOST_RDMA_READ, HOST_RDMA_WRITE, HOST_SEND_DATA, ATOMIC_REQUEST and CONTROL_MESH_REQUEST. -/

namespace Sys2Proof.Machine

/-! ### What an access reaches -/

/-- One stretch of an access within one region: its address and bytes. -/
abbrev Span := Nat × Nat

/-- The stretches of an access to tile windows, cut where a window part ends; the fuel bounds their number. -/
def tileSpans : Nat → Nat → Nat → List Span
  | 0, _, _ => []
  | fuel + 1, a, n =>
    if n = 0 then []
    else
      let k := min n (tileBase (tileOf a) + partEnd (windowPart (offOf a)) - a)
      (a, k) :: tileSpans fuel (a + k) (n - k)

/-- Regions of the reserve, by offset and size: the dump region, and the device records (R275). -/
def dumpRegion (s : State) : Span := if isHbm s then (9 * 2 ^ 30, 4 * 2 ^ 30) else (2304 * 2 ^ 20, 768 * 2 ^ 20)
def recordsRegion (s : State) : Span := if isHbm s then (0, 2 ^ 30) else (0, 2 ^ 28)

/-- Whether an access lies in a region of the reserve. -/
def inReserve (a n : Nat) (r : Span) : Bool := decide (fsBase + r.1 ≤ a ∧ a + n ≤ fsBase + r.1 + r.2)

/-- Whether a tile is being reset, alone, with its group, or with its partition (R490). -/
def tileInReset (s : State) (t : Nat) : Bool :=
  (tileAt s t).resetting || (partOfTile s t).any (fun q => (partAt s q).resetting)

/-- Whether the host may reach one stretch of a tile window: a tile that is there and not being reset; a register at its eight bytes and
through a running controller; the memories behind the packet layer only in a partition that answers there, which one that has faulted
does not until it is loaded again (R14, R31, R232). -/
def tileSpanOk (s : State) (x : Span) : Bool :=
  let t := tileOf x.1
  tilePresent s t && !tileInReset s t
    && (if windowPart (offOf x.1) = 4 then decide (x.1 % 8 = 0 ∧ x.2 % 8 = 0) && s.mgt.running else !tileGone s t 1024)

/-- The registers that the boot responder serves (R512). -/
def bootServes (o : Nat) : Bool :=
  o = 0x08 || o = 0x10 || o = 0x18 || o = 0x210 || o = 0xA00 || o = 0xA08 || (oneOf o 0xA10 8 8).isSome || (oneOf o 0xA50 8 4).isSome
    || o = 0xA70 || (oneOf o 0xA80 8 16).isSome

/-- The registers that the Ethernet engine serves from its own copies, without the management controller (R372). -/
def engineServes (o : Nat) : Bool := o = 0x10 || o = 0x18 || o = 0x210

/-- The registers of an access. -/
def regsOf (a n : Nat) : List Nat := (List.range (n / 8)).map (fun i => a + 8 * i)

/-- Where an access goes. -/
inductive Target where
  | regs | tile | far | records | refused
deriving DecidableEq, Repr

/-- What decides a host access (R14, R31, R243, R278, R372, R490, R512). -/
def target (s : State) (a n : Nat) (write : Bool) : Target :=
  if isCtlAddr a then
    if a % 8 ≠ 0 || n % 8 ≠ 0 || 0xFF100000000 < a + n then .refused
    else if s.dev = .boot then (if write || (regsOf a n).any (fun r => !bootServes (r - ctl 0)) then .refused else .regs)
    else if !s.mgt.running && (write || (regsOf a n).any (fun r => !engineServes (r - ctl 0))) then .refused
    else .regs
  else if s.dev = .boot then .refused
  else if isTileAddr a then
    if 0x200000000 < a + n || (tileSpans (n + 1) a n).any (fun x => !tileSpanOk s x) then .refused else .tile
  else if !within a n fsBase (fsCapacity s) || s.fs.resetting then .refused
  else if fsBase + reserveBytes s ≤ a then .far
  else if write then .refused
  else if inReserve a n (dumpRegion s) then .far
  else if inReserve a n (recordsRegion s) then .records
  else .refused

/-! ### Reads -/

/-- Registers read one by one: their bytes, and the state with their RC fields cleared. -/
def readRegs (s : State) (l : List Nat) : List Byte × State :=
  let r := l.foldl (fun (x : List (List Byte) × State) a =>
    let v := regRead x.2 a
    (toLe 8 v.1 :: x.1, v.2)) ([], s)
  (r.1.reverse.flatten, r.2)

/-- One stretch of a tile window read; a till word with a double-bit error refuses the read (R142). -/
def readSpan (s : State) (x : Span) : List Byte × Bool × State :=
  match windowPart (offOf x.1) with
  | 2 =>
    let r := tillTouch s x.1 x.2 0
    (spanRead r.2 x.1 x.2, r.1, r.2)
  | 4 =>
    let r := readRegs s (regsOf x.1 x.2)
    (r.1, false, r.2)
  | _ =>
    let r := spanFetch s x.1 x.2 false
    (r.1, false, r.2.2)

/-- The stretches of a tile access read in order. -/
def readSpans (s : State) (l : List Span) : List Byte × Bool × State :=
  l.foldl (fun (x : List Byte × Bool × State) sp =>
    let r := readSpan x.2.2 sp
    (x.1 ++ r.1, x.2.1 || r.2.1, r.2.2)) ([], false, s)

/-- A packet marked Congestion Experienced is answered with a notification, at most one in 50 µs on a connection (R318, R332). -/
def answerMark (s : State) (qpn : Nat) (marked : Bool) : State :=
  match connAt s qpn with
  | none => s
  | some c =>
    if !marked || c.cnpAt.any (fun t => decide (s.cycle < t + 62500)) then s
    else emit (regBump (modConn s qpn (fun c => { c with cnpAt := some s.cycle })) (ethReg c.port 8) 32 16 1) (.cnp qpn)

/-- The codewords of a connection's frame counted at its port (R332). -/
def ethCodewords (s : State) (qpn : Nat) (cw : Codewords) : State :=
  match connAt s qpn, cw with
  | none, _ | _, .clean => s
  | some c, .corrected _ => regBump s (ethReg c.port 8) 0 16 1
  | some c, .uncorrectable => regBump s (ethReg c.port 8) 16 16 1

/-- What a frame brings on a connection: nothing where its codewords are uncorrectable; a mark is answered first (R318, R332). -/
def arriving (s : State) (via : Carried) (go : State → State) : State :=
  let s1 := ethCodewords s via.qpn via.cw
  if via.cw = .uncorrectable then s1 else go (answerMark s1 via.qpn via.marked)

/-- HOST_RDMA_READ. A poisoned line reads as the bytes it holds. -/
def rdmaRead (qpn a n : Nat) (s : State) : State :=
  if (connAt s qpn).isNone then s
  else
    match target s a n false with
    | .refused => emit s (.rdmaRefused qpn)
    | .regs =>
      let r := readRegs s (regsOf a n)
      emit r.2 (.rdmaReadReply qpn r.1)
    | .tile =>
      let r := readSpans s (tileSpans (n + 1) a n)
      if r.2.1 then emit r.2.2 (.rdmaRefused qpn) else emit r.2.2 (.rdmaReadReply qpn r.1)
    | .far =>
      let r := spanFetch s a n false
      emit r.2.2 (.rdmaReadReply qpn r.1)
    | .records =>
      let k := drawFresh s
      emit k.2 (.rdmaReadReply qpn ((List.range n).map (fun i => Config.deviceRecord (a + i - fsBase) k.1)))

def execHostRdmaRead (via : Carried) (addr len : Nat) (s : State) : Host.Outcome State Fault Refusal :=
  .next (arriving s via (rdmaRead via.qpn addr len))

/-! ### Writes -/

/-- Registers written one by one. -/
def writeRegs (s : State) (a : Nat) (d : List Byte) : State :=
  (withPos (pieces 8 d)).foldl (fun s x => regWrite (a + 8 * x.1) (word (leNat x.2)) s) s

/-- The stretches of a tile access written. -/
def writeSpans (s : State) (a : Nat) (d : List Byte) (l : List Span) : State :=
  l.foldl (fun s x =>
    let b := slice d (x.1 - a) x.2
    if windowPart (offOf x.1) = 4 then writeRegs s x.1 b else spanWrite s x.1 b) s

/-- HOST_RDMA_WRITE. -/
def rdmaWrite (qpn a : Nat) (d : List Byte) (s : State) : State :=
  if (connAt s qpn).isNone then s
  else
    match target s a d.length true with
    | .refused | .records => emit s (.rdmaRefused qpn)
    | .regs => emit (writeRegs s a d) (.rdmaAck qpn)
    | .tile => emit (writeSpans s a d (tileSpans (d.length + 1) a d.length)) (.rdmaAck qpn)
    | .far => emit (spanWrite s a d) (.rdmaAck qpn)

def execHostRdmaWrite (via : Carried) (addr : Nat) (data : List Byte) (s : State) : Host.Outcome State Fault Refusal :=
  .next (arriving s via (rdmaWrite via.qpn addr data))

/-- HOST_SEND_DATA: a SEND on a host-data connection is acknowledged; no rule names a place for its bytes. -/
def hostSendData (qpn : Nat) (s : State) : State := if (connAt s qpn).any (fun c => c.kind = 1) then emit s (.rdmaAck qpn) else s

def execHostSendData (via : Carried) (_data : List Byte) (s : State) : Host.Outcome State Fault Refusal :=
  .next (arriving s via (hostSendData via.qpn))

/-- ATOMIC_REQUEST: an Invalid Request NAK, and the connection enters the error state. -/
def atomicRequest (qpn : Nat) (s : State) : State :=
  if (connAt s qpn).isNone then s else closeConn (emit s (.nak qpn nakInvalid)) qpn

def execAtomicRequest (qpn : Nat) (s : State) : Host.Outcome State Fault Refusal := .next (atomicRequest qpn s)

/-! ### The control mesh (R29, R30, R246) -/

/-- Whether the test port of a bank may take a cycle now: at most one in any 16. -/
def testPortFree (s : State) (t bank : Nat) : Bool :=
  match (tileAt s t).testPort.find bank with
  | none => true
  | some c => decide (c + 16 ≤ s.cycle)

/-- A 64-bit word of a tile's state read or written by its agent; in the near store ahead of every queued request. -/
def agentWord (s : State) (a : Nat) (write : Option Word) : State :=
  let near := windowPart (offOf a) = 0
  match write with
  | some v => if near then nsStore s a (toLe 8 v.toNat) else spanWrite s a (toLe 8 v.toNat)
  | none =>
    let r := if near then nsFetch s a 8 else spanFetch s a 8 false
    emit r.2.2 (.register a (word (leNat r.1)))

/-- CONTROL_MESH_REQUEST: one 64-bit register or word of tile t, at a tile-window offset. A test-port access that finds its bank's
cycle taken waits, and so changes nothing yet. -/
def controlMesh (t off : Nat) (write : Option Word) (s : State) : State :=
  let a := tileReg t off
  let bank := off / 64 % 32
  if !tilePresent s t || off % 8 ≠ 0 || decide (0x800000 ≤ off) then s
  else if windowPart off = 4 then
    match write with
    | some v => regWrite a v s
    | none => readRow s true a
  else if windowPart off = 0 then
    if testPortFree s t bank then agentWord (modTile s t (fun x => { x with testPort := x.testPort.put bank s.cycle })) a write else s
  else agentWord s a write

def execControlMeshRequest (t off : Nat) (write : Option Word) (s : State) : Host.Outcome State Fault Refusal :=
  .next (controlMesh t off write s)

end Sys2Proof.Machine
end

