-- ==== Sys2Proof/Machine/Dump.lean ====
section
/-! DEFINITION. The crash dump (R363, R369, R496 to R500, R507): the meanings of DUMP, DUMP_UNIT and DUMP_REQUEST_TIMEOUT. -/

namespace Sys2Proof.Machine

/-! ### Records (R499, R500) -/

/-- A unit's trace ring: 4,096 entries of tick, event code and argument, the oldest first, unused entries zero. -/
def traceBytes (s : State) (kind idx : Nat) : List Byte :=
  padTo 65536 ((s.mgt.trace.at (unitKey kind idx) []).reverse.flatMap (fun e => toLe 8 e.1 ++ toLe 2 e.2.1 ++ toLe 6 e.2.2))

/-- A tile record; `key` is the moment's number of its scheduler and engine context. -/
def tileRecord (s : State) (t key : Nat) : List Byte :=
  let d := (tileAt s t).drain
  ((List.range 0xE00).flatMap (fun i => toLe 8 (tileView s t (0x780000 + 8 * i))))
    ++ padTo 0x18000 (Config.contextRecord key) ++ accRead d false 0x80000 0x11000 ++ traceBytes s 6 t
    ++ readBytes s.mem (tileReg t 0x700000) 0x40000 ++ accRead d true 0 0x100000

/-- A unit's record with the place of its trace ring in it. -/
def unitBytes (s : State) (whole : Bool) (u : Nat × Nat) (key : Nat) : List Byte × Nat :=
  if u.1 = 6 then ((tileRecord s u.2 key).take (if whole then 0x180000 else 0x40000), 0x30000)
  else (Config.unitRecord key, Config.unitTraceAt u.1)

/-- The units of the walk, in order (R497). -/
def walkUnits (s : State) : List (Nat × Nat) :=
  [(0, 0), (1, 0), (2, 0), (3, 0)] ++ ((List.range 48).filter (cvuPresent s)).map (fun u => (4, u))
    ++ (List.range (groupCount s)).flatMap (fun g => (5, g) :: ((groupTiles g).filter (tilePresent s)).map (fun t => (6, t)))

/-- Whether a test of a unit is running (R498). -/
def unitTesting (s : State) (u : Nat × Nat) : Bool :=
  (u.1 = 6 && (tileAt s u.2).testing) || s.mgt.tests.any (fun t => t.started && (testUnits t.kind t.idx).contains u && t.kind ≠ 6)

/-! ### Destinations (R496) -/

/-- Bytes of the largest dump sent to a host. -/
def fullDump : Nat := 0x80000000

/-- The slot of a new dump: the one that does not hold the newer valid dump. -/
def dumpSlot (s : State) : Nat :=
  let last := field (regGet s (ctl 0x818)) 3 1
  if isHbm s && s.mgt.dumpValid.getD last false then 1 - last else if isHbm s && s.mgt.dumpValid.getD 0 false then 1 else 0

/-- A dump's bytes written at an offset of its destination; nothing goes through a marked far-store engine. -/
def dumpWrite (s : State) (d : DumpRun) (off : Nat) (b : List Byte) : State :=
  if d.toHost then emit s (.bulkWrite d.host d.seq (d.addr + off) d.rkey b)
  else if s.mgt.marked.contains (2, 0) then s
  else spanWrite s (d.addr + off) b

/-- The walk begins towards the host or the dump region; `silent` where no record can be sent. -/
def beginWalk (s : State) (c : Cmd) (toHost silent : Bool) (from_ : DevState) : State :=
  let slot := dumpSlot s
  let d : DumpRun := {
    host := if silent then 4 else c.host
    seq := c.seq
    toHost := toHost
    addr := if toHost then c.bulkAddr else fsBase + (dumpRegion s).1 + slot * 2 ^ 31
    rkey := c.bulkRkey
    slot := slot
    todo := walkUnits s
    bytes := 65536
    from_ := from_ }
  let s1 := modMgt s (fun m =>
    { m with
      dump := some d
      dumpValid := if toHost then m.dumpValid else setNth m.dumpValid slot false })
  if silent then dropCmd s1 c.host c.seq else modCmd s1 c.host c.seq (fun c => { c with phase := 2 })

/-- An engine's probe: it answers unless it is marked; a silent one is marked UNRESPONSIVE (R496, R498). -/
def probe (s : State) (u : Nat × Nat) (answers : Bool) : Bool × State :=
  if s.mgt.marked.contains u then (false, s)
  else if answers then (true, s)
  else (false, modMgt s (fun m => { m with marked := m.marked ++ [u] }))

/-- The active partitions stopped for the walk (R369). -/
def dumpHalt (s : State) : State :=
  (List.range 16).foldl (fun s q =>
    let st := (partAt s q).state
    if st = .running || st = .held || st = .aborting then haltPart s q else s) s

/-- DUMP. -/
def dump (h seq : Nat) (fsAnswers ethAnswers : Bool) (s : State) : State :=
  startCmd s h seq opDump (fun s c =>
    withChecks s c (check (decide (1 < c.arg0)) stBadField 16 ++ check (decide (c.arg0 = 1 ∧ c.bulkLen < fullDump)) stBadLength 40) (fun s =>
      let from_ := s.dev
      let a := probe (setDev (dumpHalt s) .dump) (2, 0) fsAnswers
      let b := probe a.2 (1, 0) ethAnswers
      match a.1, b.1 with
      | false, false => setDev (logEntry (dropCmd b.2 c.host c.seq) 0x12 0 0xFF []) from_
      | true, true => beginWalk b.2 c (decide (c.arg0 = 1)) false from_
      | true, false => beginWalk b.2 c false true from_
      | false, true =>
        if fullDump ≤ c.bulkLen then beginWalk b.2 c true false from_ else setDev (complete b.2 c stNoResource 0 0 0 0) from_))

def execDump (h seq : Nat) (fsAnswers ethAnswers : Bool) (s : State) : Host.Outcome State Fault Refusal :=
  .next (dump h seq fsAnswers ethAnswers s)

/-! ### The walk (R497, R498) -/

/-- The walk, unless a warm reset has overtaken it or its controller stands still. -/
def walking (s : State) : Option DumpRun :=
  if s.mgt.running && !s.mgt.resets.any (fun r => r.domain = 8) then s.mgt.dump else none

/-- A unit's bytes written and entered in the directory. -/
def walkPast (s : State) (d : DumpRun) (u : Nat × Nat) (rest : List (Nat × Nat)) (status : Nat) (b : List Byte × Nat) : State :=
  let s1 := dumpWrite s d d.bytes b.1
  modMgt s1 (fun m => { m with dump := some { d with
    todo := rest
    dir := d.dir ++ [(unitKey u.1 u.2, status, d.bytes, b.1.length, d.bytes + b.2)]
    bytes := d.bytes + b.1.length } })

/-- Units of a walk marked UNRESPONSIVE. -/
def unresponsive (d : DumpRun) : Nat := (d.dir.filter (fun e => e.2.1 = 1)).length

/-- The header and directory (R500). -/
def dumpHead (s : State) (d : DumpRun) : List Byte :=
  let head := [0x44, 0x52, 0x44, 0x50] ++ toLe 2 1 ++ [0, 0] ++ toLe 8 (now s) ++ toLe 8 s.incarnation ++ toLe 8 (devCaps s)
    ++ toLe 4 d.dir.length ++ toLe 4 (unresponsive d) ++ toLe 8 1
  let entry (e : Nat × Nat × Nat × Nat × Nat) : List Byte :=
    toLe 1 (e.1 / 2048) ++ [0] ++ toLe 2 e.2.1 ++ toLe 4 (e.1 % 2048) ++ toLe 8 e.2.2.1 ++ toLe 8 e.2.2.2.1 ++ toLe 8 e.2.2.2.2
  padTo 65536 (padTo 64 head ++ d.dir.flatMap entry)

/-- The walk's end: the header last, the DUMP entry, the state it left, the command's record. -/
def endWalk (s : State) (d : DumpRun) : State :=
  let r := ctl 0x818
  let landed := d.toHost || !s.mgt.marked.contains (2, 0)
  let s1 := logEntry (dumpWrite s d 0 (dumpHead s d)) 0x12 0 0xFF []
  let s2 := regSet (regSet (regSet s1 r 4 1 (b2n d.toHost)) r 16 12 (unresponsive d)) r 32 32 d.bytes
  let s3 := if d.toHost || !landed then s2 else regSet s2 r 3 1 d.slot
  let s4 := modMgt s3 (fun m =>
    { m with
      dump := none
      dumpValid := if d.toHost || !landed then m.dumpValid else setNth m.dumpValid d.slot true })
  let s5 := setDev s4 d.from_
  match cmdAt s5 d.host d.seq with
  | some c => complete s5 c stOk d.bytes (unresponsive d) 0 (if d.toHost then d.bytes else 0)
  | none => s5

/-- DUMP_UNIT: the next unit is read: a marked or tested one its trace ring only; after the last the header is written. -/
def dumpUnit (s : State) : State :=
  match walking s with
  | none => s
  | some d =>
    match d.todo with
    | [] => endWalk s d
    | u :: rest =>
      if s.mgt.marked.contains u then walkPast s d u rest 1 (traceBytes s u.1 u.2, 0)
      else if unitTesting s u then walkPast s d u rest 2 (traceBytes s u.1 u.2, 0)
      else
        let k := drawFresh s
        walkPast k.2 d u rest 0 (unitBytes s (d.toHost || isHbm s) u k.1)

def execDumpUnit (s : State) : Host.Outcome State Fault Refusal := .next (dumpUnit s)

/-- DUMP_REQUEST_TIMEOUT: the unit being read does not answer: it is marked, and only its trace ring is read. -/
def dumpTimeout (s : State) : State :=
  match walking s with
  | none => s
  | some d =>
    match d.todo with
    | [] => s
    | u :: rest =>
      if s.mgt.marked.contains u || unitTesting s u then s
      else walkPast (modMgt s (fun m => { m with marked := m.marked ++ [u] })) d u rest 1 (traceBytes s u.1 u.2, 0)

def execDumpRequestTimeout (s : State) : Host.Outcome State Fault Refusal := .next (dumpTimeout s)

end Sys2Proof.Machine
end

