-- ==== Sys2Proof/Machine/Escrow.lean ====
section
/-! DEFINITION. The update engines' ranges and the escrow (R411 to R413, R421 to R425, R443, R460): the meanings of UPDATE_RANGE,
ESCROW_PASS and CATCH_UP_UNIT. -/

namespace Sys2Proof.Machine

/-! ### Forwarding to keepers (R422) -/

/-- Whether a keeper slot receives forward blocks: it is ACTIVE or COPYING. -/
def keeps (e : EscrowSlot) : Bool := decide (e.role = 1 ∨ e.role = 2)

/-- Whom a range's gradients are forwarded to: flow, device, first kind of place. -/
structure Receiver where
  flow : Nat
  dev : Nat
  kind : Nat
deriving DecidableEq, Repr, Inhabited

/-- The receivers of a partition's gradients: its keepers, and a served shadow until it computes (R422, R439). -/
def receivers (s : State) (p : Part) (q : Nat) : List Receiver :=
  (((List.range 2).map (escrowSlot p)).filter keeps).map (fun e => ⟨e.flow, e.dev, 0⟩)
    ++ match p.join.serves with
      | some g => if p.join.servedStep.all (fun st => decide (p.ctx.step < st + 2)) then
          [⟨g, ((flowAt s q g).map Flow.dstDev).getD 0, atShadow⟩] else []
      | none => []

/-- A forward message, which outbound retention does not hold (R417). -/
def forwardMsg (s : State) (q : Nat) (x : Receiver) (tick kind n off : Nat) (data : List Byte) : State :=
  enqueue s q x.flow 1 (Config.partnerAddress x.dev x.flow (x.kind + kind) n + off) tick data [] false false false .send

/-- The forward values that precede a step's first block: step, k, lr_scale. -/
def forwardHeader (s : State) (q : Nat) (i : Receiver) (tick : Nat) : State :=
  let p := partAt s q
  let s1 := forwardMsg s q i tick atForward 0 0 (toLe 8 p.ctx.step)
  let s2 := forwardMsg s1 q i tick atForward 1 0 (toLe 4 (p.settle.updateCount + 1))
  forwardMsg s2 q i tick atForward 2 0 (toLe 4 p.ctx.lrScale.toNat)

/-- The part of hold block b that a recipe's parameters take: gradients from parameter lo up to hi, and the flag byte. -/
def forwardBlock (q : Nat) (i : Receiver) (tick : Nat) (r : Recipe) (s : State) (b : Nat) : State :=
  let p := partAt s q
  let lo := max (32 * b) r.first
  let hi := min (32 * b + 32) (r.first + r.count)
  let grads := (countFrom lo (hi - lo)).flatMap (fun n => toLe 4 (gradientOf s p r n).1)
  let flag := [(gradientOf s p r lo).2, 0, 0, 0]
  if lo = 32 * b && (hi = 32 * b + 32 || hi = shardSize p) then forwardMsg s q i tick atHold b 0 (slice grads 0 128 ++ flag)
  else forwardMsg (forwardMsg s q i tick atHold b (4 * (lo - 32 * b)) grads) q i tick atHold b 128 flag

/-- Every block of a range sent to one receiver. -/
def forwardRange (s : State) (q tick : Nat) (r : Recipe) (first : Bool) (i : Receiver) : State :=
  let s1 := if first then forwardHeader s q i tick else s
  (countFrom (r.first / 32) ((r.first + r.count + 31) / 32 - r.first / 32)).foldl (forwardBlock q i tick r) s1

/-! ### UPDATE_RANGE (R413) -/

/-- The tile and actor whose work a started range is. -/
def rangeOwner (s : State) (q i : Nat) : Option (Nat × Nat) :=
  (partTiles (partAt s q)).findSome? (fun t =>
    ((tileAt s t).sched.updates.find? (fun u => u.2 = i)).map (fun u => (t, u.1)))

/-- The pinned granules that a range's writes meet (R460). -/
def rangePins (p : Part) (r : Recipe) : List Nat :=
  (granulesTouched r.first (r.first + r.count)).filter (fun j => granulePinned p (altVer p) j)

/-- The units of a keeper's first copy that a range's update would read, sent before it (R425). -/
def copyBefore (s : State) (q : Nat) (r : Recipe) (i : Nat) : State :=
  let n := (r.first + r.count - 1) / unitParams + 1
  iter (fun s => if (escrowSlot (partAt s q) i).copied < n then copyToKeeper s q i else s) n s

/-- The same of the copy to a served shadow (R439). -/
def copyShadowBefore (s : State) (q : Nat) (r : Recipe) : State :=
  let n := (r.first + r.count - 1) / unitParams + 1
  iter (fun s => if (partAt s q).join.serves.isSome && (partAt s q).join.served < n then copyToShadow s q else s) n s

/-- Whether the present tick is a settlement or hold tick, or such a tick's result is awaited. -/
def settling (s : State) (p : Part) : Bool :=
  (p.ctx.active && decide (offsetOf p (now s) + 1 = (imageOf p).ticksPerStep)) || p.ctx.holding || p.ctx.waitResult

/-- Fingerprints that have become known sent in a settlement or hold tick (R426). -/
def printsIfSettling (s : State) (q : Nat) : State := if settling s (partAt s q) then sendFprints s q else s

/-- The far-store spans that a range's update reads, and those it writes (R411, R413). -/
def rangeReads (p : Part) (r : Recipe) : List (Nat × Nat) :=
  (paramAddr p p.settle.settledVer r.first, 12 * r.count) :: (match bucketRec p r.bucket with
    | some k => [(imageAddr p k.dst + 128 * r.block, 4 * r.count), (imageAddr p k.flagsAddr + r.block, (r.count + 31) / 32)]
    | none => [])
def rangeWrites (p : Part) (r : Recipe) : List (Nat × Nat) :=
  (paramAddr p (altVer p) r.first, 12 * r.count) :: (if r.narrowOut then [(r.narrowAddr, 2 * r.count)] else [])

/-- A range's lines read by the update engines: the state after, and the parameters that met a poisoned line. -/
def readRange (s : State) (q : Nat) (r : Recipe) : State × List Nat :=
  let p := partAt s q
  let s1 := (rangeReads p r).foldl (fun s x => (spanFetch s x.1 x.2 false).2.2) s
  let grad (n : Nat) : Bool := match bucketRec p r.bucket with
    | some k => spanPoisoned s1 (imageAddr p k.dst + 128 * r.block + 4 * (n - r.first)) 4
        || spanPoisoned s1 (imageAddr p k.flagsAddr + r.block + (n - r.first) / 32) 1
    | none => false
  (s1, (countFrom r.first r.count).filter (fun n => spanPoisoned s1 (paramAddr p p.settle.settledVer n) 12 || grad n))

/-- A range's update, its narrow conversions audited, poison carried from what it reads to what it writes (R254). DESIGN CHOICE (log
entry 73): R413 names no stop of the update engines. -/
def runRange (s : State) (q i : Nat) (r : Recipe) : State :=
  let x := readRange s q r
  let s1 := auditNarrow (applyRange x.1 q i) q i
  let p := partAt s1 q
  x.2.foldl (fun s n =>
    let s2 := poisonSpan s (paramAddr p (altVer p) n) 12
    if r.narrowOut then poisonSpan s2 (r.narrowAddr + 2 * (n - r.first)) 2 else s2) s1

/-- UPDATE_RANGE: a started range applied once its far-store requests have entered (R273); it waits for pinned granules, and a cold newcomer sets it aside (R443, R460). -/
def updateRange (q i : Nat) (s : State) : State :=
  let p := partAt s q
  match rangeOwner s q i, (ownRecipes p)[i]? with
  | some (t, a), some r =>
    if isIncomplete p then s
    else if !(rangePins p r).isEmpty then
      modCkpt s q (fun k => { k with copy := k.copy.map (fun c =>
        { c with waiting := (rangePins p r).foldl insertNat c.waiting }) })
    else charged s q engUpdate (rangeReads p r ++ rangeWrites p r) (fun s =>
      let tick := match actorRec s t a with | some x => assignedTick p x | none => now s
      let s1 := copyShadowBefore ((List.range 2).foldl (fun s k => copyBefore s q r k) s) q r
      let s2 := (receivers s1 p q).foldl (fun s k => forwardRange s q tick r p.settle.rangesDone.isEmpty k) s1
      let s4 := modSched (runRange s2 q i r) t (fun c => { c with updates := c.updates.filter (fun u => u ≠ (a, i)) })
      printsIfSettling (noteFinish s s4 t) q)
  | _, _ => s

def execUpdateRange (q r : Nat) (s : State) : Host.Outcome State Fault Refusal := .next (updateRange q r s)

/-! ### ESCROW_PASS and CATCH_UP_UNIT (R423, R424) -/

/-- Whether block b of owner k's hold has come whole in the unsettled step: each parameter's gradient, and the flag byte. -/
def blockArrived (p : Part) (k b : Nat) : Bool :=
  let e := escrowSlot p (2 + k)
  let has (x n : Nat) : Bool := e.arrived.any (fun r => decide (r.1 ≤ x ∧ x + n ≤ r.2.1))
  (List.range (min 32 (ownerParams p k - 32 * b))).all (fun j => has (132 * b + 4 * j) 4) && has (132 * b + 128) 1

/-- ESCROW_PASS: the next block of an owner's hold, arrived in the step, is folded into the escrow fingerprint. It reads the
represented state, so its unit's catch-up has passed. -/
def escrowPass (q k b : Nat) (s : State) : State :=
  let p := partAt s q
  let e := escrowSlot p (2 + k)
  let held := decide ((forwardValues s p k).1 = p.ctx.step) && blockArrived p k b
  if 2 ≤ k || e.passDone ≠ b || ownerBlocks p k ≤ b || !held || e.role = 0 || (e.catchUp && e.watermark ≤ 32 * b / unitParams) then s
  else charged s q engEscrow [(holdAddr p k b, 132), (copyAddr p k (32 * b), 12 * min 32 (ownerParams p k - 32 * b))] (fun s =>
    printsIfSettling (modEscrow s q (2 + k) (fun e => { e with passDone := b + 1 })) q)

def execEscrowPass (q owner blk : Nat) (s : State) : Host.Outcome State Fault Refusal := .next (escrowPass q owner blk s)

/-- The next unit of a catch-up: its copy and its hold blocks read, its copy written, on the partition's account. -/
def catchUp (s : State) (q k : Nat) : State :=
  let p := partAt s q
  let r := unitSpan (ownerParams p k) (escrowSlot p (2 + k)).watermark
  let n := r.2 - r.1
  charged s q engEscrow [(copyAddr p k r.1, 12 * n), (holdAddr p k (r.1 / 32), 132 * ((n + 31) / 32)), (copyAddr p k r.1, 12 * n)]
    (fun s => catchUpStep s q k)

/-- CATCH_UP_UNIT. -/
def execCatchUpUnit (q owner : Nat) (s : State) : Host.Outcome State Fault Refusal :=
  .next (if owner < 2 then catchUp s q owner else s)

end Sys2Proof.Machine
end

