-- ==== Sys2Proof/Machine/Guard.lean ====
section
/-! DEFINITION. Guarded descriptors after their reads (R269, R270, R279): the meanings of GUARD_STALE_ACK and GUARD_REFETCH. -/

namespace Sys2Proof.Machine

/-! ### Guards (R269) -/

/-- A write landed at its place, past the guards; at a fenced channel it is discarded (R261, R279). -/
def landWrite (s : State) (w : Nat × List Byte) : State :=
  if isFenced s w.1 then fsFirstErr s w.1 3
  else fcUse (curePoison { s with mem := writeBytes s.mem w.1 w.2 } w.1 w.2.length) ((w.1 - fsBase) / 256) true false

/-- GUARD_STALE_ACK: the schedulers named by guard g acknowledge a STALE unit; its held writes land once every guard's have. -/
def guardStaleAck (g unit : Nat) (s : State) : State :=
  let s1 := modFs s (fun f => { f with guards := f.guards.map (fun x => if x.id = g then { x with acks := x.acks.filter (· ≠ unit) } else x) })
  if s1.fs.guards.any (fun x => x.acks.contains unit) then s1
  else
    let mine (w : Nat × List Byte) : Bool := (w.1 - fsBase) / 256 = unit
    let held := s1.fs.guards.flatMap (fun x => x.held.filter mine)
    let s2 := modFs s1 (fun f => { f with guards := f.guards.map (fun x => { x with held := x.held.filter (fun w => !mine w) }) })
    held.foldl landWrite s2

def execGuardStaleAck (g unit : Nat) (s : State) : Host.Outcome State Fault Refusal := .next (guardStaleAck g unit s)

/-- Whether a guard's descriptor has made its last source read. -/
def guardMoved (s : State) (g : Guard) : Bool :=
  match headRun s g.tile with
  | none => true
  | some r => r.descs.all (fun d => decide (d.guardIdx ≠ some g.id) || decide (2 ≤ d.phase))

/-- The part of a COPY's rows that a unit supplies, copied again. -/
def refetchRows (s : State) (d : DescF) (unit : Nat) : State :=
  let u := fsBase + 256 * unit
  (rowsOf d).foldl (fun s r =>
    let lo := max u r.1
    let hi := min (u + 256) (r.1 + d.count)
    if hi ≤ lo then s else copySpan s lo (r.2 + (lo - r.1)) (hi - lo) d.noalloc) s

/-- The weight sets that draw on a unit. -/
def setsOfUnit (d : DescF) (unit : Nat) : List Nat :=
  let u := fsBase + 256 * unit
  let meets (a n : Nat) : Bool := decide (u < a + n ∧ a < u + 256)
  (List.range d.count).filter (fun k => d.srcComp
    || meets (localAddr d.src + 512 * k * blockStride d.fmt) (512 * blockStride d.fmt) || meets (localAddr d.srcScale + 512 * k) 512)

/-- A line of a slot ring with the nibbles of rows from position cut of the stream on taken out (R82). -/
def keepBefore (cut l : Nat) (old : List Byte) : List Byte :=
  (List.range 64).map (fun k =>
    let sigma := 4 * l + k / 16
    let b := (old.getD k 0).toNat
    let nib (r v : Nat) : Nat := if sigma < cut + r then v else 0
    BitVec.ofNat 8 (nib (2 * (k % 16)) (b % 16) + 16 * nib (2 * (k % 16) + 1) (b / 16)))

/-- A ring as it stood before its queued rows from the k-th on were written. -/
def rewindRing (s : State) (t : Nat) (r : Ring) (k : Nat) : Ring :=
  let cut := r.slotIn - (r.denoms.drop k).foldl (· + ·) 0
  let line (l : Nat) : List Byte := (r.lines.find l).getD (readBytes s.mem (tileBase t + r.slotBase + 64 * (l % (r.ns / 4))) 64)
  { r with
    rowsIn := r.rowsIn - (r.denoms.length - k)
    slotIn := cut
    queuedAt := r.queuedAt.take k
    denoms := r.denoms.take k
    blocks := r.blocks.take k
    lines := if cut = r.slotIn then r.lines
      else (countFrom (cut / 4) ((r.slotIn + 30) / 4 + 1 - cut / 4)).map (fun l => (l, keepBefore cut l (line l))) }

/-- Blocks written into a ring one after another, each with the running-tick count it was first queued at, until one finds no room: it
and those after it go back to the front of the intake's queue. -/
def refill (q t slot seg : Nat) : List (SrcBlk × Nat) → State → State
  | [], s => s
  | x :: rest, s =>
    match putBlock s q t slot seg x.1 x.2 with
    | some s1 => refill q t slot seg rest s1
    | none => modArr s t (fun a => { a with
        intakeQ := a.intakeQ.put (ringKey slot seg) ((x :: rest).map Prod.fst ++ a.intakeQ.at (ringKey slot seg) []) })

/-- The blocks of a FEED read again: those that still wait at their intake are renewed there, and those in the ring, in no window yet, are
written in place again from the first that differs on (R269). -/
def refetchFeed (s : State) (q : Nat) (d : DescF) : State :=
  let l := (layerOf (partAt s q) d.layerSlot).getD {}
  let key := ringKey d.layerSlot d.segment
  let t := tileOf (localAddr d.dst)
  let x := sourceBlocks s d 0 d.count
  let blks := (withPos x.1).map (fun b => { b.2 with index := d.index0 + b.1 * l.inWidth })
  let renew (b : SrcBlk) : SrcBlk := (blks.find? (fun y => y.index = b.index)).getD b
  let s1 := modArr x.2.2 t (fun a => { a with intakeQ := a.intakeQ.put key ((a.intakeQ.at key []).map renew) })
  let r := (tileAt s1 t).arr.rings.at key {}
  match ((withPos r.blocks).drop r.window).find? (fun b => renew b.2 ≠ b.2) with
  | none => s1
  | some b => refill q t d.layerSlot d.segment (((r.blocks.drop b.1).map renew).zip (r.queuedAt.drop b.1))
      (modRing s1 t key (fun r => rewindRing s1 t r b.1))

/-- A STALE unit's data put in place again. -/
def refetch (s : State) (q : Nat) (d : DescF) (unit : Nat) : State :=
  if d.op = 3 then
    ((setsOfUnit d unit).foldl (moveWeightSet q d ((layerOf (partAt s q) d.layerSlot).getD {})) (true, s)).2
  else if d.op = 1 then (if d.srcComp then (moveExpand s d).2 else if d.dstComp then moveCompress s d else refetchRows s d unit)
  else if d.op = 2 then refetchFeed s q d
  else s

/-- GUARD_REFETCH: a STALE unit whose write has landed is read again, a request of its partition's traffic, and STALE clears (R269,
R274). -/
def guardRefetch (g unit : Nat) (s : State) : State :=
  match s.fs.guards.find? (fun x => x.id = g) with
  | none => s
  | some x =>
    if !x.stale.contains unit || x.acks.contains unit || !guardMoved s x
        || s.fs.guards.any (fun y => y.held.any (fun w => (w.1 - fsBase) / 256 = unit)) then s
    else
      charged s x.q engGuard [(fsBase + 256 * unit, 256)] (fun s =>
        modFs (refetch s x.q (descOf x.bytes) unit) (fun f => { f with guards := f.guards.map (fun y =>
          if y.id = g then { y with stale := y.stale.filter (· ≠ unit) } else y) }))

def execGuardRefetch (g unit : Nat) (s : State) : Host.Outcome State Fault Refusal := .next (guardRefetch g unit s)

end Sys2Proof.Machine
end

