-- ==== Sys2Proof/Machine/Power.lean ====
section
/-! DEFINITION. The module: governor, input switch, rails, reset pins, tick reference, PMBus and JTAG (R532 to R541, R543, R544,
R547 to R551, R553 to R558). -/

namespace Sys2Proof.Machine

/-! ### The governor (R539, R540) -/

/-- Whether the die is powered and out of the rails' sequence. -/
def dieUp (s : State) : Bool := decide (s.dev ≠ .off) && decide (s.pwr.rails = 8)

/-- A stretch level above 0 marks the running tick of every partition (R540). -/
def markThrottled (s : State) : State :=
  if stretch s.pwr = 0 then s
  else s.parts.foldl (fun x p => modCtx x p.1 (fun c => { c with throttled := true })) s

/-- A demand raised: its seen flag is kept in PWR_STATUS, the running ticks are marked (R540, R554). -/
def demandSeen (bit : Nat) (s : State) : State := markThrottled (regFlag s (ctl 0xB00) bit)

/-- One step of the cap and thermal loops: up by one to 48, or down by one to 0 (R539). -/
def loopStep (d : Nat) (up down : Bool) : Nat := if up then min 48 (d + 1) else if down then d - 1 else d

/-- The effective cap in watts (R539). -/
def effectiveCap (p : Power) : Nat := if p.uvWarn then min p.capW 2000 else p.capW

/-- The thermal margin in whole °C (R543). -/
def thermalMargin (die mem : Int) : Int := min (105 - die) (95 - mem)

/-- DROOP_DETECT: the droop demand becomes 32 (R539). -/
def droopDetect (s : State) : State :=
  if dieUp s then demandSeen 16 (modPwr s (fun p => { p with droop := 32 })) else s

/-- DROOP_RAMP: the droop demand falls by 1 (R539). -/
def droopRamp (s : State) : State := modPwr s (fun p => { p with droop := p.droop - 1 })

/-- CAP_LOOP: one interval of the cap loop on the average input power (R539, R541). -/
def capLoop (avg : Nat) (s : State) : State :=
  if dieUp s then
    let limit := effectiveCap s.pwr
    let s1 := modPwr s (fun p => { p with cap := loopStep p.cap (decide (limit < avg)) (decide (100 * avg ≤ 97 * limit)) })
    if limit < avg then demandSeen 17 s1 else s1
  else s

/-- THERMAL_LOOP: one interval of the thermal loop on the hottest sensors (R539, R543, R557). -/
def thermalLoop (die mem : Int) (s : State) : State :=
  if dieUp s then
    let m := thermalMargin die mem
    let s0 := modMon s (fun w => { w with margin := some (match w.margin with | none => m | some x => min x m) })
    let s1 := modPwr s0 (fun p => { p with
      dieHot := die
      memHot := mem
      margin := m
      therm := loopStep p.therm (decide (m ≤ 2)) (decide (4 ≤ m)) })
    if m ≤ 2 then demandSeen 18 s1 else s1
  else s

def execDroopDetect (s : State) : Host.Outcome State Fault Refusal := .next (droopDetect s)

def execDroopRamp (s : State) : Host.Outcome State Fault Refusal := .next (droopRamp s)

def execCapLoop (avg : Nat) (s : State) : Host.Outcome State Fault Refusal := .next (capLoop avg s)

def execThermalLoop (die mem : Int) (s : State) : Host.Outcome State Fault Refusal := .next (thermalLoop die mem s)

/-! ### The input switch (R532, R533, R544) -/

/-- Bits latched in STATUS_WORD; SMB_ALERT_N falls when the first is set (R538, R548). -/
def pmLatch (bits : BitVec 16) (s : State) : State :=
  let s1 := modPwr s (fun p => { p with pmStatus := p.pmStatus ||| bits })
  if s.pwr.pmStatus = 0 ∧ s1.pwr.pmStatus ≠ 0 then emit s1 .alert else s1

/-- What is left when input power goes: the fuses, the pins, the power controller; far store, near stores, registers and log are
lost, and INCARNATION rises (R355, R363, R493, R533). -/
def powerLost (s : State) : State :=
  { State.reset with
    pending := s.pending
    out := s.out
    fresh := s.fresh
    ctxBook := s.ctxBook
    fuses := s.fuses
    dev := .off
    eths := []
    incarnation := s.incarnation + 1
    pwr := {
      rails := 0
      switchOpen := true
      faultLatched := s.pwr.faultLatched
      modEn := s.pwr.modEn
      modResetN := s.pwr.modResetN
      refclk := s.pwr.refclk
      pmPage := s.pwr.pmPage
      pmStatus := s.pwr.pmStatus
      pmCause := s.pwr.pmCause } }

/-- The input switch opens for a fault, its cause latched (R532, R538). -/
def openSwitch (cause : Nat) (bits : BitVec 16) (s : State) : State :=
  if s.pwr.switchOpen then s
  else
    modPwr (pmLatch (bits ||| 0x1000) (powerLost s)) (fun p => { p with faultLatched := true, pmCause := cause })

/-- UV_WARN: the effective cap falls to 2,000 W, the flag and the PMBus warning are raised (R532). -/
def uvWarn (s : State) : State :=
  if s.pwr.switchOpen then s
  else pmLatch 0x2000 (regFlag (modPwr s (fun p => { p with uvWarn := true })) (ctl 0xB00) 19)

def execUvWarn (s : State) : Host.Outcome State Fault Refusal := .next (uvWarn s)

def execUvWarnClear (s : State) : Host.Outcome State Fault Refusal := .next (modPwr s (fun p => { p with uvWarn := false }))

def execUvFault (s : State) : Host.Outcome State Fault Refusal := .next (openSwitch 1 0x2008 s)

def execOvFault (s : State) : Host.Outcome State Fault Refusal := .next (openSwitch 2 0x2000 s)

def execOvercurrent (s : State) : Host.Outcome State Fault Refusal := .next (openSwitch 3 0x2000 s)

def execThermalTrip (s : State) : Host.Outcome State Fault Refusal := .next (openSwitch 5 0x0004 s)

/-! ### Rails, MOD_EN and the reset pins (R536, R537, R547) -/

/-- MOD_EN rises: the switch closes, a latched fault ends, the rails start (R532, R535, R537). -/
def modEnRise (s : State) : State :=
  if s.pwr.modEn then s
  else modPwr s (fun p => { p with
    modEn := true
    switchOpen := false
    faultLatched := false
    rails := 0
    pmStatus := if p.faultLatched then p.pmStatus &&& 0x0002 else p.pmStatus
    pmCause := if p.faultLatched then 0 else p.pmCause })

/-- MOD_EN falls: the rails go down with no write-back (R363, R537). -/
def modEnFall (s : State) : State :=
  if s.pwr.modEn then
    let s1 := if s.pwr.switchOpen then s else powerLost s
    modPwr s1 (fun p => { p with modEn := false })
  else s

/-- RAIL_GOOD: the next rail is in regulation; after the eighth the die is released unless a pin or REFCLK holds it (R536, R537,
R553). -/
def railGood (s : State) : State :=
  if s.dev = .off ∧ s.pwr.modEn ∧ ¬ s.pwr.switchOpen ∧ s.pwr.rails < 8 then
    let s1 := modPwr s (fun p => { p with rails := p.rails + 1 })
    if dieFree s1 then releaseDie s1 else s1
  else s

/-- The die held in reset after its write-back or after power-on is released once nothing holds it (R537, R547, R551). -/
def tryRelease (s : State) : State :=
  if s.dev = .off then
    if dieFree s then releaseDie s else s
  else
    if s.pwr.rails < 8 then
      let s1 := modPwr s (fun p => { p with rails := 8 })
      if dieFree s1 then releaseDie s1 else s
    else s

/-- The die goes into reset as at MOD_RESET_N falling (R537, R551). -/
def holdDie (s : State) : State := if s.pwr.rails = 8 then beginWarm s else s

def execModEnRise (s : State) : Host.Outcome State Fault Refusal := .next (modEnRise s)

def execModEnFall (s : State) : Host.Outcome State Fault Refusal := .next (modEnFall s)

def execRailGood (s : State) : Host.Outcome State Fault Refusal := .next (railGood s)

def execRailFault (s : State) : Host.Outcome State Fault Refusal := .next (openSwitch 4 0x8000 s)

def execModResetNFall (s : State) : Host.Outcome State Fault Refusal :=
  .next (holdDie (modPwr s (fun p => { p with modResetN := false })))

def execModResetNRelease (s : State) : Host.Outcome State Fault Refusal :=
  .next (tryRelease (modPwr s (fun p => { p with modResetN := true })))

/-- REFCLK lost: a warm device reset, and the loss is logged at the next BOOT (R547). -/
def refLoss (s : State) : State :=
  let s1 := modPwr s (fun p => { p with refclk := false })
  if s.dev = .off ∨ ¬ s.pwr.refclk then s1
  else holdDie (modMgt s1 (fun m => { m with refLossPending := true }))

def execRefLoss (s : State) : Host.Outcome State Fault Refusal := .next (refLoss s)

def execRefclkRestore (s : State) : Host.Outcome State Fault Refusal :=
  .next (tryRelease (modPwr s (fun p => { p with refclk := true })))

/-! ### The tick reference (R550, R558) -/

/-- The tick time left to REFCLK alone from the present moment. -/
def freeRun (s : State) : State :=
  { s with tick := { s.tick with
    time16 := tickTime s - 16 * (s.cycle : Int)
    rate := 0
    steeredAt := s.cycle
    disciplined := false } }

/-- An expected edge missing or ignored: the eighth in a row loses the reference, and the master ticks from REFCLK (R550). -/
def badEdge (s : State) : State :=
  let n := min 8 (s.tick.badRun + 1)
  let lost := s.tick.refInUse && decide (n = 8)
  let s0 := if lost then freeRun s else s
  let s1 := { s0 with tick := { s0.tick with
    goodEdges := 0
    badRun := n
    refInUse := s0.tick.refInUse && decide (n < 8) } }
  if n = 8 ∧ s.tick.badRun < 8 then regFlag s1 (ctl 0x220) 2 else s1

/-- A good edge: it steers the tick time in phase and in frequency; a lost reference is used again at the eighth in a row (R550). -/
def goodEdge (late : Int) (s : State) : State :=
  if s.tick.badRun = 8 ∧ s.tick.goodEdges + 1 < 8 then { s with tick := { s.tick with goodEdges := s.tick.goodEdges + 1 } }
  else
    let s1 := steer s (tickTime s - 16 * late)
    { s1 with tick := { s1.tick with
      goodEdges := min 8 (s1.tick.goodEdges + 1)
      badRun := 0
      refInUse := true } }

/-- Whether this module uses TICK_REF (R550). -/
def usesTickRef (s : State) : Bool := dieUp s && s.tick.master && s.tick.refEnable

/-- TICK_REF_EDGE: an edge as many reference cycles after its expected boundary (R550). -/
def tickRefEdge (late : Int) (s : State) : State :=
  if usesTickRef s then
    if 1250 < late.natAbs then badEdge (regBump s (ctl 0x220) 24 8 1) else goodEdge late s
  else s

def execTickRefEdge (late : Int) (s : State) : Host.Outcome State Fault Refusal := .next (tickRefEdge late s)

def execTickRefEdgeMissing (s : State) : Host.Outcome State Fault Refusal := .next (if usesTickRef s then badEdge s else s)

/-! ### PMBus (R538) -/

/-- num/den in LINEAR11: the finest exponent whose rounded mantissa fits 11 bits. -/
def linear11 (num : Int) (den : Nat) : Nat :=
  let mantissa (i : Nat) : Int :=
    if i < 16 then (num * 2 ^ (16 - i) * 2 + den) / (2 * den) else (2 * num + den * 2 ^ (i - 16)) / (2 * den * 2 ^ (i - 16))
  match (List.range 32).find? (fun i => decide (-1024 ≤ mantissa i ∧ mantissa i ≤ 1023)) with
  | some i => (i + 16) % 32 * 2048 + (mantissa i % 2048).toNat
  | none => 0x7FFF

/-- A command the power controller refuses: CML is latched. -/
def pmRefuse (s : State) : State := pmLatch 0x0002 s

/-- A command answered on the pages it has, refused on others. -/
def pmRead (code : Nat) (input : Bool) (value : Nat) (s : State) : State :=
  if decide (s.pwr.pmPage = 0) = input then emit s (.pmbus code value) else pmRefuse s

/-- STATUS_WORD: the latched bits, OFF and the power-good bit as they stand, and above the word the cause byte. -/
def statusWord (p : Power) : Nat :=
  p.pmStatus.toNat + b2n (p.switchOpen || decide (p.rails = 0)) * 2 ^ 6 + b2n (decide (p.rails < 8)) * 2 ^ 11 + p.pmCause * 2 ^ 16

/-- PAGE written with 0 to 6, or read. -/
def pageCmd (write : Option Byte) (s : State) : State :=
  match write with
  | none => emit s (.pmbus 0x00 s.pwr.pmPage)
  | some v => if v.toNat ≤ 6 then modPwr s (fun p => { p with pmPage := v.toNat }) else pmRefuse s

/-- A measurement of the input or coolant, kept for PWR_INPUT and PWR_TEMP while the die is up (R556, R557). -/
def measured (f : Power → Power) (s : State) : State := if dieUp s then modPwr s f else s

/-- The hottest die sensor as PMBus reads it: 0 while VAUX is off. -/
def vauxTemp (p : Power) (c : Int) : Int := if p.rails < 4 then 0 else c

def execPage (write : Option Byte) (s : State) : Host.Outcome State Fault Refusal := .next (pageCmd write s)

def execClearFaults (s : State) : Host.Outcome State Fault Refusal :=
  .next (modPwr s (fun p => { p with pmStatus := 0, pmCause := 0 }))

def execVinOvFaultLimit (s : State) : Host.Outcome State Fault Refusal := .next (pmRead 0x55 true (linear11 62 1) s)

def execVinUvWarnLimit (s : State) : Host.Outcome State Fault Refusal := .next (pmRead 0x58 true (linear11 44 1) s)

def execVinUvFaultLimit (s : State) : Host.Outcome State Fault Refusal := .next (pmRead 0x59 true (linear11 40 1) s)

def execStatusWord (s : State) : Host.Outcome State Fault Refusal := .next (emit s (.pmbus 0x79 (statusWord s.pwr)))

def execReadVin (mv : Nat) (s : State) : Host.Outcome State Fault Refusal :=
  .next (pmRead 0x88 true (linear11 mv 1000) (measured (fun p => { p with vinMv := mv }) s))

def execReadIin (ma : Nat) (s : State) : Host.Outcome State Fault Refusal :=
  .next (pmRead 0x89 true (linear11 ma 1000) (measured (fun p => { p with iinCa := ma / 10 }) s))

def execReadVout (mv : Nat) (s : State) : Host.Outcome State Fault Refusal := .next (pmRead 0x8B false (linear11 mv 1000) s)

def execReadIout (ma : Nat) (s : State) : Host.Outcome State Fault Refusal := .next (pmRead 0x8C false (linear11 ma 1000) s)

def execReadTemperature1 (c : Int) (s : State) : Host.Outcome State Fault Refusal :=
  .next (pmRead 0x8D true (linear11 c 1) (measured (fun p => { p with coolIn := c }) s))

def execReadTemperature2 (c : Int) (s : State) : Host.Outcome State Fault Refusal :=
  .next (pmRead 0x8E true (linear11 c 1) (measured (fun p => { p with coolOut := c }) s))

def execReadTemperature3 (c : Int) (s : State) : Host.Outcome State Fault Refusal :=
  .next (pmRead 0x8F true (linear11 (vauxTemp s.pwr c) 1) (measured (fun p => { p with dieHot := c }) s))

def execReadPout (mw : Nat) (s : State) : Host.Outcome State Fault Refusal := .next (pmRead 0x96 false (linear11 mw 1000) s)

def execReadPin (mw : Nat) (s : State) : Host.Outcome State Fault Refusal :=
  .next (pmRead 0x97 true (linear11 mw 1000) (measured (fun p => { p with pinW := mw / 1000 }) s))

/-! ### JTAG (R551) -/

/-- Whether the test access port answers: VAUX up, or EXTEST loaded with VKEEP up. -/
def jtagUp (p : Power) : Bool := decide (4 ≤ p.rails) || (p.extest && decide (2 ≤ p.rails))

/-- The IDCODE register. -/
def idcode (s : State) : Nat :=
  let part := match s.fuses.variant with | .dj4096H => 0x4A01 | .dj3072H => 0x4A02 | .dj4096G => 0x4A03
  1 + 0x2D9 * 2 + part * 2 ^ 12 + s.fuses.stepping % 16 * 2 ^ 28

/-- An instruction other than EXTEST loaded: its data register is shifted out, and the die leaves reset. -/
def loadJtag (dr : Nat) (s : State) : State :=
  if jtagUp s.pwr then
    let s1 := emit s (.jtag dr)
    if s.pwr.extest then tryRelease (modPwr s1 (fun p => { p with extest := false })) else s1
  else s

def execBypass (s : State) : Host.Outcome State Fault Refusal := .next (loadJtag 0 s)

def execIdcode (s : State) : Host.Outcome State Fault Refusal := .next (loadJtag (idcode s) s)

/-- SAMPLE/PRELOAD: the boundary cells' sample; the order of the cells is a free value. -/
def samplePreload (s : State) : State :=
  let d := drawFresh s
  loadJtag (Config.boundarySample d.1) d.2

def execSamplePreload (s : State) : Host.Outcome State Fault Refusal := .next (samplePreload s)

def execExtest (s : State) : Host.Outcome State Fault Refusal :=
  .next (if jtagUp s.pwr then holdDie (modPwr s (fun p => { p with extest := true })) else s)

end Sys2Proof.Machine
end

