-- ==== Sys2Proof/Machine/ReduceOps.lean ====
section
/-! DEFINITION. The meanings of the reduction slot's opcodes (R149): each is one instruction run in a bundle of its own. -/

namespace Sys2Proof.Machine

def execRsum (t : Nat) (i : VIns) (s : State) : Host.Outcome State Fault Refusal := .next (runOne 0xC0 t i s)
def execRprod (t : Nat) (i : VIns) (s : State) : Host.Outcome State Fault Refusal := .next (runOne 0xC1 t i s)
def execRmax (t : Nat) (i : VIns) (s : State) : Host.Outcome State Fault Refusal := .next (runOne 0xC2 t i s)
def execRmin (t : Nat) (i : VIns) (s : State) : Host.Outcome State Fault Refusal := .next (runOne 0xC3 t i s)
def execRargmax (t : Nat) (i : VIns) (s : State) : Host.Outcome State Fault Refusal := .next (runOne 0xC4 t i s)
def execRargmin (t : Nat) (i : VIns) (s : State) : Host.Outcome State Fault Refusal := .next (runOne 0xC5 t i s)
def execRcount (t : Nat) (i : VIns) (s : State) : Host.Outcome State Fault Refusal := .next (runOne 0xC6 t i s)
def execRand (t : Nat) (i : VIns) (s : State) : Host.Outcome State Fault Refusal := .next (runOne 0xC7 t i s)
def execRor (t : Nat) (i : VIns) (s : State) : Host.Outcome State Fault Refusal := .next (runOne 0xC8 t i s)
def execRxsum (t : Nat) (i : VIns) (s : State) : Host.Outcome State Fault Refusal := .next (runOne 0xC9 t i s)
def execRcvt (t : Nat) (i : VIns) (s : State) : Host.Outcome State Fault Refusal := .next (runOne 0xCA t i s)
def execRnet (t : Nat) (i : VIns) (s : State) : Host.Outcome State Fault Refusal := .next (runOne 0xCB t i s)
def execRbcast (t : Nat) (i : VIns) (s : State) : Host.Outcome State Fault Refusal := .next (runOne 0xCC t i s)
def execPopq (t : Nat) (i : VIns) (s : State) : Host.Outcome State Fault Refusal := .next (runOne 0xCD t i s)
def execRclr (t : Nat) (i : VIns) (s : State) : Host.Outcome State Fault Refusal := .next (runOne 0xCE t i s)

end Sys2Proof.Machine
end

