-- ==== Sys2Proof/Machine/VectorOps.lean ====
section
/-! DEFINITION. The meanings of the vector slot's opcodes (R149): each is one instruction run in a bundle of its own. -/

namespace Sys2Proof.Machine

def execNop (t : Nat) (i : VIns) (s : State) : Host.Outcome State Fault Refusal := .next (runOne 0x00 t i s)
def execFadd (t : Nat) (i : VIns) (s : State) : Host.Outcome State Fault Refusal := .next (runOne 0x01 t i s)
def execFsub (t : Nat) (i : VIns) (s : State) : Host.Outcome State Fault Refusal := .next (runOne 0x02 t i s)
def execFmul (t : Nat) (i : VIns) (s : State) : Host.Outcome State Fault Refusal := .next (runOne 0x03 t i s)
def execFma (t : Nat) (i : VIns) (s : State) : Host.Outcome State Fault Refusal := .next (runOne 0x04 t i s)
def execFms (t : Nat) (i : VIns) (s : State) : Host.Outcome State Fault Refusal := .next (runOne 0x05 t i s)
def execFnma (t : Nat) (i : VIns) (s : State) : Host.Outcome State Fault Refusal := .next (runOne 0x06 t i s)
def execFmin (t : Nat) (i : VIns) (s : State) : Host.Outcome State Fault Refusal := .next (runOne 0x07 t i s)
def execFmax (t : Nat) (i : VIns) (s : State) : Host.Outcome State Fault Refusal := .next (runOne 0x08 t i s)
def execFabs (t : Nat) (i : VIns) (s : State) : Host.Outcome State Fault Refusal := .next (runOne 0x09 t i s)
def execFneg (t : Nat) (i : VIns) (s : State) : Host.Outcome State Fault Refusal := .next (runOne 0x0A t i s)
def execFdiv (t : Nat) (i : VIns) (s : State) : Host.Outcome State Fault Refusal := .next (runOne 0x0B t i s)
def execFsqrt (t : Nat) (i : VIns) (s : State) : Host.Outcome State Fault Refusal := .next (runOne 0x0C t i s)
def execFrcp (t : Nat) (i : VIns) (s : State) : Host.Outcome State Fault Refusal := .next (runOne 0x0D t i s)
def execFrsqrt (t : Nat) (i : VIns) (s : State) : Host.Outcome State Fault Refusal := .next (runOne 0x0E t i s)
def execFexp2 (t : Nat) (i : VIns) (s : State) : Host.Outcome State Fault Refusal := .next (runOne 0x0F t i s)
def execFlog2 (t : Nat) (i : VIns) (s : State) : Host.Outcome State Fault Refusal := .next (runOne 0x10 t i s)
def execFtanh (t : Nat) (i : VIns) (s : State) : Host.Outcome State Fault Refusal := .next (runOne 0x11 t i s)
def execFcmp (t : Nat) (i : VIns) (s : State) : Host.Outcome State Fault Refusal := .next (runOne 0x12 t i s)
def execFrint (t : Nat) (i : VIns) (s : State) : Host.Outcome State Fault Refusal := .next (runOne 0x13 t i s)
def execCvt (t : Nat) (i : VIns) (s : State) : Host.Outcome State Fault Refusal := .next (runOne 0x18 t i s)
def execPackb (t : Nat) (i : VIns) (s : State) : Host.Outcome State Fault Refusal := .next (runOne 0x19 t i s)
def execUnpackb (t : Nat) (i : VIns) (s : State) : Host.Outcome State Fault Refusal := .next (runOne 0x1A t i s)
def execIadd (t : Nat) (i : VIns) (s : State) : Host.Outcome State Fault Refusal := .next (runOne 0x20 t i s)
def execIsub (t : Nat) (i : VIns) (s : State) : Host.Outcome State Fault Refusal := .next (runOne 0x21 t i s)
def execImul (t : Nat) (i : VIns) (s : State) : Host.Outcome State Fault Refusal := .next (runOne 0x22 t i s)
def execImin (t : Nat) (i : VIns) (s : State) : Host.Outcome State Fault Refusal := .next (runOne 0x23 t i s)
def execImax (t : Nat) (i : VIns) (s : State) : Host.Outcome State Fault Refusal := .next (runOne 0x24 t i s)
def execVand (t : Nat) (i : VIns) (s : State) : Host.Outcome State Fault Refusal := .next (runOne 0x25 t i s)
def execVor (t : Nat) (i : VIns) (s : State) : Host.Outcome State Fault Refusal := .next (runOne 0x26 t i s)
def execVxor (t : Nat) (i : VIns) (s : State) : Host.Outcome State Fault Refusal := .next (runOne 0x27 t i s)
def execShl (t : Nat) (i : VIns) (s : State) : Host.Outcome State Fault Refusal := .next (runOne 0x28 t i s)
def execShr (t : Nat) (i : VIns) (s : State) : Host.Outcome State Fault Refusal := .next (runOne 0x29 t i s)
def execSar (t : Nat) (i : VIns) (s : State) : Host.Outcome State Fault Refusal := .next (runOne 0x2A t i s)
def execIcmp (t : Nat) (i : VIns) (s : State) : Host.Outcome State Fault Refusal := .next (runOne 0x2B t i s)
def execIota (t : Nat) (i : VIns) (s : State) : Host.Outcome State Fault Refusal := .next (runOne 0x2C t i s)
def execItof (t : Nat) (i : VIns) (s : State) : Host.Outcome State Fault Refusal := .next (runOne 0x2D t i s)
def execFtoi (t : Nat) (i : VIns) (s : State) : Host.Outcome State Fault Refusal := .next (runOne 0x2E t i s)
def execMov (t : Nat) (i : VIns) (s : State) : Host.Outcome State Fault Refusal := .next (runOne 0x30 t i s)
def execSel (t : Nat) (i : VIns) (s : State) : Host.Outcome State Fault Refusal := .next (runOne 0x31 t i s)
def execLdl (t : Nat) (i : VIns) (s : State) : Host.Outcome State Fault Refusal := .next (runOne 0x38 t i s)
def execStl (t : Nat) (i : VIns) (s : State) : Host.Outcome State Fault Refusal := .next (runOne 0x39 t i s)
def execSetidx (t : Nat) (i : VIns) (s : State) : Host.Outcome State Fault Refusal := .next (runOne 0x3C t i s)
def execAddidx (t : Nat) (i : VIns) (s : State) : Host.Outcome State Fault Refusal := .next (runOne 0x3D t i s)
def execPand (t : Nat) (i : VIns) (s : State) : Host.Outcome State Fault Refusal := .next (runOne 0x40 t i s)
def execPor (t : Nat) (i : VIns) (s : State) : Host.Outcome State Fault Refusal := .next (runOne 0x41 t i s)
def execPxor (t : Nat) (i : VIns) (s : State) : Host.Outcome State Fault Refusal := .next (runOne 0x42 t i s)
def execPnot (t : Nat) (i : VIns) (s : State) : Host.Outcome State Fault Refusal := .next (runOne 0x43 t i s)
def execPset (t : Nat) (i : VIns) (s : State) : Host.Outcome State Fault Refusal := .next (runOne 0x44 t i s)
def execGfn (t : Nat) (i : VIns) (s : State) : Host.Outcome State Fault Refusal := .next (runOne 0x48 t i s)

end Sys2Proof.Machine
end

