-- ==== Sys2Proof/Machine/Dispatch.lean ====
section
/-! DEFINITION. The dispatch: one arm per command, each a direct call of the command's meaning. -/

namespace Sys2Proof.Machine

/-- The effect of a command on everything but the queue. -/
def exec (i : Instr) (s : State) : Host.Outcome State Fault Refusal :=
  match i with
  | .commandRecord h msg => Sys2Proof.Machine.execCommandRecord h msg s
  | .attach e dg => Sys2Proof.Machine.execAttach e dg s
  | .identify h seq => Sys2Proof.Machine.execIdentify h seq s
  | .readLog h seq => Sys2Proof.Machine.execReadLog h seq s
  | .attest h seq => Sys2Proof.Machine.execAttest h seq s
  | .loadImage h seq => Sys2Proof.Machine.execLoadImage h seq s
  | .imageStaged h seq => Sys2Proof.Machine.execImageStaged h seq s
  | .unload h seq => Sys2Proof.Machine.execUnload h seq s
  | .start h seq => Sys2Proof.Machine.execStart h seq s
  | .hold h seq => Sys2Proof.Machine.execHold h seq s
  | .resume h seq => Sys2Proof.Machine.execResume h seq s
  | .abortStep h seq => Sys2Proof.Machine.execAbortStep h seq s
  | .ctxSave h seq => Sys2Proof.Machine.execCtxSave h seq s
  | .ctxRestore h seq => Sys2Proof.Machine.execCtxRestore h seq s
  | .dma h seq => Sys2Proof.Machine.execDma h seq s
  | .reset h seq => Sys2Proof.Machine.execReset h seq s
  | .deferredReset => Sys2Proof.Machine.execDeferredReset s
  | .resetComplete domain idx => Sys2Proof.Machine.execResetComplete domain idx s
  | .selfTest h seq => Sys2Proof.Machine.execSelfTest h seq s
  | .dump h seq fsAnswers ethAnswers => Sys2Proof.Machine.execDump h seq fsAnswers ethAnswers s
  | .dumpUnit => Sys2Proof.Machine.execDumpUnit s
  | .dumpRequestTimeout => Sys2Proof.Machine.execDumpRequestTimeout s
  | .bindJob h seq => Sys2Proof.Machine.execBindJob h seq s
  | .unbindJob h seq => Sys2Proof.Machine.execUnbindJob h seq s
  | .shadowBegin h seq => Sys2Proof.Machine.execShadowBegin h seq s
  | .shadowEnd h seq => Sys2Proof.Machine.execShadowEnd h seq s
  | .fence h seq => Sys2Proof.Machine.execFence h seq s
  | .expel h seq => Sys2Proof.Machine.execExpel h seq s
  | .admitModule h seq => Sys2Proof.Machine.execAdmitModule h seq s
  | .checkpoint h seq => Sys2Proof.Machine.execCheckpoint h seq s
  | .restore h seq => Sys2Proof.Machine.execRestore h seq s
  | .poolReadResponse qpn ok data => Sys2Proof.Machine.execPoolReadResponse qpn ok data s
  | .connect h seq => Sys2Proof.Machine.execConnect h seq s
  | .disconnect h seq => Sys2Proof.Machine.execDisconnect h seq s
  | .fwRestart h seq => Sys2Proof.Machine.execFwRestart h seq s
  | .bootComplete badSites chans signature => Sys2Proof.Machine.execBootComplete badSites chans signature s
  | .hostRdmaRead via addr len => Sys2Proof.Machine.execHostRdmaRead via addr len s
  | .hostRdmaWrite via addr data => Sys2Proof.Machine.execHostRdmaWrite via addr data s
  | .hostSendData via data => Sys2Proof.Machine.execHostSendData via data s
  | .atomicRequest qpn => Sys2Proof.Machine.execAtomicRequest qpn s
  | .registerWrite addr v => Sys2Proof.Machine.execRegisterWrite addr v s
  | .devTickPeriodWrite v => Sys2Proof.Machine.execDevTickPeriodWrite v s
  | .devTickAtWrite v => Sys2Proof.Machine.execDevTickAtWrite v s
  | .devIdWrite v => Sys2Proof.Machine.execDevIdWrite v s
  | .lnkCfgWrite p v => Sys2Proof.Machine.execLnkCfgWrite p v s
  | .drnAnchorWrite q slot v => Sys2Proof.Machine.execDrnAnchorWrite q slot v s
  | .drnWindowWrite t fromHost v => Sys2Proof.Machine.execDrnWindowWrite t fromHost v s
  | .accumulatorWindowRead t off len => Sys2Proof.Machine.execAccumulatorWindowRead t off len s
  | .accumulatorWindowWrite t off data => Sys2Proof.Machine.execAccumulatorWindowWrite t off data s
  | .rduTallyWrite t k half v => Sys2Proof.Machine.execRduTallyWrite t k half v s
  | .cvuSlotWrite u off v => Sys2Proof.Machine.execCvuSlotWrite u off v s
  | .pwrCapWrite v => Sys2Proof.Machine.execPwrCapWrite v s
  | .devTickRefWrite v => Sys2Proof.Machine.execDevTickRefWrite v s
  | .vecErrRead t => Sys2Proof.Machine.execVecErrRead t s
  | .nsErrRead t => Sys2Proof.Machine.execNsErrRead t s
  | .nsDmaRead t => Sys2Proof.Machine.execNsDmaRead t s
  | .fsErrRead => Sys2Proof.Machine.execFsErrRead s
  | .fcStatusRead => Sys2Proof.Machine.execFcStatusRead s
  | .fsChanRead c => Sys2Proof.Machine.execFsChanRead c s
  | .schSpecRead q => Sys2Proof.Machine.execSchSpecRead q s
  | .schSpec2Read q => Sys2Proof.Machine.execSchSpec2Read q s
  | .lnkErrRead p => Sys2Proof.Machine.execLnkErrRead p s
  | .lnkLaneRead p l => Sys2Proof.Machine.execLnkLaneRead p l s
  | .lnkFabricRead => Sys2Proof.Machine.execLnkFabricRead s
  | .lnkFabric2Read => Sys2Proof.Machine.execLnkFabric2Read s
  | .ethErrRead e => Sys2Proof.Machine.execEthErrRead e s
  | .cvuStatusRead u => Sys2Proof.Machine.execCvuStatusRead u s
  | .lnkBucketRead q => Sys2Proof.Machine.execLnkBucketRead q s
  | .updJoinRead q => Sys2Proof.Machine.execUpdJoinRead q s
  | .updJournalRead q => Sys2Proof.Machine.execUpdJournalRead q s
  | .tileResetRead t => Sys2Proof.Machine.execTileResetRead t s
  | .devTickRefRead => Sys2Proof.Machine.execDevTickRefRead s
  | .controlMeshRequest t off write => Sys2Proof.Machine.execControlMeshRequest t off write s
  | .agentSilent isGroup idx => Sys2Proof.Machine.execAgentSilent isGroup idx s
  | .mgtPulseIncrement => Sys2Proof.Machine.execMgtPulseIncrement s
  | .mgtLockstep => Sys2Proof.Machine.execMgtLockstep s
  | .tickBoundary => Sys2Proof.Machine.execTickBoundary s
  | .tickRecord q => Sys2Proof.Machine.execTickRecord q s
  | .preemptBoundary q => Sys2Proof.Machine.execPreemptBoundary q s
  | .tokenArrival tok => Sys2Proof.Machine.execTokenArrival tok s
  | .speculativeFire t actor confidence predictTaken => Sys2Proof.Machine.execSpeculativeFire t actor confidence predictTaken s
  | .fireBody t => Sys2Proof.Machine.execFireBody t s
  | .firePass t => Sys2Proof.Machine.execFirePass t s
  | .fireDma t => Sys2Proof.Machine.execFireDma t s
  | .fireSync t => Sys2Proof.Machine.execFireSync t s
  | .fireClose t => Sys2Proof.Machine.execFireClose t s
  | .firingComplete t actor => Sys2Proof.Machine.execFiringComplete t actor s
  | .gateOpen t => Sys2Proof.Machine.execGateOpen t s
  | .intakeWrite t seg slot => Sys2Proof.Machine.execIntakeWrite t seg slot s
  | .issueSlot t seg => Sys2Proof.Machine.execIssueSlot t seg s
  | .cellFire t k n => Sys2Proof.Machine.execCellFire t k n s
  | .shadowLoad t seg => Sys2Proof.Machine.execShadowLoad t seg s
  | .blockPartial t seg n => Sys2Proof.Machine.execBlockPartial t seg n s
  | .drainAccumulate t => Sys2Proof.Machine.execDrainAccumulate t s
  | .accumulatorMerge t layerSlot valueAddr tagAddr srcWide => Sys2Proof.Machine.execAccumulatorMerge t layerSlot valueAddr tagAddr srcWide s
  | .outputConversion t => Sys2Proof.Machine.execOutputConversion t s
  | .layerClose q layerSlot => Sys2Proof.Machine.execLayerClose q layerSlot s
  | .reductionTreeComplete q tree => Sys2Proof.Machine.execReductionTreeComplete q tree s
  | .spotRecompute t layerSlot row blk outIndex actFmt acts sets finished => Sys2Proof.Machine.execSpotRecompute t layerSlot row blk outIndex actFmt acts sets finished s
  | .nop t ins => Sys2Proof.Machine.execNop t ins s
  | .fadd t ins => Sys2Proof.Machine.execFadd t ins s
  | .fsub t ins => Sys2Proof.Machine.execFsub t ins s
  | .fmul t ins => Sys2Proof.Machine.execFmul t ins s
  | .fma t ins => Sys2Proof.Machine.execFma t ins s
  | .fms t ins => Sys2Proof.Machine.execFms t ins s
  | .fnma t ins => Sys2Proof.Machine.execFnma t ins s
  | .fmin t ins => Sys2Proof.Machine.execFmin t ins s
  | .fmax t ins => Sys2Proof.Machine.execFmax t ins s
  | .fabs t ins => Sys2Proof.Machine.execFabs t ins s
  | .fneg t ins => Sys2Proof.Machine.execFneg t ins s
  | .fdiv t ins => Sys2Proof.Machine.execFdiv t ins s
  | .fsqrt t ins => Sys2Proof.Machine.execFsqrt t ins s
  | .frcp t ins => Sys2Proof.Machine.execFrcp t ins s
  | .frsqrt t ins => Sys2Proof.Machine.execFrsqrt t ins s
  | .fexp2 t ins => Sys2Proof.Machine.execFexp2 t ins s
  | .flog2 t ins => Sys2Proof.Machine.execFlog2 t ins s
  | .ftanh t ins => Sys2Proof.Machine.execFtanh t ins s
  | .fcmp t ins => Sys2Proof.Machine.execFcmp t ins s
  | .frint t ins => Sys2Proof.Machine.execFrint t ins s
  | .cvt t ins => Sys2Proof.Machine.execCvt t ins s
  | .packb t ins => Sys2Proof.Machine.execPackb t ins s
  | .unpackb t ins => Sys2Proof.Machine.execUnpackb t ins s
  | .iadd t ins => Sys2Proof.Machine.execIadd t ins s
  | .isub t ins => Sys2Proof.Machine.execIsub t ins s
  | .imul t ins => Sys2Proof.Machine.execImul t ins s
  | .imin t ins => Sys2Proof.Machine.execImin t ins s
  | .imax t ins => Sys2Proof.Machine.execImax t ins s
  | .vand t ins => Sys2Proof.Machine.execVand t ins s
  | .vor t ins => Sys2Proof.Machine.execVor t ins s
  | .vxor t ins => Sys2Proof.Machine.execVxor t ins s
  | .shl t ins => Sys2Proof.Machine.execShl t ins s
  | .shr t ins => Sys2Proof.Machine.execShr t ins s
  | .sar t ins => Sys2Proof.Machine.execSar t ins s
  | .icmp t ins => Sys2Proof.Machine.execIcmp t ins s
  | .iota t ins => Sys2Proof.Machine.execIota t ins s
  | .itof t ins => Sys2Proof.Machine.execItof t ins s
  | .ftoi t ins => Sys2Proof.Machine.execFtoi t ins s
  | .mov t ins => Sys2Proof.Machine.execMov t ins s
  | .sel t ins => Sys2Proof.Machine.execSel t ins s
  | .ldl t ins => Sys2Proof.Machine.execLdl t ins s
  | .stl t ins => Sys2Proof.Machine.execStl t ins s
  | .setidx t ins => Sys2Proof.Machine.execSetidx t ins s
  | .addidx t ins => Sys2Proof.Machine.execAddidx t ins s
  | .pand t ins => Sys2Proof.Machine.execPand t ins s
  | .por t ins => Sys2Proof.Machine.execPor t ins s
  | .pxor t ins => Sys2Proof.Machine.execPxor t ins s
  | .pnot t ins => Sys2Proof.Machine.execPnot t ins s
  | .pset t ins => Sys2Proof.Machine.execPset t ins s
  | .gfn t ins => Sys2Proof.Machine.execGfn t ins s
  | .rsum t ins => Sys2Proof.Machine.execRsum t ins s
  | .rprod t ins => Sys2Proof.Machine.execRprod t ins s
  | .rmax t ins => Sys2Proof.Machine.execRmax t ins s
  | .rmin t ins => Sys2Proof.Machine.execRmin t ins s
  | .rargmax t ins => Sys2Proof.Machine.execRargmax t ins s
  | .rargmin t ins => Sys2Proof.Machine.execRargmin t ins s
  | .rcount t ins => Sys2Proof.Machine.execRcount t ins s
  | .rand t ins => Sys2Proof.Machine.execRand t ins s
  | .ror t ins => Sys2Proof.Machine.execRor t ins s
  | .rxsum t ins => Sys2Proof.Machine.execRxsum t ins s
  | .rcvt t ins => Sys2Proof.Machine.execRcvt t ins s
  | .rnet t ins => Sys2Proof.Machine.execRnet t ins s
  | .rbcast t ins => Sys2Proof.Machine.execRbcast t ins s
  | .popq t ins => Sys2Proof.Machine.execPopq t ins s
  | .rclr t ins => Sys2Proof.Machine.execRclr t ins s
  | .copy t k => Sys2Proof.Machine.execCopy t k s
  | .feed t k => Sys2Proof.Machine.execFeed t k s
  | .weight t k => Sys2Proof.Machine.execWeight t k s
  | .prefetch t k => Sys2Proof.Machine.execPrefetch t k s
  | .fill t k => Sys2Proof.Machine.execFill t k s
  | .scan t k => Sys2Proof.Machine.execScan t k s
  | .descriptorComplete t k => Sys2Proof.Machine.execDescriptorComplete t k s
  | .bankGrant t bank ecc => Sys2Proof.Machine.execBankGrant t bank ecc s
  | .meshRequestArrival r => Sys2Proof.Machine.execMeshRequestArrival r s
  | .meshReplyArrival r => Sys2Proof.Machine.execMeshReplyArrival r s
  | .regulatorAdmit q => Sys2Proof.Machine.execRegulatorAdmit q s
  | .fsRequestIssue source => Sys2Proof.Machine.execFsRequestIssue source s
  | .farCacheAccess source addr wdata noalloc ecc => Sys2Proof.Machine.execFarCacheAccess source addr wdata noalloc ecc s
  | .guardStaleAck g unit => Sys2Proof.Machine.execGuardStaleAck g unit s
  | .guardRefetch g unit => Sys2Proof.Machine.execGuardRefetch g unit s
  | .copyAheadStage q granule => Sys2Proof.Machine.execCopyAheadStage q granule s
  | .writebackTimeout => Sys2Proof.Machine.execWritebackTimeout s
  | .fabricRequestIssue dest => Sys2Proof.Machine.execFabricRequestIssue dest s
  | .packetSend p => Sys2Proof.Machine.execPacketSend p s
  | .flitReceive p cw flit => Sys2Proof.Machine.execFlitReceive p cw flit s
  | .retryRequest p ackSeq => Sys2Proof.Machine.execRetryRequest p ackSeq s
  | .retrainComplete p ok => Sys2Proof.Machine.execRetrainComplete p ok s
  | .portTrained p partnerPort partnerDev partnerSwitch partnerLR => Sys2Proof.Machine.execPortTrained p partnerPort partnerDev partnerSwitch partnerLR s
  | .laneFault p l => Sys2Proof.Machine.execLaneFault p l s
  | .laneTestComplete p l pass => Sys2Proof.Machine.execLaneTestComplete p l pass s
  | .portSilent p => Sys2Proof.Machine.execPortSilent p s
  | .write p k => Sys2Proof.Machine.execWrite p k s
  | .readReq p k => Sys2Proof.Machine.execReadReq p k s
  | .readData p k => Sys2Proof.Machine.execReadData p k s
  | .ack p k => Sys2Proof.Machine.execAck p k s
  | .token p k => Sys2Proof.Machine.execToken p k s
  | .deposit p k => Sys2Proof.Machine.execDeposit p k s
  | .flowTimeout slot => Sys2Proof.Machine.execFlowTimeout slot s
  | .upwardTick p c => Sys2Proof.Machine.execUpwardTick p c s
  | .voteWaitExpiry tree => Sys2Proof.Machine.execVoteWaitExpiry tree s
  | .downwardTick p c => Sys2Proof.Machine.execDownwardTick p c s
  | .abortSymbol p c => Sys2Proof.Machine.execAbortSymbol p c s
  | .fenceSymbol p c => Sys2Proof.Machine.execFenceSymbol p c s
  | .timeReqSend p => Sys2Proof.Machine.execTimeReqSend p s
  | .timeReq p c => Sys2Proof.Machine.execTimeReq p c s
  | .timeRsp p c => Sys2Proof.Machine.execTimeRsp p c s
  | .periodSymbol p c => Sys2Proof.Machine.execPeriodSymbol p c s
  | .timingParentLost => Sys2Proof.Machine.execTimingParentLost s
  | .stepAbort q cause => Sys2Proof.Machine.execStepAbort q cause s
  | .tilePurgeReport t => Sys2Proof.Machine.execTilePurgeReport t s
  | .targetedSelfTest kind idx => Sys2Proof.Machine.execTargetedSelfTest kind idx s
  | .selfTestComplete kind idx answered signature => Sys2Proof.Machine.execSelfTestComplete kind idx answered signature s
  | .bucketStart q b => Sys2Proof.Machine.execBucketStart q b s
  | .bucketExchangeComplete q b => Sys2Proof.Machine.execBucketExchangeComplete q b s
  | .updateRange q r => Sys2Proof.Machine.execUpdateRange q r s
  | .escrowPass q owner blk => Sys2Proof.Machine.execEscrowPass q owner blk s
  | .catchUpUnit q owner => Sys2Proof.Machine.execCatchUpUnit q owner s
  | .firstCopyUnit q dst => Sys2Proof.Machine.execFirstCopyUnit q dst s
  | .coldStreamUnit q data => Sys2Proof.Machine.execColdStreamUnit q data s
  | .checkpointObjectAck a => Sys2Proof.Machine.execCheckpointObjectAck a s
  | .monitorWindow m seen => Sys2Proof.Machine.execMonitorWindow m seen s
  | .ethLinkUp e => Sys2Proof.Machine.execEthLinkUp e s
  | .ethLinkLoss e => Sys2Proof.Machine.execEthLinkLoss e s
  | .roceAckTimeout qpn => Sys2Proof.Machine.execRoceAckTimeout qpn s
  | .cnpReceive qpn => Sys2Proof.Machine.execCnpReceive qpn s
  | .rateRecovery r => Sys2Proof.Machine.execRateRecovery r s
  | .droopDetect => Sys2Proof.Machine.execDroopDetect s
  | .droopRamp => Sys2Proof.Machine.execDroopRamp s
  | .capLoop avgW => Sys2Proof.Machine.execCapLoop avgW s
  | .thermalLoop dieHot memHot => Sys2Proof.Machine.execThermalLoop dieHot memHot s
  | .uvWarn => Sys2Proof.Machine.execUvWarn s
  | .uvWarnClear => Sys2Proof.Machine.execUvWarnClear s
  | .uvFault => Sys2Proof.Machine.execUvFault s
  | .ovFault => Sys2Proof.Machine.execOvFault s
  | .overcurrent => Sys2Proof.Machine.execOvercurrent s
  | .thermalTrip => Sys2Proof.Machine.execThermalTrip s
  | .modEnRise => Sys2Proof.Machine.execModEnRise s
  | .modEnFall => Sys2Proof.Machine.execModEnFall s
  | .modResetNFall => Sys2Proof.Machine.execModResetNFall s
  | .modResetNRelease => Sys2Proof.Machine.execModResetNRelease s
  | .railGood => Sys2Proof.Machine.execRailGood s
  | .railFault => Sys2Proof.Machine.execRailFault s
  | .refLoss => Sys2Proof.Machine.execRefLoss s
  | .refclkRestore => Sys2Proof.Machine.execRefclkRestore s
  | .tickRefEdge late => Sys2Proof.Machine.execTickRefEdge late s
  | .tickRefEdgeMissing => Sys2Proof.Machine.execTickRefEdgeMissing s
  | .page write => Sys2Proof.Machine.execPage write s
  | .clearFaults => Sys2Proof.Machine.execClearFaults s
  | .vinOvFaultLimit => Sys2Proof.Machine.execVinOvFaultLimit s
  | .vinUvWarnLimit => Sys2Proof.Machine.execVinUvWarnLimit s
  | .vinUvFaultLimit => Sys2Proof.Machine.execVinUvFaultLimit s
  | .statusWord => Sys2Proof.Machine.execStatusWord s
  | .readVin mv => Sys2Proof.Machine.execReadVin mv s
  | .readIin ma => Sys2Proof.Machine.execReadIin ma s
  | .readVout mv => Sys2Proof.Machine.execReadVout mv s
  | .readIout ma => Sys2Proof.Machine.execReadIout ma s
  | .readTemperature1 c => Sys2Proof.Machine.execReadTemperature1 c s
  | .readTemperature2 c => Sys2Proof.Machine.execReadTemperature2 c s
  | .readTemperature3 c => Sys2Proof.Machine.execReadTemperature3 c s
  | .readPout mw => Sys2Proof.Machine.execReadPout mw s
  | .readPin mw => Sys2Proof.Machine.execReadPin mw s
  | .bypass => Sys2Proof.Machine.execBypass s
  | .idcode => Sys2Proof.Machine.execIdcode s
  | .samplePreload => Sys2Proof.Machine.execSamplePreload s
  | .extest => Sys2Proof.Machine.execExtest s
  | .bulkAccessResponse h seq ok data => Sys2Proof.Machine.execBulkAccessResponse h seq ok data s

end Sys2Proof.Machine
end

