-- ==== Sys2Proof/Safety.lean ====
section
/-! DEFINITION. What a safe outcome is, and the terms the statements use. -/

namespace Sys2Proof

/-- A step is safe when the block goes on to a next state. -/
def SafeStep (s : Machine.State) : Prop := ∃ t, Machine.step s = .next t

/-- A command completes with a next state of which P holds. -/
def Completes (c : Instr) (s : Machine.State) (P : Machine.State → Prop) : Prop := ∃ t, Machine.exec c s = .next t ∧ P t

/-- Every byte of memory reads the same in both states. -/
def SameMemory (s t : Machine.State) : Prop := ∀ a, Machine.readCells t.mem a = Machine.readCells s.mem a

/-- Every byte outside n bytes from a reads the same in both states. -/
def SameMemoryOutside (a n : Nat) (s t : Machine.State) : Prop :=
  ∀ b, b < a ∨ a + n ≤ b → Machine.readCells t.mem b = Machine.readCells s.mem b

/-- Every stored register but those listed reads the same in both states. -/
def SameRegistersBut (l : List Nat) (s t : Machine.State) : Prop := ∀ a, a ∉ l → Machine.regGet t a = Machine.regGet s a

/-- A command of a row starts: it is the accepted one of its slot and SEQ, its turn has come, and every check passes (R11, R360). -/
def Starts (s : Machine.State) (h seq op : Nat) (c : Machine.Cmd) (own : List (Nat × Nat)) : Prop :=
  Machine.starting s h seq op = some c ∧ Machine.judge s c own = none ∧ h < s.hosts.length

/-- A command has completed: it waits no more, and its record of 64 bytes, with a status and results, has been sent to an attached host and is
kept while its SEQ is one of the last 256 (R357, R359). -/
def Recorded (t : Machine.State) (c : Machine.Cmd) (st r0 r1 : Nat) : Prop :=
  Machine.cmdAt t c.host c.seq = none
    ∧ ∃ r, ((Machine.hostAt t c.host).attached = true → Machine.Emission.status c.host r ∈ t.out)
      ∧ (((Machine.hostAt t c.host).h + 2 ^ 32 - c.seq) % 2 ^ 32 ≤ 255 → (c.seq, r) ∈ (Machine.hostAt t c.host).cache) ∧ r.length = 64
      ∧ Machine.le r 0 2 = c.opcode % 2 ^ 16 ∧ Machine.le r 3 1 = st ∧ Machine.le r 4 4 = c.seq % 2 ^ 32
      ∧ Machine.le r 16 8 = r0 % 2 ^ 64 ∧ Machine.le r 24 8 = r1 % 2 ^ 64

/-- Nothing but the accepted commands, the host slots and the outbox differs. -/
def OnlyRecord (s t : Machine.State) : Prop := t = { s with hosts := t.hosts, cmds := t.cmds, out := t.out }

/-- A reset under way names a domain and index. -/
def ResetUnderWay (t : Machine.State) (domain idx : Nat) : Prop := ∃ r ∈ t.mgt.resets, r.domain = domain ∧ r.idx = idx

/-- No partition is RUNNING, HELD or ABORTING. -/
def NoActivePartition (s : Machine.State) : Prop :=
  ∀ q, (Machine.partAt s q).state ≠ .running ∧ (Machine.partAt s q).state ≠ .held ∧ (Machine.partAt s q).state ≠ .aborting

/-- Partition q of s has aborted at tick a in t: the abort recorded with the epoch it ends, ABORT_EPOCH advanced, a replay due, a purge in
progress, the tiles stopped where the management controller runs; no other partition differs (R225, R226). -/
def AbortedAt (s t : Machine.State) (q a : Nat) (faulted : Bool) : Prop :=
  let p := Machine.partAt s q
  let p' := Machine.partAt t q
  p'.state = .aborting ∧ p'.aborted = some (p.abortEpoch, a) ∧ p'.abortEpoch = Machine.next16 p.abortEpoch
    ∧ p'.replay = true ∧ p'.replayAt = some (a + (Machine.imageOf p).resumeGap) ∧ p'.ctx.active = false ∧ p'.buckets = []
    ∧ (∃ x, p'.purge = some x ∧ x.abortTick = a ∧ x.faulted = faulted)
    ∧ (s.mgt.running = true → ∀ u ∈ Machine.partTiles p, (Machine.tileAt t u).dma = (Machine.tileAt s u).dma.filter (fun r => !Machine.purgesRun a r)
        ∧ (Machine.tileAt t u).arr.plans = []
        ∧ (Machine.tileAt t u).vec.streams = [] ∧ (Machine.tileAt t u).sched.ctx = [])
    ∧ ∀ r, r ≠ q → Machine.partAt t r = Machine.partAt s r

/-! ### The vector engine -/

/-- A tile's vector engine can run a bundle on its own: the tile is present, the engine not stopped, no body in progress, no stored error
met, no request waiting at its banks, the memory in its canonical form. -/
def EngineReady (s : Machine.State) (t : Nat) : Prop :=
  Machine.tilePresent s t = true ∧ (Machine.tileAt s t).vec.stopped = false ∧ (Machine.tileAt s t).vec.body = none ∧ s.upsets = []
    ∧ (Machine.tileAt s t).banks = [] ∧ Machine.Memory.wf s.mem = true

/-- Element k, of w bytes, of till line l of tile t (R141). -/
def lane (s : Machine.State) (t l w k : Nat) : Nat := Machine.le (Machine.tillLine s t l) (w * k) w

/-- Element k, of w bytes, of source j (0 A, 1 B, 2 C) of an instruction: its line's, or the immediate (R146). -/
def source (s : Machine.State) (t : Nat) (i : VIns) (j w k : Nat) : Nat :=
  if i.srcsel.testBit j then i.imm.toNat % 2 ^ (8 * w)
  else lane s t (if j = 0 then i.srcA else if j = 1 then i.srcB else i.srcC) w k

/-- The 512 bytes of source j of an instruction. -/
def sourceLine (s : Machine.State) (t : Nat) (i : VIns) (j : Nat) : List Byte :=
  (List.range 128).flatMap (fun k => Machine.toLe 4 (source s t i j 4 k))

/-- Whether element k takes part: bit k of the instruction's predicate mask (R147). -/
def laneOn (s : Machine.State) (t : Nat) (i : VIns) (k : Nat) : Bool := (Machine.maskOf s t i.pred).getLsbD k

/-- Random bits of element k (R158). -/
def laneRandom (s : Machine.State) (t : Nat) (i : VIns) (n k : Nat) : Nat := (Machine.stochBits s t i n).getD k 0

/-- Elements 0 to n − 1 of w bytes of line DST hold their results where they take part, and elsewhere 0 or what they held (R148). -/
def LanesBecome (s u : Machine.State) (t : Nat) (i : VIns) (w n : Nat) (r : Nat → Nat) : Prop :=
  ∀ k, k < n → lane u t i.dst w k = if laneOn s t i k then r k % 2 ^ (8 * w) else if i.zero then 0 else lane s t i.dst w k

/-- Bits [4:0] of VEC_STATUS: those set before, and the conditions of the elements that take part (R156). -/
def FlagsJoin (s u : Machine.State) (t : Nat) (i : VIns) (n : Nat) (f : Nat → Machine.Fl) : Prop :=
  ∀ b, b < 5 → (Machine.regGet u (Machine.tileReg t 0x780800)).testBit b
    = ((Machine.regGet s (Machine.tileReg t 0x780800)).testBit b || (List.range n).any (fun k => laneOn s t i k && (f k).bits.testBit b))

/-- Nothing differs but the bytes of the listed till lines and VEC_STATUS. -/
def OnlyLines (s u : Machine.State) (t : Nat) (ls : List Nat) : Prop :=
  (∀ b, (∀ l ∈ ls, b < Machine.tillAddr t l ∨ Machine.tillAddr t l + 512 ≤ b) → Machine.readCells u.mem b = Machine.readCells s.mem b)
    ∧ (∀ x, Machine.tileAt u x = Machine.tileAt s x) ∧ SameRegistersBut [Machine.tileReg t 0x780800] s u
    ∧ u = { s with mem := u.mem, tiles := u.tiles, regs := u.regs, poison := u.poison, upsets := u.upsets }

/-- Nothing differs but one tile's vector-engine state and VEC_STATUS. -/
def OnlyEngine (s u : Machine.State) (t : Nat) (v : Machine.Vec) : Prop :=
  Machine.tileAt u t = { Machine.tileAt s t with vec := v } ∧ (∀ x, x ≠ t → Machine.tileAt u x = Machine.tileAt s x)
    ∧ SameRegistersBut [Machine.tileReg t 0x780800] s u ∧ u = { s with tiles := u.tiles, regs := u.regs }

/-- A typed opcode of n sources computes fn on each element of its line, rounded as RND, FTZ and its random bits say (R149, R152 to R155). -/
def FloatOp (c : Nat → VIns → Instr) (op n : Nat) (fn : VIns → (Nat → Machine.FVal) → Machine.FVf) : Prop :=
  ∀ (t : Nat) (i : VIns) (s : Machine.State), EngineReady s t → Machine.bundleOk s (op, i) Machine.nopSlot = true →
    Completes (c t i) s (fun u =>
      let w := Machine.typBytes i.typ
      let r := fun k => Machine.opF (Machine.fmtOf i.typ) i.rnd i.ftz (laneRandom s t i (512 / w) k)
        ((List.range n).map (fun j => source s t i j w k)) (fun x => fn i (fun j => x.getD j .nan))
      LanesBecome s u t i w (512 / w) (fun k => (r k).bits) ∧ FlagsJoin s u t i (512 / w) (fun k => (r k).fl) ∧ OnlyLines s u t [i.dst])

/-- An untyped opcode computes fn on the 32-bit elements of its sources A and B (R149). -/
def IntOp (c : Nat → VIns → Instr) (op : Nat) (fn : BitVec 32 → BitVec 32 → BitVec 32) : Prop :=
  ∀ (t : Nat) (i : VIns) (s : Machine.State), EngineReady s t → Machine.bundleOk s (op, i) Machine.nopSlot = true →
    Completes (c t i) s (fun u =>
      LanesBecome s u t i 4 128 (fun k => (fn (BitVec.ofNat 32 (source s t i 0 4 k)) (BitVec.ofNat 32 (source s t i 1 4 k))).toNat)
      ∧ OnlyLines s u t [i.dst])

/-- A predicate opcode computes fn on the bits of its source masks, under PRED and ZERO (R147 to R149). -/
def MaskOp (c : Nat → VIns → Instr) (op : Nat) (fn : VIns → Nat → Bool → Bool → Bool) : Prop :=
  ∀ (t : Nat) (i : VIns) (s : Machine.State), EngineReady s t → Machine.bundleOk s (op, i) Machine.nopSlot = true → (Machine.tileAt s t).vec.preds.length = 8 →
    Completes (c t i) s (fun u =>
      (∀ k, k < 256 → (Machine.maskOf u t i.dst).getLsbD k =
        if laneOn s t i k then fn i k ((Machine.maskOf s t i.srcA).getLsbD k) ((Machine.maskOf s t i.srcB).getLsbD k)
        else if i.zero then false else (Machine.maskOf s t i.dst).getLsbD k)
      ∧ (∃ m, OnlyEngine s u t { (Machine.tileAt s t).vec with preds := (Machine.tileAt s t).vec.preds.set i.dst m }))

/-- An element that takes part in a reduction (R161, R162): its 32-bit value where lanes are integers. -/
def presentLanes (s : Machine.State) (t : Nat) (i : VIns) : List (BitVec 32) :=
  ((List.range 128).filter (laneOn s t i)).map (fun k => BitVec.ofNat 32 (source s t i 0 4 k))

/-- A reduction over one whole line (phase SINGLE) leaves v in tally DST with no stream open on it, its tag EMPTY where no element takes
part (R160 to R163). -/
def TallyBecomes (s u : Machine.State) (t : Nat) (i : VIns) (v : BitVec 128) (empty : Bool) : Prop :=
  Machine.tallyVal u t i.dst = v ∧ (Machine.tallyTag u t i.dst).getLsbD Machine.tagEmpty = empty
    ∧ (Machine.tallyTag u t i.dst).getLsbD Machine.tagStream = false ∧ (Machine.tileAt u t).vec.streams.find i.dst = none
    ∧ (∀ k, k ≠ i.dst → Machine.tallyVal u t k = Machine.tallyVal s t k ∧ Machine.tallyTag u t k = Machine.tallyTag s t k)
    ∧ (Machine.tileAt u t).vec.preds = (Machine.tileAt s t).vec.preds ∧ (Machine.tileAt u t).vec.idx = (Machine.tileAt s t).vec.idx
    ∧ (∀ x, x ≠ t → Machine.tileAt u x = Machine.tileAt s x) ∧ SameRegistersBut [Machine.tileReg t 0x780800] s u
    ∧ u = { s with tiles := u.tiles, regs := u.regs }

/-- An opcode over untyped lanes in phase SINGLE folds fn over the elements that take part; with none it leaves the identity (R162, R163). -/
def IntReduce (c : Nat → VIns → Instr) (op : Nat) (identity : BitVec 32) (fn : BitVec 32 → BitVec 32 → BitVec 32) : Prop :=
  ∀ (t : Nat) (i : VIns) (s : Machine.State), EngineReady s t → Machine.bundleOk s Machine.nopSlot (op, i) = true →
    (Machine.tileAt s t).vec.netOpen = [] → Machine.redInt op i.typ = true → i.sub % 4 = 0 → Completes (c t i) s (fun u =>
      TallyBecomes s u t i (((presentLanes s t i).foldl fn identity).setWidth 128) (presentLanes s t i).isEmpty)

/-- The leaves of a typed reduction: an absent one where the element does not take part, else the element widened exactly to binary32. -/
def floatLeaves (s : Machine.State) (t : Nat) (i : VIns) (base : Nat) : List (Option Machine.RNode) :=
  (List.range (512 / Machine.typBytes i.typ)).map (fun k =>
    if laneOn s t i k then some { val := ((Machine.floatLeaf i (source s t i 0 (Machine.typBytes i.typ) k)).bits : Int), pos := (base + k) % 2 ^ 32 } else none)

/-- A typed opcode in phase SINGLE leaves the canonical tree's root over its line's leaves, as a tally holds it (R160 to R163). -/
def FloatReduce (c : Nat → VIns → Instr) (op : Nat) : Prop :=
  ∀ (t : Nat) (i : VIns) (s : Machine.State), EngineReady s t → Machine.bundleOk s Machine.nopSlot (op, i) = true →
    (Machine.tileAt s t).vec.netOpen = [] → Machine.redInt op i.typ = false → i.sub % 4 = 0 → Completes (c t i) s (fun u =>
      let r := (Machine.treeOfLeaves (Machine.redNode op i.rnd i.ftz false false) 8 (floatLeaves s t i (Machine.idxReg s t i.idxr))).1
      TallyBecomes s u t i (Machine.redResult op false r).1 r.isNone)

/-! ### Firings -/

/-- Firing f of actor record r is the next that a unit of a kind serves on tile t: the tile may fire, nothing of it runs, and no guard is
open and no request waits at its banks (R207, R209). -/
def FiringReady (s : Machine.State) (t kind : Nat) (f : Machine.Firing) (r : Machine.ActorRec) : Prop :=
  (Machine.tileAt s t).sched.stopped = false ∧ Machine.nextFiring s t kind = some f ∧ Machine.actorRec s t f.actor = some r ∧ r.kind = kind
    ∧ (Machine.tileAt s t).sched.running = [] ∧ s.fs.guards = [] ∧ (Machine.tileAt s t).banks = []

/-- Whether the firing does its work: always, but for a COND actor, which reads the TAKEN bit of its slot-0 token, unless the firing is
speculative or run again (R131, R208, R219). -/
def doesWork (s : Machine.State) (t : Nat) (f : Machine.Firing) (r : Machine.ActorRec) : Bool := f.spec || f.rerun || !r.cond || Machine.readsTaken s t f.actor r

/-- The firing as it runs from here on. -/
def firingNow (s : Machine.State) (t : Nat) (f : Machine.Firing) (r : Machine.ActorRec) (finished : Bool) : Machine.Firing :=
  { f with work := doesWork s t f r, finished := finished, taken := List.replicate r.outCount (doesWork s t f r) }

/-- The firing has taken its NEED of tokens from every slot and counts as fired, where it is neither speculative nor run again; every other
actor's context and the tokens on the mesh are as they were (R131, R207, R219). -/
def TokensTaken (s u : Machine.State) (t : Nat) (f : Machine.Firing) (r : Machine.ActorRec) : Prop :=
  (f.spec = false → f.rerun = false → (Machine.ctxOf u t f.actor).fired = (Machine.ctxOf s t f.actor).fired + 1
      ∧ (Machine.ctxOf u t f.actor).counts = (List.range 8).map (fun i => (Machine.ctxOf s t f.actor).counts.getD i 0 - r.need.getD i 0))
    ∧ (f.spec = true ∨ f.rerun = true → Machine.ctxOf u t f.actor = Machine.ctxOf s t f.actor)
    ∧ (∀ a, a ≠ f.actor → Machine.ctxOf u t a = Machine.ctxOf s t a) ∧ u.tokens = s.tokens
    ∧ (∀ x, x ≠ t → Machine.tileAt u x = Machine.tileAt s x)

/-! ### Transfers -/

/-- n bytes from a lie in the near store of a tile at whose banks nothing waits, or in the far store with no guard open and no channel fenced
(R242, R246, R261, R269). -/
def PlainSpan (s : Machine.State) (a n : Nat) : Prop :=
  (a + n ≤ 0x200000000 ∧ Machine.offOf a + n ≤ 0x600000 ∧ (Machine.tileAt s (Machine.tileOf a)).banks = [])
    ∨ (Machine.fsBase ≤ a ∧ s.fs.guards = [] ∧ ∀ c, (Machine.chanAt s c).state ≠ 3)

/-- An engine's operation for partition q that moves n far-store bytes is served at once: nothing waits at the partition's regulator, its
bucket covers n bytes, and no request holds a slot (R271, R273, R274). -/
def Funded (s : Machine.State) (q n : Nat) : Prop :=
  (Machine.partAt s q).regWait = [] ∧ (Machine.partAt s q).regOps = [] ∧ n ≤ (Machine.partAt s q).bucketTokens ∧ s.fs.issued = []

/-- A unit has put its reply to an on-die request on the way to the requester, with the epochs the request carried (R224, R245, R489). -/
def Answers (s u : Machine.State) (src : Nat) (r : MeshReq) (status : Nat) (poisoned : Bool) (data : List Byte) : Prop :=
  ∃ y : MeshReply, u.replies = s.replies ++ [(src, y)] ∧ y.requester = r.requester ∧ y.tag = r.tag ∧ y.epoch = r.epoch ∧ y.part = r.part
    ∧ y.abortEpoch = r.abortEpoch ∧ y.status = status ∧ y.poisoned = poisoned ∧ y.data = data

/-- Descriptor k of the list that tile t runs has started, with an operation code; its far-store requests have entered and no earlier
descriptor is still to write its lines; the check-value unit that a checked one names is free and sound; no unit it addresses is being reset;
nothing stored is poisoned or upset (R252, R271, R273, R341, R351). -/
def DescMoves (s : Machine.State) (q t k op : Nat) (d : Machine.DescF) : Prop :=
  Machine.partOfTile s t = some q
    ∧ (∃ r x, Machine.headRun s t = some r ∧ r.descs[k]? = some x ∧ Machine.descOf x.bytes = d ∧ x.phase = 1 ∧ Machine.awaitsEarlier s r k d = false)
    ∧ d.op = op ∧ Machine.requestsWait s q t k = false ∧ Machine.unitWaits s d = false ∧ (d.check = true → Machine.runBad s d.unit q = false)
    ∧ Machine.targetResetting s t d = false ∧ s.poison = [] ∧ s.upsets = []
    ∧ Machine.Memory.wf s.mem = true

/-- That descriptor's data has moved with OK (R252). -/
def DescMoved (u : Machine.State) (t k : Nat) : Prop :=
  ∃ r x, Machine.headRun u t = some r ∧ r.descs[k]? = some x ∧ x.phase = 2 ∧ x.status = Machine.stOk

/-! ### Links -/

/-- A packet of a type arrives on an UP port for flow f of partition q and passes checks 1 to 5 of R302; where it carries a trailer, no parity
error has stopped its check-value unit, and its message's running value has good parity (R347, R351). -/
def Arrives (s : Machine.State) (p typ : Nat) (k : Packet) (q : Nat) (f : Machine.Flow) : Prop :=
  k.typ = typ ∧ Machine.malformed k = false ∧ Machine.arrivalFlow s p k = some f ∧ f.q = q ∧ Machine.flowAt s q f.idx = some f
    ∧ (k.cval = true → Machine.cvuStopped s (Machine.rxUnit p) = false ∧ Machine.runBad s (Machine.rxUnit p) q = false) ∧ p < 16 ∧ Machine.portUp s p = true
    ∧ Machine.isFencedPart (Machine.partAt s q) = false
    ∧ (Machine.isBound (Machine.partAt s q) = true → k.jobEpoch = Machine.jobEpochOf (Machine.partAt s q))
    ∧ k.abortEpoch = (Machine.partAt s q).abortEpoch

/-- A reply to packet k has been added to port p's reply queue: its type, status and data, the request's slot and generation, and its sender
as destination (R300 to R303). -/
def Replied (s t : Machine.State) (p : Nat) (f : Machine.Flow) (k : Packet) (typ status : Nat) (data : List Byte) : Prop :=
  ∃ r, (Machine.portAt t p).sendRsp = (Machine.portAt s p).sendRsp ++ [{ q := f.q, flow := f.idx, pkt := r }] ∧ r.typ = typ
    ∧ r.status = status ∧ r.data = data ∧ r.length = data.length ∧ r.slot = k.slot ∧ r.gen = k.gen ∧ r.dstDev = k.srcDev
    ∧ r.srcDev = s.devId ∧ r.flow = f.cfg.remoteFlow

/-- A request of partition q, once accepted, has its effect: it lands where nothing is journaled, or in a job whose journal does not hold it
yet and has room for it (R415 to R420); the partition neither shadows nor serves, and no catch-up is running. -/
def Fresh (s : Machine.State) (q : Nat) (f : Machine.Flow) (k : Packet) : Prop :=
  (Machine.journals (Machine.partAt s q) k = true →
      Machine.journalEntry s (Machine.partAt s q) f k = none ∧ Machine.journalFull s (Machine.partAt s q) f.idx k = false)
    ∧ (Machine.partAt s q).join = {} ∧ ∀ i, (Machine.escrowSlot (Machine.partAt s q) i).catchUp = false

/-- A symbol of a type that arrives for the valid tree context it names, of that context's epoch, and with a good CRC (R304). -/
def SymbolArrives (s : Machine.State) (typ : Nat) (c : CtlSlot) : Prop :=
  c.typ = typ ∧ Machine.symOk c = true ∧ (Machine.treeAt s c.tree).valid = true ∧ c.epoch = (Machine.treeAt s c.tree).epoch % 65536

/-- A port that sends a control symbol at once: it is UP and its replay buffer has room (R294). -/
def SendsNow (s : Machine.State) (p : Nat) : Prop := Machine.portUp s p = true ∧ (Machine.portAt s p).replay.length < 512

/-- Nothing differs but what the block sends, its ports' buffers and one register. -/
def OnlyLinks (s t : Machine.State) (l : List Nat) : Prop :=
  t = { s with ports := t.ports, out := t.out, regs := t.regs } ∧ SameRegistersBut l s t

/-! ### Invariants -/

/-- The governor's registers stay within their ranges (R539, R543, R555): the droop demand at most 32, the cap and thermal demands at most 48,
the cap between 2,000 and 3,000 W, at most eight rails in regulation (R536). -/
def GovernorInRange (p : Machine.Power) : Prop := p.droop ≤ 32 ∧ p.cap ≤ 48 ∧ p.therm ≤ 48 ∧ 2000 ≤ p.capW ∧ p.capW ≤ 3000 ∧ p.rails ≤ 8

/-- What every step keeps: the memory's canonical form, the governor's ranges, the four host slots of R352. -/
def Inv (s : Machine.State) : Prop := Machine.Memory.wf s.mem = true ∧ GovernorInRange s.pwr ∧ s.hosts.length = 4

end Sys2Proof
end

