-- ==== Sys2Proof/Certificates/Slice0/Obligations.lean ====
section
/-! DEFINITION. The statements for the provers. -/

open Sys2Proof Sys2Proof.Machine

/-- A step runs the command at the front of the queue on the state with the queue's rest; on an empty queue one reference cycle passes: the
cycle count rises by one and every regulator is credited, and nothing else changes (the model's choice: notes/assumptions/1). -/
def Obligations.TheFrontCommandRuns : Prop :=
  (∀ (c : Instr) (rest : List Instr) (s : State), step { s with pending := c :: rest } = exec c { s with pending := rest })
  ∧ (∀ s : State, s.pending = [] → ∃ t, step s = .next t ∧ t.cycle = s.cycle + 1
      ∧ (∀ q, partAt t q = creditPart (partAt s q)) ∧ t = { s with cycle := s.cycle + 1, parts := t.parts })

/-- Every command answers a next state in every state, and leaves the commands that wait as they are: a command only leaves the queue from
its front, by step. -/
def Obligations.NoCommandTouchesTheQueue : Prop :=
  ∀ (c : Instr) (s : State), ∃ t, exec c s = .next t ∧ t.pending = s.pending

/-- What reset leaves (R211, R235, R352, R374, R452, R555): the device in BOOT, no partition, no memory written, no waiting command, a tick
period of 125,000 cycles with none pending, a power cap of 3,000 W, the monitors enabled at their default thresholds, four free host slots, the
Ethernet ports negotiating. -/
def Obligations.ResetLeavesTheSpecsValues : Prop :=
  let s := State.reset
  s.dev = .boot ∧ s.pending = [] ∧ s.mem = [] ∧ s.cycle = 0 ∧ (∀ q, (partAt s q).state = .empty)
    ∧ (regRead s (ctl 0x200)).1 = 125000 ∧ (regRead s (ctl 0x208)).1 = 0 ∧ (regRead s (ctl 0x210)).1 = 0 ∧ (regRead s (ctl 0xB08)).1 = 3000
    ∧ (List.range 5).map (fun m => (regRead s (ctl (0x700 + 16 * m))).1) = [10000, 1000, 50000000, 1000, 5].map (fun x => x + 2 ^ 32)
    ∧ s.hosts = [{}, {}, {}, {}] ∧ (∀ e, e < 4 → (ethAt s e).state = 1)

/-- The state after reset meets the invariant. -/
def Obligations.ResetMeetsTheInvariant : Prop :=
 Inv State.reset

/-- Every step of every command keeps the invariant: the memory stays in its canonical form, the governor's demands, the power cap and the
rails within their ranges, and the host slots four. -/
def Obligations.EveryStepKeepsTheInvariant : Prop :=
 ∀ s t : State, Inv s → step s = .next t → Inv t

/-- A downward result that carries WARN does what the same result without it does, after WARN_SEEN has been set in CKP_STATUS of the job's
partition (R454). -/
def Obligations.WarnOnlySetsWarnSeen : Prop :=
  ∀ (s : State) (q T : Nat) (v : BitVec 8), v.getLsbD 4 = false →
    applyResult s q T (v ||| 0x10) = applyResult (regFlag s (ckpReg q 0) 3) q T v
    ∧ regField (regFlag s (ckpReg q 0) 3) (ckpReg q 0) 3 1 = 1 ∧ SameRegistersBut [ckpReg q 0] s (regFlag s (ckpReg q 0) 3)

/-- PWR_CAP (R555): a written value below 2,000 is stored as 2,000, one above 3,000 as 3,000, one between as it is; the register reads
as the cap stored, its other bits zero, and as 3,000 at reset; nothing else changes. -/
def Obligations.PowerCapIsClamped : Prop :=
  ∀ (s : State) (v : Word),
    Completes (.pwrCapWrite v) s (fun t =>
      (v.toNat % 2 ^ 12 < 2000 → t.pwr.capW = 2000) ∧ (3000 < v.toNat % 2 ^ 12 → t.pwr.capW = 3000)
      ∧ (2000 ≤ v.toNat % 2 ^ 12 → v.toNat % 2 ^ 12 ≤ 3000 → t.pwr.capW = v.toNat % 2 ^ 12)
      ∧ (regRead t (ctl 0xB08)).1 = t.pwr.capW ∧ t = { s with pwr := { s.pwr with capW := t.pwr.capW } })
    ∧ (regRead State.reset (ctl 0xB08)).1 = 3000

/-- MONITOR_WINDOW (R452, R453): a window's measurement is held in CKP_MON_VALUE and the next window begins with its count clear; a measurement
that does not trip (below the threshold; for the thermal monitor above it; or any while the monitor is disabled) clears TRIPPED; the first that
trips sets TRIPPED, sends the event and makes every bound partition's cut pending with WARN and CKPT_REQ in its next vote (a shadow's raises no
vote, R440); further ones while TRIPPED do nothing more; a window with no measurement changes nothing. -/
def Obligations.MonitorsTripOnce : Prop :=
  ∀ (m : Nat) (seen : Option Int) (s : State), m < 5 →
    (monMeasure s.mgt.mon m seen = none → exec (.monitorWindow m seen) s = .next s)
    ∧ ∀ v, monMeasure s.mgt.mon m seen = some v →
    let thr := field (monGet s m) 0 32
    let on := (monGet s m).testBit 32
    let was := (monGet s m).testBit 33
    let over_ : Prop := if m = 4 then signed 32 v ≤ signed 32 thr else thr ≤ v
    let again := fun (t : State) => t.mgt = { s.mgt with mon := monClear s.mgt.mon m }
    (on = false ∨ ¬over_ → Completes (.monitorWindow m seen) s (fun t =>
      regGet t (monValueReg m) = v ∧ (monGet t m).testBit 33 = false ∧ field (monGet t m) 0 33 = field (monGet s m) 0 33
      ∧ SameRegistersBut [monReg m, monValueReg m] s t ∧ again t ∧ t = { s with regs := t.regs, mgt := t.mgt }))
    ∧ (on = true → over_ → was = true → Completes (.monitorWindow m seen) s (fun t =>
      regGet t (monValueReg m) = v ∧ SameRegistersBut [monValueReg m] s t ∧ again t ∧ t = { s with regs := t.regs, mgt := t.mgt }))
    ∧ (on = true → over_ → was = false → Completes (.monitorWindow m seen) s (fun t =>
      regGet t (monValueReg m) = v ∧ (monGet t m).testBit 33 = true ∧ field (monGet t m) 0 33 = field (monGet s m) 0 33
      ∧ SameRegistersBut [monReg m, monValueReg m] s t ∧ t.eventNo = s.eventNo + 1 ∧ again t
      ∧ (∀ h, h < 4 → (hostAt s h).attached = true → ∃ r, Emission.status h r ∈ t.out ∧ le r 0 2 = 0x8004 ∧ le r 16 8 = m + 1 ∧ le r 24 8 = v)
      ∧ (∀ q, q < 16 → isBound (partAt s q) = true → (partAt t q).ckpt.pending = true
        ∧ (isShadowing (partAt s q) = false → (partAt t q).ctx.votes.getLsbD voteWarn = true ∧ (partAt t q).ctx.votes.getLsbD voteCkpt = true))
      ∧ (∀ q, isBound (partAt s q) = false → partAt t q = partAt s q)
      ∧ t = { s with regs := t.regs, mgt := t.mgt, parts := t.parts, out := t.out, eventNo := t.eventNo }))

/-- The governor's demands (R539, R543): droop goes to 32 and falls by 1, the cap and thermal demands move by 1 within 0 and 48, each
rise is kept as seen in PWR_STATUS, and a stretch level above 0 marks the running tick of every partition. The thermal margin is kept for the
thermal monitor. Nothing else changes. -/
def Obligations.GovernorDemandsFollowTheirInputs : Prop :=
  ∀ s : State, s.dev ≠ .off → s.pwr.rails = 8 →
    Completes .droopDetect s (fun t =>
        t.pwr = { s.pwr with droop := 32 } ∧ regField t (ctl 0xB00) 16 1 = 1 ∧ SameRegistersBut [ctl 0xB00] s t
        ∧ (∀ q, (s.parts.find q).isSome → (partAt t q).ctx = { (partAt s q).ctx with throttled := true })
        ∧ t = { s with pwr := t.pwr, regs := t.regs, parts := t.parts })
    ∧ exec .droopRamp s = .next { s with pwr := { s.pwr with droop := s.pwr.droop - 1 } }
    ∧ (∀ avg, Completes (.capLoop avg) s (fun t =>
        let limit := if s.pwr.uvWarn then min s.pwr.capW 2000 else s.pwr.capW
        t.pwr = { s.pwr with cap :=
          if limit < avg then min 48 (s.pwr.cap + 1) else if 100 * avg ≤ 97 * limit then s.pwr.cap - 1 else s.pwr.cap }
        ∧ (limit < avg → regField t (ctl 0xB00) 17 1 = 1) ∧ (avg ≤ limit → t.regs = s.regs ∧ t.parts = s.parts)
        ∧ SameRegistersBut [ctl 0xB00] s t ∧ t = { s with pwr := t.pwr, regs := t.regs, parts := t.parts }))
    ∧ (∀ die mem : Int, Completes (.thermalLoop die mem) s (fun t =>
        let m := min (105 - die) (95 - mem)
        t.pwr = { s.pwr with
          dieHot := die
          memHot := mem
          margin := m
          therm := if m ≤ 2 then min 48 (s.pwr.therm + 1) else if 4 ≤ m then s.pwr.therm - 1 else s.pwr.therm }
        ∧ t.mgt = { s.mgt with mon := { s.mgt.mon with margin := some (match s.mgt.mon.margin with | none => m | some x => min x m) } }
        ∧ (m ≤ 2 → regField t (ctl 0xB00) 18 1 = 1) ∧ (2 < m → t.regs = s.regs ∧ t.parts = s.parts)
        ∧ SameRegistersBut [ctl 0xB00] s t ∧ t = { s with pwr := t.pwr, regs := t.regs, parts := t.parts, mgt := t.mgt }))

/-- The input faults and the rail and thermal faults open the input switch (R532, R533, R536, R538, R544): the device is OFF with its
cause latched, the far store, near stores, registers, bindings and the error log are lost, INCARNATION rises, and SMB_ALERT_N is
asserted where no bit was latched before. The waiting commands, the fuses and the pins stay.

UV_WARN and its end (R532): the flag holds, UV_SEEN is kept, the PMBus input warning is latched and alerts; the end clears the flag
alone. -/
def Obligations.InputFaultsAndWarnings : Prop :=
  (
  ∀ (s : State) (c : Instr) (cause : Nat), (c, cause) ∈ [(.uvFault, 1), (.ovFault, 2), (.overcurrent, 3), (.railFault, 4), (.thermalTrip, 5)] →
    s.pwr.switchOpen = false →
    Completes c s (fun t =>
      t.dev = .off ∧ t.pwr.switchOpen = true ∧ t.pwr.faultLatched = true ∧ t.pwr.pmCause = cause ∧ t.pwr.rails = 0
      ∧ t.mem = [] ∧ t.regs = [] ∧ t.parts = [] ∧ t.tiles = [] ∧ t.mgt.log = [] ∧ t.flows = [] ∧ t.conns = []
      ∧ t.incarnation = s.incarnation + 1
      ∧ t.out = (if s.pwr.pmStatus = 0 then .alert :: s.out else s.out)
      ∧ t.pending = s.pending ∧ t.fuses = s.fuses
      ∧ t.pwr.modEn = s.pwr.modEn ∧ t.pwr.modResetN = s.pwr.modResetN ∧ t.pwr.refclk = s.pwr.refclk)
  ) ∧ (
  ∀ s : State, s.pwr.switchOpen = false →
    Completes .uvWarn s (fun t =>
        t.pwr = { s.pwr with uvWarn := true, pmStatus := s.pwr.pmStatus ||| 0x2000 } ∧ regField t (ctl 0xB00) 19 1 = 1
        ∧ SameRegistersBut [ctl 0xB00] s t ∧ t.out = (if s.pwr.pmStatus = 0 then .alert :: s.out else s.out)
        ∧ t = { s with pwr := t.pwr, regs := t.regs, out := t.out })
    ∧ exec .uvWarnClear s = .next { s with pwr := { s.pwr with uvWarn := false } })

/-- Power-on, power-off and the reset pins (R363, R536, R537, R547, R549, R551). MOD_EN rising closes the switch and starts the rails;
falling, it takes the module to OFF with the far store lost. Each rail that comes up is counted, and the last one releases the die
into BOOT with its straps sampled unless a pin, REFCLK or JTAG holds it. MOD_RESET_N falling, a lost REFCLK and EXTEST start a warm
device reset; a release of the last hold enters BOOT.

The tick reference (R550, R558), at a master with ENABLE 1. An edge within 1 µs of its boundary steers the tick time and is good; a
later or earlier one is ignored and counted in BAD_EDGES, which holds at 0xFF; a missing one is bad without being counted. The eighth bad
edge in a row clears IN_USE and sets REF_LOST; a lost reference is used again at the eighth good edge in a row. That the first good edge of a reference not lost is used is the model's reading. -/
def Obligations.PowerSequencePinsAndReference : Prop :=
  (
  (∀ s : State, s.pwr.modEn = false → Completes .modEnRise s (fun t =>
      t.pwr.modEn = true ∧ t.pwr.switchOpen = false ∧ t.pwr.faultLatched = false ∧ t.pwr.rails = 0
      ∧ (s.pwr.faultLatched = true → t.pwr.pmCause = 0) ∧ t = { s with pwr := t.pwr }))
  ∧ (∀ s : State, s.pwr.modEn = true → s.pwr.switchOpen = false → Completes .modEnFall s (fun t =>
      t.dev = .off ∧ t.pwr.modEn = false ∧ t.pwr.switchOpen = true ∧ t.pwr.rails = 0 ∧ t.mem = [] ∧ t.regs = [] ∧ t.parts = []
      ∧ t.tiles = [] ∧ t.incarnation = s.incarnation + 1 ∧ t.pending = s.pending ∧ t.out = s.out ∧ t.fuses = s.fuses))
  ∧ (∀ s : State, s.dev = .off → s.pwr.modEn = true → s.pwr.switchOpen = false → s.pwr.rails < 7 →
      exec .railGood s = .next { s with pwr := { s.pwr with rails := s.pwr.rails + 1 } })
  ∧ (∀ s : State, s.dev = .off → s.pwr.modEn = true → s.pwr.switchOpen = false → s.pwr.rails = 7 →
      Completes .railGood s (fun t => t.pwr = { s.pwr with rails := 8 }
        ∧ t.dev = (if s.pwr.modResetN ∧ s.pwr.refclk ∧ ¬ s.pwr.extest then .boot else .off)
        ∧ (t.dev = .boot → t.fdTag = s.fuses.fdTagStrap ∧ t.cycle = 0) ∧ t.mem = s.mem ∧ t.regs = s.regs ∧ t.parts = s.parts))
  ∧ (∀ (s : State) (c : Instr), c ∈ [.modResetNFall, .refLoss, .extest] → s.dev ≠ .off → s.pwr.rails = 8 → s.pwr.refclk = true →
      s.mgt.resets = [] → Completes c s (fun t =>
        t.mgt.resets = [{ domain := 8, idx := 0, host := none, fault := false }] ∧ t.fs = { s.fs with draining := true }
        ∧ t.hosts = [{}, {}, {}, {}] ∧ t.cmds = [] ∧ t.conns = []
        ∧ t.mgt.refLossPending = (s.mgt.refLossPending || decide (c = .refLoss))
        ∧ t.pwr = { s.pwr with
            modResetN := s.pwr.modResetN && decide (c ≠ .modResetNFall)
            refclk := decide (c ≠ .refLoss)
            extest := s.pwr.extest || decide (c = .extest) }
        ∧ t = { s with mgt := t.mgt, fs := t.fs, hosts := t.hosts, cmds := t.cmds, conns := t.conns, pwr := t.pwr }))
  ∧ (∀ (s : State) (c : Instr), c ∈ [.modResetNRelease, .refclkRestore] → s.dev = .boot → s.pwr.rails = 3 → s.pwr.switchOpen = false →
      s.pwr.extest = false → (c = .modResetNRelease → s.pwr.refclk = true) → (c = .refclkRestore → s.pwr.modResetN = true) →
      s.mgt.refLossPending = false → Completes c s (fun t =>
        t.pwr = { s.pwr with modResetN := true, refclk := true, rails := 8 } ∧ t.dev = .boot ∧ t.fdTag = s.fuses.fdTagStrap ∧ t.cycle = 0
        ∧ t.eths.length = 4 ∧ t = { s with pwr := t.pwr, fdTag := t.fdTag, cycle := 0, eths := t.eths }))
  ) ∧ (
  ∀ s : State, s.dev ≠ .off → s.pwr.rails = 8 → s.tick.master = true → s.tick.refEnable = true →
    (∀ late : Int, late.natAbs ≤ 1250 → s.tick.badRun < 8 → Completes (.tickRefEdge late) s (fun t =>
        t.tick.refInUse = true ∧ t.tick.badRun = 0 ∧ t.tick.goodEdges = min 8 (s.tick.goodEdges + 1) ∧ tickTime t = tickTime s - 16 * late ∧ t = { s with tick := t.tick }))
    ∧ (∀ late : Int, late.natAbs ≤ 1250 → s.tick.badRun = 8 → Completes (.tickRefEdge late) s (fun t =>
        t.tick.refInUse = (s.tick.refInUse || decide (7 ≤ s.tick.goodEdges)) ∧ t.tick.badRun = (if s.tick.goodEdges < 7 then 8 else 0)
        ∧ t.tick.goodEdges = min 8 (s.tick.goodEdges + 1) ∧ tickTime t = tickTime s - (if s.tick.goodEdges < 7 then 0 else 16 * late)
        ∧ t = { s with tick := t.tick }))
    ∧ (∀ late : Int, 1250 < late.natAbs → Completes (.tickRefEdge late) s (fun t =>
        regField t (ctl 0x220) 24 8 = min (regField s (ctl 0x220) 24 8 + 1) 255 ∧ t.tick.goodEdges = 0
        ∧ t.tick.badRun = min 8 (s.tick.badRun + 1) ∧ tickTime t = tickTime s ∧ t.tick.refInUse = (s.tick.refInUse && decide (s.tick.badRun < 7))
        ∧ (s.tick.badRun = 7 → regField t (ctl 0x220) 2 1 = 1) ∧ SameRegistersBut [ctl 0x220] s t
        ∧ t = { s with tick := t.tick, regs := t.regs }))
    ∧ Completes .tickRefEdgeMissing s (fun t =>
        t.tick.badRun = min 8 (s.tick.badRun + 1) ∧ t.tick.refInUse = (s.tick.refInUse && decide (s.tick.badRun < 7))
        ∧ (s.tick.badRun = 7 → regField t (ctl 0x220) 2 1 = 1) ∧ regField t (ctl 0x220) 24 8 = regField s (ctl 0x220) 24 8
        ∧ tickTime t = tickTime s
        ∧ SameRegistersBut [ctl 0x220] s t ∧ t = { s with tick := t.tick, regs := t.regs }))

/-- PMBus (R538). Each command answers on its page and is refused with the CML bit on another; PAGE takes 0 to 6 and refuses other
values; CLEAR_FAULTS clears the latched bits and the cause and leaves the switch. The places of STATUS_WORD's bits and of its
manufacturer-specific byte are the model's.

JTAG (R551), with VAUX up and EXTEST not loaded: BYPASS, IDCODE and SAMPLE/PRELOAD shift out their registers and change nothing else;
IDCODE's fields are the fixed ones, the part and the stepping. -/
def Obligations.PmbusAndJtagAnswer : Prop :=
  (
  ∀ s : State, s.dev ≠ .off → s.pwr.rails = 8 →
    (∀ v : Byte, v.toNat ≤ 6 → exec (.page (some v)) s = .next { s with pwr := { s.pwr with pmPage := v.toNat } })
    ∧ (∀ v : Byte, 6 < v.toNat → Completes (.page (some v)) s (fun t =>
        t.pwr = { s.pwr with pmStatus := s.pwr.pmStatus ||| 2 } ∧ t = { s with pwr := t.pwr, out := t.out }))
    ∧ exec (.page none) s = .next { s with out := .pmbus 0 s.pwr.pmPage :: s.out }
    ∧ exec .clearFaults s = .next { s with pwr := { s.pwr with pmStatus := 0, pmCause := 0 } }
    ∧ (s.pwr.switchOpen = false → exec .statusWord s = .next { s with out := .pmbus 0x79 (s.pwr.pmStatus.toNat + s.pwr.pmCause * 2 ^ 16) :: s.out })
    ∧ (∀ c code v, (c, code, v) ∈ [(Instr.vinOvFaultLimit, 0x55, 62), (.vinUvWarnLimit, 0x58, 44), (.vinUvFaultLimit, 0x59, 40)] →
        s.pwr.pmPage = 0 → exec c s = .next { s with out := .pmbus code (linear11 v 1) :: s.out })
    ∧ (∀ n, s.pwr.pmPage = 0 →
        exec (.readVin n) s = .next { s with pwr := { s.pwr with vinMv := n }, out := .pmbus 0x88 (linear11 n 1000) :: s.out }
        ∧ exec (.readIin n) s = .next { s with pwr := { s.pwr with iinCa := n / 10 }, out := .pmbus 0x89 (linear11 n 1000) :: s.out }
        ∧ exec (.readPin n) s = .next { s with pwr := { s.pwr with pinW := n / 1000 }, out := .pmbus 0x97 (linear11 n 1000) :: s.out })
    ∧ (∀ c : Int, s.pwr.pmPage = 0 →
        exec (.readTemperature1 c) s = .next { s with pwr := { s.pwr with coolIn := c }, out := .pmbus 0x8D (linear11 c 1) :: s.out }
        ∧ exec (.readTemperature2 c) s = .next { s with pwr := { s.pwr with coolOut := c }, out := .pmbus 0x8E (linear11 c 1) :: s.out }
        ∧ exec (.readTemperature3 c) s = .next { s with pwr := { s.pwr with dieHot := c }, out := .pmbus 0x8F (linear11 c 1) :: s.out })
    ∧ (∀ n c code, (c, code) ∈ [(Instr.readVout n, 0x8B), (.readIout n, 0x8C), (.readPout n, 0x96)] →
        (s.pwr.pmPage ≠ 0 → exec c s = .next { s with out := .pmbus code (linear11 n 1000) :: s.out })
        ∧ (s.pwr.pmPage = 0 → Completes c s (fun t =>
          t.pwr = { s.pwr with pmStatus := s.pwr.pmStatus ||| 2 } ∧ t = { s with pwr := t.pwr, out := t.out })))
  ) ∧ (
  ∀ s : State, 4 ≤ s.pwr.rails → s.pwr.extest = false →
    exec .bypass s = .next { s with out := .jtag 0 :: s.out }
    ∧ (∃ v, exec .idcode s = .next { s with out := .jtag v :: s.out } ∧ v % 2 = 1 ∧ v / 2 % 2 ^ 11 = 0x2D9
        ∧ v / 2 ^ 12 % 2 ^ 16 = (match s.fuses.variant with | .dj4096H => 0x4A01 | .dj3072H => 0x4A02 | .dj4096G => 0x4A03)
        ∧ v / 2 ^ 28 = s.fuses.stepping % 16)
    ∧ (∃ d, exec .samplePreload s = .next { s with out := .jtag d :: s.out, fresh := s.fresh + 1 }))

/-- COMMAND_RECORD (R356, R359): on an attached slot a record with a new SEQ is accepted: it joins the waiting commands and becomes the
slot's highest SEQ, whose last 256 keep their records. The SEQ of a cached answer gets that answer again with DUPLICATE set, the SEQ of a command not yet answered nothing,
and an older SEQ a BAD_FIELD record that changes nothing. -/
def Obligations.CommandRecordsAreJudgedBySeq : Prop :=
  ∀ (h : Nat) (m : List Byte) (s : State), h < s.hosts.length → (hostAt s h).attached = true → m.length ≤ 65600 →
    (s.cmds.filter (fun c => c.host = h)).length < 64 →
    let c := parseCmd h m
    let ahead := (c.seq + 2 ^ 32 - (hostAt s h).h) % 2 ^ 32
    let back := ((hostAt s h).h + 2 ^ 32 - c.seq) % 2 ^ 32
    ((hostAt s h).anySeq = true ∨ (1 ≤ ahead ∧ ahead ≤ 2 ^ 31) → s.dev = .boot ∨ s.mgt.running = true → c.opcode ∈ opcodes →
      (∀ d ∈ s.cmds, d.opcode ∈ opcodes ∨ mayStart s d = false) →
      Completes (.commandRecord h m) s (fun t =>
        t.cmds = s.cmds ++ [c]
        ∧ hostAt t h = { hostAt s h with h := c.seq, anySeq := false, cache := keptRecords c.seq (hostAt s h).cache }
        ∧ t = { s with cmds := t.cmds, hosts := t.hosts }))
    ∧ ((hostAt s h).anySeq = false → (ahead = 0 ∨ 2 ^ 31 < ahead) →
      (∀ r, back ≤ 255 → (hostAt s h).cache.find? (fun r => r.1 = c.seq) = some r →
        exec (.commandRecord h m) s = .next { s with out := .status h (asDuplicate r.2) :: s.out })
      ∧ (back ≤ 255 → (hostAt s h).cache.find? (fun r => r.1 = c.seq) = none → (cmdAt s h c.seq).isSome → exec (.commandRecord h m) s = .next s)
      ∧ (255 < back ∨ ((hostAt s h).cache.find? (fun r => r.1 = c.seq) = none ∧ cmdAt s h c.seq = none) → Completes (.commandRecord h m) s (fun t =>
          t = { s with out := t.out } ∧ ∃ r, t.out = .status h r :: s.out ∧ le r 3 1 = stBadField ∧ le r 4 4 = c.seq % 2 ^ 32)))

/-- IDENTIFY, READ_LOG and ATTEST (R365, R478, R520): IDENTIFY records DEV_CAPS and the firmware version with INCARNATION; READ_LOG with
a count of 0 records the bytes held, and otherwise writes the named entries to its bulk region; ATTEST writes its report there. Nothing
else changes.

The crash dump (R363, R496 to R500): DUMP puts the device into DUMP and begins the walk over every unit; DUMP_UNIT reads the next unit
and enters it in the directory, only the trace ring of one that is marked; after the last the header is written, the device returns to the
state it left and the command completes with the bytes and the number of silent units; a timeout marks the unit. -/
def Obligations.QueriesAndDumpsAnswer : Prop :=
  (
  ∀ (h seq : Nat) (s : State) (c : Cmd),
    (Starts s h seq opIdentify c [] → Completes (.identify h seq) s (fun t =>
      Recorded t c stOk (devCaps s) (fwVersion s + s.incarnation % 2 ^ 32 * 2 ^ 32) ∧ OnlyRecord s t))
    ∧ (Starts s h seq opReadLog c (readLogFails s c) → c.arg1 = 0 → Completes (.readLog h seq) s (fun t =>
      Recorded t c stOk (64 * s.mgt.log.length) 0 ∧ OnlyRecord s t))
    ∧ (Starts s h seq opReadLog c (readLogFails s c) → c.arg1 ≠ 0 → Completes (.readLog h seq) s (fun t =>
      t.out = .bulkWrite c.host c.seq c.bulkAddr c.bulkRkey ((s.mgt.log.drop (c.arg0 / 64)).take (c.arg1 / 64)).flatten :: s.out
      ∧ (cmdAt t h seq).map Cmd.phase = some 1 ∧ t = { s with cmds := t.cmds, out := t.out }))
    ∧ (Starts s h seq opAttest c (attestFails s c) → Completes (.attest h seq) s (fun t =>
      t.out = .bulkWrite c.host c.seq c.bulkAddr c.bulkRkey (report s c.payload) :: s.out
      ∧ (cmdAt t h seq).map Cmd.phase = some 1 ∧ t = { s with cmds := t.cmds, out := t.out }))
  ) ∧ (
  (∀ (h seq : Nat) (s : State) (c : Cmd), NoActivePartition s → s.mgt.marked = [] →
    Starts s h seq opDump c (check (decide (1 < c.arg0)) stBadField 16 ++ check (decide (c.arg0 = 1 ∧ c.bulkLen < fullDump)) stBadLength 40) →
    Completes (.dump h seq true true) s (fun t =>
      t.dev = .dump ∧ (∃ d, t.mgt.dump = some d ∧ d.todo = walkUnits s ∧ d.dir = [] ∧ d.toHost = decide (c.arg0 = 1)
        ∧ (c.arg0 = 1 → d.addr = c.bulkAddr) ∧ d.from_ = s.dev ∧ d.host = c.host ∧ d.seq = c.seq)
      ∧ t.mem = s.mem ∧ t.tiles = s.tiles ∧ t.regs = s.regs ∧ t.parts = s.parts))
  ∧ (∀ (s : State) (d : DumpRun) (u : Nat × Nat) (rest : List (Nat × Nat)), walking s = some d → d.todo = u :: rest →
    (d.toHost = true ∨ (fsBase ≤ d.addr ∧ ∀ c, (chanAt s c).state ≠ 3) → Completes .dumpUnit s (fun t =>
      (∃ e, t.mgt.dump = some e ∧ e.todo = rest ∧ (∃ x, e.dir = d.dir ++ [x] ∧ x.1 = unitKey u.1 u.2
        ∧ x.2.1 = (if s.mgt.marked.contains u then 1 else if unitTesting s u then 2 else 0) ∧ x.2.2.1 = d.bytes ∧ e.bytes = d.bytes + x.2.2.2.1))
      ∧ (d.toHost = true → t.mem = s.mem) ∧ t.tiles = s.tiles ∧ t.parts = s.parts ∧ t.regs = s.regs))
    ∧ (s.mgt.marked.contains u = false → unitTesting s u = false → Completes .dumpRequestTimeout s (fun t =>
      t.mgt.marked = s.mgt.marked ++ [u] ∧ ∃ e, t.mgt.dump = some e ∧ e.todo = rest ∧ (e.dir.map (fun x => x.2.1)) = d.dir.map (fun x => x.2.1) ++ [1])))
  ∧ (∀ (s : State) (d : DumpRun) (c : Cmd), walking s = some d → d.todo = [] → cmdAt s d.host d.seq = some c → d.host < s.hosts.length →
    Completes .dumpUnit s (fun t =>
      t.mgt.dump = none ∧ t.dev = d.from_ ∧ Recorded t c stOk d.bytes (unresponsive d) ∧ (d.toHost = true → t.mem = s.mem))))

/-- CTX_SAVE, CTX_RESTORE and DMA (R228, R365, R367): a save records OK with the bytes of its records and books one context per tile; a
restore gives every tile the context its record stands for and clears the mark of a reset while HELD; a descriptor list joins its tile's
engine in order. The accumulators and all memory outside the save stay. -/
def Obligations.ContextAndListCommands : Prop :=
  ∀ (h seq : Nat) (s : State) (c : Cmd),
    (Starts s h seq opCtxSave c (ctxFails s c) → fsBase ≤ (partAt s c.partition).carve → Completes (.ctxSave h seq) s (fun t =>
      Recorded t c stOk (ctxBytes * localCount (partAt s c.partition)) 0 ∧ t.tiles = s.tiles ∧ t.parts = s.parts
      ∧ t.ctxBook.length = s.ctxBook.length + localCount (partAt s c.partition)))
    ∧ (Starts s h seq opCtxRestore c (ctxFails s c ++ ctxReadFails s c) → (partTiles (partAt s c.partition)).Nodup →
      Completes (.ctxRestore h seq) s (fun t =>
        Recorded t c stOk 0 0 ∧ (partAt t c.partition).heldReset = false ∧ t.mem = s.mem
        ∧ ∀ x ∈ (partTiles (partAt s c.partition)).zip (ctxRecords s (partAt s c.partition) c.arg0), ∀ r, savedCtx s x.2 = some r →
          (tileAt t x.1).arr = r.arr ∧ (tileAt t x.1).vec = r.vec ∧ (tileAt t x.1).sched = r.sched
          ∧ (tileAt t x.1).dma = r.dma ∧ (tileAt t x.1).spots = r.spots ∧ (tileAt t x.1).drain.accs = (tileAt s x.1).drain.accs))
    ∧ (Starts s h seq opDma c (dmaFails s c) → c.payload ≠ [] → Completes (.dma h seq) s (fun t =>
      (∃ run, (tileAt t (dmaTile s c)).dma = (tileAt s (dmaTile s c)).dma ++ [run] ∧ run.host = some (h, seq)
        ∧ run.descs.map (fun d => d.bytes) = pieces 64 c.payload)
      ∧ (cmdAt t h seq).map Cmd.phase = some 2 ∧ t = { s with tiles := t.tiles, cmds := t.cmds }))
    ∧ (Starts s h seq opDma c (dmaFails s c) → c.payload = [] → Completes (.dma h seq) s (fun t => Recorded t c stOk 0 0xFFFFFFFF ∧ OnlyRecord s t))

/-- Firmware and boot (R361, R363, R371, R492, R512 to R517): FW_RESTART asks for its image; an image read in BOOT that passes every check
waits to be started; BOOT_COMPLETE starts it and the device is READY, or DEGRADED where a resource is retired; output taken by the host
completes its command with OK; the pulse counts while firmware runs; a lockstep error stops the controller and begins its reset.

The Ethernet side (R316, R318, R352, R353, R512): an ATTACH with good fields to a free slot is accepted with a new management
connection; a port that negotiated comes UP, in BOOT the first one carrying the boot responder; a lost link negotiates again; a timeout
counts a retry, a congestion notification cuts the rate and keeps the old one as target, recovery moves the rate towards the target, the timer's step with none in 55 µs decaying α. -/
def Obligations.FirmwareBootAndEthernet : Prop :=
  (
  (∀ (h seq : Nat) (s : State) (c : Cmd), Starts s h seq opFwRestart c (check (decide (c.bulkLen = 0)) stBadLength 40) →
    Completes (.fwRestart h seq) s (fun t =>
      t.out = .bulkRead c.host c.seq c.bulkAddr c.bulkLen c.bulkRkey :: s.out ∧ (cmdAt t h seq).map Cmd.phase = some 1
      ∧ t = { s with cmds := t.cmds, out := t.out }))
  ∧ (∀ (h seq : Nat) (s : State) (c : Cmd) (data : List Byte), s.mgt.refetching = false → cmdAt s h seq = some c → c.phase = 1 →
    (c.opcode = opFwRestart → s.dev = .boot → c.r0 = 0 → decideFail (fwFails s data c.bulkLen) = none →
      Completes (.bulkAccessResponse h seq true data) s (fun t =>
        t.mgt.next = some (firmwareOf data) ∧ t.mgt.fwCmd = some (c.host, c.seq) ∧ t = { s with mgt := t.mgt, cmds := t.cmds, conns := t.conns }))
    ∧ (c.opcode = opReadLog ∨ c.opcode = opAttest → h < s.hosts.length →
      Completes (.bulkAccessResponse h seq true data) s (fun t =>
        Recorded t c stOk c.r0 c.r1 ∧ t = { s with hosts := t.hosts, cmds := t.cmds, out := t.out, conns := t.conns })))
  ∧ (∀ (sites : List (Nat × Nat)) (chans : List ChanResult) (sig : Word) (s : State) (f : Firmware), s.dev = .boot → s.mgt.next = some f →
    dieFree s = true → Completes (.bootComplete sites chans sig) s (fun t =>
      t.dev = (if retiredAny t then .degraded else .ready) ∧ t.mgt.running = true ∧ t.mgt.fw = f ∧ t.mgt.next = none
      ∧ t.fuses.minSvn = (if f.commit then max s.fuses.minSvn f.svn else s.fuses.minSvn)))
  ∧ (∀ s : State, s.mgt.running = true → Completes .mgtPulseIncrement s (fun t =>
      regGet t (ctl 0x18) = (regGet s (ctl 0x18) + 1) % 2 ^ 64 ∧ SameRegistersBut [ctl 0x18] s t ∧ t = { s with regs := t.regs }))
  ∧ (∀ s : State, s.mgt.resets = [] → NoActivePartition s → Completes .mgtLockstep s (fun t =>
      t.mgt.running = false ∧ ResetUnderWay t 7 0 ∧ t.cmds = [] ∧ s.mgt.logWritten < t.mgt.logWritten))
  ) ∧ (
  (∀ (e i : Nat) (d : List Byte) (s : State), (ethAt s e).state = 2 → s.dev ≠ .off → s.mgt.resets = [] → d.length = 32 → le d 0 1 = 1 →
    attachBad d = false → s.conns.length < 65536 → flowsInUse s < 262144 → s.hosts.length = 4 → i < 4 →
    le d 1 1 = i ∨ (le d 1 1 = 0xFF ∧ ∀ j, j < i → (hostAt s j).held = true) → (hostAt s i).held = false → (hostAt s i).attached = false →
    Completes (.attach e d) s (fun t =>
      (hostAt t i).attached = true ∧ (hostAt t i).held = true ∧ (∀ j, j ≠ i → hostAt t j = hostAt s j)
      ∧ (∃ c, t.conns = s.conns ++ [c] ∧ c.kind = 0 ∧ c.host = i ∧ c.port = e ∧ c.qpn = (hostAt t i).qpn
          ∧ c.peerQpn = le d 4 3 ∧ c.pmtu = le d 3 1)
      ∧ (∃ g, t.out = .attachReply e g :: s.out ∧ le g 0 1 = 2 ∧ le g 1 1 = i ∧ le g 24 4 = s.incarnation % 2 ^ 32)
      ∧ t = { s with conns := t.conns, hosts := t.hosts, out := t.out, fresh := t.fresh }))
  ∧ (∀ (e : Nat) (s : State), e < 4 → (ethAt s e).state = 1 → s.dev ≠ .off →
      (s.dev ≠ .boot → Completes (.ethLinkUp e) s (fun t => (ethAt t e).state = 2 ∧ (∀ i, i ≠ e → ethAt t i = ethAt s i) ∧ t = { s with eths := t.eths }))
      ∧ (s.dev = .boot → s.bootPort = none → Completes (.ethLinkUp e) s (fun t =>
          t.bootPort = some e ∧ (ethAt t e).state = 2 ∧ (∀ i, i < 4 → i ≠ e → (ethAt t i).state = 0) ∧ t = { s with eths := t.eths, bootPort := t.bootPort })))
  ∧ (∀ (e : Nat) (s : State), (ethAt s e).state = 2 → Completes (.ethLinkLoss e) s (fun t =>
      (ethAt t e).state = 1 ∧ regField t (ethReg e 0) 32 1 = 1 ∧ SameRegistersBut [ethReg e 0] s t ∧ t = { s with eths := t.eths, regs := t.regs }))
  ∧ (∀ (qpn : Nat) (s : State) (c : Conn), connAt s qpn = some c →
      (c.retries < c.retryMax → Completes (.roceAckTimeout qpn) s (fun t =>
        connAt t qpn = some { c with retries := c.retries + 1 } ∧ t = { s with conns := t.conns }))
      ∧ (c.retryMax ≤ c.retries → (∀ q, (partAt s q).ckpt.copy = none ∧ (partAt s q).ckpt.restore = none) →
        Completes (.roceAckTimeout qpn) s (fun t => connAt t qpn = none ∧ t = { s with conns := t.conns, hosts := t.hosts }))
      ∧ Completes (.cnpReceive qpn) s (fun t =>
        (∃ d, connAt t qpn = some d ∧ d.target = c.rate ∧ d.rate = max 100000 (c.rate - c.rate * c.alphaNum / (2 * 256 ^ c.alphaExp))
          ∧ d.alphaNum = 255 * c.alphaNum + 256 ^ c.alphaExp ∧ d.alphaExp = c.alphaExp + 1)
        ∧ SameRegistersBut [ethReg c.port 8] s t ∧ t = { s with conns := t.conns, regs := t.regs })
      ∧ ∀ timer, Completes (.rateRecovery ⟨qpn, timer⟩) s (fun t =>
        (∃ d, connAt t qpn = some d ∧ c.rate ≤ d.rate ∧ (c.rate < d.target → d.rate = c.rate + (d.target - c.rate) / 2)
          ∧ (c.steps < 5 → d.target = min 400000000 c.target) ∧ d.steps = c.steps + 1
          ∧ (timer = true → c.cnpSinceDecay = false → d.alphaNum = 255 * c.alphaNum ∧ d.alphaExp = c.alphaExp + 1)
          ∧ (timer = false ∨ c.cnpSinceDecay = true → d.alphaNum = c.alphaNum ∧ d.alphaExp = c.alphaExp))
        ∧ t = { s with conns := t.conns })))

/-- RESET (R365, R486, R488, R491): a tile or group reset of a LOADED, HELD or FAULTED partition clears each tile named at once, its till
zero, and the tile answers TARGET_RESET until the reset completes; in a RUNNING one the step aborts first; a partition reset and the engine resets 4, 5 and 7 are under way; 6 and 8 complete at once and begin with
DEFERRED_RESET.

RESET_COMPLETE (R355, R486, R487, R493): with no test of its units running, a reset raises the epoch of what it resets, leaves it as
R493 says and is logged; a warm device reset leaves every partition EMPTY with the far store kept and the near stores lost, and the tick
count at 0. -/
def Obligations.ResetsBeginAndEnd : Prop :=
  (
  (∀ (h seq : Nat) (s : State) (c : Cmd), Starts s h seq opReset c (resetFails s c) → s.mgt.resets = [] →
    let q := c.partition
    let l := (resetTiles c.arg0 c.arg1).filter (tilePresent s)
    (c.arg0 = 1 ∨ c.arg0 = 2 → (partAt s q).state = .loaded ∨ (partAt s q).state = .held ∨ (partAt s q).state = .faulted →
      Completes (.reset h seq) s (fun t =>
        ResetUnderWay t c.arg0 c.arg1
        ∧ (∀ u ∈ l, (tileAt t u).resetting = true ∧ (tileAt t u).vec = {} ∧ (tileAt t u).sched = {} ∧ (tileAt t u).dma = []
          ∧ (tileAt t u).conf = (tileAt s u).conf
          ∧ ∀ b, tileReg u 0x700000 ≤ b → b < tileReg u 0x740000 → readCells t.mem b = 0)
        ∧ (∀ u, u ∉ l → tileAt t u = tileAt s u)
        ∧ (∀ b, (∀ u ∈ l, b < tileReg u 0x700000 ∨ tileReg u 0x740000 ≤ b) → readCells t.mem b = readCells s.mem b)
        ∧ partAt t q = { partAt s q with heldReset := (partAt s q).heldReset || (partAt s q).state = .held }
        ∧ ∀ r, r ≠ q → partAt t r = partAt s r))
    ∧ (c.arg0 = 1 ∨ c.arg0 = 2 → (partAt s q).state = .running → (partAt s q).purge = none → Completes (.reset h seq) s (fun t =>
        ResetUnderWay t c.arg0 c.arg1 ∧ AbortedAt s t q (now s) false ∧ (partAt t q).resetAfter = (partAt s q).resetAfter ++ l))
    ∧ (c.arg0 = 3 → (partAt s c.partition).state = .loaded → Completes (.reset h seq) s (fun t =>
      ResetUnderWay t 3 c.partition ∧ (partAt t c.partition).resetting = true ∧ (partAt t c.partition).state = .faulted ∧ t.tiles = s.tiles
      ∧ t.mem = s.mem))
    ∧ (c.arg0 = 4 → NoActivePartition s → Completes (.reset h seq) s (fun t => ResetUnderWay t 4 0 ∧ t.fs.resetting = true ∧ t.fs.draining = true ∧ t.mem = s.mem))
    ∧ (c.arg0 = 5 → NoActivePartition s → Completes (.reset h seq) s (fun t => ResetUnderWay t 5 0 ∧ t.mem = s.mem))
    ∧ (c.arg0 = 7 → s.cmds = [c] → Completes (.reset h seq) s (fun t =>
      ResetUnderWay t 7 0 ∧ t.mgt.running = false ∧ t.mgt.dump = none ∧ (cmdAt t h seq).map Cmd.phase = some 2))
    ∧ (c.arg0 = 6 ∨ c.arg0 = 8 → Completes (.reset h seq) s (fun t =>
      Recorded t c stOk 0 0 ∧ t.mgt.deferred = s.mgt.deferred ++ [c.arg0] ∧ t.mgt.resets = [])))
  ∧ (∀ (s : State) (rest : List Nat), s.mgt.resets = [] → s.dev ≠ .off →
    (s.mgt.deferred = 8 :: rest → Completes .deferredReset s (fun t =>
      ResetUnderWay t 8 0 ∧ t.fs.draining = true ∧ t.mgt.deferred = rest ∧ t.hosts = [{}, {}, {}, {}] ∧ t.cmds = [] ∧ t.conns = [] ∧ t.mem = s.mem))
    ∧ (s.mgt.deferred = 6 :: rest → Completes .deferredReset s (fun t =>
      ResetUnderWay t 6 0 ∧ t.mgt.deferred = rest ∧ t.hosts = [{}, {}, {}, {}] ∧ t.cmds = [] ∧ t.conns = [] ∧ t.mem = s.mem ∧ t.fs = s.fs)))
  ) ∧ (
  ∀ s : State, s.mgt.tests = [] → s.mgt.running = true →
    (∀ d i, d = 1 ∨ d = 2 → s.mgt.resets = [{ domain := d, idx := i }] →
      (∀ u ∈ resetTiles d i, tilePresent s u = true → (tileAt s u).resetting = true) → Completes (.resetComplete d i) s (fun t =>
      (∀ u ∈ resetTiles d i, tileAt t u = { tileAt s u with resetEpoch := next16 (tileAt s u).resetEpoch, resetting := false })
      ∧ (∀ u ∉ resetTiles d i, tileAt t u = tileAt s u) ∧ t.mgt.resets = []
      ∧ (d = 2 → t.mgt.gcEpoch.at i 0 = next16 (s.mgt.gcEpoch.at i 0))
      ∧ t.mgt.logWritten = s.mgt.logWritten + 1 ∧ t.mem = s.mem ∧ t.parts = s.parts))
    ∧ (∀ q, s.mgt.resets = [{ domain := 3, idx := q, fault := true }] → (partAt s q).purge = none → (partAt s q).state = .faulted →
      (partTiles (partAt s q)).Nodup →
      Completes (.resetComplete 3 q) s (fun t =>
        (partAt t q).state = .faulted ∧ (partAt t q).resetEpoch = next16 (partAt s q).resetEpoch ∧ (partAt t q).resetting = false
        ∧ (∀ u ∈ partTiles (partAt s q), (tileAt t u).conf = {} ∧ (tileAt t u).resetEpoch = next16 (tileAt s u).resetEpoch)
        ∧ (∀ u ∉ partTiles (partAt s q), tileAt t u = tileAt s u) ∧ t.mgt.resets = []))
    ∧ (s.mgt.resets = [{ domain := 4, idx := 0 }] → NoActivePartition s → s.engineEpoch.length = 4 → Completes (.resetComplete 4 0) s (fun t =>
      t.fs.guards = [] ∧ t.fs.issued = [] ∧ t.fs.waiting = [] ∧ t.fs.resetting = false ∧ t.fs.draining = false
      ∧ t.engineEpoch.getD 0 0 = next16 (s.engineEpoch.getD 0 0) ∧ t.mgt.resets = [] ∧ t.mem = s.mem ∧ t.tiles = s.tiles))
    ∧ (s.mgt.resets = [{ domain := 5, idx := 0 }] → NoActivePartition s → s.engineEpoch.length = 4 →
      Completes (.resetComplete 5 0) s (fun t =>
        t.flows = [] ∧ t.trees = [] ∧ t.slots = [] ∧ t.engineEpoch.getD 1 0 = next16 (s.engineEpoch.getD 1 0) ∧ t.mgt.resets = [] ∧ t.mem = s.mem ∧ t.tiles = s.tiles))
    ∧ (s.mgt.resets = [{ domain := 6, idx := 0 }] → s.engineEpoch.length = 4 → Completes (.resetComplete 6 0) s (fun t =>
      t.conns = [] ∧ t.hosts = [{}, {}, {}, {}] ∧ t.cmds = [] ∧ t.incarnation = s.incarnation + 1 ∧ t.eventNo = 0 ∧ t.mgt.source = none
      ∧ t.engineEpoch.getD 2 0 = next16 (s.engineEpoch.getD 2 0) ∧ t.mgt.resets = [] ∧ t.mem = s.mem ∧ t.tiles = s.tiles ∧ t.fs = s.fs))
    ∧ (s.mgt.resets = [{ domain := 7, idx := 0 }] → s.mgt.restarting = false → s.engineEpoch.length = 4 → Completes (.resetComplete 7 0) s (fun t =>
      t.engineEpoch.getD 3 0 = next16 (s.engineEpoch.getD 3 0) ∧ t.mgt.resets = [] ∧ (t.mgt.refetching = true ∨ t.mgt.romWait = true)
      ∧ t.mem = s.mem ∧ t.tiles = s.tiles ∧ t.parts = s.parts))
    ∧ (s.mgt.resets = [{ domain := 8, idx := 0 }] → s.mgt.refLossPending = false → dieFree s = true → Completes (.resetComplete 8 0) s (fun t =>
      t.dev = .boot ∧ t.parts = [] ∧ t.tiles = [] ∧ t.flows = [] ∧ t.tick = {} ∧ t.incarnation = s.incarnation + 1 ∧ t.fdTag = s.fuses.fdTagStrap
      ∧ t.fs.cache = [] ∧ t.mgt.running = false ∧ t.pwr.droop = 0 ∧ t.pwr.capW = 3000
      ∧ t.mgt.logWritten = s.mgt.logWritten + 1
      ∧ (∀ a, fsBase ≤ a → readCells t.mem a = readCells s.mem a) ∧ (∀ a, a < fsBase → readCells t.mem a = 0))))

/-- SELF_TEST and the tests of logged errors (R481 to R484, R501, R511): a test of a tile starts and its tile shows TESTING; at the end a
signature equal to the expected one is TRANSIENT, any other PERMANENT, both logged, and the command gets both signatures; kind DEVICE
completes at once and resets the device a millisecond later. A silent agent is logged and its tile tested.

TILE_PURGE_REPORT (R225, R227): a tile agent's report takes its tile off the purge, which goes on while tiles are left. -/
def Obligations.TestsAndPurgesReport : Prop :=
  (
  (∀ (h seq : Nat) (s : State) (c : Cmd), Starts s h seq opSelfTest c (selfTestFails s c) →
    (c.arg0 % 256 = 1 → Completes (.selfTest h seq) s (fun t =>
      (tileAt t c.arg1).testing = true ∧ (cmdAt t h seq).map Cmd.phase = some 2
      ∧ (∃ x ∈ t.mgt.tests, x.kind = 1 ∧ x.idx = c.arg1 ∧ x.started = true) ∧ (∀ u, u ≠ c.arg1 → tileAt t u = tileAt s u)
      ∧ t = { s with mgt := t.mgt, tiles := t.tiles, cmds := t.cmds }))
    ∧ (c.arg0 % 256 = 9 → Completes (.selfTest h seq) s (fun t =>
      Recorded t c stOk 0 0 ∧ t.mgt.bistPending = true ∧ t.mgt.deferred = s.mgt.deferred ++ [8])))
  ∧ (∀ (kind idx : Nat) (s : State) (x : TestRun), s.mgt.running = true → s.mgt.tests = [x] → x.kind = kind → x.idx = idx → x.host = none →
    x.afterPurge = false → x.started = false → kind ≤ 3 → Completes (.targetedSelfTest kind idx) s (fun t =>
      t.mgt.tests = [{ x with started := true }] ∧ (∀ u ∈ testTiles kind idx, (tileAt t u).testing = true) ∧ t = { s with mgt := t.mgt, tiles := t.tiles }))
  ∧ (∀ (idx : Nat) (s : State) (x : TestRun) (sig : Word), s.mgt.tests = [x] → x.kind = 1 → x.idx = idx → x.started = true → x.host = none →
    s.mgt.marked = [] → x.retire = false → Completes (.selfTestComplete 1 idx true sig) s (fun t =>
      t.mgt.tests = [] ∧ (tileAt t idx).testing = false ∧ t.mgt.logWritten = s.mgt.logWritten + 1
      ∧ regField t (tileReg idx 0x780100) 33 3 = (if sig = Config.testSignature (partNumber s) 1 idx then 1 else 2)
      ∧ (tileAt t idx).vec = {} ∧ (tileAt t idx).conf = {} ∧ (∀ u, u ≠ idx → tileAt t u = tileAt s u)
      ∧ SameMemoryOutside (tileReg idx 0x700000) 0x40000 s t))
  ∧ (∀ (p l : Nat) (s : State) (x : TestRun), p < 16 → l < 4 → s.mgt.tests = [x] → x.kind = 4 → x.idx = 4 * p + l → x.started = true → x.host = none →
    s.mgt.marked = [] → x.retire = false → (portAt s p).lanes.length = 4 → ((portAt s p).lanes.getD l {}).state = 2 →
    (Completes (.laneTestComplete p l true) s (fun t =>
      t.mgt.tests = [] ∧ ((portAt t p).lanes.getD l {}).state = 1 ∧ ((portAt t p).lanes.getD l {}).passedAt = some s.cycle
      ∧ t = { s with mgt := t.mgt, ports := t.ports })
    ∧ Completes (.laneTestComplete p l false) s (fun t => t.mgt.tests = [] ∧ t.mgt.logWritten = s.mgt.logWritten + 1)))
  ∧ (∀ (idx : Nat) (s : State), partOfTile s idx = none → s.mgt.tests = [] → Completes (.agentSilent false idx) s (fun t =>
      t.mgt.logWritten = s.mgt.logWritten + 1 ∧ (∃ x, t.mgt.tests = [x] ∧ x.kind = 1 ∧ x.idx = idx) ∧ t = { s with mgt := t.mgt }))
  ) ∧ (
  ∀ (t0 q : Nat) (s : State) (x : Purge), partOfTile s t0 = some q → (partAt s q).purge = some x → x.sent = true → t0 ∈ x.tiles →
    2 ≤ x.tiles.length → Completes (.tilePurgeReport t0) s (fun t =>
      (partAt t q).purge = some { x with tiles := x.tiles.erase t0 } ∧ (∀ r, r ≠ q → partAt t r = partAt s r) ∧ t = { s with parts := t.parts }))

/-- The reads that clear (R12, R14): a read of each of these registers answers the register's value, clears exactly its read-to-clear
bits, and changes nothing else.

Writes of the tick, identity, power and tick-reference registers (R212, R235, R236, R555, R558, R562): a period of 1 to 1,249, and any
period at a LOCKED module that is not the master, is discarded and sets REJECT; another is kept as the pending one; the device identifier
is taken only while every partition is EMPTY; the cap is held to 2,000 to 3,000 W; EDGE_TICKS 0 is stored as 1. -/
def Obligations.RegisterReadsAndControlWrites : Prop :=
  (
  ∀ (s : State) (t q p l e u c : Nat), t < 1024 → q < 16 → p < 16 → l < 4 → e < 4 → u < 48 → c < 384 →
    ∀ row ∈ [(Instr.vecErrRead t, tileReg t 0x780808, 0xFFFF00000000), (.nsErrRead t, tileReg t 0x780300, 0xFFFFFFFF),
        (.nsDmaRead t, tileReg t 0x780308, 0xFFFFFFFF00000000), (.tileResetRead t, tileReg t 0x780100, 0xFFFF0000),
        (.fsErrRead, ctl 0x408, 0xFFFFFFFFFFFFFFFF), (.fcStatusRead, ctl 0x480, 0xFFFFFFFF00000000),
        (.fsChanRead c, ctl (0x31000 + 8 * c), 0xFFFFFFFF000000), (.schSpecRead q, ctl (0x20030 + 0x100 * q), 0xFFFFFFFFFFFFFFFF),
        (.schSpec2Read q, ctl (0x20038 + 0x100 * q), 0xFFFFFFFFFFFFFFFF), (.lnkErrRead p, ctl (0x40010 + 0x100 * p), 0xFFFFFFFFFFFFFF),
        (.lnkLaneRead p l, ctl (0x40018 + 0x100 * p + 8 * l), 0xFFFFFFFF), (.lnkFabricRead, ctl 0x600, 0xFFFFFFFFFFFFFFFF),
        (.lnkFabric2Read, ctl 0x608, 0xFFFFFFFFFFFF), (.ethErrRead e, ctl (0x50008 + 0x100 * e), 0xFFFFFFFFFFFFFFFF),
        (.cvuStatusRead u, ctl (0x60040 + 0x80 * u), 0xFFFFFFFF), (.lnkBucketRead q, ctl (0x42000 + 0x20 * q), 0xFFFFFFFFFFFF0000),
        (.updJoinRead q, ctl (0x70040 + 0x100 * q), 0xFFFE000000000000), (.updJournalRead q, ctl (0x70060 + 0x100 * q), 0xFFFF000000000000),
        (.devTickRefRead, ctl 0x220, 0xFF000000)],
      Completes row.1 s (fun s' =>
        s'.out = .register row.2.1 (word (regView s row.2.1)) :: s.out
        ∧ regGet s' row.2.1 = regGet s row.2.1 - (regGet s row.2.1 &&& row.2.2)
        ∧ SameRegistersBut [row.2.1] s s' ∧ s' = { s with regs := s'.regs, out := s'.out })
  ) ∧ (
  ∀ (s : State) (v : Word),
    let n := v.toNat / 2 ^ 32
    ((n = 0 ∨ 1250 ≤ n) → (s.tick.locked = false ∨ s.tick.master = true) →
      exec (.devTickPeriodWrite v) s = .next { s with tick := { s.tick with pendingPeriod := n } })
    ∧ ((1 ≤ n ∧ n < 1250) ∨ (s.tick.locked = true ∧ s.tick.master = false) → Completes (.devTickPeriodWrite v) s (fun t =>
        regField t (ctl 0x218) 2 1 = 1 ∧ SameRegistersBut [ctl 0x218] s t ∧ t = { s with regs := t.regs }))
    ∧ exec (.devTickAtWrite v) s = .next { s with tick := { s.tick with pendingAt := v.toNat } }
    ∧ ((∀ x ∈ s.parts, x.2.state = .empty) →
        exec (.devIdWrite v) s = .next { s with devId := v.toNat % 2 ^ 16, devIdValid := v.getLsbD 16 })
    ∧ ((∃ x ∈ s.parts, x.2.state ≠ .empty) → exec (.devIdWrite v) s = .next s)
    ∧ exec (.pwrCapWrite v) s = .next { s with pwr := { s.pwr with capW := min 3000 (max 2000 (v.toNat % 2 ^ 12)) } }
    ∧ (v.getLsbD 2 = false → exec (.devTickRefWrite v) s = .next { s with tick := { s.tick with
        refEnable := v.getLsbD 0
        refInUse := s.tick.refInUse && v.getLsbD 0
        edgeTicks := max 1 (v.toNat / 2 ^ 4 % 2 ^ 20) } }))

/-- Writes that reach tiles, ports and check-value units (R112, R113, R115, R185, R323, R349), and a register write by its address, which is the same
write: LNK_CFG with ENABLE 0 on a port that is DOWN, an anchor of an assigned slot, the window's layout by whoever may write it, half a
tally outside RUNNING, a check-value slot's fields while its stream is closed. -/
def Obligations.UnitWritesStoreTheirFields : Prop :=
  (∀ (p : Nat) (v : Word) (s : State), p < portCount s → (portAt s p).state = 0 → v.getLsbD 0 = false → Completes (.lnkCfgWrite p v) s (fun t =>
      portAt t p = { portAt s p with enable := false, fecReq := v.getLsbD 1 } ∧ (∀ r, r ≠ p → portAt t r = portAt s r) ∧ t = { s with ports := t.ports }))
  ∧ (∀ (q slot : Nat) (v : Word) (s : State), (layerOf (partAt s q) slot).isSome → Completes (.drnAnchorWrite q slot v) s (fun t =>
      ((partAt t q).anchors.at slot {}).anchor = signed 10 v.toNat
      ∧ ((partAt t q).anchors.at slot {}).startRung = min (v.toNat / 2 ^ 10 % 4) (lastRung (partAt s q) slot)
      ∧ ((partAt t q).anchors.at slot {}).established = v.getLsbD 12
      ∧ (∀ i, i ≠ slot → (partAt t q).anchors.at i {} = (partAt s q).anchors.at i {})
      ∧ (∀ r, r ≠ q → partAt t r = partAt s r) ∧ t = { s with parts := t.parts }))
  ∧ (∀ (t0 : Nat) (fromHost : Bool) (v : Word) (s : State), tilePresent s t0 = true →
      (fromHost = true ↔ (partAt s (partNum s t0)).state ≠ .running) → Completes (.drnWindowWrite t0 fromHost v) s (fun t =>
        regGet t (tileReg t0 0x780608) = v.toNat % 2 ∧ SameRegistersBut [tileReg t0 0x780608] s t ∧ t = { s with regs := t.regs }))
  ∧ (∀ (t0 k half : Nat) (v : Word) (s : State), tilePresent s t0 = true → tileRunning s t0 = false → k < 64 → half < 2 →
      Completes (.rduTallyWrite t0 k half v) s (fun t =>
        (tallyVal t t0 k).toNat / 2 ^ (64 * half) % 2 ^ 64 = v.toNat
        ∧ (tallyVal t t0 k).toNat / 2 ^ (64 * (1 - half)) % 2 ^ 64 = (tallyVal s t0 k).toNat / 2 ^ (64 * (1 - half)) % 2 ^ 64
        ∧ (∀ j, j ≠ k → tallyVal t t0 j = tallyVal s t0 j) ∧ (∀ r, r ≠ t0 → tileAt t r = tileAt s r) ∧ t = { s with tiles := t.tiles }))
  ∧ (∀ (u : Nat) (v : Word) (s : State), cvuPresent s u = true → isGeneral u = true → (partAt s (cvuAt s u).sel).state ≠ .running →
      streamOpen s u (cvuAt s u).sel = false →
      let c := cvSlotAt s u (cvuAt s u).sel
      ∀ x ∈ [(0x08, { c with
            width := v.toNat % 2 ^ 7
            refin := v.getLsbD 7
            refout := v.getLsbD 8
            mode := v.toNat / 2 ^ 9 % 4
            verify := v.getLsbD 11
            cont := v.getLsbD 12
            hold := v.getLsbD 13 }),
          (0x10, { cvSlotAt s u (cvuAt s u).sel with poly := v }), (0x18, { cvSlotAt s u (cvuAt s u).sel with init := v }),
          (0x20, { cvSlotAt s u (cvuAt s u).sel with xorout := v }), (0x28, { cvSlotAt s u (cvuAt s u).sel with run := v }),
          (0x30, { cvSlotAt s u (cvuAt s u).sel with expect := v })],
        Completes (.cvuSlotWrite u x.1 v) s (fun t => cvSlotAt t u (cvuAt s u).sel = x.2 ∧ t = { s with cvus := t.cvus }))
  ∧ (∀ (v : Word) (s : State), exec (.registerWrite (ctl 0x200) v) s = exec (.devTickPeriodWrite v) s
      ∧ exec (.registerWrite (ctl 0x208) v) s = exec (.devTickAtWrite v) s ∧ exec (.registerWrite (ctl 0x28) v) s = exec (.devIdWrite v) s
      ∧ exec (.registerWrite (ctl 0xB08) v) s = exec (.pwrCapWrite v) s
      ∧ Completes (.registerWrite (ctl 0xB00) v) s (fun t => regGet t (ctl 0xB00) = regGet s (ctl 0xB00) - (regGet s (ctl 0xB00) &&& (v.toNat &&& 0xF0000))
        ∧ SameRegistersBut [ctl 0xB00] s t ∧ t = { s with regs := t.regs }))

/-- The accumulator window (R111, R112): a read answers the accumulators in the layout in force and changes nothing; a write of one whole
eight-byte value in the A64 layout is read back as written, and the other accumulators stay.

Host RDMA and the control mesh (R14, R31, R243, R317, R318, R332, R372): an aligned register read answers the register and clears its RC fields, an
unaligned one is refused and clears nothing; a far-store write in service stores its bytes and no others; a SEND of host data is acknowledged; a request marked Congestion Experienced is answered by one
notification, at most one in 50 µs, and then served as any other; a frame's corrected codewords are counted, one of uncorrectable codewords is counted and lost; an atomic request is refused and its connection closed;
the mesh reads and writes a till word as 64 bits. -/
def Obligations.HostAccessesReachTheirTargets : Prop :=
  (
  (∀ (t0 off len : Nat) (s : State), t0 < 1024 → 0x600000 ≤ off → off + len ≤ 0x700000 →
    exec (.accumulatorWindowRead t0 off len) s =
      .next { s with out := .windowRead t0 off (accRead (tileAt s t0).drain (windowWide s t0) (off - 0x600000) len) :: s.out })
  ∧ (∀ (t0 n : Nat) (data : List Byte) (s : State), t0 < 1024 → n < 65536 → data.length = 8 → windowWide s t0 = false →
    Completes (.accumulatorWindowWrite t0 (0x600000 + 8 * n) data) s (fun t =>
      accRead (tileAt t t0).drain false (8 * n) 8 = data
      ∧ (∀ m, m ≠ n → accAt (tileAt t t0).drain m = accAt (tileAt s t0).drain m)
      ∧ (∀ r, r ≠ t0 → tileAt t r = tileAt s r) ∧ t = { s with tiles := t.tiles }))
  ) ∧ (
  (∀ (qpn o : Nat) (s : State), (connAt s qpn).isSome → s.dev ≠ .boot → s.mgt.running = true → o + 8 ≤ 0x100000000 →
    (o % 8 = 0 → Completes (.hostRdmaRead { qpn := qpn } (ctl o) 8) s (fun t =>
      t.out = .rdmaReadReply qpn (toLe 8 (regView s (ctl o) % 2 ^ 64)) :: s.out ∧ regGet t (ctl o) = regGet s (ctl o) - (regGet s (ctl o) &&& rcMask (ctl o))
      ∧ SameRegistersBut [ctl o] s t ∧ t = { s with regs := t.regs, out := t.out }))
    ∧ (o % 8 ≠ 0 → exec (.hostRdmaRead { qpn := qpn } (ctl o) 8) s = .next { s with out := .rdmaRefused qpn :: s.out }))
  ∧ (∀ (qpn a : Nat) (d : List Byte) (s : State), (connAt s qpn).isSome → s.dev ≠ .boot → fsBase + reserveBytes s ≤ a →
    a + d.length ≤ fsBase + fsCapacity s → fsBase + fsCapacity s < ctl 0 → s.fs.resetting = false → s.fs.guards = [] → (∀ i < d.length, isFenced s (a + i) = false) →
    Memory.wf s.mem = true → Completes (.hostRdmaWrite { qpn := qpn } a d) s (fun t =>
      readBytes t.mem a d.length = d ∧ SameMemoryOutside a d.length s t ∧ t.out = .rdmaAck qpn :: s.out ∧ t.regs = s.regs ∧ t.tiles = s.tiles
      ∧ t.parts = s.parts))
  ∧ (∀ (qpn : Nat) (d : List Byte) (s : State), (connAt s qpn).any (fun c => c.kind = 1) = true →
    exec (.hostSendData { qpn := qpn } d) s = .next { s with out := .rdmaAck qpn :: s.out })
  ∧ (∀ (qpn a n : Nat) (d : List Byte) (s : State) (c : Conn), connAt s qpn = some c →
      exec (.hostRdmaRead { qpn := qpn, marked := true } a n) s = exec (.hostRdmaRead { qpn := qpn } a n) (answerMark s qpn true)
      ∧ exec (.hostRdmaWrite { qpn := qpn, marked := true } a d) s = exec (.hostRdmaWrite { qpn := qpn } a d) (answerMark s qpn true)
      ∧ ((∀ k, c.cnpAt = some k → k + 62500 ≤ s.cycle) → c.kind = 1 → Completes (.hostSendData { qpn := qpn, marked := true } d) s (fun t =>
          t.out = .rdmaAck qpn :: .cnp qpn :: s.out ∧ connAt t qpn = some { c with cnpAt := some s.cycle }
          ∧ regField t (ethReg c.port 8) 32 16 = min (regField s (ethReg c.port 8) 32 16 + 1) 65535
          ∧ SameRegistersBut [ethReg c.port 8] s t ∧ t = { s with conns := t.conns, regs := t.regs, out := t.out }))
      ∧ (∀ m, ∀ i ∈ [Instr.hostRdmaRead { qpn := qpn, marked := m, cw := .uncorrectable } a n, .hostRdmaWrite { qpn := qpn, marked := m, cw := .uncorrectable } a d,
          .hostSendData { qpn := qpn, marked := m, cw := .uncorrectable } d], Completes i s (fun t => SameRegistersBut [ethReg c.port 8] s t ∧ t = { s with regs := t.regs }
            ∧ regField t (ethReg c.port 8) 16 16 = min (regField s (ethReg c.port 8) 16 16 + 1) 65535))
      ∧ (∀ l, c.kind = 1 → Completes (.hostSendData { qpn := qpn, cw := .corrected l } d) s (fun t => t.out = .rdmaAck qpn :: s.out
          ∧ regField t (ethReg c.port 8) 0 16 = min (regField s (ethReg c.port 8) 0 16 + 1) 65535
          ∧ SameRegistersBut [ethReg c.port 8] s t ∧ t = { s with regs := t.regs, out := t.out })))
  ∧ (∀ (qpn : Nat) (s : State), (connAt s qpn).isSome → (∀ q, (partAt s q).ckpt.copy = none ∧ (partAt s q).ckpt.restore = none) →
    Completes (.atomicRequest qpn) s (fun t => t.out = .nak qpn nakInvalid :: s.out ∧ connAt t qpn = none
      ∧ t = { s with conns := t.conns, hosts := t.hosts, out := t.out }))
  ∧ (∀ (t0 off : Nat) (v : Word) (s : State), tilePresent s t0 = true → t0 < 1024 → off % 8 = 0 → 0x700000 ≤ off → off < 0x740000 → Memory.wf s.mem = true →
    Completes (.controlMeshRequest t0 off (some v)) s (fun t =>
      readBytes t.mem (tileReg t0 off) 8 = toLe 8 v.toNat ∧ SameMemoryOutside (tileReg t0 off) 8 s t ∧ t.tiles = s.tiles ∧ t.regs = s.regs ∧ t.parts = s.parts)))

/-- START, HOLD, RESUME (R98, R213, R365, R471): with every check passed, START names the step and its first tick (that of a RESTORE, if one
was restored), RESUME the tick of resumption, both in the future, and HOLD requests a pre-emption; the command then waits for its effect and
nothing else changes.

PREEMPT_BOUNDARY (R98, R228): at the boundary a RUNNING partition with a pre-emption due becomes HELD at the present tick, its
speculative work and shadow loads dropped; a waiting HOLD completes with OK and the tick; with none due nothing happens. -/
def Obligations.RunControlAndPreemption : Prop :=
  (
  ∀ (h seq : Nat) (s : State) (c : Cmd),
    let q := c.partition
    (Starts s h seq opStart c [] → ((partAt s q).settle.restored = none ∨ (partAt s q).settle.restored = some c.arg0) → now s < c.arg1 →
      Completes (.start h seq) s (fun t =>
        partAt t q = { partAt s q with startAt := some c.arg1, ctx := { (partAt s q).ctx with step := c.arg0 } }
        ∧ (cmdAt t h seq).map Cmd.phase = some 2 ∧ (∀ r, r ≠ q → partAt t r = partAt s r) ∧ t = { s with parts := t.parts, cmds := t.cmds }))
    ∧ (Starts s h seq opHold c [] → Completes (.hold h seq) s (fun t =>
        partAt t q = { partAt s q with preempt := true }
        ∧ (cmdAt t h seq).map Cmd.phase = some 2 ∧ (∀ r, r ≠ q → partAt t r = partAt s r) ∧ t = { s with parts := t.parts, cmds := t.cmds }))
    ∧ (Starts s h seq opResume c [] → now s < c.arg0 → Completes (.resume h seq) s (fun t =>
        partAt t q = { partAt s q with startAt := some c.arg0 }
        ∧ (cmdAt t h seq).map Cmd.phase = some 2 ∧ (∀ r, r ≠ q → partAt t r = partAt s r) ∧ t = { s with parts := t.parts, cmds := t.cmds }))
  ) ∧ (
  ∀ (q : Nat) (s : State),
    ((partAt s q).state = .running → (partAt s q).preemptDue = true → Completes (.preemptBoundary q) s (fun t =>
      (partAt t q).state = .held ∧ (partAt t q).heldTick = now s ∧ (partAt t q).preempt = false ∧ (partAt t q).preemptDue = false
      ∧ (partAt t q).replayAt = none ∧ (∀ r, r ≠ q → partAt t r = partAt s r)
      ∧ (∀ u ∈ partTiles (partAt s q), (tileAt t u).arr.loads = [])
      ∧ (∀ u, u ∉ partTiles (partAt s q) → tileAt t u = tileAt s u)
      ∧ (∀ c, waitingCmd s q opHold = some c → c.host < s.hosts.length → Recorded t c stOk (now s) 0)))
    ∧ ((partAt s q).state ≠ .running ∨ (partAt s q).preemptDue = false → exec (.preemptBoundary q) s = .next s))

/-- ABORT_STEP and STEP_ABORT (R225 to R227): a RUNNING partition with no purge in progress becomes ABORTING: the abort is recorded with the
epoch it ends and the present tick, ABORT_EPOCH advances, a replay is due RESUME_GAP ticks later, no attempt is active, the bucket exchanges
are gone, a purge is in progress; the tiles' work is stopped where the management controller runs. No other partition changes. -/
def Obligations.StepAbortsPurgeAndReplay : Prop :=
  (∀ (h seq : Nat) (s : State) (c : Cmd), Starts s h seq opAbortStep c [] → (partAt s c.partition).purge = none →
    (∀ u, ∀ run ∈ (tileAt s u).dma, run.host ≠ some (h, seq)) →
    Completes (.abortStep h seq) s (fun t => AbortedAt s t c.partition (now s) false
      ∧ (cmdAt t h seq).map Cmd.phase = some 2 ∧ (cmdAt t h seq).map Cmd.r0 = some (now s)))
  ∧ (∀ (q cause : Nat) (s : State), (partAt s q).state = .running → (partAt s q).purge = none → 1 ≤ cause → cause ≤ 8 →
    Completes (.stepAbort q cause) s (fun t => AbortedAt s t q (now s) (decide (cause = 1))
      ∧ ((∀ u, ∀ run ∈ (tileAt s u).dma, run.host = none) → t.cmds = s.cmds)))

/-- TICK_BOUNDARY and TICK_RECORD (R211, R212, R218): the tick count advances by one modulo 2^64 and the new tick begins at the present
cycle; a pending period named for it or earlier comes into force. A tick record due is written at its place of the partition's ring, once,
with SCH_SLACK and the count of tick records.

TICK_BOUNDARY starts a LOADED partition at its first tick (R213, R371): it is RUNNING, its attempt active from that tick with attempt
count 1, and START completes with OK and the tick. -/
def Obligations.TicksAdvanceAndPartitionsStart : Prop :=
  (
  (∀ s : State, s.parts = [] → s.trees = [] → Completes .tickBoundary s (fun t =>
    t.tick.count = (now s + 1) % 2 ^ 64 ∧ t.tick.began = s.cycle
    ∧ (s.tick.pendingPeriod ≠ 0 ∧ s.tick.pendingAt ≤ now s + 1 → t.tick.period = s.tick.pendingPeriod ∧ t.tick.pendingPeriod = 0)
    ∧ (s.tick.pendingPeriod = 0 ∨ now s + 1 < s.tick.pendingAt → t.tick.period = s.tick.period ∧ t.tick.pendingPeriod = s.tick.pendingPeriod)
    ∧ t = { s with tick := t.tick }))
  ∧ (∀ (q : Nat) (s : State) (k fin off flags : Nat), (partAt s q).ctx.recordDue = some (k, fin, off, flags) → Memory.wf s.mem = true →
    let i := regField s (schReg q 0x20) 0 32
    let a := (partAt s q).carve + i % 32768 * 16
    PlainSpan s a 16 → Completes (.tickRecord q) s (fun t =>
      readBytes t.mem a 16 = toLe 8 k ++ toLe 4 fin ++ toLe 2 off ++ toLe 1 flags ++ [0] ∧ SameMemoryOutside a 16 s t
      ∧ (partAt t q).ctx = { (partAt s q).ctx with recordDue := none }
      ∧ regField t (schReg q 0x20) 0 32 = (i + 1) % 2 ^ 32 ∧ regField t (schReg q 0x20) 32 32 = regField s (schReg q 0x20) 32 32
      ∧ regGet t (schReg q 0x18) = fin % 2 ^ 32 + k % 2 ^ 32 * 2 ^ 32
      ∧ SameRegistersBut [schReg q 0x18, schReg q 0x20] s t ∧ t.tiles = s.tiles))
  ) ∧ (
  ∀ (q f : Nat) (p : Part) (s : State) (c : Cmd), q < 16 → s.parts = [(q, p)] → p.state = .loaded → p.startAt = some f → f ≤ now s + 1 →
    now s + 1 < 2 ^ 64 → p.ckpt.pending = false → p.join = {} → p.settle = {} → p.binding = none → s.trees = [] → s.tick.pendingPeriod = 0 →
    waitingCmd s q opStart = some c → c.host < s.hosts.length →
    Completes .tickBoundary s (fun t =>
      (partAt t q).state = .running ∧ (partAt t q).ctx.active = true ∧ (partAt t q).ctx.firstTick = now s + 1
      ∧ (partAt t q).ctx.step = p.ctx.step ∧ (partAt t q).ctx.attempt = 1 ∧ (partAt t q).startAt = none
      ∧ now t = now s + 1 ∧ Recorded t c stOk (now s + 1) 0))

/-- LOAD_IMAGE, IMAGE_STAGED and UNLOAD (R188, R190, R365): with no other image in staging LOAD_IMAGE asks for its bulk region before any
effect; a staged image that passes every check makes its partition LOADED at the origin group the command names, holding the image's
identity, digest and ticks, with OK and the first 8 bytes of the digest; UNLOAD leaves the partition EMPTY with nothing but its reset epoch and
its flows gone. No other partition changes. -/
def Obligations.ImagesLoadAndUnload : Prop :=
  (∀ (h seq : Nat) (s : State) (c : Cmd), Starts s h seq opLoadImage c [] → c.arg0 ≤ 15 → 0 < c.bulkLen → s.fs.failed = false →
    stagingBusy s h seq = false → Completes (.loadImage h seq) s (fun t =>
      t.out = .bulkRead c.host c.seq c.bulkAddr c.bulkLen c.bulkRkey :: s.out ∧ (cmdAt t h seq).map Cmd.phase = some 1
      ∧ t = { s with cmds := t.cmds, out := t.out }))
  ∧ (∀ (h seq : Nat) (s : State) (c : Cmd), cmdAt s h seq = some c → c.opcode = opLoadImage → c.phase = 2 → h < s.hosts.length →
    decideFail (heldFail c ++ imageFails s c c.bulk) = none → Completes (.imageStaged h seq) s (fun t =>
      (partAt t c.partition).state = .loaded ∧ (partAt t c.partition).origin = c.arg0
      ∧ (∃ i, (partAt t c.partition).image = some i ∧ i.id = le c.bulk 32 8 ∧ i.digest = carriedDigest c.bulk)
      ∧ (partAt t c.partition).binding = (partAt s c.partition).binding
      ∧ (∀ r, r ≠ c.partition → partAt t r = partAt s r)
      ∧ Recorded t c stOk (le c.bulk 32 8) (le (carriedDigest c.bulk) 0 8)))
  ∧ (∀ (h seq : Nat) (s : State) (c : Cmd), Starts s h seq opUnload c [] → Completes (.unload h seq) s (fun t =>
      partAt t c.partition = { resetEpoch := (partAt s c.partition).resetEpoch } ∧ (∀ f ∈ t.flows, f.q ≠ c.partition)
      ∧ (∀ r, r ≠ c.partition → partAt t r = partAt s r) ∧ Recorded t c stOk 0 0))

/-- BIND_JOB, UNBIND_JOB, SHADOW_BEGIN and SHADOW_END (R407 to R409, R438, R441): BIND_JOB asks for its recipes before any effect;
UNBIND_JOB ends the binding with its regions, shares, tree context and settlement state; SHADOW_BEGIN's request waits at its flow; SHADOW_END
returns the partition to LOADED, still bound, with the steps matched. -/
def Obligations.JobsBindUnbindAndShadow : Prop :=
  ∀ (h seq : Nat) (s : State) (c : Cmd),
    let q := c.partition
    let p := partAt s q
    (Starts s h seq opBindJob c (bindPayloadFails s c) → Completes (.bindJob h seq) s (fun t =>
      t.out = .bulkRead c.host c.seq c.bulkAddr c.bulkLen c.bulkRkey :: s.out ∧ (cmdAt t h seq).map Cmd.phase = some 1
      ∧ t = { s with cmds := t.cmds, out := t.out }))
    ∧ (Starts s h seq opUnbindJob c [] → Completes (.unbindJob h seq) s (fun t =>
      (partAt t q).binding = none ∧ (partAt t q).state = p.state ∧ (partAt t q).quota = [] ∧ (partAt t q).settle = {} ∧ (partAt t q).join = {}
      ∧ (∀ k, treeOf p = some k → treeAt t k = {}) ∧ (∀ f ∈ t.flows, f.q = q → f.closed = false)
      ∧ (∀ r, r ≠ q → partAt t r = partAt s r) ∧ t.mem = s.mem ∧ t.tiles = s.tiles ∧ Recorded t c stOk 0 0))
    ∧ (Starts s h seq opShadowBegin c (shadowFails s c) → Completes (.shadowBegin h seq) s (fun t =>
      (cmdAt t h seq).map Cmd.phase = some 2
      ∧ (∃ f k, flowAt s q (le c.payload 4 4) = some f
        ∧ flowAt t q (le c.payload 4 4) = some { f with queue := f.queue ++ [{ q := q, flow := le c.payload 4 4, usage := .shadow q, pkt := k }] }
        ∧ k.typ = 1 ∧ k.addr = shadowAddr ∧ k.dstDev = le c.payload 0 2)
      ∧ t = { s with flows := t.flows, cmds := t.cmds }))
    ∧ (Starts s h seq opShadowEnd c [] → Completes (.shadowEnd h seq) s (fun t =>
      (partAt t q).state = .loaded ∧ (partAt t q).join = {} ∧ isBound (partAt t q) = isBound p ∧ (partAt t q).ctx.active = false
      ∧ (∀ r, r ≠ q → partAt t r = partAt s r) ∧ Recorded t c stOk p.join.matched 0))

/-- FENCE and EXPEL (R314, R315, R434, R435): the job epoch becomes the certificate's new one; a RUNNING partition aborts; a module that
the certificate lists is FENCED with its partition of the job held back, any other keeps its device state. EXPEL also lists the devices as
expelled, closes their flows, lets go their escrow slots and requests a pre-emption.

ADMIT (R436, R442): at a member the epoch is the certificate's, every replaced device is expelled no more, and a HELD partition resumes
at the tick given; at a shadow whose copy is complete the takeover is warm: it is the member, and replays the step at that tick; at a LOADED
spare it is cold: the command waits while the stream comes. -/
def Obligations.FencesExpulsionsAndAdmissions : Prop :=
  (
  ∀ (h seq : Nat) (s : State) (c : Cmd),
    let q := c.partition
    let p := partAt s q
    let listed := s.devIdValid = true ∧ s.devId ∈ certDevices c.payload
    (Starts s h seq opFence c (certFails p c 0) → Completes (.fence h seq) s (fun t =>
      jobEpochOf (partAt t q) = le c.payload 16 4 ∧ Recorded t c stOk (le c.payload 16 4) 0
      ∧ (p.state = .running → p.purge = none → (partAt t q).state = .aborting ∧ (partAt t q).abortEpoch = next16 p.abortEpoch)
      ∧ (listed → isFencedPart (partAt t q) = true ∧ (partAt t q).preempt = true ∧ (s.dev = .ready ∨ s.dev = .degraded → t.dev = .fenced))
      ∧ (¬listed → t.dev = s.dev ∧ isFencedPart (partAt t q) = isFencedPart p)))
    ∧ (Starts s h seq opExpel c (certFails p c 0) → Completes (.expel h seq) s (fun t =>
      jobEpochOf (partAt t q) = le c.payload 16 4 ∧ Recorded t c stOk (le c.payload 16 4) 0 ∧ (partAt t q).preempt = true
      ∧ (∀ d ∈ certDevices c.payload, ∃ b, (partAt t q).binding = some b ∧ d ∈ b.expelled
        ∧ (∀ e ∈ b.slots, e.dev = d → e.role = 0 ∨ e.role = 3 ∨ e.role = 4))
      ∧ (∀ f ∈ t.flows, f.q = q → f.cfg.kind = 1 → f.dstDev ∈ certDevices c.payload → f.closed = true)))
  ) ∧ (
  ∀ (h seq : Nat) (s : State) (c : Cmd),
    let q := c.partition
    let p := partAt s q
    (Starts s h seq opAdmit c (admitMemberFails s c) → admitsSpare p = false → Completes (.admitModule h seq) s (fun t =>
      jobEpochOf (partAt t q) = le c.payload 16 4 ∧ Recorded t c stOk (le c.payload 16 4) 0
      ∧ (p.state = .held → (partAt t q).startAt = some c.arg1)
      ∧ (∀ i, i < le c.payload 10 1 → ∀ b, (partAt t q).binding = some b → le (admitEntry c.payload i) 0 2 ∉ b.expelled)
      ∧ (∀ r, r ≠ q → partAt t r = partAt s r) ∧ t.mem = s.mem ∧ t.tiles = s.tiles))
    ∧ (Starts s h seq opAdmit c (admitSpareFails s c) → admitsSpare p = true → c.arg0 = 0 → p.join.copyDone = true → p.purge = none → isBound p = true →
      Completes (.admitModule h seq) s (fun t =>
        (partAt t q).join.mode = 0 ∧ (partAt t q).replayAt = some c.arg1 ∧ (partAt t q).state = .aborting
        ∧ jobEpochOf (partAt t q) = le c.payload 16 4 ∧ Recorded t c stOk (le c.payload 16 4) 0))
    ∧ (Starts s h seq opAdmit c (admitSpareFails s c) → admitsSpare p = true → c.arg0 = 1 → Completes (.admitModule h seq) s (fun t =>
        (partAt t q).join.mode = 3 ∧ (partAt t q).startAt = some c.arg1 ∧ (partAt t q).join.unit = 0 ∧ (partAt t q).state = p.state
        ∧ jobEpochOf (partAt t q) = le c.payload 16 4 ∧ (cmdAt t h seq).map Cmd.phase = some 2 ∧ t.mem = s.mem ∧ t.tiles = s.tiles)))

/-- COLD_STREAM_UNIT and FIRST_COPY_UNIT (R425, R439, R442): a unit of a cold stream moves its partition on, from the narrow weights to the
wide state and, with its last unit, to COLD_DONE, when ADMIT completes with OK; a unit of a first copy whose far-store reads the regulator admits is one
more copied, and a keeper whose last unit has gone is ACTIVE. -/
def Obligations.CopiesGoUnitByUnit : Prop :=
  (∀ (q : Nat) (data : List Byte) (s : State),
    let j := (partAt s q).join
    let last := unitsOf (shardSize (partAt s q)) ≤ j.unit + 1
    let r := unitSpan (shardSize (partAt s q)) j.unit
    let a := paramAddr (partAt s q) (partAt s q).settle.settledVer r.1
    let n := 12 * (r.2 - r.1)
    (j.sources ≠ [] → j.mode = 3 → Completes (.coldStreamUnit q data) s (fun t =>
      (partAt t q).join.mode = (if last then 4 else 3) ∧ (partAt t q).join.unit = (if last then 0 else j.unit + 1) ∧ t.cmds = s.cmds))
    ∧ (j.sources ≠ [] → j.mode = 4 → Completes (.coldStreamUnit q data) s (fun t =>
      (Memory.wf s.mem = true → PlainSpan s a n → readBytes t.mem a n = slice data 0 n ∧ SameMemoryOutside a n s t)
      ∧ (¬last → (partAt t q).join.mode = 4 ∧ (partAt t q).join.unit = j.unit + 1 ∧ t.cmds = s.cmds)
      ∧ (last → (partAt t q).join.mode = 5 ∧ (partAt t q).join.admitModule = none
        ∧ ∀ x c, j.admitModule = some x → cmdAt s x.1 x.2 = some c → x.1 < s.hosts.length → Recorded t c stOk (le c.payload 16 4) 0)))
    ∧ (j.sources = [] → exec (.coldStreamUnit q data) s = .next s))
  ∧ (∀ (q i : Nat) (b : Binding) (s : State), (partAt s q).binding = some b → i < b.slots.length →
    let e := b.slots.getD i {}
    let p := partAt s q
    let bytes := fun m u => 12 * ((unitSpan m u).2 - (unitSpan m u).1)
    (i < 2 → e.role = 2 → Funded s q (bytes (shardSize p) e.copied) → Completes (.firstCopyUnit q i) s (fun t =>
      (escrowSlot (partAt t q) i).copied = e.copied + 1
      ∧ (escrowSlot (partAt t q) i).role = (if unitsOf (shardSize (partAt s q)) ≤ e.copied + 1 then 1 else 2)
      ∧ t.mem = s.mem ∧ t.tiles = s.tiles ∧ t.cmds = s.cmds))
    ∧ (2 ≤ i → i < 4 → e.role = 1 → e.copied < 2 * unitsOf (ownerParams p (i - 2)) →
      Funded s q (bytes (ownerParams p (i - 2)) (e.copied % max (unitsOf (ownerParams p (i - 2))) 1)) → Completes (.firstCopyUnit q i) s (fun t =>
      (escrowSlot (partAt t q) i).copied = e.copied + 1 ∧ t.mem = s.mem ∧ t.tiles = s.tiles ∧ t.cmds = s.cmds)))
  ∧ (∀ (q flow : Nat) (s : State), isBound (partAt s q) = true → (partAt s q).join.serves = some flow →
    (partAt s q).join.served < unitsOf (shardSize (partAt s q)) →
    Funded s q (12 * ((unitSpan (shardSize (partAt s q)) (partAt s q).join.served).2 - (unitSpan (shardSize (partAt s q)) (partAt s q).join.served).1)) →
    Completes (.firstCopyUnit q 4) s (fun t =>
      (partAt t q).join.served = (partAt s q).join.served + 1 ∧ t.mem = s.mem ∧ t.tiles = s.tiles ∧ t.cmds = s.cmds))

/-- CONNECT and DISCONNECT (R365): CONNECT opens one connection with the payload's peer, port, kind and path size under a queue pair number
not in use, which it records; DISCONNECT closes the one named and no other.

RESTORE and POOL_READ_RESPONSE (R358, R469): RESTORE asks for the commit record's header and waits, a stale epoch held back until every
other check has been made; a header that is the one asked for leads to the record's rest, and the record to the SEAL of the device's and
partition's entry; a header that is another's, a record with no such entry and a SEAL that does not fit end the command with BAD_FIELD, a length that
does not fit with BAD_LENGTH, a refused read with TIMEOUT, and the settled version is as it was. -/
def Obligations.PoolConnectionsAndRestores : Prop :=
  (
  ∀ (h seq : Nat) (s : State) (c : Cmd),
    (Starts s h seq opConnect c (connectFails c) → s.conns.length < 65536 → flowsInUse s < 262144 → Completes (.connect h seq) s (fun t =>
      ∃ x, t.conns = s.conns ++ [x] ∧ connAt s x.qpn = none ∧ x.peer = slice c.payload 0 16 ∧ x.peerQpn = le c.payload 16 4
        ∧ x.psn = le c.payload 20 4 ∧ x.pmtu = le c.payload 24 1 ∧ x.port = le c.payload 25 1 ∧ x.kind = le c.payload 26 1
        ∧ Recorded t c stOk x.qpn 0 ∧ t = { s with conns := t.conns, fresh := t.fresh, hosts := t.hosts, cmds := t.cmds, out := t.out }))
    ∧ (∀ x, Starts s h seq opDisconnect c [] → connAt s c.arg0 = some x → x.kind ≠ 0 → Completes (.disconnect h seq) s (fun t =>
      connAt t c.arg0 = none ∧ (∀ n, n ≠ c.arg0 → connAt t n = connAt s n) ∧ Recorded t c stOk 0 0
      ∧ t.mem = s.mem ∧ t.tiles = s.tiles ∧ t.flows = s.flows ∧ t.fs = s.fs))
  ) ∧ (
  (∀ (h seq : Nat) (s : State) (c : Cmd) (stale : Bool), starting s h seq opRestore = some c → h < s.hosts.length →
    (judge s c (restoreFails s c)).map Prod.fst = (if stale then some stStaleEpoch else none) → Completes (.restore h seq) s (fun t =>
    t.out = .poolRead c.arg0 (le c.payload 0 8) 64 (le c.payload 12 4) :: s.out ∧ (cmdAt t h seq).map Cmd.phase = some 2
    ∧ (∃ r, (partAt t c.partition).ckpt.restore = some r ∧ r.gen = c.arg1 ∧ r.commitAddr = le c.payload 0 8 ∧ r.commitLen = le c.payload 8 4
      ∧ r.conns = namedConns c 16 ∧ r.outstanding = [(0, 0)] ∧ r.done = 0 ∧ r.stale = stale ∧ r.host = h ∧ r.seq = seq)
    ∧ (∀ r, r ≠ c.partition → partAt t r = partAt s r)
    ∧ t = { s with parts := t.parts, cvus := t.cvus, cmds := t.cmds, out := t.out }))
  ∧ (∀ (q qpn n i : Nat) (data : List Byte) (s : State) (r : RestoreRun) (c : Cmd), restoreOn s qpn = some (q, r, n, i) →
    cmdAt s r.host r.seq = some c → r.host < s.hosts.length →
    let rest := r.outstanding.filter (fun x => decide (x ≠ (n, i)))
    let ends := fun (t : State) (st : Nat) => (partAt t q).ckpt.restore = none ∧ (partAt t q).settle = (partAt s q).settle ∧ Recorded t c st 0 0
      ∧ (∀ j, j ≠ q → partAt t j = partAt s j)
      ∧ t = { s with parts := t.parts, conns := t.conns, cvus := t.cvus, regs := t.regs, hosts := t.hosts, cmds := t.cmds, out := t.out }
    (n = 0 → commitHeadOk (partAt s q) r data = true → r.commitLen = 72 + 32 * commitCount data →
      Completes (.poolReadResponse qpn true data) s (fun t =>
        t.out = .poolRead (r.conns.getD 0 0) (r.commitAddr + 64) (r.commitLen - 64) r.rkey :: s.out
        ∧ (partAt t q).ckpt.restore = some { r with commit := slice data 0 64, outstanding := rest ++ [(1, 0)] }
        ∧ t = { s with parts := t.parts, conns := t.conns, out := t.out }))
    ∧ (n = 1 → ∀ e, commitEntry s q (r.commit ++ slice data 0 (r.commitLen - 64)) = some e → Completes (.poolReadResponse qpn true data) s (fun t =>
        t.out = .poolRead (r.conns.getD 0 0) (le e 8 8 + 0x7FF000) 136 r.rkey :: s.out
        ∧ (partAt t q).ckpt.restore = some { r with commit := r.commit ++ slice data 0 (r.commitLen - 64), slotAddr := le e 8 8, outstanding := rest ++ [(2, 0)] }
        ∧ t = { s with parts := t.parts, conns := t.conns, out := t.out }))
    ∧ (n = 0 ∧ commitHeadOk (partAt s q) r data = false ∨ n = 1 ∧ commitEntry s q (r.commit ++ slice data 0 (r.commitLen - 64)) = none
        ∨ n = 2 ∧ sealHeadOk s q r data = false → Completes (.poolReadResponse qpn true data) s (fun t => ends t stBadField))
    ∧ (n = 0 ∧ commitHeadOk (partAt s q) r data = true ∧ r.commitLen ≠ 72 + 32 * commitCount data →
        Completes (.poolReadResponse qpn true data) s (fun t => ends t stBadLength))
    ∧ Completes (.poolReadResponse qpn false data) s (fun t => ends t stTimeout)))

/-- CHECKPOINT (R451, R458): CUT makes a cut pending and records the step that follows the present one; SET_TARGET replaces the target by
the payload's slots, all free, its remote key and its connections; nothing else of the checkpoint state changes.

CHECKPOINT_OBJECT_ACK and COPY_AHEAD_STAGE (R459 to R461, R466): the acknowledgement of SEAL ends the copy and names the generation
sealed; that of a granule counts it as copied and frees its staging (nothing more being left to issue); a write answered with an error ends the
generation with FAILED; a granule that a held write waits on is staged as it is, where the share has room. -/
def Obligations.CheckpointsAreTakenAndAcknowledged : Prop :=
  (
  ∀ (h seq : Nat) (s : State) (c : Cmd), Starts s h seq opCheckpoint c (checkpointFails s c) →
    let q := c.partition
    let cut := (le c.payload 0 1).testBit 0
    let set := (le c.payload 0 1).testBit 1
    Completes (.checkpoint h seq) s (fun t =>
      (partAt t q).ckpt.pending = ((partAt s q).ckpt.pending || cut)
      ∧ (set = false → (partAt t q).ckpt.target = (partAt s q).ckpt.target ∧ t.cvus = s.cvus)
      ∧ (set = true → (partAt t q).ckpt.target.rkey = le c.payload 4 4 ∧ (partAt t q).ckpt.target.slotLen = le c.payload 8 8
        ∧ (partAt t q).ckpt.target.slots = (List.range (le c.payload 1 1)).map (fun i => (le c.payload (16 + 8 * i) 8, false))
        ∧ (partAt t q).ckpt.target.conns = namedConns c 48)
      ∧ (partAt t q).ckpt.copy = (partAt s q).ckpt.copy ∧ (partAt t q).ckpt.lastSealed = (partAt s q).ckpt.lastSealed
      ∧ (∀ r, r ≠ q → partAt t r = partAt s r)
      ∧ Recorded t c stOk (if cut then (partAt s q).ctx.step + 1 else 0) 0
      ∧ t = { s with parts := t.parts, cvus := t.cvus, hosts := t.hosts, cmds := t.cmds, out := t.out })
  ) ∧ (
  (∀ (q n i : Nat) (s : State) (c : CkptCopy) (rest : List (Nat × Nat)), (partAt s q).ckpt.copy = some c → c.outstanding = (n, i) :: rest →
    (n = 2 ^ 40 → Completes (.checkpointObjectAck { q := q }) s (fun t =>
      (partAt t q).ckpt = { (partAt s q).ckpt with copy := none, lastSealed := c.gen } ∧ (∀ r, r ≠ q → partAt t r = partAt s r)
      ∧ t = { s with parts := t.parts, conns := t.conns }))
    ∧ (∀ j, n = j + 1 → j ≠ 2 ^ 40 - 1 → c.metaSent = true → (∀ k, k < c.granules → k ∈ c.issued) →
      rest ≠ [] ∨ (insertNat c.copied j).length ≠ c.granules → Completes (.checkpointObjectAck { q := q }) s (fun t =>
        (∃ c', (partAt t q).ckpt.copy = some c' ∧ (∀ x, x ∈ c'.copied ↔ x = j ∨ x ∈ c.copied) ∧ c'.outstanding = rest
          ∧ (∀ x, x ∈ c'.staged ↔ x ∈ c.staged ∧ x.1 ≠ j) ∧ c'.gen = c.gen ∧ c'.issued = c.issued)
        ∧ (∀ r, r ≠ q → partAt t r = partAt s r) ∧ t = { s with parts := t.parts, conns := t.conns }))
    ∧ Completes (.checkpointObjectAck { q := q, ok := false }) s (fun t =>
      (partAt t q).ckpt.copy = none ∧ (partAt t q).ckpt.lastSealed = (partAt s q).ckpt.lastSealed ∧ (partAt t q).settle = (partAt s q).settle
      ∧ (regGet t (ckpReg q 0)).testBit 6 = true ∧ SameRegistersBut [ckpReg q 0] s t ∧ (∀ r, r ≠ q → partAt t r = partAt s r)
      ∧ t = { s with parts := t.parts, conns := t.conns, regs := t.regs }))
  ∧ (∀ (q g : Nat) (s : State) (c : CkptCopy), (partAt s q).ckpt.copy = some c → granulePinned (partAt s q) c.ver g = true → g ∈ c.waiting →
    c.staged.length < stagingRoom (partAt s q) →
    let a := granuleAddr (partAt s q) c.ver g
    let n := granuleLen (shardSize (partAt s q)) g
    fsBase ≤ a → PlainSpan s a n → s.poison = [] → Funded s q (2 * n) → Completes (.copyAheadStage q g) s (fun t =>
      (∃ c', (partAt t q).ckpt.copy = some c' ∧ c'.staged = c.staged ++ [(g, readBytes s.mem a n)]
        ∧ c'.waiting = c.waiting.filter (fun j => j ≠ g) ∧ c'.copied = c.copied)
      ∧ (∀ r, r ≠ q → partAt t r = partAt s r) ∧ t = { s with parts := t.parts, fs := t.fs })))

/-- FADD to FTANH and FRINT (R149, R152 to R158): each element of line DST is the operation on the elements of the sources, rounded once to
TYPE; masked elements are zeroed or kept; the conditions of the elements that take part join the sticky ones. -/
def Obligations.FloatOpcodesComputeEachLane : Prop :=
  FloatOp .fadd 0x01 2 (fun i x => addV i.rnd (x 0) (x 1))
  ∧ FloatOp .fsub 0x02 2 (fun i x => addV i.rnd (x 0) (x 1).negate)
  ∧ FloatOp .fmul 0x03 2 (fun _ x => mulV (x 0) (x 1))
  ∧ FloatOp .fma 0x04 3 (fun i x => fmaV i.rnd (x 0) (x 1) (x 2))
  ∧ FloatOp .fms 0x05 3 (fun i x => fmaV i.rnd (x 0) (x 1) (x 2).negate)
  ∧ FloatOp .fnma 0x06 3 (fun i x => fmaV i.rnd (x 0).negate (x 1) (x 2))
  ∧ FloatOp .fmin 0x07 2 (fun _ x => { v := minV (x 0) (x 1) })
  ∧ FloatOp .fmax 0x08 2 (fun _ x => { v := maxV (x 0) (x 1) })
  ∧ FloatOp .fabs 0x09 1 (fun _ x => { v := (x 0).abs })
  ∧ FloatOp .fneg 0x0A 1 (fun _ x => { v := (x 0).negate })
  ∧ FloatOp .fdiv 0x0B 2 (fun _ x => divV (x 0) (x 1))
  ∧ FloatOp .fsqrt 0x0C 1 (fun _ x => sqrtV (x 0))
  ∧ FloatOp .frcp 0x0D 1 (fun _ x => divV (.fin false 1 0) (x 0))
  ∧ FloatOp .frsqrt 0x0E 1 (fun _ x => rsqrtV (x 0))
  ∧ FloatOp .fexp2 0x0F 1 (fun _ x => exp2V (x 0))
  ∧ FloatOp .flog2 0x10 1 (fun _ x => log2V (x 0))
  ∧ FloatOp .ftanh 0x11 1 (fun _ x => tanhV (x 0))

/-- FRINT, CVT, ITOF and FTOI (R157): FRINT rounds each element to an integral value; CVT converts each element from TYPE to TYPE2, a
32-bit line into or out of the half of a 16-bit line that SUB names, the other half unchanged; ITOF and FTOI convert between signed integers and
TYPE.

PACKB, UNPACKB and GFN (R157, R173): PACKB writes four packed blocks of its binary32 elements to DST and their scale bytes into line
SRC_C, masked elements counting as zero; UNPACKB gives the values of four packed blocks; GFN the Gwynis function of each element. -/
def Obligations.ConversionsAndBlocks : Prop :=
  (
  ∀ (t : Nat) (i : VIns) (s : State), EngineReady s t →
    let w := typBytes i.typ
    let w2 := typBytes i.typ2
    let h := i.sub % 2
    (bundleOk s (0x13, i) nopSlot = true → Completes (.frint t i) s (fun u =>
      let r := fun k => opF (fmtOf i.typ) i.rnd i.ftz (laneRandom s t i (512 / w) k) [source s t i 0 w k]
        (fun x => { v := (frintV i.rnd (laneRandom s t i (512 / w) k) (x.getD 0 .nan)).1, fl := (frintV i.rnd (laneRandom s t i (512 / w) k) (x.getD 0 .nan)).2 })
      LanesBecome s u t i w (512 / w) (fun k => (r k).bits) ∧ FlagsJoin s u t i (512 / w) (fun k => (r k).fl) ∧ OnlyLines s u t [i.dst]))
    ∧ (bundleOk s (0x18, i) nopSlot = true → Completes (.cvt t i) s (fun u =>
      let n := min (512 / w) (512 / w2)
      let r := fun k => convF (fmtOf i.typ) (fmtOf i.typ2) i.rnd i.ftz (source s t i 0 w (k + if w < w2 then 128 * h else 0)) (laneRandom s t i n k)
      (w = 4 → w2 = 2 → (∀ k, k < 128 → lane u t i.dst 2 (128 * h + k) =
          if laneOn s t i k then (r k).bits % 2 ^ 16 else if i.zero then 0 else lane s t i.dst 2 (128 * h + k))
        ∧ (∀ k, k < 128 → lane u t i.dst 2 (128 * (1 - h) + k) = lane s t i.dst 2 (128 * (1 - h) + k)))
      ∧ (¬(w = 4 ∧ w2 = 2) → LanesBecome s u t i w2 n (fun k => (r k).bits))
      ∧ FlagsJoin s u t i n (fun k => (r k).fl) ∧ OnlyLines s u t [i.dst]))
    ∧ (bundleOk s (0x2D, i) nopSlot = true → Completes (.itof t i) s (fun u =>
      let r := fun k => roundF (fmtOf i.typ) i.rnd i.ftz (laneRandom s t i 128 k) (FVal.ofInt (signed 32 (source s t i 0 4 k)) 0)
      (w = 2 → (∀ k, k < 128 → lane u t i.dst 2 (128 * h + k) =
          if laneOn s t i k then (r k).bits % 2 ^ 16 else if i.zero then 0 else lane s t i.dst 2 (128 * h + k))
        ∧ (∀ k, k < 128 → lane u t i.dst 2 (128 * (1 - h) + k) = lane s t i.dst 2 (128 * (1 - h) + k)))
      ∧ (w = 4 → LanesBecome s u t i 4 128 (fun k => (r k).bits))
      ∧ FlagsJoin s u t i 128 (fun k => (r k).fl) ∧ OnlyLines s u t [i.dst]))
    ∧ (bundleOk s (0x2E, i) nopSlot = true → Completes (.ftoi t i) s (fun u =>
      let x := fun k => readF (fmtOf i.typ) i.ftz (source s t i 0 w (k + if w = 2 then 128 * h else 0))
      let r := fun k => ftoiV i.rnd (laneRandom s t i 128 k) (x k).v
      LanesBecome s u t i 4 128 (fun k => unsigned 32 (r k).1) ∧ FlagsJoin s u t i 128 (fun k => (r k).2.or (x k).fl) ∧ OnlyLines s u t [i.dst]))
  ) ∧ (
  ∀ (t : Nat) (i : VIns) (s : State), EngineReady s t →
    let at_ := 4 * (i.imm.toNat % 128)
    (bundleOk s (0x19, i) nopSlot = true → Completes (.packb t i) s (fun u =>
      let v := fun j => (List.range 32).map (fun k =>
        if laneOn s t i (32 * j + k) then (readF fp32 i.ftz (source s t i 0 4 (32 * j + k))).v else .zero)
      let b := fun j => packBlock i.typ2 i.rnd (v j) ((List.range 32).map (fun k => laneRandom s t i 128 (32 * j + k)))
      (∀ j, j < 4 → slice (tillLine u t i.dst) (128 * j) 128 = slice (b j).1 0 128
        ∧ le (tillLine u t i.srcC) (at_ + j) 1 = (b j).2.1 % 256)
      ∧ (∀ k, k < 512 → k < at_ ∨ at_ + 4 ≤ k → le (tillLine u t i.srcC) k 1 = le (tillLine s t i.srcC) k 1)
      ∧ OnlyLines s u t [i.dst, i.srcC]))
    ∧ (bundleOk s (0x1A, i) nopSlot = true → Completes (.unpackb t i) s (fun u =>
      let x := fun k => (blockValues i.typ2 (slice (sourceLine s t i 0) (128 * (k / 32)) (fieldBytes i.typ2))
        (le (sourceLine s t i 1) (at_ + k / 32) 1)).getD (k % 32) .nan
      let r := fun k => roundF fp32 i.rnd i.ftz (laneRandom s t i 128 k) (x k)
      LanesBecome s u t i 4 128 (fun k => (r k).bits) ∧ FlagsJoin s u t i 128 (fun k => (r k).fl) ∧ OnlyLines s u t [i.dst]))
    ∧ (bundleOk s (0x48, i) nopSlot = true → Completes (.gfn t i) s (fun u =>
      let w := typBytes i.typ
      let x := fun k => (readF (fmtOf i.typ) true (source s t i 0 w k)).v
      LanesBecome s u t i w (512 / w) (fun k => (roundF (fmtOf i.typ) rne true 0 (gwRound (gwFn i.sub (x k)))).bits) ∧ OnlyLines s u t [i.dst])))

/-- IADD to SAR, MOV, IOTA and SEL (R149): each 32-bit element of line DST is the operation on the elements of the sources; SEL takes A
where the mask is 1 and B elsewhere, and ignores ZERO.

Predicates and comparisons (R147 to R149, R153): PAND to PSET compute each mask bit, under PRED and ZERO; FCMP and ICMP give the
condition SUB on each pair of elements, FCMP of 32-bit and ICMP elements clearing the bits past the last. -/
def Obligations.IntegersPredicatesAndComparisons : Prop :=
  (
  IntOp .iadd 0x20 (fun a b => a + b) ∧ IntOp .isub 0x21 (fun a b => a - b) ∧ IntOp .imul 0x22 (fun a b => a * b)
  ∧ IntOp .imin 0x23 (fun a b => if b.slt a then b else a) ∧ IntOp .imax 0x24 (fun a b => if a.slt b then b else a)
  ∧ IntOp .vand 0x25 (fun a b => a &&& b) ∧ IntOp .vor 0x26 (fun a b => a ||| b) ∧ IntOp .vxor 0x27 (fun a b => a ^^^ b)
  ∧ IntOp .shl 0x28 (fun a b => a <<< (b.toNat % 32)) ∧ IntOp .shr 0x29 (fun a b => a >>> (b.toNat % 32))
  ∧ IntOp .sar 0x2A (fun a b => a.sshiftRight (b.toNat % 32)) ∧ IntOp .mov 0x30 (fun a _ => a)
  ∧ (∀ (t : Nat) (i : VIns) (s : State), EngineReady s t →
    (bundleOk s (0x2C, i) nopSlot = true → Completes (.iota t i) s (fun u =>
      LanesBecome s u t i 4 128 (fun k => (k + i.imm.toNat) % 2 ^ 32) ∧ OnlyLines s u t [i.dst]))
    ∧ (bundleOk s (0x31, i) nopSlot = true → Completes (.sel t i) s (fun u =>
      (∀ k, k < 128 → lane u t i.dst 4 k = if laneOn s t i k then source s t i 0 4 k else source s t i 1 4 k) ∧ OnlyLines s u t [i.dst])))
  ) ∧ (
  MaskOp .pand 0x40 (fun _ _ a b => a && b) ∧ MaskOp .por 0x41 (fun _ _ a b => a || b) ∧ MaskOp .pxor 0x42 (fun _ _ a b => a ^^ b)
  ∧ MaskOp .pnot 0x43 (fun _ _ a _ => !a) ∧ MaskOp .pset 0x44 (fun i k _ _ => decide (k < i.imm.toNat))
  ∧ (∀ (t : Nat) (i : VIns) (s : State), EngineReady s t → (tileAt s t).vec.preds.length = 8 →
    (bundleOk s (0x12, i) nopSlot = true → Completes (.fcmp t i) s (fun u =>
      let w := typBytes i.typ
      let a := fun k => readF (fmtOf i.typ) i.ftz (source s t i 0 w k)
      let b := fun k => readF (fmtOf i.typ) i.ftz (source s t i 1 w k)
      (∀ k, k < 256 → (maskOf u t i.dst).getLsbD k =
        (decide (k < 512 / w) && if laneOn s t i k then cmpV i.sub (a k).v (b k).v else !i.zero && (maskOf s t i.dst).getLsbD k))
      ∧ FlagsJoin s u t i (512 / w) (fun k => (a k).fl.or (b k).fl)
      ∧ (∃ m, OnlyEngine s u t { (tileAt s t).vec with preds := (tileAt s t).vec.preds.set i.dst m })))
    ∧ (bundleOk s (0x2B, i) nopSlot = true → Completes (.icmp t i) s (fun u =>
      (∀ k, k < 256 → (maskOf u t i.dst).getLsbD k = (decide (k < 128) &&
        if laneOn s t i k then cmpI i.sub (signed 32 (source s t i 0 4 k)) (signed 32 (source s t i 1 4 k)) else !i.zero && (maskOf s t i.dst).getLsbD k))
      ∧ (∃ m, OnlyEngine s u t { (tileAt s t).vec with preds := (tileAt s t).vec.preds.set i.dst m })))))

/-- NOP, LDL, STL, SETIDX and ADDIDX (R149, R159): NOP does nothing; LDL and STL move 512 bytes between the tile's near store at offset
IMM and a till line; SETIDX and ADDIDX write an index register, modulo 2^48.

RCVT, RNET, RBCAST, POPQ and RCLR (R160, R164, R165, R167, R171): RCVT rounds a tally to TYPE in another; RNET adds the tile's
contribution to its open tree; RBCAST fills a line with a tally's value; POPQ moves the queue's head to a line and two tallies; RCLR clears a
tally, its tag and its stream. -/
def Obligations.MovesIndexRegistersAndTallies : Prop :=
  (
  ∀ (t : Nat) (i : VIns) (s : State), EngineReady s t →
    (bundleOk s (0x00, i) nopSlot = true → Completes (.nop t i) s (fun u => OnlyLines s u t []))
    ∧ (bundleOk s (0x38, i) nopSlot = true → spanPoisoned s (tileBase t + i.imm.toNat) 512 = false → Completes (.ldl t i) s (fun u =>
      tillLine u t i.dst = readBytes s.mem (tileBase t + i.imm.toNat) 512 ∧ OnlyLines s u t [i.dst]))
    ∧ (bundleOk s (0x39, i) nopSlot = true → Completes (.stl t i) s (fun u =>
      readBytes u.mem (tileBase t + i.imm.toNat) 512 = sourceLine s t i 0 ∧ SameMemoryOutside (tileBase t + i.imm.toNat) 512 s u
      ∧ (∀ x, tileAt u x = tileAt s x) ∧ u.regs = s.regs))
    ∧ (bundleOk s (0x3C, i) nopSlot = true → (tileAt s t).vec.idx.length = 8 → Completes (.setidx t i) s (fun u =>
      OnlyEngine s u t { (tileAt s t).vec with idx := (tileAt s t).vec.idx.set i.dst (BitVec.ofNat 48 i.imm.toNat) }))
    ∧ (bundleOk s (0x3D, i) nopSlot = true → (tileAt s t).vec.idx.length = 8 → Completes (.addidx t i) s (fun u =>
      OnlyEngine s u t 
        { (tileAt s t).vec with idx := (tileAt s t).vec.idx.set i.dst ((tileAt s t).vec.idx.getD i.dst 0 + BitVec.signExtend 48 i.imm) }))
  ) ∧ (
  ∀ (t : Nat) (i : VIns) (s : State), EngineReady s t → (tileAt s t).vec.netOpen = [] → (tileAt s t).vec.badTallies = [] →
    (bundleOk s nopSlot (0xCA, i) = true → Completes (.rcvt t i) s (fun u =>
      tallyVal u t i.dst = BitVec.ofNat 128 (tallyConv s t i).1.bits ∧ (tallyTag u t i.dst).getLsbD tagExact = false
      ∧ (tallyTag u t i.dst).getLsbD tagEmpty = (tallyTag s t i.srcA).getLsbD tagEmpty
      ∧ (∀ k, k ≠ i.dst → tallyVal u t k = tallyVal s t k ∧ tallyTag u t k = tallyTag s t k)
      ∧ SameRegistersBut [tileReg t 0x780800] s u ∧ u.mem = s.mem))
    ∧ (∀ q x k, bundleOk s nopSlot (0xCB, i) = true → netTree s t (i.imm.toNat % 256) = some (q, x, k) → tagMatches x.op (tallyTag s t i.srcA) = true →
      Completes (.rnet t i) s (fun u =>
        (partAt u q).trees.at x.tree [] = (partAt s q).trees.at x.tree [] ++ [
            { idx := k, val := tallyVal s t i.srcA, tag := tallyTag s t i.srcA, mode := (tileAt s t).vec.modes.at i.srcA 0, tick := now s }]
        ∧ (tileAt u t).vec.netOpen = [(x.tree, i.dst)] ∧ (∀ r, r ≠ q → partAt u r = partAt s r)
        ∧ u = { s with parts := u.parts, tiles := u.tiles }))
    ∧ (bundleOk s nopSlot (0xCC, i) = true → Completes (.rbcast t i) s (fun u =>
      LanesBecome s u t i (typBytes i.typ) (512 / typBytes i.typ) (fun _ =>
        if i.typ = 0 ∨ (i.typ = 0x22 ∧ (tallyTag s t i.srcA).getLsbD tagExact = false) then (tallyVal s t i.srcA).toNat % 2 ^ 32 else (tallyConv s t i).1.bits)
      ∧ OnlyLines s u t [i.dst]))
    ∧ (∀ e rest, bundleOk s nopSlot (0xCD, i) = true → (tileAt s t).drain.queue = e :: rest → Completes (.popq t i) s (fun u =>
      tillLine u t i.dst = slice e.data 0 512 ∧ (tileAt u t).drain.queue = rest
      ∧ tallyVal u t (i.imm.toNat % 64) = BitVec.ofNat 128 e.hdr.toNat ∧ tallyTag u t (i.imm.toNat % 64) = 0
      ∧ tallyVal u t (i.imm.toNat % 64 + 1) = (if e.hdr.getLsbD 29 then BitVec.ofNat 128 (e.rowMax.toNat + e.rowSum.toNat * 2 ^ 32) else 0)
      ∧ SameMemoryOutside (tillAddr t i.dst) 512 s u ∧ u.regs = s.regs))
    ∧ (bundleOk s nopSlot (0xCE, i) = true → Completes (.rclr t i) s (fun u =>
      tallyVal u t i.dst = 0 ∧ tallyTag u t i.dst = 0 ∧ (tileAt u t).vec.streams.find i.dst = none
      ∧ (∀ k, k ≠ i.dst → tallyVal u t k = tallyVal s t k ∧ tallyTag u t k = tallyTag s t k)
      ∧ u.mem = s.mem ∧ u.regs = s.regs)))

/-- RSUM to ROR over untyped lanes (R161 to R163): in phase SINGLE the tally is the operation folded over the elements that take part,
modulo 2^32; RCOUNT counts those that are not zero; with none the tally is the operation's identity and EMPTY.

RSUM, RPROD, RMAX, RMIN, RARGMAX and RARGMIN over typed lanes, and RXSUM (R160 to R164): in phase SINGLE the tally is the root of the
canonical tree over the line's elements; RXSUM's is EXACT; in phases FIRST and MIDDLE the stream stays open with one line more. -/
def Obligations.ReductionsFoldTheirLanes : Prop :=
  (
  IntReduce .rsum 0xC0 0 (fun a b => a + b) ∧ IntReduce .rprod 0xC1 1 (fun a b => a * b)
  ∧ IntReduce .rmax 0xC2 0x80000000 (fun a b => if a.slt b then b else a) ∧ IntReduce .rmin 0xC3 0x7FFFFFFF (fun a b => if b.slt a then b else a)
  ∧ IntReduce .rcount 0xC6 0 (fun a b => a + if b = 0 then 0 else 1)
  ∧ IntReduce .rand 0xC7 0xFFFFFFFF (fun a b => a &&& b) ∧ IntReduce .ror 0xC8 0 (fun a b => a ||| b)
  ) ∧ (
  FloatReduce .rsum 0xC0 ∧ FloatReduce .rprod 0xC1 ∧ FloatReduce .rmax 0xC2 ∧ FloatReduce .rmin 0xC3
  ∧ FloatReduce .rargmax 0xC4 ∧ FloatReduce .rargmin 0xC5
  ∧ (∀ (t : Nat) (i : VIns) (s : State), EngineReady s t → (tileAt s t).vec.netOpen = [] → bundleOk s nopSlot (0xC9, i) = true →
    (i.sub % 4 = 0 → (∀ k, k < 512 / typBytes i.typ → (exactLeaf i (source s t i 0 (typBytes i.typ) k)).1.nonfinite = false
        ∧ -(2 ^ 119) ≤ (exactLeaf i (source s t i 0 (typBytes i.typ) k)).1.val ∧ (exactLeaf i (source s t i 0 (typBytes i.typ) k)).1.val < 2 ^ 119) →
      Completes (.rxsum t i) s (fun u =>
        TallyBecomes s u t i (BitVec.ofInt 128 (((List.range (512 / typBytes i.typ)).filter (laneOn s t i)).foldl
            (fun a k => a + (exactLeaf i (source s t i 0 (typBytes i.typ) k)).1.val) 0))
          ((List.range (512 / typBytes i.typ)).all (fun k => !laneOn s t i k))
        ∧ (tallyTag u t i.dst).getLsbD tagExact = true))
    ∧ (i.sub % 4 = 1 → Completes (.rxsum t i) s (fun u =>
        (∃ x, (tileAt u t).vec.streams.find i.dst = some x ∧ x.op = 0xC9 ∧ x.lines = 1) ∧ (tallyTag u t i.dst).getLsbD tagStream = true)))
  ∧ (∀ (t : Nat) (i : VIns) (s : State) (x : Stream), EngineReady s t → (tileAt s t).vec.netOpen = [] → (tileAt s t).vec.badTallies = [] →
    bundleOk s nopSlot (0xC0, i) = true →
    (i.sub % 4 = 1 → Completes (.rsum t i) s (fun u =>
      (∃ y, (tileAt u t).vec.streams.find i.dst = some y ∧ y.op = 0xC0 ∧ y.lines = 1) ∧ (tallyTag u t i.dst).getLsbD tagStream = true))
    ∧ (i.sub % 4 = 2 → (tileAt s t).vec.streams.find i.dst = some x → x.op = 0xC0 → x.typ = i.typ → x.intLanes = i.sub.testBit 2 →
      Completes (.rsum t i) s (fun u => ∃ y, (tileAt u t).vec.streams.find i.dst = some y ∧ y.lines = x.lines + 1 ∧ y.base = x.base))
    ∧ (i.sub % 4 = 3 → Completes (.rsum t i) s (fun u => (tileAt u t).vec.streams.find i.dst = none ∧ (tallyTag u t i.dst).getLsbD tagStream = false))))

/-- FIRE_SYNC, FIRE_CLOSE, FIRE_PASS, FIRE_DMA and FIRE_BODY (R207 to R209): the unit's next firing takes its tokens and runs, a speculative one
or one run again taking none; one that does no work is at once finished; a SYNC firing is at once finished, a CLOSE firing marks the tile's part of
its layer finished, a PASS firing gives the array one plan more, a DMA firing the engine one list more, and a BODY firing of one idle bundle retires
with its TAKEN bits from P7. With no firing to serve, or the tile stopped, nothing changes.

SPECULATIVE_FIRE (R219, R220): on a device with the predictor, an actor that may fire speculatively, whose image rule names it at no
more than the given confidence, whose slots but slot 0 are full, joins its queue as a speculative firing on reserved tokens, where the tile's
speculative firings hold no more than 256 tokens with it; a prediction of not taken, and one of less confidence, change nothing. -/
def Obligations.FiringsRunAndSpeculate : Prop :=
  (
  (∀ (t : Nat) (s : State),
    ((tileAt s t).sched.stopped = true → exec (.fireSync t) s = .next s ∧ exec (.fireClose t) s = .next s ∧ exec (.firePass t) s = .next s
      ∧ exec (.fireDma t) s = .next s)
    ∧ (nextFiring s t kindSync = none → exec (.fireSync t) s = .next s) ∧ (nextFiring s t kindClose = none → exec (.fireClose t) s = .next s)
    ∧ (nextFiring s t kindPass = none → exec (.firePass t) s = .next s) ∧ (nextFiring s t kindDma = none → exec (.fireDma t) s = .next s)
    ∧ (nextFiring s t kindBody = none → (tileAt s t).vec.body = none → exec (.fireBody t) s = .next s))
  ∧ ∀ (t : Nat) (f : Firing) (r : ActorRec) (s : State), s.upsets = [] →
    (FiringReady s t kindSync f r → Completes (.fireSync t) s (fun u =>
      TokensTaken s u t f r ∧ (tileAt u t).sched.running = [firingNow s t f r true] ∧ u.mem = s.mem))
    ∧ (FiringReady s t kindClose f r → Completes (.fireClose t) s (fun u =>
      TokensTaken s u t f r ∧ (tileAt u t).sched.running = [firingNow s t f r (!doesWork s t f r)] ∧ u.mem = s.mem
      ∧ (∀ q, doesWork s t f r = true → partOfTile s t = some q →
          localOfTile (partAt s q) t ∈ (layerRunOf (partAt u q) r.layerSlot).tilesDone)))
    ∧ (FiringReady s t kindPass f r → waitingPlan s t = none → (tileAt s t).arr.faultStop = false → (tileAt s t).arr.keptClose = [] →
      (∀ y ∈ (tileAt s t).arr.plans, y.id ≠ (tileAt s t).arr.nextPlan) → Completes (.firePass t) s (fun u =>
        TokensTaken s u t f r ∧ (tileAt u t).sched.running = [firingNow s t f r (!doesWork s t f r)] ∧ u.mem = s.mem
        ∧ (doesWork s t f r = false → (tileAt u t).arr = (tileAt s t).arr)
        ∧ (doesWork s t f r = true → ∃ x, (tileAt u t).arr.plans = (tileAt s t).arr.plans ++ [x] ∧ x.actor = f.actor ∧ x.feed = r.arg
          ∧ x.tick = f.tick ∧ x.opened = false)))
    ∧ (FiringReady s t kindDma f r → (tileAt s t).dma = [] → s.poison = [] → Completes (.fireDma t) s (fun u =>
      TokensTaken s u t f r ∧ u.mem = s.mem
      ∧ (doesWork s t f r = false → (tileAt u t).dma = [] ∧ (tileAt u t).sched.running = [firingNow s t f r true])
      ∧ (doesWork s t f r = true → r.len = 0 → (tileAt u t).dma = [] ∧ (tileAt u t).sched.running = [firingNow s t f r true])
      ∧ (doesWork s t f r = true → 0 < r.len → (tileAt u t).sched.running = [firingNow s t f r false]
        ∧ ∃ run, (tileAt u t).dma = [run] ∧ run.actor = some f.actor ∧ run.tick = f.tick
          ∧ run.descs.map (fun d => d.bytes) = (List.range r.len).map (fun k => readBytes s.mem (tileBase t + (r.arg + 64 * k)) 64))))
    ∧ (FiringReady s t kindBody f r → (tileAt s t).vec.stopped = false → (tileAt s t).vec.body = none →
      (doesWork s t f r = false → Completes (.fireBody t) s (fun u =>
        TokensTaken s u t f r ∧ (tileAt u t).sched.running = [firingNow s t f r true] ∧ (tileAt u t).vec = (tileAt s t).vec ∧ u.mem = s.mem))
      ∧ (doesWork s t f r = true → f.spec = false → r.len = 1 → readBytes s.mem (tileBase t + r.arg) 32 = List.replicate 32 0 →
          spanPoisoned s (tileBase t + r.arg) 32 = false → Completes (.fireBody t) s (fun u =>
        TokensTaken s u t f r ∧ u.mem = s.mem ∧ (tileAt u t).vec.body = none
        ∧ (tileAt u t).sched.running = [{ firingNow s t f r true with taken := (List.range r.outCount).map (fun j => (maskOf s t 7).getLsbD j) }])))
  ) ∧ (
  ∀ (t a conf q : Nat) (r : ActorRec) (s : State), partOfTile s t = some q → actorRec s t a = some r →
    exec (.speculativeFire t a conf false) s = .next s
    ∧ ∀ x, (imageOf (partAt s q)).predict.find? (fun x => x.kind = 2 && x.tile = localOfTile (partAt s q) t && x.target = a) = some x →
    (conf < x.confidence → exec (.speculativeFire t a conf true) s = .next s)
    ∧ (r.speculable = true → hasPredictor s = true → x.confidence ≤ conf →
      windowOpen s (partAt s q) r = true → (ctxOf s t a).specOpen = false → (ctxOf s t a).fired < r.firings →
      (∀ i, 0 < i → i < r.slots → slotFull s q t a r i = true) → (ctxOf s t a).counts.getD 0 0 < r.need.getD 0 0 →
      heldTokens s t + r.outCount ≤ 256 → (tileAt s t).sched.stopped = false → (∀ f ∈ (tileAt s t).sched.ready, f.actor ≠ a) →
      Completes (.speculativeFire t a conf true) s (fun u =>
        (tileAt u t).sched.ready = (tileAt s t).sched.ready ++ [{ actor := a, tick := assignedTick (partAt s q) r, order := (tileAt s t).sched.order, spec := true }]
        ∧ ctxOf u t a = { ctxOf s t a with specOpen := true } ∧ (∀ b, b ≠ a → ctxOf u t b = ctxOf s t b)
        ∧ (∀ x, x ≠ t → tileAt u x = tileAt s x) ∧ u = { s with tiles := u.tiles })))

/-- FIRING_COMPLETE (R95, R131, R205, R208, R220): an actor's oldest finished firing leaves the running ones; a confirmed one counts as completed
and its tokens, one for each edge of its actor with the firing's tick and the partition's abort epoch, go on the mesh, and a GATE_CLOSE closes its
layer slot's stream; a speculative one's tokens go to the hold instead; one run again sends none. With none finished nothing changes.

TOKEN_ARRIVAL (R26, R205, R206, R226): the oldest token of its way that is the named one, of the partition's abort epoch and for an actor that may
still take it, counts on its slot, with its TAKEN bit on slot 0; one of another epoch is discarded and counted, one for a tile in no partition
discarded; one that its actor may not take stops the tile with EXTRA_TOKEN. A token not on its way changes nothing. -/
def Obligations.TokensAreSentAndCounted : Prop :=
  (
  ∀ (t a : Nat) (s : State),
    let mine := fun (f : Firing) => f.actor = a && f.finished
    ((tileAt s t).sched.running.find? mine = none → exec (.firingComplete t a) s = .next s)
    ∧ ∀ (q : Nat) (f : Firing) (r : ActorRec), partOfTile s t = some q → actorRec s t a = some r →
      (tileAt s t).sched.running.find? mine = some f → s.fs.guards = [] →
      (f.rerun = false → f.spec = false → r.gateClose = false ∨ waitingPlan s t = none → Completes (.firingComplete t a) s (fun u =>
        u.tokens = s.tokens ++ (withPos (((tileAt s t).conf.edges.drop r.outFirst).take r.outCount)).map (fun x =>
          (t, tokenBits x.2.actor x.2.slot (f.taken.getD x.1 false) (tileOfLocal (partAt s q) x.2.tile) f.tick (partAt s q).abortEpoch))
        ∧ (ctxOf u t a).completed = (ctxOf s t a).completed + 1 ∧ (tileAt u t).sched.running = removeFirst mine (tileAt s t).sched.running
        ∧ (r.gateClose = true → r.layerSlot ∈ (tileAt u t).arr.keptClose)
        ∧ (∀ b, b ≠ a → ctxOf u t b = ctxOf s t b) ∧ (∀ x, x ≠ t → tileAt u x = tileAt s x) ∧ u.mem = s.mem ∧ u.regs = s.regs))
      ∧ (f.rerun = false → f.spec = true → Completes (.firingComplete t a) s (fun u =>
        u.tokens = s.tokens ∧ (tileAt u t).sched.running = removeFirst mine (tileAt s t).sched.running
        ∧ (tileAt u t).sched.hold = (tileAt s t).sched.hold ++ (firingTokens s q t r f).map (fun k => (a, k))
        ∧ (∀ b, ctxOf u t b = ctxOf s t b) ∧ (∀ x, x ≠ t → tileAt u x = tileAt s x) ∧ u = { s with tiles := u.tiles }))
      ∧ (f.rerun = true → r.gateClose = false ∨ waitingPlan s t = none → Completes (.firingComplete t a) s (fun u =>
        u.tokens = s.tokens ∧ (tileAt u t).sched.running = removeFirst mine (tileAt s t).sched.running
        ∧ (∀ b, ctxOf u t b = ctxOf s t b) ∧ (∀ x, x ≠ t → tileAt u x = tileAt s x) ∧ u.mem = s.mem ∧ u.regs = s.regs))
  ) ∧ (
  ∀ (s : State) (a slot t tick epoch : Nat) (taken : Bool), a < 2 ^ 11 → slot < 8 → t < 1024 → tick < 2 ^ 24 → epoch < 2 ^ 16 →
    let tok := tokenBits a slot taken t tick epoch
    (takeOldest sameRoute (fun x => decide (x.2 = tok)) s.tokens = none → exec (.tokenArrival tok) s = .next s)
    ∧ ∀ x, takeOldest sameRoute (fun x => decide (x.2 = tok)) s.tokens = some x →
    (partOfTile s t = none → exec (.tokenArrival tok) s = .next { s with tokens := x.2 })
    ∧ ∀ q, partOfTile s t = some q →
    (epoch ≠ (partAt s q).abortEpoch → Completes (.tokenArrival tok) s (fun u =>
      regField u (ctl 0x600) 32 16 = min (regField s (ctl 0x600) 32 16 + 1) (2 ^ 16 - 1) ∧ SameRegistersBut [ctl 0x600] s u
      ∧ u = { s with tokens := x.2, regs := u.regs }))
    ∧ (∀ r, epoch = (partAt s q).abortEpoch → actorRec s t a = some r → slot < r.slots →
      (ctxOf s t a).fired < r.firings → (ctxOf s t a).counts.getD slot 0 < 65535 → (ctxOf s t a).counts.length = 8 →
      r.remote = true ∨ isFed s q t a slot = true → (ctxOf s t a).specOpen = false →
      Completes (.tokenArrival tok) s (fun u =>
        (ctxOf u t a).counts = (ctxOf s t a).counts.set slot ((ctxOf s t a).counts.getD slot 0 + 1)
        ∧ (ctxOf u t a).takens = (if slot = 0 then (ctxOf s t a).takens ++ [taken] else (ctxOf s t a).takens)
        ∧ (∀ b, b ≠ a → ctxOf u t b = ctxOf s t b) ∧ u.tokens = x.2 ∧ (∀ y, y ≠ t → tileAt u y = tileAt s y)
        ∧ u = { s with tokens := u.tokens, tiles := u.tiles, fs := u.fs }))
    ∧ (∀ r, epoch = (partAt s q).abortEpoch → actorRec s t a = some r →
      r.slots ≤ slot ∨ r.firings ≤ (ctxOf s t a).fired ∨ 65535 ≤ (ctxOf s t a).counts.getD slot 0 ∨ (r.remote = false ∧ isFed s q t a slot = false) →
      Completes (.tokenArrival tok) s (fun u => (regGet u (tileReg t 0x780200)).testBit 14 = true ∧ (tileAt u t).arr.faultStop = true
        ∧ (tileAt u t).vec.stopped = true)))

/-- CELL_FIRE (R73 to R75, R99): a cell whose inputs are there and have good parity takes one of each; on a digit it sends south its north
input plus its active weight times the digit, in 25 bits with parity; on a swap it exchanges its active and shadow weights; the element goes
east. An element of bad parity stops the array. -/
def Obligations.CellsMultiplyAddAndSwap : Prop :=
  ∀ (t k n : Nat) (e : LaneEl) (rest : List LaneEl) (s : State), k < 128 → n < 128 →
    let a := (tileAt s t).arr
    let c := cellAt a k n
    let north := (northIn a k n).head?
    a.faultStop = false → westIn a k n = e :: rest → cellReady a k n e = true →
    (e.par = (laneEl e.digit e.sign e.swap).par → psumBad north = false → e.swap = true ∨ c.activePar = parOf 16 c.active.toNat →
      Completes (.cellFire t k n) s (fun u =>
        let b := (tileAt u t).arr
        westIn b k n = rest ∧ northIn b k n = (northIn a k n).drop 1
        ∧ (cellAt b k n).east = (if n = 127 then c.east else c.east ++ [e])
        ∧ (e.swap = false → ∃ v : BitVec 25, v = BitVec.ofInt 25 ((match north with | some (.psum x _) => x.toInt | _ => 0) + c.active.toInt * laneDigit e)
          ∧ (cellAt b k n).south = c.south ++ [.psum v (parOf 25 v.toNat)] ∧ (cellAt b k n).active = c.active ∧ (cellAt b k n).shadow = c.shadow)
        ∧ (e.swap = true → (cellAt b k n).south = c.south ++ [.swapTok] ∧ (cellAt b k n).active = c.shadow ∧ (cellAt b k n).shadow = c.active
          ∧ (cellAt b k n).full = false)
        ∧ (∀ x, x ≠ t → tileAt u x = tileAt s x) ∧ (tileAt u t).drain = (tileAt s t).drain ∧ u = { s with tiles := u.tiles }))
    ∧ (e.par ≠ (laneEl e.digit e.sign e.swap).par → Completes (.cellFire t k n) s (fun u => (tileAt u t).arr.faultStop = true ∧ (tileAt u t).arr.cells = []))

/-- INTAKE_WRITE (R80 to R83): with room in its ring, the segment's next block joins it as one row: its tag at the ring's next tag, its
digits counted, its place in the intake's queue given up, whatever the predictor guessed; without room, or with nothing queued, nothing changes.

GATE_OPEN (R95, R217): with rows queued, a waiting plan's gate opens when they fill its window, or a segment's digits reach GATE_SLOTS,
or its deadline has come; its window is then fixed at the rows queued, no more than WINDOW_ROWS; a deadline is a cause of the tick. With none
queued nothing changes.

ISSUE_SLOT and SHADOW_LOAD (R86, R90 to R92): with the issue stage idle and an open plan to issue, a segment's next pass begins: its swap
goes to row 0 of the segment and the plan's set counts as issued; with a lane full nothing moves. A segment's loader takes up its next weight
set, and writes the set's first cell and first shadow exponent. -/
def Obligations.WindowsFillAndPassesIssue : Prop :=
  (
  ∀ (t seg slot q : Nat) (s : State), partOfTile s t = some q →
    let key := ringKey slot seg
    let r := ringOf s t slot seg
    let l := (layerOf (partAt s q) slot).getD {}
    let blk := fun (b : SrcBlk) => feedBlock b.fmt b.bytes b.scale l.cap l.rndIn (bitsAt (partAt s q) l.tag 1 (countFrom b.index 32))
    ∀ guess, ((tileAt s t).arr.intakeQ.at key [] = [] → exec (.intakeWrite t seg ⟨slot, guess⟩) s = .next s)
    ∧ (∀ b rest, (tileAt s t).arr.intakeQ.at key [] = b :: rest → r.room (blk b).d = false → exec (.intakeWrite t seg ⟨slot, guess⟩) s = .next s)
    ∧ (∀ b rest, (tileAt s t).arr.intakeQ.at key [] = b :: rest → r.room (blk b).d = true → Memory.wf s.mem = true → t < 1024 →
      64 ≤ r.slotSize → r.slotBase + r.slotSize ≤ 0x600000 → r.tagBase + r.tagSize ≤ 0x600000 →
      Completes (.intakeWrite t seg ⟨slot, guess⟩) s (fun u =>
        (∃ ls, ringOf u t slot seg = { r with
          rowsIn := r.rowsIn + 1
          slotIn := r.slotIn + (blk b).d
          queuedAt := r.queuedAt ++ [(partAt s q).ctx.runTicks]
          denoms := r.denoms ++ [(blk b).d]
          blocks := r.blocks ++ [b]
          lines := ls })
        ∧ (tileAt u t).arr.intakeQ.at key [] = rest
        ∧ readBytes u.mem (tileBase t + r.tagBase + 2 * (r.rowsIn % r.nt)) 2 = toLe 2 (blk b).tag
        ∧ (∀ x, x ≠ t → tileAt u x = tileAt s x)))
  ) ∧ (
  ∀ (t : Nat) (x : Plan) (s : State), waitingPlan s t = some x →
    let w := (feedRec s t x.feed).windowRows
    let slots : Prop := (feedRec s t x.feed).gateSlots ≠ 0
      ∧ ∃ y ∈ planRings s t x, (feedRec s t x.feed).gateSlots ≤ (y.denoms.drop y.window).foldl (· + ·) 0
    (rowsQueued s t x = 0 ∨ (tileAt s t).arr.faultStop = true → exec (.gateOpen t) s = .next s)
    ∧ ((tileAt s t).arr.faultStop = false → 0 < rowsQueued s t x → w ≤ rowsQueued s t x ∨ slots → Completes (.gateOpen t) s (fun u =>
      (∃ y ∈ (tileAt u t).arr.plans, y.id = x.id ∧ y.opened = true ∧ y.rows = min (rowsQueued s t x) w) ∧ u.mem = s.mem ∧ u.parts = s.parts
      ∧ (∀ z, z ≠ t → tileAt u z = tileAt s z)))
    ∧ (∀ n q, (tileAt s t).arr.faultStop = false → 0 < rowsQueued s t x → rowsQueued s t x < w → (feedRec s t x.feed).gateSlots ≠ 0 →
      (∀ y ∈ planRings s t x, (y.denoms.drop y.window).foldl (· + ·) 0 < (feedRec s t x.feed).gateSlots) → firstQueued s t x = some n →
      partOfTile s t = some q → n + (feedRec s t x.feed).gateTicks ≤ (partAt s q).ctx.runTicks → Completes (.gateOpen t) s (fun u =>
        (∃ y ∈ (tileAt u t).arr.plans, y.id = x.id ∧ y.opened = true ∧ y.rows = rowsQueued s t x)
        ∧ (partAt u q).ctx.causes = (partAt s q).ctx.causes ||| 0x10#8 ∧ u.mem = s.mem))
  ) ∧ (
  (∀ (t seg : Nat) (x : Plan) (j : Nat) (s : State), seg < 4 → (tileAt s t).arr.faultStop = false →
    (tileAt s t).arr.issue.at seg [] = [] → nextPass s t seg = some (x, j) → x.issued.length = 4 →
    (∀ i, i < 32 → ((tileAt s t).arr.laneIn.at (32 * seg + i) []).length < 2) → Completes (.issueSlot t seg) s (fun u =>
      (tileAt u t).arr.laneIn.at (32 * seg) [] = (tileAt s t).arr.laneIn.at (32 * seg) [] ++ [laneEl 0 false true]
      ∧ (∀ i, 0 < i → i < 32 → (tileAt u t).arr.laneIn.at (32 * seg + i) [] = (tileAt s t).arr.laneIn.at (32 * seg + i) [])
      ∧ (∃ y ∈ (tileAt u t).arr.plans, y.id = x.id ∧ y.issued.getD seg 0 = j + 1)
      ∧ (seg = 0 → (tileAt u t).arr.passCount = ((tileAt s t).arr.passCount + 1) % 2 ^ 24) ∧ u.mem = s.mem
      ∧ (∀ z, z ≠ t → tileAt u z = tileAt s z)))
  ∧ (∀ (t seg i : Nat) (s : State), seg < 4 → i < 32 → 2 ≤ ((tileAt s t).arr.laneIn.at (32 * seg + i) []).length → exec (.issueSlot t seg) s = .next s)
  ∧ (∀ (t seg : Nat) (x : Plan) (j : Nat) (s : State), seg < 4 → (tileAt s t).arr.faultStop = false → s.upsets = [] → s.poison = [] → t < 1024 →
    (tileAt s t).banks = [] → (tileAt s t).arr.loads.at seg [] = [] → nextLoad s t seg = some (x, j) → x.loaded.length = 4 →
    let off := le (readBytes s.mem (tileBase t + (feedRec s t x.feed).setList + 4 * j) 4) 0 4
    (feedRec s t x.feed).setList + 4 * j + 4 ≤ 0x600000 → off % 64 = 0 → off + 33280 ≤ 0x600000 →
    (cellAt (tileAt s t).arr (32 * seg) 0).full = false → (tileAt s t).arr.expShadow.find (128 * seg) = none →
    ∀ ahead, Completes (.shadowLoad t ⟨seg, ahead⟩) s (fun u =>
      let b := (tileAt u t).arr
      (cellAt b (32 * seg) 0).full = true
      ∧ (cellAt b (32 * seg) 0).shadow = BitVec.ofNat 16 (le (readBytes s.mem (tileBase t + off + 8192 * seg) 2) 0 2)
      ∧ b.expShadow.find (128 * seg) = some (readCells s.mem (tileBase t + off + 0x8000 + 128 * seg))
      ∧ (∃ y, b.loads.at seg [] = [y] ∧ y.plan = x.id ∧ y.set = j ∧ y.off = off ∧ y.next = 1 ∧ y.scaleNext = 1)
      ∧ (∃ y ∈ b.plans, y.id = x.id ∧ y.loaded.getD seg 0 = j + 1) ∧ u.mem = s.mem ∧ (∀ z, z ≠ t → tileAt u z = tileAt s z))))

/-- BLOCK_PARTIAL (R78, R89, R107): a port with a tag and all its digits forms the block partial: the sum of the digits' partial sums times
16 to their place, at exponent tag + weight − 254, non-finite where the tag or the weight exponent says so; a swap installs the shadow
exponent.

DRAIN_ACCUMULATE (R92, R94, R104 to R108, R123): with every column at element row r of an open plan, each column whose four combine
buffers hold the row takes its block partials into its accumulator, rounded to its last place and added once, and its buffers give up their
heads; another column waits, alone. The row's block count rises once, by the blocks that count. With no column ready nothing changes. -/
def Obligations.BlockPartialsEnterTheAccumulators : Prop :=
  (
  ∀ (t b n : Nat) (s : State) (tag : Nat) (rest : List Nat), b < 4 → n < 128 →
    let a := (tileAt s t).arr
    let key := 128 * b + n
    a.faultStop = false → (cellAt a (32 * b + 31) n).south = [] → a.tags.at key [] = tag :: rest →
    (tag ≠ swapMark → (a.combine.at key []).length < 16 → field tag 8 4 ≤ (a.forming.at key []).length →
      Completes (.blockPartial t b n) s (fun u =>
        let c := (tileAt u t).arr
        let w := a.expActive.at key 0
        let nf := tag.testBit 12 = true ∨ tag % 256 = 255 ∨ w.toNat = 255
        (∃ p, c.combine.at key [] = a.combine.at key [] ++ [p] ∧ p.e = (tag % 256 : Nat) + (w.toNat : Int) - 254
          ∧ (nf → p.nonfinite = true ∧ p.p = 0)
          ∧ (¬nf → p.nonfinite = false ∧ p.p = (withPos (a.forming.at key [])).foldl (fun x y => x + y.2.toInt * 16 ^ y.1) 0))
        ∧ c.tags.at key [] = rest ∧ c.forming.at key [] = [] ∧ c.cells = a.cells ∧ (tileAt u t).drain = (tileAt s t).drain
        ∧ (∀ x, x ≠ t → tileAt u x = tileAt s x) ∧ u = { s with tiles := u.tiles }))
    ∧ (∀ e, tag = swapMark → rest = [] → a.digitStage.at key [] = [.swapTok] → a.expShadow.find key = some e → Completes (.blockPartial t b n) s (fun u =>
        let c := (tileAt u t).arr
        c.expActive.at key 0 = e ∧ c.expShadow.find key = none ∧ c.tags.at key [] = [] ∧ c.digitStage.at key [] = []
        ∧ c.combine = a.combine ∧ (∀ x, x ≠ t → tileAt u x = tileAt s x) ∧ u = { s with tiles := u.tiles }))
  ) ∧ (
  ∀ (t q r k : Nat) (x : Plan) (s : State), partOfTile s t = some q → (tileAt s t).arr.faultStop = false →
    let a := (tileAt s t).arr
    let d := (tileAt s t).drain
    let f := feedRec s t x.feed
    let m := accRow f.windowRows (planContinues s t x) (r / x.rows) (r % x.rows)
    let anchor := (latchedAnchor (partAt s q) x.layerSlot).anchor
    let g := guardBits (rungOf (partAt s q) x.layerSlot).2 ((layerOf (partAt s q) x.layerSlot).getD {}).headroom
    let ready := fun n => ∀ b, b < 4 → a.combine.at (128 * b + n) [] ≠ []
    ((∀ n, n < 128 → ¬ready n) → exec (.drainAccumulate t) s = .next s)
    ∧ ((∀ n, n < 128 → drainPlan s t n = some (x, r)) → a.plans.find? (fun y => y.id = x.id) = some x → x.entered.length = 128 →
      0 < x.rows → r / x.rows < x.cleared → r + 1 < f.setCount * x.rows → d.late.at m [] = [] → d.blocks.at m 0 + k < 2 ^ 40 →
      (∀ n, n < 128 → ready n → ((colParts a n).filter Partial.counts).length = k) → (∃ n, n < 128 ∧ ready n) →
      Completes (.drainAccumulate t) s (fun u =>
        (∀ n, n < 128 → ready n →
          accAt (tileAt u t).drain (128 * m + n) = enterCol anchor g (d.blocks.at m 0) k (colParts a n) (accAt d (128 * m + n))
          ∧ ∀ b, b < 4 → (tileAt u t).arr.combine.at (128 * b + n) [] = (a.combine.at (128 * b + n) []).drop 1)
        ∧ (∀ n, n < 128 → ¬ready n → accAt (tileAt u t).drain (128 * m + n) = accAt d (128 * m + n)
          ∧ ∀ b, b < 4 → (tileAt u t).arr.combine.at (128 * b + n) [] = a.combine.at (128 * b + n) [])
        ∧ (tileAt u t).drain.blocks.at m 0 = d.blocks.at m 0 + k
        ∧ (∀ i, i < 128 * m ∨ 128 * m + 128 ≤ i → accAt (tileAt u t).drain i = accAt d i)
        ∧ (tileAt u t).drain.queue = d.queue ∧ u.mem = s.mem ∧ (∀ z, z ≠ t → tileAt u z = tileAt s z))))

/-- ACCUMULATOR_MERGE (R124, R128): every accumulator of the file takes the source tile's value and tag at its place, and every row the sum
of the block counts, holding at 2^40 − 1.

OUTPUT_CONVERSION (R135, R136, R168, R171): a finished row of a plan whose destination is the queue is converted and joins the queue as
one entry, or is written at its place in the plan's buffer with its scale bytes; a full queue stalls it; A64 and A128 outputs stay in the
file, a whole set at a time, those that overdrafted at the last rung marked NONFINITE. -/
def Obligations.MergesAndOutputConversion : Prop :=
  (
  ∀ (t slot va ta q : Nat) (wide : Bool) (s : State), partOfTile s t = some q →
    let d := (tileAt s t).drain
    let g := guardBits (rungOf (partAt s q) slot).2 ((layerOf (partAt s q) slot).getD {}).headroom
    let w := if wide then 16 else 8
    let count := fun m => min (d.blocks.at m 0 + le (spanRead s (ta + 0x10000 + 8 * m) 8) 0 8 % 2 ^ 40) (2 ^ 40 - 1)
    Completes (.accumulatorMerge t slot va ta wide) s (fun u =>
      (∀ i, i < 65536 → accAt (tileAt u t).drain i =
        (mergeAcc g (count (i / 128)) wide (signed (8 * w) (leNat (spanRead s (va + w * i) w))) ((spanRead s (ta + i) 1).getD 0 0) (accAt d i)).1)
      ∧ (∀ m, m < 512 → (tileAt u t).drain.blocks.at m 0 = count m)
      ∧ (tileAt u t).arr = (tileAt s t).arr ∧ (tileAt u t).drain.queue = d.queue ∧ u.mem = s.mem ∧ (∀ z, z ≠ t → tileAt u z = tileAt s z))
  ) ∧ (
  ∀ (t q : Nat) (x : Plan) (s : State), partOfTile s t = some q → convPlan s t = some x → (tileAt s t).arr.faultStop = false →
    x.convSet < x.drainSet → (tileAt s t).vec.body = none →
    let p := partAt s q
    let f := feedRec s t x.feed
    let l := (layerOf p x.layerSlot).getD {}
    let fmt := (rungOf p x.layerSlot).2
    let m := accRow f.windowRows (planContinues s t x) x.convSet x.convRow
    let accs := (List.range 128).map (fun n => accAt (tileAt s t).drain (128 * m + n))
    let c := convRow fmt l.rndOut (decide ((layerRunOf p x.layerSlot).rung = lastRung p x.layerSlot))
      (accs.map (windowVal (latchedAnchor p x.layerSlot).anchor)) (bitsAt p l.tag 3 (convIndices x f l)) (accs.map (fun a => a.has tagOverdraft))
    let last := (layerRunOf p x.layerSlot).rung = lastRung p x.layerSlot
    let i := f.windowRows * x.convSet + x.convRow
    let at_ := tileBase t + f.dest + 512 * i
    let scaleAt := tileBase t + f.dest + 512 * f.windowRows * f.setCount + 4 * i
    (fmt ≠ 0x30 → fmt ≠ 0x31 → f.destQueue = true → (tileAt s t).drain.queue.length < 16 → Completes (.outputConversion t) s (fun u =>
      (∃ e, (tileAt u t).drain.queue = (tileAt s t).drain.queue ++ [e] ∧ e.data = c.line) ∧ u.mem = s.mem ∧ (∀ z, z ≠ t → tileAt u z = tileAt s z)))
    ∧ (fmt ≠ 0x30 → fmt ≠ 0x31 → f.destQueue = true → 16 ≤ (tileAt s t).drain.queue.length → exec (.outputConversion t) s = .next s)
    ∧ (fmt ≠ 0x30 → fmt ≠ 0x31 → f.destQueue = false → Memory.wf s.mem = true → PlainSpan s at_ 512 → PlainSpan s scaleAt 4 → at_ + 512 ≤ scaleAt →
      Completes (.outputConversion t) s (fun u =>
        readBytes u.mem at_ c.line.length = c.line ∧ (hasScale fmt = true → readBytes u.mem scaleAt 4 = toLe 4 c.scales)
        ∧ (∀ y, (y < at_ ∨ at_ + c.line.length ≤ y) → (hasScale fmt = false ∨ y < scaleAt ∨ scaleAt + 4 ≤ y) → readCells u.mem y = readCells s.mem y)
        ∧ (tileAt u t).drain.queue = (tileAt s t).drain.queue ∧ (∀ z, z ≠ t → tileAt u z = tileAt s z)))
    ∧ (fmt = 0x30 ∨ fmt = 0x31 → x.convSet + 1 < f.setCount → Completes (.outputConversion t) s (fun u =>
      (∀ j, accAt (tileAt u t).drain j =
        if last ∧ (∃ r, r < x.rows ∧ accRow f.windowRows (planContinues s t x) x.convSet r = j / 128) ∧ (accAt (tileAt s t).drain j).has tagOverdraft = true
        then (accAt (tileAt s t).drain j).setTag tagNonfinite else accAt (tileAt s t).drain j)
      ∧ (tileAt u t).drain.queue = (tileAt s t).drain.queue ∧ u.mem = s.mem
      ∧ (∀ y ∈ (tileAt u t).arr.plans, y.id = x.id → y.convSet = x.convSet + 1 ∧ y.convRow = 0) ∧ u.parts = s.parts)))

/-- LAYER_CLOSE (R130 to R133): once every tile of a running layer has finished its part, with no overdraft the layer closes and keeps its
rung and whether it repeated; with one, below the last rung, it is repeated at the next rung, each tile's REPEATS counts, and its entries leave
the queues; at the last rung the layer closes with WARN in the next vote (its numerics log lies in the far store). Until then nothing
changes.

SPOT_RECOMPUTE (R397 to R399): a sampled block recomputed on an idle array adds one to the layer's samples, with its disagreement in the
largest, the sum and, from the warning threshold on, the warnings; one not finished in time counts as skipped; nothing but the count changes. -/
def Obligations.LayersCloseAndSamplesCount : Prop :=
  (
  ∀ (q slot : Nat) (s : State) (a : Anchor),
    let p := partAt s q
    let ts := layerTiles s p slot
    let l := layerRunOf p slot
    let hit := ∃ t ∈ ts, slot ∈ (tileAt s t).drain.ovf
    ((∃ t ∈ ts, partDone s p slot t = false) → exec (.layerClose q slot) s = .next s)
    ∧ (ts ≠ [] → ts.Nodup → l.running = true → (∀ t ∈ ts, partDone s p slot t = true) → p.anchors.find slot = some a →
      (¬hit → Completes (.layerClose q slot) s (fun u =>
        (layerRunOf (partAt u q) slot).running = false ∧ (layerRunOf (partAt u q) slot).repeats = 0
        ∧ (partAt u q).anchors.find slot = some { a with lastRung := l.rung, lastRepeat := decide (0 < l.repeats) }
        ∧ (∀ r, r ≠ q → partAt u r = partAt s r) ∧ u.mem = s.mem ∧ u.regs = s.regs ∧ (∀ z, z ∉ ts → tileAt u z = tileAt s z)))
      ∧ (fsBase ≤ (regionOf p 6).1 → hit → l.rung < lastRung p slot → Completes (.layerClose q slot) s (fun u =>
        (layerRunOf (partAt u q) slot).rung = l.rung + 1 ∧ (layerRunOf (partAt u q) slot).repeats = l.repeats + 1
        ∧ (layerRunOf (partAt u q) slot).running = true
        ∧ (∀ t ∈ ts, slot ∉ (tileAt u t).drain.ovf
          ∧ (tileAt u t).drain.queue = (tileAt s t).drain.queue.filter (fun e => e.hdr.toNat % 65536 ≠ layerTagOf p slot)
          ∧ regField u (tileReg t 0x780600) 32 16 = (regField s (tileReg t 0x780600) 32 16 + 1) % 2 ^ 16)
        ∧ (∀ z, z ∉ ts → tileAt u z = tileAt s z)))
      ∧ (fsBase ≤ (regionOf p 6).1 → hit → lastRung p slot ≤ l.rung → Completes (.layerClose q slot) s (fun u =>
        (layerRunOf (partAt u q) slot).running = false ∧ (∀ t ∈ ts, slot ∉ (tileAt u t).drain.ovf)
        ∧ (isShadowing p = false → (partAt u q).ctx.votes.getLsbD voteWarn = true) ∧ (∀ z, z ∉ ts → tileAt u z = tileAt s z))))
  ) ∧ (
  ∀ (t slot row blk index fmt q : Nat) (acts : List (List Byte × Nat)) (sets : List Nat) (s : State), partOfTile s t = some q →
    let p := partAt s q
    let n := (imageOf p).numerics
    let d := spotSample s p t slot row blk index fmt acts sets
    let c := (tileAt s t).spots.at slot {}
    n.spotEnable ≠ 0 → (layerOf p slot).isSome = true → sampled n.spotK p.ctx.step (blockNumber ((layerOf p slot).getD {}) index) = true →
    ((tileAt s t).arr.plans = [] → nextFiring s t kindPass = none → Completes (.spotRecompute t slot row blk index fmt acts sets true) s (fun u =>
      (tileAt u t).spots.at slot {} = { c with
        done := c.done + 1
        largest := max c.largest d
        sum := c.sum + d
        atWarn := if n.spotWarn ≤ d then c.atWarn + 1 else c.atWarn }
      ∧ (tileAt u t).drain = (tileAt s t).drain ∧ (tileAt u t).arr = (tileAt s t).arr ∧ (∀ z, z ≠ t → tileAt u z = tileAt s z)
      ∧ u = { s with tiles := u.tiles }))
    ∧ Completes (.spotRecompute t slot row blk index fmt acts sets false) s (fun u =>
      (tileAt u t).spots.at slot {} = { c with skipped := c.skipped + 1 } ∧ (tileAt u t).drain = (tileAt s t).drain
      ∧ (∀ z, z ≠ t → tileAt u z = tileAt s z) ∧ u = { s with tiles := u.tiles }))

/-- REDUCTION_TREE_COMPLETE (R165): once every contribution of a tree is in, the result is in the root's tally, or in every contributor's for
a broadcast tree, and the tree is closed; until then nothing changes. -/
def Obligations.NetworkTreesDeliverTheirResult : Prop :=
  ∀ (q tree : Nat) (x : TreeRec) (s : State), (imageOf (partAt s q)).trees.find? (fun y => y.tree = tree) = some x →
    let p := partAt s q
    let got := p.trees.at tree []
    let tiles := x.contrib.map (tileOfLocal p)
    ((∃ k, k < x.contrib.length ∧ ∀ c ∈ got, c.idx ≠ k) → exec (.reductionTreeComplete q tree) s = .next s)
    ∧ ((∀ k, k < x.contrib.length → ∃ c ∈ got, c.idx = k) → tiles.Nodup → (∀ t ∈ tiles, (tileAt s t).vec.body = none) → x.root < x.contrib.length →
      Completes (.reductionTreeComplete q tree) s (fun u =>
        (∀ t ∈ (if x.bcast then tiles else [tiles.getD x.root 0]), ∀ k, (tileAt s t).vec.netOpen.find? (fun y => y.1 = tree) = some (tree, k) →
          tallyVal u t k = (netResult x got).1 ∧ tallyTag u t k = (netResult x got).2)
        ∧ (∀ t ∈ tiles, ∀ y ∈ (tileAt u t).vec.netOpen, y.1 ≠ tree)
        ∧ (partAt u q).trees.at tree [] = [] ∧ (∀ t, t ∉ tiles → tileAt u t = tileAt s t) ∧ u.mem = s.mem ∧ u.regs = s.regs))

/-- COPY, FILL, PREFETCH and SCAN in byte mode, both sides local (R249, R252): COPY puts the bytes of every source row in its destination
row, FILL zeros in every destination row, and no other byte changes; PREFETCH and SCAN change no byte. -/
def Obligations.RowTransfersMoveTheirBytes : Prop :=
  ∀ (q t k : Nat) (d : DescF) (s : State), remoteDev s d.src = none → remoteDev s d.dst = none →
    let src := fun r => localAddr d.src + r * d.srcStride
    let dst := fun r => localAddr d.dst + r * d.dstStride
    let apart := ∀ r r', r < d.rows → r' < d.rows → r ≠ r' → dst r + d.count ≤ dst r' ∨ dst r' + d.count ≤ dst r
    (DescMoves s q t k 1 d → d.flags % 64 / 8 = 0 → (∀ r, r < d.rows → PlainSpan s (src r) d.count ∧ PlainSpan s (dst r) d.count) → apart →
      (∀ r r', r < d.rows → r' < d.rows → dst r + d.count ≤ src r' ∨ src r' + d.count ≤ dst r) → Completes (.copy t k) s (fun u =>
        DescMoved u t k ∧ (∀ r, r < d.rows → readBytes u.mem (dst r) d.count = readBytes s.mem (src r) d.count)
        ∧ (∀ b, (∀ r, r < d.rows → b < dst r ∨ dst r + d.count ≤ b) → readCells u.mem b = readCells s.mem b) ∧ u.regs = s.regs))
    ∧ (DescMoves s q t k 5 d → (∀ r, r < d.rows → PlainSpan s (dst r) d.count) → Completes (.fill t k) s (fun u =>
        DescMoved u t k ∧ (∀ r, r < d.rows → readBytes u.mem (dst r) d.count = List.replicate d.count 0)
        ∧ (∀ b, (∀ r, r < d.rows → b < dst r ∨ dst r + d.count ≤ b) → readCells u.mem b = readCells s.mem b) ∧ u.regs = s.regs))
    ∧ (DescMoves s q t k 4 d → Completes (.prefetch t k) s (fun u => DescMoved u t k ∧ u.mem = s.mem ∧ u.regs = s.regs ∧ u.parts = s.parts))
    ∧ (DescMoves s q t k 6 d → d.check = true → (cvSlotAt s (40 + d.cvu % 8) q).hold = false → (∀ r, r < d.rows → PlainSpan s (src r) d.count) →
      Completes (.scan t k) s (fun u =>
        DescMoved u t k ∧ u.mem = s.mem
        ∧ (cvSlotAt u (40 + d.cvu % 8) q).result.toNat = cvFinal (cvSlotAt s (40 + d.cvu % 8) q).params
            (cvRun (cvSlotAt s (40 + d.cvu % 8) q).params
              (if (cvSlotAt s (40 + d.cvu % 8) q).cont then (cvSlotAt s (40 + d.cvu % 8) q).run.toNat else (cvSlotAt s (40 + d.cvu % 8) q).init.toNat)
              ((List.range d.rows).flatMap (fun r => readBytes s.mem (src r) d.count))) % 2 ^ 64))

/-- FEED and WEIGHT (R80, R87, R88): a FEED hands its blocks to the intake of its ring in order, each with its element index; a WEIGHT of
one set writes each block's elements, converted at a cap of 4 digits, to their cells' places in stream order, and its scale byte. -/
def Obligations.BlockTransfersReachTheArray : Prop :=
  ∀ (q t k : Nat) (d : DescF) (s : State), d.srcComp = false →
    let l := (layerOf (partAt s q) d.layerSlot).getD {}
    let field_ := fun i => readBytes s.mem (localAddr d.src + i * blockStride d.fmt) (fieldBytes d.fmt)
    let scale := fun i => if hasScale d.fmt then (readCells s.mem (localAddr d.srcScale + i)).toNat else 0
    (DescMoves s q t k 2 d → (∀ i, i < d.count → PlainSpan s (localAddr d.src + i * blockStride d.fmt) (fieldBytes d.fmt)
        ∧ (hasScale d.fmt = true → PlainSpan s (localAddr d.srcScale + i) 1)) → Completes (.feed t k) s (fun u =>
      let key := 4 * d.layerSlot + d.segment
      let v := tileOf (localAddr d.dst)
      DescMoved u t k ∧ u.mem = s.mem
      ∧ (tileAt u v).arr.intakeQ.at key [] = (tileAt s v).arr.intakeQ.at key [] ++ (List.range d.count).map (fun i =>
          { fmt := d.fmt, bytes := field_ i, scale := scale i, index := d.index0 + i * l.inWidth, poisoned := false })))
    ∧ (DescMoves s q t k 3 d → d.count = 1 → (∀ i, i < 512 → PlainSpan s (localAddr d.src + i * blockStride d.fmt) (fieldBytes d.fmt)
        ∧ (hasScale d.fmt = true → PlainSpan s (localAddr d.srcScale + i) 1)) → offOf (localAddr d.dst) + 33280 ≤ 0x600000 → localAddr d.dst + 33280 ≤ 0x200000000 →
      Completes (.weight t k) s (fun u =>
        DescMoved u t k ∧ SameMemoryOutside (localAddr d.dst) 33280 s u
        ∧ ∀ b n, b < 4 → n < 128 →
          let i := 128 * b + n
          let blk := feedBlock d.fmt (field_ i) (scale i) 4 l.rndIn
            (bitsAt (partAt s q) l.tag 2 ((List.range 32).map (fun e => d.index0 + (32 * b + e) * l.outWidth + n)))
          (∀ e, e < 32 → le (readBytes u.mem (localAddr d.dst + weightOffset (32 * b + e) n) 2) 0 2
            = if blk.nonfinite ∨ blk.d = 0 then 0 else unsigned 16 (blk.q.getD e 0))
          ∧ (readCells u.mem (localAddr d.dst + 0x8000 + 128 * b + n)).toNat
            = (if blk.nonfinite then 255 else if blk.d = 0 then 0 else blk.e % 256)))

/-- The stream order of a weight set (R87): every cell of a segment has its own place among the 4,096 of the stream, and the stream's order
leads back to it. -/
def Obligations.WeightStreamOrderIsOneToOne : Prop :=
  (∀ k n, k < 128 → n < 128 → weightOffset k n < 32768 ∧ weightOffset k n / 8192 = k / 32
    ∧ weightOffset k n % 2 = 0 ∧ streamCell (weightOffset k n % 8192 / 2) = (k % 32, n))
  ∧ (∀ i, i < 4096 → (streamCell i).1 < 32 ∧ (streamCell i).2 < 128 ∧ weightOffset (streamCell i).1 (streamCell i).2 = 2 * i)

/-- Starting and completing a descriptor (R209, R251, R252, R289, R367): one of an actor's list that fails its checks ends with the failing
status and moves nothing; one that moves nothing ends with OK; a completed one is counted, and with the last the list ends: a host's command
completes with OK and the number of descriptors, an actor's firing is finished. -/
def Obligations.DescriptorsStartAndComplete : Prop :=
  (∀ (q t k op : Nat) (r : DmaRun) (x : Desc) (s : State) (c : Nat → Nat → Instr),
    (c, op) ∈ [(Instr.copy, 1), (Instr.feed, 2), (Instr.weight, 3), (Instr.prefetch, 4), (Instr.fill, 5), (Instr.scan, 6)] →
    partOfTile s t = some q → headRun s t = some r → r.descs[k]? = some x → (descOf x.bytes).op = op → x.phase = 0 → x.poisoned = false →
    mayStartDesc r k (descOf x.bytes).fence = true →
    (∀ f, r.actor ≠ none → decideFail (descFails s q false (descOf x.bytes)) = some f → Completes (c t k) s (fun u =>
      (∃ y, headRun u t = some y ∧ y.descs[k]? = some { x with phase := 2, status := f.1 }) ∧ u = { s with tiles := u.tiles }))
    ∧ (r.actor = none ∨ decideFail (descFails s q false (descOf x.bytes)) = none →
      (∀ e ∈ r.descs, 1 ≤ (descOf e.bytes).op ∧ (descOf e.bytes).op ≤ 6) → (descOf x.bytes).count * (descOf x.bytes).rows = 0 →
      Completes (c t k) s (fun u =>
        (∃ y, headRun u t = some y ∧ y.descs[k]? = some { x with phase := 2 }) ∧ u = { s with tiles := u.tiles })))
  ∧ (∀ (q t : Nat) (r : DmaRun) (x : Desc) (s : State), partOfTile s t = some q → (tileAt s t).dma = [r] → r.descs = [x] → x.phase = 2 →
    x.status = stOk → x.mismatch = false → x.guardIdx = none → (descOf x.bytes).check = false ∨ (cvuAt s (descOf x.bytes).unit).busy = none →
    remotePending s t 0 = false → feedPending s (descOf x.bytes) = false →
    (∀ h seq c, r.actor = none → r.host = some (h, seq) → cmdAt s h seq = some c → h < s.hosts.length → Completes (.descriptorComplete t 0) s (fun u =>
      (tileAt u t).dma = [] ∧ Recorded u c stOk 1 0xFFFFFFFF ∧ u.mem = s.mem
      ∧ regField u (tileReg t 0x780308) 32 32 = min (regField s (tileReg t 0x780308) 32 32 + 1) (2 ^ 32 - 1)))
    ∧ (∀ a f, r.actor = some a → (tileAt s t).sched.running = [f] → f.actor = a → f.finished = false → Completes (.descriptorComplete t 0) s (fun u =>
      (tileAt u t).dma = [] ∧ (tileAt u t).sched.running = [{ f with finished := true, status := stOk }] ∧ u.mem = s.mem
      ∧ regField u (tileReg t 0x780308) 32 32 = min (regField s (tileReg t 0x780308) 32 32 + 1) (2 ^ 32 - 1))))

/-- BANK_GRANT (R21, R246, R248): a bank that has served no access in this cycle grants its oldest waiting part: a write lands, a read gathers its
bytes; with the last part of a request its reply goes, with OK; a row that shows a corrected error is counted. With nothing waiting, or a second time
in a cycle, nothing changes.

REGULATOR_ADMIT and FS_REQUEST_ISSUE (R271 to R273): a partition's oldest waiting request enters, unit by unit, when its bucket holds the
bytes, which the bucket gives up; otherwise it waits. A source's oldest request takes a slot while one of the 65,536 is free and its bank holds
fewer than 4,096; else it waits. -/
def Obligations.BanksRegulatorsAndSlotsServe : Prop :=
  (
  ∀ (t bank : Nat) (s : State), bank < 32 →
    ((tileAt s t).banks.at bank [] = [] ∨ bankFree s t bank = false → ∀ e, exec (.bankGrant t bank e) s = .next s)
    ∧ (∀ b, oldestReq ((tileAt s t).banks.at bank []) = some b → bankFree s t bank = true → Memory.wf s.mem = true →
      let answers := fun (u : State) (poisoned : Bool) (data : List Byte) =>
        if (tileAt u t).banks.any (fun k => k.2.any (fun y => sameReq y b)) then u.replies = s.replies else Answers s u t b.req stOk poisoned data
      let gathered := b.req.data.take (b.addr - b.req.addr) ++ readBytes s.mem b.addr b.len ++ b.req.data.drop (b.addr - b.req.addr + b.len)
      let granted := fun (u : State) => (tileAt u t).granted.find bank = some s.cycle ∧ (∀ x, x ≠ t → tileAt u x = tileAt s x) ∧ u.parts = s.parts
      (b.req.isWrite = true → b.addr - b.req.addr + b.len ≤ b.req.data.length → Completes (.bankGrant t bank .none) s (fun u =>
        readBytes u.mem b.addr b.len = slice b.req.data (b.addr - b.req.addr) b.len ∧ SameMemoryOutside b.addr b.len s u ∧ answers u false []
        ∧ ((tileAt s t).banks.at 32 [] = [] → (tileAt u t).banks.at bank [] = ((tileAt s t).banks.at bank []).erase b) ∧ granted u ∧ u.regs = s.regs))
      ∧ (b.req.isWrite = false → b.addr + b.len ≤ 0x200000000 → s.upsets = [] → s.poison = [] → Completes (.bankGrant t bank .none) s (fun u =>
        answers u b.poisoned gathered ∧ u.mem = s.mem ∧ granted u ∧ u.regs = s.regs))
      ∧ (b.req.isWrite = false → b.addr + b.len ≤ 0x200000000 → s.upsets = [] → s.poison = [] → Completes (.bankGrant t bank .corrected) s (fun u =>
        regField u (tileReg (tileOf b.addr) 0x780300) 0 16 = min (regField s (tileReg (tileOf b.addr) 0x780300) 0 16 + 1) (2 ^ 16 - 1)
        ∧ SameRegistersBut [tileReg (tileOf b.addr) 0x780300] s u ∧ answers u b.poisoned gathered ∧ u.mem = s.mem ∧ granted u)))
  ) ∧ (
  (∀ (q : Nat) (s : State),
    ((partAt s q).regWait = [] → exec (.regulatorAdmit q) s = .next s)
    ∧ ∀ w rest, (partAt s q).regWait = w :: rest →
    let b := min w.bytes (256 - w.addr % 256)
    ((partAt s q).bucketTokens < b → exec (.regulatorAdmit q) s = .next s)
    ∧ (b ≤ (partAt s q).bucketTokens → (∀ o ∈ (partAt s q).regOps, o.served = none) → (partAt s q).ckpt.copy = none →
      Completes (.regulatorAdmit q) s (fun u =>
      (partAt u q).bucketTokens = (partAt s q).bucketTokens - b
      ∧ (partAt u q).regWait = (if w.bytes = b then rest else { w with bytes := w.bytes - b, addr := w.addr + b } :: rest)
      ∧ u.fs.waiting = s.fs.waiting ++ (if dmaSource w.source then [{ source := w.source, addr := w.addr, bytes := b }] else [])
      ∧ (∀ r, r ≠ q → partAt u r = partAt s r) ∧ u = { s with parts := u.parts, fs := u.fs })))
  ∧ (∀ (src : Nat) (s : State),
    (∀ w, s.fs.waiting.find? (fun w => w.source = src && slotFree s w.addr) = some w → exec (.fsRequestIssue src) s = .next { s with fs := { s.fs with
        waiting := s.fs.waiting.erase w
        issued := s.fs.issued ++ [w] } })
    ∧ (65536 ≤ s.fs.issued.length → exec (.fsRequestIssue src) s = .next s)
    ∧ ((∀ w ∈ s.fs.waiting, w.source = src → 4096 ≤ bankHeld s (Config.dramBank w.addr)) → exec (.fsRequestIssue src) s = .next s)))

/-- MESH_REQUEST_ARRIVAL and MESH_REPLY_ARRIVAL (R26, R226, R232, R245, R489, R490): a request of another abort epoch is discarded and counted;
one to an absent tile is answered ABSENT_UNIT, one to a unit that is being reset TARGET_RESET, one outside its window BAD_LENGTH; a near-store request
waits at its banks, one part a line; the till, the accumulator window and the far store take a write and answer OK, and answer a read with its
bytes. The oldest reply of its path is delivered where it carries the requester's present epochs, else discarded and counted or logged. -/
def Obligations.PacketLayerAnswers : Prop :=
  (∀ (r : MeshReq) (s : State), staleTraffic s r.part r.abortEpoch = true → Completes (.meshRequestArrival r) s (fun u =>
    regField u (ctl 0x600) 32 16 = min (regField s (ctl 0x600) 32 16 + 1) (2 ^ 16 - 1) ∧ SameRegistersBut [ctl 0x600] s u ∧ u = { s with regs := u.regs }))
  ∧ (∀ (r : MeshReq) (s : State), staleTraffic s r.part r.abortEpoch = false → isTileAddr r.addr = true →
    let t := tileOf r.addr
    let inside := within r.addr r.len (tileBase t) (partEnd (windowPart (offOf r.addr)))
    let only := fun (st : Nat) => Completes (.meshRequestArrival r) s (fun u => Answers s u t r st false [] ∧ u = { s with replies := u.replies })
    (tilePresent s t = false → only stAbsent)
    ∧ (tilePresent s t = true → tileGone s t r.requester = true → only stTargetReset)
    ∧ (tilePresent s t = true → tileGone s t r.requester = false → inside = false ∨ windowPart (offOf r.addr) = 4 → only stBadLength)
    ∧ (tilePresent s t = true → tileGone s t r.requester = false → inside = true →
      (windowPart (offOf r.addr) = 0 → 0 < r.len → Completes (.meshRequestArrival r) s (fun u =>
        (∀ l ∈ linesOf r.addr r.len, ∃ k, ∃ y ∈ (tileAt u t).banks.at k [], y.addr = max (64 * l) r.addr ∧ y.port = meshPort ∧ y.age = s.cycle
          ∧ y.req.tag = r.tag ∧ y.req.requester = r.requester ∧ y.req.addr = r.addr ∧ y.req.isWrite = r.isWrite)
        ∧ (∀ x, x ≠ t → tileAt u x = tileAt s x) ∧ u = { s with tiles := u.tiles }))
      ∧ (1 ≤ windowPart (offOf r.addr) → windowPart (offOf r.addr) ≤ 2 → r.isWrite = false → s.upsets = [] →
        Completes (.meshRequestArrival r) s (fun u => Answers s u t r stOk false (spanRead s r.addr r.len) ∧ u = { s with replies := u.replies }))
      ∧ (windowPart (offOf r.addr) = 2 → r.isWrite = true → r.data.length = r.len → Memory.wf s.mem = true →
        Completes (.meshRequestArrival r) s (fun u => Answers s u t r stOk false [] ∧ readBytes u.mem r.addr r.len = r.data
          ∧ SameMemoryOutside r.addr r.len s u ∧ u.tiles = s.tiles ∧ u.regs = s.regs))
      ∧ (windowPart (offOf r.addr) = 1 → r.isWrite = true → r.data.length = r.len → Completes (.meshRequestArrival r) s (fun u =>
        Answers s u t r stOk false [] ∧ (tileAt u t).drain = accWrite (tileAt s t).drain (windowWide s t) (offOf r.addr - 0x600000) r.data
        ∧ (∀ x, x ≠ t → tileAt u x = tileAt s x) ∧ u = { s with tiles := u.tiles, replies := u.replies }))))
  ∧ (∀ (r : MeshReq) (s : State), staleTraffic s r.part r.abortEpoch = false → isTileAddr r.addr = false →
    let only := fun (st : Nat) => Completes (.meshRequestArrival r) s (fun u => Answers s u farUnit r st false [] ∧ u = { s with replies := u.replies })
    (within r.addr r.len fsBase (fsCapacity s) = false → only stBadLength)
    ∧ (within r.addr r.len fsBase (fsCapacity s) = true → s.fs.resetting = true → only stTargetReset)
    ∧ (within r.addr r.len fsBase (fsCapacity s) = true → s.fs.resetting = false → PlainSpan s r.addr r.len → s.poison = [] → Memory.wf s.mem = true →
      (r.isWrite = true → r.data.length = r.len → Completes (.meshRequestArrival r) s (fun u =>
        readBytes u.mem r.addr r.len = r.data ∧ SameMemoryOutside r.addr r.len s u ∧ Answers s u farUnit r stOk false [] ∧ u.tiles = s.tiles))
      ∧ (r.isWrite = false → Completes (.meshRequestArrival r) s (fun u =>
        Answers s u farUnit r stOk false (readBytes s.mem r.addr r.len) ∧ u.mem = s.mem ∧ u.tiles = s.tiles))))
  ∧ (∀ (r : MeshReply) (s : State),
    (takeOldest samePath (fun x => decide (x.2 = r)) s.replies = none → exec (.meshReplyArrival r) s = .next s)
    ∧ ∀ x, takeOldest samePath (fun x => decide (x.2 = r)) s.replies = some x →
      (r.epoch = requesterEpoch s r.requester → staleTraffic s r.part r.abortEpoch = false →
        exec (.meshReplyArrival r) s = .next { s with replies := x.2, delivered := r :: s.delivered })
      ∧ (r.epoch = requesterEpoch s r.requester → staleTraffic s r.part r.abortEpoch = true → Completes (.meshReplyArrival r) s (fun u =>
        regField u (ctl 0x600) 32 16 = min (regField s (ctl 0x600) 32 16 + 1) (2 ^ 16 - 1) ∧ SameRegistersBut [ctl 0x600] s u
        ∧ u = { s with replies := x.2, regs := u.regs }))
      ∧ (r.epoch ≠ requesterEpoch s r.requester → r.requester < 1024 → Completes (.meshReplyArrival r) s (fun u =>
        regField u (tileReg r.requester 0x780100) 16 16 = min (regField s (tileReg r.requester 0x780100) 16 16 + 1) (2 ^ 16 - 1)
        ∧ SameRegistersBut [tileReg r.requester 0x780100] s u ∧ u = { s with replies := x.2, regs := u.regs }))
      ∧ (r.epoch ≠ requesterEpoch s r.requester → 1024 ≤ r.requester → Completes (.meshReplyArrival r) s (fun u =>
        s.mgt.logWritten < u.mgt.logWritten ∧ u.delivered = s.delivered ∧ u.mem = s.mem ∧ u.tiles = s.tiles)))

/-- FAR_CACHE_ACCESS (R263 to R265, R271): an access served for a descriptor's issued request gives its slot back; one of no partition needs a
free slot. With no error it leaves its unit the most recently used of its set, dirty after a write, whose bytes then stand in the memory; a
no-allocate read that misses leaves the cache as it is; a corrected DRAM error counts, an uncorrected one counts and poisons the line, a CHECK that
fails once and then matches counts as a path error. An address that is no far-store address changes nothing.

GUARD_STALE_ACK, GUARD_REFETCH and WRITEBACK_TIMEOUT (R266, R269, R274): with the last acknowledgement of a STALE unit its held write lands,
and before it nothing does; a STALE unit whose write has landed is read again, on the partition's account, and is STALE no more; a write-back not
complete in time loses everything the far store held: its bytes, the journals and retained sends, and the error log. -/
def Obligations.FarCacheAndGuardsServe : Prop :=
  (
  ∀ (source : Option Nat) (a : Nat) (s : State),
    let l := (a - fsBase) / 256
    let can : Prop := (source = none ∧ slotFree s a = true) ∨ (∃ n r, source = some n ∧ servedReq s n a = some r)
    let left := fun (u : State) => u.fs.issued = match source.bind (fun n => servedReq s n a) with | some r => s.fs.issued.erase r | none => s.fs.issued
    (isFsAddr s a = false ∨ ¬can → ∀ w n e, exec (.farCacheAccess source a w n e) s = .next s)
    ∧ (isFsAddr s a = true → can → (∀ c, (chanAt s c).state ≠ 3) → s.fs.guards = [] → s.poison = [] → fcSet l ∉ s.fs.setsOff →
      (∀ n, fcHit s l = true ∨ n = false → Completes (.farCacheAccess source a none n .none) s (fun u =>
        ((fcLines u l).head?.map CacheLine.unit) = some l ∧ left u ∧ u = { s with fs := u.fs }))
      ∧ (fcHit s l = false → Completes (.farCacheAccess source a none true .none) s (fun u =>
        u.fs.cache = s.fs.cache ∧ left u ∧ u = { s with fs := u.fs }))
      ∧ (∀ bs n, 0 < bs.length → a % 256 + bs.length ≤ 256 → Memory.wf s.mem = true → Completes (.farCacheAccess source a (some bs) n .none) s (fun u =>
        readBytes u.mem a bs.length = bs ∧ SameMemoryOutside a bs.length s u ∧ (fcLines u l).head? = some { unit := l, dirty := true }
        ∧ left u ∧ u.regs = s.regs ∧ u.tiles = s.tiles))
      ∧ (∀ n, fcHit s l = false → Completes (.farCacheAccess source a none n .corrected) s (fun u =>
        regField u (ctl 0x408) 0 16 = min (regField s (ctl 0x408) 0 16 + 1) (2 ^ 16 - 1) ∧ u.mem = s.mem ∧ u.poison = [] ∧ left u))
      ∧ (∀ n, fcHit s l = false → Completes (.farCacheAccess source a none n .uncorrectable) s (fun u =>
        regField u (ctl 0x408) 32 16 = min (regField s (ctl 0x408) 32 16 + 1) (2 ^ 16 - 1) ∧ u.poison = [a / 64] ∧ u.mem = s.mem ∧ left u))
      ∧ (∀ n x y, checkFails s a x = true → checkFails s a y = false → Completes (.farCacheAccess source a none n (.path x y)) s (fun u =>
        regField u (ctl 0x408) 16 16 = min (regField s (ctl 0x408) 16 16 + 1) (2 ^ 16 - 1) ∧ u.mem = s.mem ∧ u.poison = [] ∧ left u)))
  ) ∧ (
  (∀ (g unit : Nat) (s : State),
    (∀ y ∈ s.fs.guards, y.id ≠ g → unit ∈ y.acks → Completes (.guardStaleAck g unit) s (fun u => u = { s with fs := u.fs }))
    ∧ ∀ x a bs, s.fs.guards = [x] → x.id = g → x.acks = [unit] → x.held = [(a, bs)] → (∀ c, (chanAt s c).state ≠ 3) →
      fsBase ≤ a → (a - fsBase) / 256 = unit → Memory.wf s.mem = true → Completes (.guardStaleAck g unit) s (fun u =>
      u.fs.guards = [{ x with acks := [], held := [] }] ∧ readBytes u.mem a bs.length = bs ∧ SameMemoryOutside a bs.length s u ∧ u.tiles = s.tiles
      ∧ u.regs = s.regs))
  ∧ (∀ (g unit : Nat) (x : Guard) (s : State), s.fs.guards = [x] → x.id = g →
    (unit ∈ x.acks ∨ unit ∉ x.stale → exec (.guardRefetch g unit) s = .next s)
    ∧ (unit ∈ x.stale → unit ∉ x.acks → x.held = [] → guardMoved s x = true → Funded s x.q 256 → (descOf x.bytes).op = 4 →
      Completes (.guardRefetch g unit) s (fun u =>
      u.fs.guards = [{ x with stale := x.stale.filter (· ≠ unit) }] ∧ (∀ r, r ≠ x.q → partAt u r = partAt s r)
      ∧ u = { s with parts := u.parts, fs := u.fs }))
    ∧ (unit ∈ x.stale → unit ∉ x.acks → x.held = [] → guardMoved s x = true → Funded s x.q 256 →
      let d := descOf x.bytes
      d.op = 1 → d.srcComp = false → d.dstComp = false → d.rows = 1 → localAddr d.src = fsBase + 256 * unit → d.count = 256 →
      (∀ c, (chanAt s c).state ≠ 3) → PlainSpan s (localAddr d.dst) 256 → s.poison = [] → Memory.wf s.mem = true →
      Completes (.guardRefetch g unit) s (fun u =>
        u.fs.guards = [{ x with stale := x.stale.filter (· ≠ unit) }]
        ∧ readBytes u.mem (localAddr d.dst) 256 = readBytes s.mem (fsBase + 256 * unit) 256 ∧ SameMemoryOutside (localAddr d.dst) 256 s u
        ∧ u.tiles = s.tiles ∧ u.regs = s.regs)))
  ∧ (∀ s : State, (s.fs.draining = false → exec .writebackTimeout s = .next s)
    ∧ (s.fs.draining = true → Completes .writebackTimeout s (fun u =>
      u.fs.lost = true ∧ u.fs.draining = false ∧ u.fs.cache = [] ∧ u.mgt.log = []
      ∧ (∀ a, fsBase ≤ a → a < 0xFF000000000 → readCells u.mem a = 0) ∧ (∀ a, a < fsBase ∨ 0xFF000000000 ≤ a → readCells u.mem a = readCells s.mem a)
      ∧ (∀ q, (partAt u q).settle.journal = [] ∧ (partAt u q).settle.retention = [] ∧ (partAt u q).ctx = (partAt s q).ctx
        ∧ (partAt u q).binding = (partAt s q).binding ∧ (partAt u q).state = (partAt s q).state)
      ∧ u.tiles = s.tiles ∧ u.regs = s.regs))))

/-- PORT_TRAINED, LANE_FAULT, RETRAIN_COMPLETE and PORT_SILENT (R294 to R298): a port in training with two or more good lanes comes UP with the
partner's identity and LR where either end asks for it, with empty sequence numbers and full credits unless it retrains. A lane fault marks the lane,
and an UP port starts a retrain; a retrain that succeeds brings the port UP and resends every unacknowledged flit in order; one that fails, as the
first or second within a second, is tried again, and the third takes the port DOWN. A silent port that no job uses goes DOWN, its buffers lost, with
both flags of LNK_ERR. -/
def Obligations.PortsTrainRetrainAndFall : Prop :=
  ∀ (p : Nat) (s : State), p < portCount s →
    let x := portAt s p
    let turned := x.lanes.map (turnLane s.cycle)
    let good : Prop := ∀ l ∈ x.lanes, l.faulty = false
    let fails := x.retrainFails.filter (fun c => decide (s.cycle < c + 1250000000))
    let unused : Prop := s.tick.locked = false ∧ ∀ y ∈ boundParts s, usesPort s y.1 y.2 p = false
    (∀ (pp : Nat) (dev : Option Nat) (sw lr : Bool), s.dev ≠ .off → x.enable = true → x.state ≠ 2 →
      (2 ≤ (turned.filter (fun l => l.state = 0)).length → Completes (.portTrained p pp dev sw lr) s (fun t =>
        (portAt t p).state = 2 ∧ (portAt t p).lanes = turned ∧ (portAt t p).fecMode = (x.fecReq || lr)
        ∧ (portAt t p).partnerPort = pp % 16 ∧ (portAt t p).partnerDev = (if sw then 0 else dev.getD 0 % 65536) ∧ (portAt t p).partnerSwitch = sw
        ∧ (x.state ≠ 3 → (portAt t p).txSeq = 0 ∧ (portAt t p).rxSeq = 0 ∧ (portAt t p).creditReq = 4096 ∧ (portAt t p).creditRsp = 4096)
        ∧ (x.state = 3 → (portAt t p).txSeq = x.txSeq ∧ (portAt t p).rxSeq = x.rxSeq ∧ (portAt t p).replay = x.replay)
        ∧ (∀ j, j ≠ p → portAt t j = portAt s j) ∧ (good → OnlyLinks s t [])))
      ∧ ((turned.filter (fun l => l.state = 0)).length < 2 → unused → Completes (.portTrained p pp dev sw lr) s (fun t =>
        (portAt t p).state = 0 ∧ (∀ j, j ≠ p → portAt t j = portAt s j) ∧ t.mem = s.mem ∧ t.parts = s.parts ∧ t.tiles = s.tiles)))
    ∧ (∀ l y, x.lanes[l]? = some y → y.state = 0 →
      (x.state = 2 → Completes (.laneFault p l) s (fun t =>
        portAt t p = { x with lanes := x.lanes.set l { y with faulty := true }, state := 3, retries := 0, retryAsked := false, timeReqAt := none }
        ∧ regField t (lnkErr p) 48 8 = min (regField s (lnkErr p) 48 8 + 1) 255
        ∧ (∀ j, j ≠ p → portAt t j = portAt s j) ∧ OnlyLinks s t [lnkErr p]))
      ∧ (x.state ≠ 2 → Completes (.laneFault p l) s (fun t =>
        portAt t p = { x with lanes := x.lanes.set l { y with faulty := true } } ∧ (∀ j, j ≠ p → portAt t j = portAt s j) ∧ OnlyLinks s t [])))
    ∧ (x.state = 3 → 2 ≤ (turned.filter (fun l => l.state = 0)).length →
      Completes (.retrainComplete p true) s (fun t =>
        portAt t p = { x with state := 2, lanes := turned, fecMode := x.fecReq || x.partnerLR } ∧ (∀ j, j ≠ p → portAt t j = portAt s j)
        ∧ (good → (∃ e, t.out = (x.replay.map (fun f => Emission.flit p f.2)).reverse ++ e :: s.out) ∧ OnlyLinks s t [])))
    ∧ (x.state = 3 → fails.length < 2 → Completes (.retrainComplete p false) s (fun t =>
        (portAt t p).state = 3 ∧ (portAt t p).retrainFails = fails ++ [s.cycle]
        ∧ regField t (lnkErr p) 48 8 = min (regField s (lnkErr p) 48 8 + 1) 255
        ∧ (∀ j, j ≠ p → portAt t j = portAt s j) ∧ OnlyLinks s t [lnkErr p]))
    ∧ (x.state = 3 → 2 ≤ fails.length → unused → Completes (.retrainComplete p false) s (fun t =>
        (portAt t p).state = 0 ∧ (portAt t p).retrainFails = [] ∧ regField t (lnkErr p) 57 1 = 1 ∧ SameRegistersBut [lnkErr p] s t
        ∧ (∀ j, j ≠ p → portAt t j = portAt s j) ∧ t.mem = s.mem ∧ t.parts = s.parts ∧ t.tiles = s.tiles))
    ∧ (x.state = 2 → unused → Completes (.portSilent p) s (fun t =>
        (portAt t p).state = 0 ∧ (portAt t p).wasUp = true ∧ (portAt t p).replay = [] ∧ (portAt t p).rxBytes = [] ∧ (portAt t p).delayValid = false
        ∧ regField t (lnkErr p) 57 1 = 1 ∧ regField t (lnkErr p) 58 1 = 1
        ∧ (∀ j, j ≠ p → portAt t j = portAt s j) ∧ OnlyLinks s t [lnkErr p]))
    ∧ (x.state ≠ 2 → exec (.portSilent p) s = .next s)

/-- FLIT_RECEIVE and RETRY_REQUEST (R291, R293 to R295, R324): a good data or control flit next in order gives its packets or symbols to the port,
its ACK to the replay buffer and its credits to their classes; a corrected codeword counts; a bad flit is counted and asks for a retry whose ACK names
the last good flit; a retry request drops what it acknowledges and resends the rest in order; with 8 retries spent on it the port retrains. On a
port that is not UP nothing changes.

FABRIC_REQUEST_ISSUE and PACKET_SEND (R272, R293 to R295, R299 to R301, R338): the first flow to a destination whose head may go gives it a slot
that no other request holds, with that slot's generation and the trailer its message has come to, and queues it at its port, or over loopback sends it
at once; a port that is UP, with room in its replay buffer for all its flits, sends its next packet, taking its credits, its bytes following those of
the packet before it through data flits of 242 bytes, each kept for replay; a retained packet enters outbound retention as it goes. -/
def Obligations.FlitsAndRequestsMove : Prop :=
  (
  ∀ (p : Nat) (s : State),
    let x := portAt s p
    (x.state ≠ 2 → (∀ cw flit, exec (.flitReceive p cw flit) s = .next s) ∧ ∀ ack, exec (.retryRequest p ack) s = .next s)
    ∧ (x.state = 2 → (∀ (cw : Codewords) (flit : List Byte), cw ≠ .uncorrectable → flit.length = 256 → le flit 248 8 = cvOf crc64we (flit.take 248) →
      let c := le flit 242 6
      field c 24 2 ≤ 1 → field c 0 12 = (x.rxSeq + 1) % 4096 → x.rxSeq < 4096 → x.ctlWait = [] → Completes (.flitReceive p cw flit) s (fun t =>
        let r := takePackets 242 (x.rxBytes ++ flit.take 242)
        (portAt t p).rxSeq = field c 0 12
        ∧ (field c 24 2 = 0 → (portAt t p).rxReady = x.rxReady ++ r.1 ∧ (portAt t p).rxBytes = r.2 ∧ (portAt t p).rxSyms = x.rxSyms)
        ∧ (field c 24 2 = 1 → (portAt t p).rxReady = x.rxReady ∧ (portAt t p).rxBytes = x.rxBytes
            ∧ (portAt t p).rxSyms = x.rxSyms ++ (parseSlots (flit.take 242)).filter (fun k => k.typ ≠ 0))
        ∧ (portAt t p).replay = (ackReplay x (field c 12 12)).2.replay
        ∧ (portAt t p).creditReq = min 4096 (x.creditReq + field c 26 8) ∧ (portAt t p).creditRsp = min 4096 (x.creditRsp + field c 34 8)
        ∧ (∀ j, j ≠ p → portAt t j = portAt s j) ∧ (cw = .clean → OnlyLinks s t [])
        ∧ (∀ l, cw = .corrected l → regField t (lnkErr p) 0 16 = min (regField s (lnkErr p) 0 16 + 1) 65535)
        ∧ t = { s with ports := t.ports, out := t.out, regs := t.regs, mgt := t.mgt }))
    ∧ (∀ (cw : Codewords) (flit : List Byte), cw = .uncorrectable ∨ (cw = .clean ∧ (flit.length ≠ 256 ∨ le flit 248 8 ≠ cvOf crc64we (flit.take 248))) →
      Completes (.flitReceive p cw flit) s (fun t =>
        (∃ b, t.out = Emission.flit p b :: s.out ∧ field (le b 242 6) 24 2 = 3 ∧ field (le b 242 6) 12 12 = x.rxSeq % 4096)
        ∧ (portAt t p).rxSeq = x.rxSeq ∧ (portAt t p).rxReady = x.rxReady ∧ (portAt t p).rxBytes = x.rxBytes ∧ (portAt t p).replay = x.replay
        ∧ regField t (lnkErr p) 16 16 = (if cw = .uncorrectable then min (regField s (lnkErr p) 16 16 + 1) 65535 else regField s (lnkErr p) 16 16)
        ∧ regField t (lnkErr p) 32 16 = min (regField s (lnkErr p) 32 16 + 1) 65535 ∧ SameRegistersBut [lnkErr p] s t
        ∧ (∀ j, j ≠ p → portAt t j = portAt s j) ∧ t = { s with ports := t.ports, out := t.out, regs := t.regs, mgt := t.mgt }))
    ∧ (∀ ack pre f post, x.replay = pre ++ (ack, f) :: post → (∀ y ∈ pre, y.1 ≠ ack) → Completes (.retryRequest p ack) s (fun t =>
        portAt t p = { x with replay := post, retries := 1 } ∧ t.out = (post.map (fun f => Emission.flit p f.2)).reverse ++ s.out
        ∧ (∀ j, j ≠ p → portAt t j = portAt s j) ∧ OnlyLinks s t []))
    ∧ (∀ ack, (∀ y ∈ x.replay, y.1 ≠ ack) → x.retries < 8 → Completes (.retryRequest p ack) s (fun t =>
        portAt t p = { x with retries := x.retries + 1 } ∧ t.out = (x.replay.map (fun f => Emission.flit p f.2)).reverse ++ s.out
        ∧ (∀ j, j ≠ p → portAt t j = portAt s j) ∧ OnlyLinks s t []))
    ∧ (∀ ack, (∀ y ∈ x.replay, y.1 ≠ ack) → 8 ≤ x.retries → Completes (.retryRequest p ack) s (fun t =>
        portAt t p = { x with state := 3, retries := 0, retryAsked := false, timeReqAt := none }
        ∧ regField t (lnkErr p) 48 8 = min (regField s (lnkErr p) 48 8 + 1) 255
        ∧ (∀ j, j ≠ p → portAt t j = portAt s j) ∧ OnlyLinks s t [lnkErr p])))
  ) ∧ (
  (∀ (dest : Nat) (f : Flow) (o : OutPkt) (rest : List OutPkt) (s : State), slotsTo s dest < 65536 → slotsInUse s < 524288 →
    s.flows.find? (fun f => f.dstDev = dest && mayIssue s f) = some f → f.queue = o :: rest →
    let port := f.txPort.getD (portFor s f)
    let n := freeSlot s
    let tr := nextTrailer s f port o.pkt
    let k := { o.pkt with slot := n, gen := s.slotGen.at n 0, trailer := word tr.1 }
    let slot := fun (t : State) => (∀ x ∈ s.slots, x.num ≠ n)
      ∧ (∃ x, t.slots = s.slots ++ [x] ∧ x.num = n ∧ x.gen = s.slotGen.at n 0 ∧ x.q = f.q ∧ x.flow = f.idx ∧ x.usage = o.usage ∧ x.dst = dest)
      ∧ t.flows = s.flows.map (fun x => if x.q = f.q ∧ x.idx = f.idx then
          { x with queue := x.queue.drop 1, txRun := tr.2.1, txPort := tr.2.1.map (fun _ => port) } else x)
    (o.pkt.cval = true → f.txRun.isSome = true → runBad s (txUnit port) f.q = false) →
    (f.cfg.kind ≠ 2 → port < 16 → Completes (.fabricRequestIssue dest) s (fun t =>
      slot t ∧ (portAt t port).sendReq = (portAt s port).sendReq ++ [{ o with pkt := k }] ∧ (o.pkt.cval = false → k.trailer = 0)
      ∧ (∀ j, j ≠ port → portAt t j = portAt s j) ∧ (o.pkt.cval = false → t = { s with slots := t.slots, flows := t.flows, ports := t.ports })
      ∧ t = { s with slots := t.slots, flows := t.flows, ports := t.ports, cvus := t.cvus, regs := t.regs }))
    ∧ (f.cfg.kind = 2 → f.txPort = none → o.ident = none ∨ isBound (partAt s f.q) = false → o.q = f.q → Completes (.fabricRequestIssue dest) s (fun t =>
      slot t ∧ t.out = .packet (16 + f.cfg.dstPart) k :: s.out ∧ t.ports = s.ports ∧ t.parts = s.parts ∧ t.mem = s.mem ∧ t.tiles = s.tiles)))
  ∧ (∀ (p : Nat) (s : State),
    let x := portAt s p
    (portUp s p = false ∨ (∃ o, nextOut s p = some o ∧ roomFor x o.pkt = false) → exec (.packetSend p) s = .next s)
    ∧ ∀ o, portUp s p = true → nextOut s p = some o → roomFor x o.pkt = true →
      let bs := x.txTail ++ packetBytes o.pkt
      let sent := fun (t : State) => Emission.packet p o.pkt ∈ t.out
        ∧ (∃ n, (portAt t p).replay.length = x.replay.length + n ∧ (portAt t p).txSeq % 4096 = (x.txSeq + n) % 4096
          ∧ ((nextOut t p).isSome = true → n = bs.length / 242 ∧ (portAt t p).txTail = bs.drop (242 * n))
          ∧ ((nextOut t p).isSome = false → n = (bs.length + 241) / 242 ∧ (portAt t p).txTail = []))
        ∧ (isReply o.pkt = true → (portAt t p).sendRsp = x.sendRsp.erase o ∧ (portAt t p).sendReq = x.sendReq
            ∧ (portAt t p).creditRsp = x.creditRsp - packetCredits o.pkt ∧ (portAt t p).creditReq = x.creditReq)
        ∧ (isReply o.pkt = false → (portAt t p).sendReq = x.sendReq.erase o ∧ (portAt t p).sendRsp = x.sendRsp
            ∧ (portAt t p).creditReq = x.creditReq - packetCredits o.pkt ∧ (portAt t p).creditRsp = x.creditRsp)
        ∧ (∀ j, j ≠ p → portAt t j = portAt s j)
      (o.ident = none ∨ isBound (partAt s o.q) = false → Completes (.packetSend p) s (fun t => sent t ∧ OnlyLinks s t []))
      ∧ (∀ off i, o.ident = some (off, i) → isBound (partAt s o.q) = true → Funded s o.q (32 + o.pkt.data.length) →
        let others := (partAt s o.q).settle.retention.filter (fun m => !(m.flow = o.flow && m.off = off && m.idx = i))
        wholeMessages others < entryLimit s → msgBytes others + o.pkt.data.length ≤ (partAt s o.q).quota.getD 1 0 * 2 ^ 20 →
        Completes (.packetSend p) s (fun t =>
          sent t ∧ (∃ m, (partAt t o.q).settle.retention = others ++ [m] ∧ m.pkt = o.pkt ∧ m.flow = o.flow ∧ m.off = off ∧ m.idx = i ∧ m.acked = false)
          ∧ (∀ r, r ≠ o.q → partAt t r = partAt s r) ∧ t = { s with ports := t.ports, out := t.out, parts := t.parts, fs := t.fs }))))

/-- WRITE and READ_REQ (R300 to R303, R408, R415): an accepted WRITE whose extent the receiver grants puts its data at its address, changes no
other byte, enters a job's journal, and is acknowledged with OK; one whose extent fails a check is acknowledged with that status and changes nothing;
a duplicate of a journaled one is acknowledged and writes nothing. An accepted READ_REQ is answered with the bytes at its address, or with DEV_FD_TAG's
eight, and changes no byte. -/
def Obligations.WritesAndReadsAreServed : Prop :=
  (∀ (p q : Nat) (k : Packet) (f : Flow) (s : State), Arrives s p 1 k q f → 0 < k.length →
    (requestStatus s q k.addr k.length ≠ stOk → Completes (.write p k) s (fun t =>
      Replied s t p f k 4 (requestStatus s q k.addr k.length) [] ∧ t.mem = s.mem ∧ t.parts = s.parts ∧ t.tiles = s.tiles ∧ t.regs = s.regs))
    ∧ (requestStatus s q k.addr k.length = stOk → PlainSpan s k.addr k.length → Memory.wf s.mem = true →
    (Fresh s q f k → Funded s q (32 + 2 * k.length) → Completes (.write p k) s (fun t =>
      readBytes t.mem k.addr k.length = k.data ∧ SameMemoryOutside k.addr k.length s t ∧ Replied s t p f k 4 stOk []
      ∧ (journals (partAt s q) k = true → ∃ m, (partAt t q).settle.journal = (partAt s q).settle.journal ++ [m] ∧ m.flow = f.idx ∧ m.pkt = k
          ∧ m.step = (partAt s q).ctx.step ∧ m.tick = fullTick (now s) k.tick ∧ m.acked = true)
      ∧ (journals (partAt s q) k = false → (partAt t q).settle = (partAt s q).settle)
      ∧ (∀ r, r ≠ q → partAt t r = partAt s r) ∧ (k.cval = false → t.regs = s.regs) ∧ t.tiles = s.tiles))
    ∧ (∀ i m, journals (partAt s q) k = true → journalEntry s (partAt s q) f k = some (i, m) → Completes (.write p k) s (fun t =>
      SameMemory s t ∧ Replied s t p f k 4 stOk [] ∧ (partAt t q).settle.journal.length = (partAt s q).settle.journal.length
      ∧ regField t (updReg q 0x60) 48 16 = min (regField s (updReg q 0x60) 48 16 + 1) 65535
      ∧ (k.cval = false → SameRegistersBut [updReg q 0x60] s t) ∧ (∀ r, r ≠ q → partAt t r = partAt s r) ∧ t.tiles = s.tiles))))
  ∧ (∀ (p q : Nat) (k : Packet) (f : Flow) (s : State), Arrives s p 2 k q f →
    (k.addr = fdTagAddr → k.length = 8 → Completes (.readReq p k) s (fun t =>
      Replied s t p f k 3 stOk (toLe 8 s.fdTag.toNat) ∧ t.mem = s.mem ∧ t.parts = s.parts ∧ (linkChecked f = false → t.regs = s.regs) ∧ t.tiles = s.tiles))
    ∧ (k.addr ≠ fdTagAddr → requestStatus s q k.addr k.length ≠ stOk → Completes (.readReq p k) s (fun t =>
      Replied s t p f k 3 (requestStatus s q k.addr k.length) [] ∧ t.mem = s.mem ∧ t.parts = s.parts ∧ t.tiles = s.tiles))
    ∧ (k.addr ≠ fdTagAddr → requestStatus s q k.addr k.length = stOk → PlainSpan s k.addr k.length → s.poison = [] → s.upsets = [] →
      Funded s q k.length → slotsInUse s < 524288 → Completes (.readReq p k) s (fun t =>
        Replied s t p f k 3 stOk (readBytes s.mem k.addr k.length) ∧ t.mem = s.mem ∧ (linkChecked f = false → t.regs = s.regs) ∧ t.tiles = s.tiles
        ∧ (∀ r, r ≠ q → partAt t r = partAt s r))))

/-- READ_DATA, ACK and FLOW_TIMEOUT (R223, R301, R302, R417): a reply that names an open slot ends it under a new generation: a read's data
land where it was to put them and nowhere else, one with another status than OK changes no byte; an acknowledgement with OK marks its message in
outbound retention; a slot whose reply has not come ends the same way, a transfer with TIMEOUT, and for a message of a running job the step aborts. A
reply that names no open slot is counted.

TOKEN and DEPOSIT (R66, R205, R300, R382, R563): an accepted TOKEN packet's token counts on its actor's slot and is acknowledged; an accepted
DEPOSIT for a bucket whose exchange has not opened is held for it; one that finds the exchange open adds its block to what has come; one with a
RANK or PHASE outside its range spoils the bucket for the attempt and votes ABORT. -/
def Obligations.RepliesTokensAndDepositsArrive : Prop :=
  (
  ∀ (s : State) (x : ReqSlot),
    let ended := fun t : State => t.slots = s.slots.filter (fun y => y.num ≠ x.num) ∧ t.slotGen.at x.num 0 = (s.slotGen.at x.num 0 + 1) % 256
    let late := fun (t : State) (q : Nat) => regField t (schReg q 0x38) 32 32 = min (regField s (schReg q 0x38) 32 32 + 1) (2 ^ 32 - 1)
      ∧ SameRegistersBut [schReg q 0x38] s t ∧ t = { s with regs := t.regs, ports := t.ports }
    (∀ (p q : Nat) (k : Packet) (f : Flow), Arrives s p 3 k q f →
      (replySlot s f k = none → Completes (.readData p k) s (fun t => late t q))
      ∧ (replySlot s f k = some x → ∀ t j dst at_, x.usage = .read t j dst at_ →
        (k.status = stOk → PlainSpan s dst k.length → Memory.wf s.mem = true →
          Completes (.readData p k) s (fun u => ended u ∧ readBytes u.mem dst k.length = k.data ∧ SameMemoryOutside dst k.length s u
            ∧ u.parts = s.parts ∧ (k.cval = false → u.regs = s.regs) ∧ (∀ y, y ≠ t → tileAt u y = tileAt s y)
            ∧ (∃ d, tileAt u t = { tileAt s t with dma := d })))
        ∧ (k.status ≠ stOk → Completes (.readData p k) s (fun u => ended u ∧ u.mem = s.mem ∧ u.parts = s.parts
            ∧ (∀ y, y ≠ t → tileAt u y = tileAt s y) ∧ (∃ d, tileAt u t = { tileAt s t with dma := d })))))
    ∧ (∀ (p q : Nat) (k : Packet) (f : Flow), Arrives s p 4 k q f →
      (replySlot s f k = none → Completes (.ack p k) s (fun t => late t q))
      ∧ (replySlot s f k = some x → k.status = stOk → (x.usage = .send ∨ (∃ t j, x.usage = .dma t j) ∨ ∃ a b, x.usage = .deposit a b) →
        Completes (.ack p k) s (fun t => ended t ∧ t.mem = s.mem ∧ t.regs = s.regs ∧ t.tiles = s.tiles
          ∧ (x.ident = none → t.parts = s.parts)
          ∧ (∀ off n, x.ident = some (off, n) → (partAt t q).settle.retention = (partAt s q).settle.retention.map (fun m =>
              if m.flow = x.flow ∧ m.off = off ∧ m.idx = n then { m with acked := true } else m)))))
    ∧ (∀ n, s.slots.find? (fun y => y.num = n) = some x → (partAt s x.q).join = {} →
      (x.usage = .send ∨ (∃ b, x.usage = .deposit x.q b) → (partAt s x.q).state = .running → (partAt s x.q).purge = none →
        Completes (.flowTimeout n) s (fun t => AbortedAt s t x.q (now s) false ∧ ∀ y ∈ t.slots, y.num ≠ n))
      ∧ (∀ t j, x.usage = .dma t j ∨ (∃ dst at_, x.usage = .read t j dst at_) → Completes (.flowTimeout n) s (fun u =>
        ended u ∧ u.mem = s.mem ∧ u.parts = s.parts ∧ (∀ y, y ≠ t → tileAt u y = tileAt s y) ∧ (∃ d, tileAt u t = { tileAt s t with dma := d }))))
    ∧ (∀ n, s.slots.find? (fun y => y.num = n) = none → exec (.flowTimeout n) s = .next s)
  ) ∧ (
  ∀ (p q : Nat) (k : Packet) (f : Flow) (s : State), k.cval = false → Fresh s q f k → partGone (partAt s q) = false → Funded s q (32 + k.length) →
    (∀ (a slot t tick epoch : Nat) (taken : Bool) (r : ActorRec), Arrives s p 5 k q f → a < 2 ^ 11 → slot < 8 → t < 1024 →
      k.data = toLe 16 (tokenBits a slot taken t tick epoch).toNat → partOfTile s t = some q → actorRec s t a = some r → slot < r.slots →
      (ctxOf s t a).fired < r.firings → (ctxOf s t a).counts.getD slot 0 < 65535 → (ctxOf s t a).counts.length = 8 →
      r.remote = true ∨ isFed s q t a slot = true → (ctxOf s t a).specOpen = false → Completes (.token p k) s (fun u =>
        Replied s u p f k 4 stOk []
        ∧ (ctxOf u t a).counts = (ctxOf s t a).counts.set slot ((ctxOf s t a).counts.getD slot 0 + 1)
        ∧ (ctxOf u t a).takens = (if slot = 0 then (ctxOf s t a).takens ++ [taken] else (ctxOf s t a).takens)
        ∧ (∀ b, b ≠ a → ctxOf u t b = ctxOf s t b) ∧ (∀ y, y ≠ t → tileAt u y = tileAt s y) ∧ u.mem = s.mem ∧ u.regs = s.regs))
    ∧ (∀ (b rank phase : Nat), Arrives s p 6 k q f → k.addr = b + rank * 2 ^ 16 + phase * 2 ^ 32 → b < 2 ^ 16 → rank < 2 ^ 16 → phase < 4 →
      (bucketRec (partAt s q) b = none ∨ (∃ y, bucketRec (partAt s q) b = some y ∧ (y.p ≤ rank ∨ 2 ≤ phase)) → Completes (.deposit p k) s (fun u =>
        Replied s u p f k 4 stOk [] ∧ b ∈ (partAt u q).spoilt ∧ (partAt u q).ctx.votes.getLsbD voteAbort = true ∧ u.mem = s.mem
        ∧ (partAt u q).buckets = (partAt s q).buckets ∧ u.regs = s.regs ∧ u.tiles = s.tiles))
      ∧ ∀ y, bucketRec (partAt s q) b = some y → rank < y.p → phase < 2 →
      (busyRun (partAt s q) b = none → Completes (.deposit p k) s (fun u =>
        Replied s u p f k 4 stOk [] ∧ (partAt u q).earlyDeposits = (partAt s q).earlyDeposits ++ [(b, k)] ∧ u.mem = s.mem
        ∧ (partAt u q).buckets = (partAt s q).buckets ∧ u.regs = s.regs ∧ u.tiles = s.tiles))
      ∧ (∀ i run h l, busyRun (partAt s q) b = some (i, run) → (partAt s q).spoilt.contains b = false → phase = 0 →
        takeBlocks 256 k.data = some [(h, l)] → headerFault (partAt s q) y run h = false → (field h 8 4 = 2 ↔ run.d64 = true) →
        (h / 2 ^ 32 = y.blocks → rank ∉ (run.blocks.at (h / 2 ^ 32) {}).ranks) →
        (run.blocks.at (h / 2 ^ 32) {}).ranks ≠ [] → (run.blocks.at (h / 2 ^ 32) {}).ranks.length + 1 < y.need (h / 2 ^ 32) →
        Completes (.deposit p k) s (fun u =>
          let old := run.blocks.at (h / 2 ^ 32) {}
          Replied s u p f k 4 stOk [] ∧ u.mem = s.mem ∧ u.regs = s.regs ∧ u.tiles = s.tiles
          ∧ (∃ run', (partAt u q).buckets = (partAt s q).buckets.set i run' ∧ run'.results = run.results
            ∧ (∀ j, j ≠ h / 2 ^ 32 → run'.blocks.at j {} = run.blocks.at j {})
            ∧ (run'.blocks.at (h / 2 ^ 32) {}).elems = (old.elems.zip l).map (fun z => z.1 + z.2)
            ∧ (run'.blocks.at (h / 2 ^ 32) {}).nonfinite = (old.nonfinite || h.testBit 0)
            ∧ (run'.blocks.at (h / 2 ^ 32) {}).sat = (old.sat || h.testBit 1) ∧ (run'.blocks.at (h / 2 ^ 32) {}).empty = (old.empty && h.testBit 3)
            ∧ (run'.blocks.at (h / 2 ^ 32) {}).ranks = old.ranks ++ [rank])))))

/-- UPWARD_TICK and VOTE_WAIT_EXPIRY (R304 to R308): a child's vote for a tick already sent for is counted as late; any other is kept; once
every child's vote for the oldest tick of a module that is not the root is in, or its wait expires, the OR of the module's bits and the
children's goes to the parent, a missing child adding ABORT and being named.

DOWNWARD_TICK (R308, R451, R454): a result from the parent is recorded and forwarded to every child at once; its CKPT_REQ, where it does not
settle the step and starts no shadow (R439), leaves a checkpoint pending, and its NONFINITE within the attempt is remembered. -/
def Obligations.VotesRiseAndResultsDescend : Prop :=
  (
  ∀ (s : State) (k : Nat),
    let x := treeAt s k
    let part := partAt s x.part
    let sent := fun (t : State) (tk : Nat) (vote : BitVec 8) =>
      Emission.symbol x.parent (tickSlot part tk vote) ∈ t.out ∧ (treeAt t k).own = [] ∧ (treeAt t k).sentTick = tk ∧ (treeAt t k).sentAny = true
    (∀ (p : Nat) (c : CtlSlot), SymbolArrives s 1 c → c.tree = k → p < 16 → x.childMask.getLsbD p = true →
      let tk := fullTick (now s) (field c.sym.toNat 0 24)
      let got := x.got ++ [(tk, p, BitVec.ofNat 8 (field c.sym.toNat 24 8))]
      (x.sentAny = true ∧ tk ≤ x.sentTick → Completes (.upwardTick p c) s (fun t =>
        treeAt t k = x ∧ regField t lnkFabric2 32 8 = min (regField s lnkFabric2 32 8 + 1) 255 ∧ OnlyLinks s t [lnkFabric2]))
      ∧ (x.sentAny = false ∨ x.sentTick < tk → x.own = [] → Completes (.upwardTick p c) s (fun t =>
        treeAt t k = { x with got := got } ∧ t = { s with ports := t.ports, trees := t.trees }))
      ∧ (∀ T w, x.sentAny = false ∨ x.sentTick < tk → x.own = [(T, w)] → x.root = false → SendsNow s x.parent → part.ctx.waitResult = false →
        isFencedPart part = false → isShadowing part = false → (∀ d ∈ childPorts x, ∃ g ∈ got, g.1 = T ∧ g.2.1 = d) →
        Completes (.upwardTick p c) s (fun t =>
          sent t T ((got.filter (fun g => g.1 = T)).foldl (fun v g => v ||| g.2.2) w) ∧ (treeAt t k).got = got.filter (fun g => decide (T < g.1))
          ∧ t.parts = s.parts ∧ t.mem = s.mem)))
    ∧ (∀ T w, x.valid = true → x.own = [(T, w)] → x.root = false → SendsNow s x.parent → part.ctx.waitResult = false →
      isFencedPart part = false → isShadowing part = false → (∃ d ∈ childPorts x, ∀ g ∈ x.got, g.1 = T → g.2.1 ≠ d) →
      Completes (.voteWaitExpiry k) s (fun t =>
        sent t T ((x.got.filter (fun g => g.1 = T)).foldl (fun v g => v ||| g.2.2) w ||| 1)
        ∧ (∃ d ∈ childPorts x, (treeAt t k).suspectDev = (portAt s d).partnerDev ∧ ∀ g ∈ x.got, g.1 = T → g.2.1 ≠ d)
        ∧ t.parts = s.parts ∧ t.mem = s.mem))
  ) ∧ (
  ∀ (p : Nat) (c : CtlSlot) (s : State), SymbolArrives s 1 c →
    let k := c.tree
    let x := treeAt s k
    let T := fullTick (now s) (field c.sym.toNat 0 24)
    let v := BitVec.ofNat 8 (field c.sym.toNat 24 8)
    let part := partAt s x.part
    x.root = false → x.parent = p → s.tick.armed = false → isFencedPart part = false → (∀ d ∈ childPorts x, SendsNow s d) →
    part.ctx.waitResult = false → shadowDue part x.part T = false → v.getLsbD 0 = false → v.getLsbD 5 = false → Completes (.downwardTick p c) s (fun t =>
      (treeAt t k).lastTick = T ∧ (treeAt t k).lastVote = v ∧ (∀ d ∈ childPorts x, Emission.symbol d (tickSlot part T v) ∈ t.out)
      ∧ (partAt t x.part).ckpt.pending = (part.ckpt.pending || v.getLsbD 3)
      ∧ (part.ctx.active = true → part.ctx.firstTick ≤ T → (partAt t x.part).ctx.nonfiniteSeen = (part.ctx.nonfiniteSeen || v.getLsbD 1))
      ∧ (partAt t x.part).state = part.state ∧ (partAt t x.part).settle = part.settle ∧ t.mem = s.mem ∧ t.tiles = s.tiles ∧ t.tick = s.tick))

/-- DOWNWARD_TICK at settlement (R427, R391): the awaited result without ABORT, DISPUTE or HOLD settles the step: clean, the versions flip and
the update count rises; under SKIP neither changes and the step counts as skipped; the next step begins at the following tick with attempt 1,
the journal keeping only what is stamped past the tick. With HOLD the partition holds and the versions stay. -/
def Obligations.StepsSettleByTheirResult : Prop :=
  ∀ (p : Nat) (c : CtlSlot) (s : State), SymbolArrives s 1 c →
    let x := treeAt s c.tree
    let T := fullTick (now s) (field c.sym.toNat 0 24)
    let v := BitVec.ofNat 8 (field c.sym.toNat 24 8)
    let q := x.part
    let part := partAt s q
    x.root = false → x.parent = p → part.state = .running → part.ctx.waitResult = true → part.ctx.awaited = T →
    v.getLsbD 0 = false → v.getLsbD 5 = false →
    (v.getLsbD 6 = false → v.getLsbD 3 = false → Completes (.downwardTick p c) s (fun t =>
      let z := (partAt t q).settle
      (v.getLsbD 7 = false → z.settledVer = 1 - part.settle.settledVer ∧ z.updateCount = (part.settle.updateCount + 1) % 2 ^ 32
        ∧ z.producedBy = part.ctx.step ∧ (partAt t q).ctx.skippedSteps = part.ctx.skippedSteps)
      ∧ (v.getLsbD 7 = true → z.settledVer = part.settle.settledVer ∧ z.updateCount = part.settle.updateCount
        ∧ z.producedBy = part.settle.producedBy ∧ (partAt t q).ctx.skippedSteps = part.ctx.skippedSteps + 1)
      ∧ z.rangesDone = [] ∧ z.disputeOnce = [] ∧ z.journal = part.settle.journal.filterMap (carryMsg T)
      ∧ (partAt t q).ctx.step = part.ctx.step + 1 ∧ (partAt t q).ctx.firstTick = T + 1 ∧ (partAt t q).ctx.attempt = 1
      ∧ (partAt t q).ctx.active = true ∧ (partAt t q).ctx.waitResult = false ∧ (partAt t q).buckets = []
      ∧ (∀ r, r ≠ q → partAt t r = partAt s r) ∧ t.cmds = s.cmds))
    ∧ (v.getLsbD 6 = true → v.getLsbD 3 = false → Completes (.downwardTick p c) s (fun t =>
      (partAt t q).ctx.holding = true ∧ (partAt t q).ctx.waitResult = false ∧ (partAt t q).settle = part.settle
      ∧ (partAt t q).ctx.step = part.ctx.step ∧ (∀ r, r ≠ q → partAt t r = partAt s r) ∧ t.mem = s.mem))

/-- ABORT_SYMBOL and FENCE_SYMBOL (R226, R312 to R314, R431): an abort of the present epoch aborts a running partition at its tick, and passes
through one with no step to abort with the epoch advanced; a fence notice is remembered, and a second has no effect; one that names this module
with a newer epoch fences its job and makes the device FENCED.

TIMING_PARENT_LOST (R311): a LOCKED module clears LOCKED, names its parent as a suspect and aborts the running job's step; a module that
is not LOCKED is unchanged. -/
def Obligations.AbortsFencesAndLostParents : Prop :=
  (
  ∀ (p : Nat) (c : CtlSlot) (s : State),
    let q := (treeAt s c.tree).part
    let part := partAt s q
    (SymbolArrives s 2 c → field c.sym.toNat 32 16 = part.abortEpoch →
      let a := fullTick (now s) (field c.sym.toNat 0 24)
      (part.state = .running → part.purge = none → Completes (.abortSymbol p c) s (fun t => AbortedAt s t q a false))
      ∧ (part.state = .loaded → Completes (.abortSymbol p c) s (fun t =>
          (partAt t q).aborted = some (part.abortEpoch, a) ∧ (partAt t q).abortEpoch = next16 part.abortEpoch ∧ (partAt t q).state = .loaded
          ∧ (∀ r, r ≠ q → partAt t r = partAt s r) ∧ t.mem = s.mem ∧ t.tiles = s.tiles)))
    ∧ (c.typ = 3 → symOk c = true → (treeAt s c.tree).valid = true →
      let dev := field c.sym.toNat 0 16
      let epoch := field c.sym.toNat 16 32
      (s.fencesSeen.contains (dev + 65536 * q, epoch) = true → exec (.fenceSymbol p c) s = .next (takeSymbol s p c))
      ∧ (s.fencesSeen.contains (dev + 65536 * q, epoch) = false →
        ((s.devIdValid = false ∨ dev ≠ s.devId) → Completes (.fenceSymbol p c) s (fun t =>
          t.fencesSeen = s.fencesSeen ++ [(dev + 65536 * q, epoch)] ∧ t.parts = s.parts ∧ t.dev = s.dev ∧ t.mem = s.mem))
        ∧ (s.devIdValid = true → dev = s.devId → newerEpoch epoch (jobEpochOf part) = true → q < 16 → isBound part = true →
          Completes (.fenceSymbol p c) s (fun t =>
            t.fencesSeen = s.fencesSeen ++ [(dev + 65536 * q, epoch)] ∧ isFencedPart (partAt t q) = true
            ∧ (s.dev = .ready ∨ s.dev = .degraded → t.dev = .fenced)))))
  ) ∧ (
  ∀ s : State, (s.tick.locked = false → exec .timingParentLost s = .next s)
    ∧ (∀ k p, timingParent s = some (k, p) → (partAt s (treeAt s k).part).state = .running → (partAt s (treeAt s k).part).purge = none →
      Completes .timingParentLost s (fun t => t.tick = { s.tick with locked := false } ∧ (treeAt t k).suspectDev = (portAt s p).partnerDev
        ∧ AbortedAt s t (treeAt s k).part (now s) false)))

/-- TIME_REQ_SEND, TIME_REQ, TIME_RSP and PERIOD_SYMBOL (R309, R310): a request leaves on the timing tree's parent port with its departure
noted; a child's request is answered with the low bits of the tick time; the answer gives the hop delay and steers the tick time to the
parent's plus that delay; a period is loaded for the next tick whose low 16 bits it names and passed to every child. -/
def Obligations.TickTimeFollowsTheParent : Prop :=
  ∀ (p : Nat) (s : State),
    (∀ k, (List.range 16).find? (fun k => (treeAt s k).valid && (treeAt s k).timing && isParentPort p s (treeAt s k)) = some k → SendsNow s p →
      isFencedPart (partAt s (treeAt s k).part) = false → Completes (.timeReqSend p) s (fun t =>
        (portAt t p).timeReqAt = some (16 * s.cycle) ∧ Emission.symbol p (treeSlot (partAt s (treeAt s k).part) 4 0) ∈ t.out
        ∧ (∀ j, j ≠ p → portAt t j = portAt s j) ∧ OnlyLinks s t []))
    ∧ (∀ c, SymbolArrives s 4 c → p < 16 → (treeAt s c.tree).childMask.getLsbD p = true → SendsNow s p →
      isFencedPart (partAt s (treeAt s c.tree).part) = false → Completes (.timeReq p c) s (fun t =>
        Emission.symbol p (treeSlot (partAt s (treeAt s c.tree).part) 5 (unsigned 28 (tickTime s))) ∈ t.out ∧ OnlyLinks s t []))
    ∧ (∀ c t1, SymbolArrives s 5 c → (treeAt s c.tree).root = false → (treeAt s c.tree).parent = p → (treeAt s c.tree).timing = true →
      s.tick.armed = false → (portAt s p).timeReqAt = some t1 → Completes (.timeRsp p c) s (fun t =>
        let delay := (16 * s.cycle - t1 - field c.sym.toNat 28 20) / 2
        (portAt t p).delay = delay ∧ (portAt t p).delayValid = true ∧ (portAt t p).timeReqAt = none
        ∧ tickTime t = fullTime (tickTime s) (field c.sym.toNat 0 28) + delay
        ∧ (∀ j, j ≠ p → portAt t j = portAt s j) ∧ t = { s with ports := t.ports, tick := t.tick }))
    ∧ (∀ c, SymbolArrives s 6 c → (treeAt s c.tree).root = false → (treeAt s c.tree).parent = p → (treeAt s c.tree).timing = true →
      s.tick.armed = false → isFencedPart (partAt s (treeAt s c.tree).part) = false → (∀ d ∈ childPorts (treeAt s c.tree), SendsNow s d) →
      Completes (.periodSymbol p c) s (fun t =>
        t.tick = { s.tick with pendingPeriod := field c.sym.toNat 0 32, pendingAt := t.tick.pendingAt }
        ∧ now s ≤ t.tick.pendingAt ∧ t.tick.pendingAt < now s + 65536 ∧ t.tick.pendingAt % 65536 = field c.sym.toNat 32 16
        ∧ (∀ d ∈ childPorts (treeAt s c.tree), Emission.symbol d
            (periodSlot (partAt s (treeAt s c.tree).part) (field c.sym.toNat 0 32) t.tick.pendingAt) ∈ t.out)
        ∧ t = { s with ports := t.ports, out := t.out, tick := t.tick }))

/-- BUCKET_START (R382 to R385): the oldest waiting trigger of a bucket opens its exchange, while fewer than 256 are open, once its reads have
entered. For a reduction, in D64 where it is preset, each block holds this rank's contribution, converted at the anchor latched for the step, and
the block after the last one its summary; for an ALL_GATHER the rank's own units are results as they stand in memory.

BUCKET_EXCHANGE_COMPLETE (R382, R386 to R388): when every result has come, each wanted block is written at the destination as binary32
words and its flag byte in the flag plane, no other byte changes, the bucket's next anchor follows from the summary, and its done token, TAKEN where
a block is not EMPTY, goes on the mesh; with SAT in a D32 summary the exchange starts again in D64 and an overdraft is counted; a result still
missing, a written exchange and a bucket spoilt by a block fault change nothing. -/
def Obligations.ExchangesOpenAndWriteTheirResults : Prop :=
  (
  ∀ (q b i : Nat) (run : BucketRun) (k : BucketRec) (s : State),
    let p := partAt s q
    busyRun p b = none → (withPos p.buckets).find? (fun x => x.2.b = b && !x.2.opened) = some (i, run) → bucketRec p b = some k →
    (256 ≤ openBuckets s ∨ oldestAsked s ≠ some run.asked → exec (.bucketStart q b) s = .next s)
    ∧ (openBuckets s < 256 → oldestAsked s = some run.asked → 0 < k.p → run.blocks = [] → run.results = [] →
      (∀ x ∈ p.earlyDeposits, x.1 ≠ b) → s.poison = [] → s.upsets = [] → (∀ x ∈ roundReads p k run.taken, PlainSpan s x.1 x.2) →
      Funded s q (128 * k.blocks) → Completes (.bucketStart q b) s (fun t =>
        let d64 := p.ctx.presetD64.contains b
        let c := contributions s p k b d64 run.taken
        (partAt t q).buckets.length = p.buckets.length
        ∧ ∃ run', (partAt t q).buckets[i]? = some run' ∧ run'.b = b ∧ run'.opened = true ∧ run'.tick = run.tick ∧ run'.written = run.written
          ∧ (k.op ≠ 2 → run'.d64 = d64 ∧ c.1.length = k.blocks ∧ (∀ j, j < k.blocks → c.1[j]? = some (run'.blocks.at j {}))
            ∧ run'.blocks.at k.blocks {} = summaryOf k d64 run.taken (bucketAnchorOf p b) c.1 c.2.top ∧ run'.clamped = c.2.clamped)
          ∧ (k.op = 2 → run'.d64 = false ∧ (∀ x ∈ gatherUnits s p k, run'.results.find x.1 = some x.2)
            ∧ run'.blocks.at k.blocks {} = zeroDep (!run.taken) k.rank)))
  ) ∧ (
  ∀ (q b i : Nat) (run : BucketRun) (k : BucketRec) (s : State),
    let p := partAt s q
    let dst := imageAddr p k.dst
    let flags := imageAddr p k.flagsAddr
    bucketRec p b = some k → busyRun p b = some (i, run) →
    (p.spoilt.contains b = true ∨ run.written = true ∨ run.results.find k.blocks = none → exec (.bucketExchangeComplete q b) s = .next s)
    ∧ ∀ sm, run.results.find k.blocks = some sm → p.spoilt.contains b = false → run.written = false → k.op ≠ 2 → 0 < k.p →
    (sm.sat = false → sm.nonfinite = false → run.d64 = false ∨ run.preset = true → Memory.wf s.mem = true → PlainSpan s dst (128 * k.blocks) →
      PlainSpan s flags k.blocks → (dst + 128 * k.blocks ≤ flags ∨ flags + k.blocks ≤ dst) → Funded s q (129 * k.blocks) →
      (∀ j, j < k.blocks → k.wants j = true → ∃ z, run.results.find j = some z ∧ z.elems.length = 32 ∧ z.empty = false) →
      Completes (.bucketExchangeComplete q b) s (fun t =>
        (∀ j, j < k.blocks → k.wants j = true → ∀ e, e < 32 → le (readBytes t.mem (dst + 128 * j) 128) (4 * e) 4
          = (if (run.results.at j {}).nonfinite then 0x7FC00000
             else (drainIeee fp32 rne 0 ((run.results.at j {}).elems.getD e 0) (bucketAnchorOf p b)).1 % 2 ^ 32))
        ∧ (∀ j, j < k.blocks → k.wants j = true → (readCells t.mem (flags + j)).toNat = resultFlags run.d64 (run.results.at j {}))
        ∧ (∀ a, (∀ j, j < k.blocks → k.wants j = true → (a < dst + 128 * j ∨ dst + 128 * j + 128 ≤ a) ∧ a ≠ flags + j) →
            readCells t.mem a = readCells s.mem a)
        ∧ (partAt t q).ctx.bucketNext.at b 0 = (nextAnchorGo (bucketAnchorOf p b) (k.top run.d64 (bucketAnchorOf p b)) k.w 0 sm.elems).1
        ∧ (∃ run', (partAt t q).buckets[i]? = some run' ∧ run'.written = true)
        ∧ t.tokens = s.tokens ++ [(fabricUnit, tokenBits k.doneActor k.doneSlot ((List.range k.blocks).any k.wants) (tileOfLocal p k.doneTile)
            run.tick p.abortEpoch)] ∧ t.regs = s.regs))
    ∧ (sm.sat = true → run.d64 = false → (∀ x ∈ p.earlyDeposits, x.1 ≠ b) → Completes (.bucketExchangeComplete q b) s (fun t =>
        (∃ run', (partAt t q).buckets[i]? = some run' ∧ run'.d64 = true ∧ run'.written = false)
        ∧ regField t (lnkBucket q) 16 16 = min (regField s (lnkBucket q) 16 16 + 1) 65535 ∧ (partAt t q).ctx.overdraftSeen = true
        ∧ t.tokens = s.tokens)))

/-- UPDATE_RANGE (R412, R413, R460): with no partner to forward to and no pinned granule, a started range reads each of its parameters from
the settled version and writes the update into the alternate one; no other byte changes, the range is done and no longer among its tile's
work. A range that meets pinned granules waits for them and changes no byte. A cold newcomer's ranges wait.

ESCROW_PASS and CATCH_UP_UNIT (R423, R424): the pass takes a hold's blocks in order, each once it has arrived whole and its unit's catch-up
has passed, and writes no byte; a unit of catch-up puts every parameter of it at its next state in the copy and changes no other byte; WATERMARK
advances, and with the last unit it clears, COPY_STEP rises and catch-up ends. -/
def Obligations.UpdatesEscrowPassesAndCatchUp : Prop :=
  (
  ∀ (q i t a : Nat) (r : Recipe) (s : State),
    let p := partAt s q
    let lo := paramAddr p (altVer p) r.first
    let apart := fun (x n : Nat) => x + n ≤ lo ∨ lo + 12 * r.count ≤ x
    rangeOwner s q i = some (t, a) → (ownRecipes p)[i]? = some r →
    (isIncomplete p = true → exec (.updateRange q i) s = .next s)
    ∧ (isIncomplete p = false → rangePins p r ≠ [] → Completes (.updateRange q i) s (fun u =>
      (∃ c, (partAt u q).ckpt.copy = some c ∧ ∀ g ∈ rangePins p r, g ∈ c.waiting) ∧ (∀ y, y ≠ q → partAt u y = partAt s y) ∧ u = { s with parts := u.parts }))
    ∧ ∀ bk, (p.join = {} → rangePins p r = [] → r.narrowOut = false → settling s p = false → (∀ j, j < 2 → keeps (escrowSlot p j) = false) →
      bucketRec p r.bucket = some bk → (∀ x ∈ rangeReads p r ++ rangeWrites p r, PlainSpan s x.1 x.2) → s.poison = [] → s.upsets = [] →
      Funded s q (32 * r.count + 1) → Memory.wf s.mem = true →
      (∀ n, r.first ≤ n → n < r.first + r.count → apart (paramAddr p p.settle.settledVer n) 12
        ∧ apart (imageAddr p bk.dst + 128 * r.block + 4 * (n - r.first)) 4 ∧ apart (imageAddr p bk.flagsAddr + (r.block + (n - r.first) / 32)) 1) →
      Completes (.updateRange q i) s (fun u =>
        (∀ n, r.first ≤ n → n < r.first + r.count → readBytes u.mem (paramAddr p (altVer p) n) 12
          = updateBytes r p.ctx.lrScale.toNat (p.settle.updateCount + 1) (readBytes s.mem (paramAddr p p.settle.settledVer n) 12)
              (gradientOf s p r n).1 (gradientOf s p r n).2)
        ∧ SameMemoryOutside lo (12 * r.count) s u
        ∧ (∃ ps, (partAt u q).settle = { p.settle with rangesDone := insertNat p.settle.rangesDone i, pieces := ps })
        ∧ (tileAt u t).sched.updates = (tileAt s t).sched.updates.filter (fun x => x ≠ (a, i))
        ∧ (∀ y, y ≠ t → tileAt u y = tileAt s y) ∧ (∀ y, y ≠ q → partAt u y = partAt s y) ∧ u.regs = s.regs))
  ) ∧ (
  ∀ (q k : Nat) (s : State), k < 2 →
    let p := partAt s q
    let e := escrowSlot p (2 + k)
    (∀ b, blockArrived p k b = false ∨ e.passDone ≠ b ∨ (e.catchUp = true ∧ e.watermark ≤ 32 * b / unitParams) →
      exec (.escrowPass q k b) s = .next s)
    ∧ (∀ b, e.role ≠ 0 → e.passDone = b → b < ownerBlocks p k → (forwardValues s p k).1 = p.ctx.step → blockArrived p k b = true →
      e.catchUp = false ∨ 32 * b / unitParams < e.watermark → settling s p = false → Funded s q 516 →
      Completes (.escrowPass q k b) s (fun t =>
        escrowSlot (partAt t q) (2 + k) = { e with passDone := b + 1 } ∧ (∀ j, j ≠ 2 + k → escrowSlot (partAt t q) j = escrowSlot p j)
        ∧ (∀ r, r ≠ q → partAt t r = partAt s r) ∧ t = { s with parts := t.parts }))
    ∧ (e.catchUp = true → e.watermark < unitsOf (ownerParams p k) → Memory.wf s.mem = true →
      PlainSpan s (escrowBase p k) (65536 + 12 * ownerParams p k) →
      let lo := 32768 * e.watermark
      let n := min 32768 (ownerParams p k - lo)
      Funded s q (29 * n + 132) → Completes (.catchUpUnit q k) s (fun t =>
        (∀ j, j < n → readBytes t.mem (copyAddr p k (lo + j)) 12 = escrowNext s p k (lo + j))
        ∧ SameMemoryOutside (copyAddr p k lo) (12 * n) s t
        ∧ (e.watermark + 1 < unitsOf (ownerParams p k) → escrowSlot (partAt t q) (2 + k) = { e with watermark := e.watermark + 1 })
        ∧ (unitsOf (ownerParams p k) ≤ e.watermark + 1 →
            escrowSlot (partAt t q) (2 + k) = { e with watermark := 0, copyStep := e.copyStep + 1, catchUp := false })
        ∧ (∀ r, r ≠ q → partAt t r = partAt s r) ∧ t.regs = s.regs ∧ t.tiles = s.tiles)))
end

