-- ==== Sys2Proof/Laws/Tab.lean ====
section
/-! SUPPORT. Sparse tables: what a set entry and the others read as. -/

namespace Sys2Proof.Machine

variable {α : Type}

/-- An entry just set is found, with its value; every other is found as before. -/
theorem Tab.find_put (t : Tab α) (i j : Nat) (a : α) : (t.put i a).find j = if i = j then some a else t.find j := by
  induction t with
  | nil => simp [Tab.put, Tab.find]
  | cons x t ih =>
    obtain ⟨k, v⟩ := x
    by_cases h : k = i
    · subst h
      by_cases g : k = j <;> simp [Tab.put, Tab.find, g]
    · by_cases h' : i < k
      · by_cases g : i = j
        · subst g
          simp [Tab.put, Tab.find, h, h']
        · simp [Tab.put, Tab.find, h, h', g]
      · by_cases g : k = j
        · subst g
          simp [Tab.put, Tab.find, h, h', Ne.symm h]
        · simp [Tab.put, Tab.find, h, h', g, ih]

@[simp] theorem Tab.find_put_same (t : Tab α) (i : Nat) (a : α) : (t.put i a).find i = some a := by simp [Tab.find_put]

@[simp] theorem Tab.find_put_ne (t : Tab α) {i j : Nat} (h : i ≠ j) (a : α) : (t.put i a).find j = t.find j := by
  simp [Tab.find_put, h]

@[simp] theorem Tab.at_put_same (t : Tab α) (i : Nat) (a d : α) : (t.put i a).at i d = a := by simp [Tab.at]

@[simp] theorem Tab.at_put_ne (t : Tab α) {i j : Nat} (h : i ≠ j) (a d : α) : (t.put i a).at j d = t.at j d := by
  simp [Tab.at, h]

/-- A dropped entry is not found; every other is found as before. -/
theorem Tab.find_drop (t : Tab α) (i j : Nat) : (t.drop i).find j = if i = j then none else t.find j := by
  induction t with
  | nil => simp [Tab.drop, Tab.find]
  | cons x t ih =>
    obtain ⟨k, v⟩ := x
    by_cases h : k = i
    · subst h
      by_cases g : k = j
      · subst g
        simpa [Tab.drop] using ih
      · simpa [Tab.drop, Tab.find, g] using ih
    · by_cases g : k = j
      · subst g
        simp [Tab.drop, Tab.find, h, Ne.symm h]
      · have := ih
        simp only [Tab.drop] at this
        simp [Tab.drop, Tab.find, h, g, this]

end Sys2Proof.Machine
end

