-- ==== Sys2Proof/Laws/State.lean ====
section
/-! SUPPORT. What each update of the state leaves: one rule per field. -/

namespace Sys2Proof.Machine

variable (s : State)

/-- `setTile` leaves every field but tiles. -/
@[simp] theorem setTile_fields (t : Nat) (x : Tile) :
  (setTile s t x).pending = s.pending ∧ (setTile s t x).out = s.out ∧ (setTile s t x).mem = s.mem ∧ (setTile s t x).poison = s.poison ∧
    (setTile s t x).upsets = s.upsets ∧ (setTile s t x).tokens = s.tokens ∧ (setTile s t x).replies = s.replies ∧
    (setTile s t x).delivered = s.delivered ∧ (setTile s t x).regs = s.regs ∧ (setTile s t x).cycle = s.cycle ∧
    (setTile s t x).fresh = s.fresh ∧ (setTile s t x).fuses = s.fuses ∧ (setTile s t x).dev = s.dev ∧ (setTile s t x).devId = s.devId ∧
    (setTile s t x).devIdValid = s.devIdValid ∧ (setTile s t x).fdTag = s.fdTag ∧ (setTile s t x).cols = s.cols ∧
    (setTile s t x).tick = s.tick ∧ (setTile s t x).parts = s.parts ∧ (setTile s t x).fs = s.fs ∧ (setTile s t x).cvus = s.cvus ∧
    (setTile s t x).ports = s.ports ∧ (setTile s t x).trees = s.trees ∧ (setTile s t x).flows = s.flows ∧
    (setTile s t x).slots = s.slots ∧ (setTile s t x).slotGen = s.slotGen ∧ (setTile s t x).fencesSeen = s.fencesSeen ∧
    (setTile s t x).conns = s.conns ∧ (setTile s t x).eths = s.eths ∧ (setTile s t x).bootPort = s.bootPort ∧
    (setTile s t x).hosts = s.hosts ∧ (setTile s t x).cmds = s.cmds ∧ (setTile s t x).incarnation = s.incarnation ∧
    (setTile s t x).eventNo = s.eventNo ∧ (setTile s t x).engineEpoch = s.engineEpoch ∧ (setTile s t x).ctxBook = s.ctxBook ∧
    (setTile s t x).mgt = s.mgt ∧ (setTile s t x).pwr = s.pwr := by
  repeat' constructor

/-- `modTile` leaves every field but tiles. -/
@[simp] theorem modTile_fields (t : Nat) (f : Tile → Tile) :
  (modTile s t f).pending = s.pending ∧ (modTile s t f).out = s.out ∧ (modTile s t f).mem = s.mem ∧ (modTile s t f).poison = s.poison ∧
    (modTile s t f).upsets = s.upsets ∧ (modTile s t f).tokens = s.tokens ∧ (modTile s t f).replies = s.replies ∧
    (modTile s t f).delivered = s.delivered ∧ (modTile s t f).regs = s.regs ∧ (modTile s t f).cycle = s.cycle ∧
    (modTile s t f).fresh = s.fresh ∧ (modTile s t f).fuses = s.fuses ∧ (modTile s t f).dev = s.dev ∧ (modTile s t f).devId = s.devId ∧
    (modTile s t f).devIdValid = s.devIdValid ∧ (modTile s t f).fdTag = s.fdTag ∧ (modTile s t f).cols = s.cols ∧
    (modTile s t f).tick = s.tick ∧ (modTile s t f).parts = s.parts ∧ (modTile s t f).fs = s.fs ∧ (modTile s t f).cvus = s.cvus ∧
    (modTile s t f).ports = s.ports ∧ (modTile s t f).trees = s.trees ∧ (modTile s t f).flows = s.flows ∧
    (modTile s t f).slots = s.slots ∧ (modTile s t f).slotGen = s.slotGen ∧ (modTile s t f).fencesSeen = s.fencesSeen ∧
    (modTile s t f).conns = s.conns ∧ (modTile s t f).eths = s.eths ∧ (modTile s t f).bootPort = s.bootPort ∧
    (modTile s t f).hosts = s.hosts ∧ (modTile s t f).cmds = s.cmds ∧ (modTile s t f).incarnation = s.incarnation ∧
    (modTile s t f).eventNo = s.eventNo ∧ (modTile s t f).engineEpoch = s.engineEpoch ∧ (modTile s t f).ctxBook = s.ctxBook ∧
    (modTile s t f).mgt = s.mgt ∧ (modTile s t f).pwr = s.pwr := by
  repeat' constructor

/-- `modArr` leaves every field but tiles. -/
@[simp] theorem modArr_fields (t : Nat) (f : Arr → Arr) :
  (modArr s t f).pending = s.pending ∧ (modArr s t f).out = s.out ∧ (modArr s t f).mem = s.mem ∧ (modArr s t f).poison = s.poison ∧
    (modArr s t f).upsets = s.upsets ∧ (modArr s t f).tokens = s.tokens ∧ (modArr s t f).replies = s.replies ∧
    (modArr s t f).delivered = s.delivered ∧ (modArr s t f).regs = s.regs ∧ (modArr s t f).cycle = s.cycle ∧
    (modArr s t f).fresh = s.fresh ∧ (modArr s t f).fuses = s.fuses ∧ (modArr s t f).dev = s.dev ∧ (modArr s t f).devId = s.devId ∧
    (modArr s t f).devIdValid = s.devIdValid ∧ (modArr s t f).fdTag = s.fdTag ∧ (modArr s t f).cols = s.cols ∧
    (modArr s t f).tick = s.tick ∧ (modArr s t f).parts = s.parts ∧ (modArr s t f).fs = s.fs ∧ (modArr s t f).cvus = s.cvus ∧
    (modArr s t f).ports = s.ports ∧ (modArr s t f).trees = s.trees ∧ (modArr s t f).flows = s.flows ∧ (modArr s t f).slots = s.slots ∧
    (modArr s t f).slotGen = s.slotGen ∧ (modArr s t f).fencesSeen = s.fencesSeen ∧ (modArr s t f).conns = s.conns ∧
    (modArr s t f).eths = s.eths ∧ (modArr s t f).bootPort = s.bootPort ∧ (modArr s t f).hosts = s.hosts ∧ (modArr s t f).cmds = s.cmds ∧
    (modArr s t f).incarnation = s.incarnation ∧ (modArr s t f).eventNo = s.eventNo ∧ (modArr s t f).engineEpoch = s.engineEpoch ∧
    (modArr s t f).ctxBook = s.ctxBook ∧ (modArr s t f).mgt = s.mgt ∧ (modArr s t f).pwr = s.pwr := by
  repeat' constructor

/-- `modDrain` leaves every field but tiles. -/
@[simp] theorem modDrain_fields (t : Nat) (f : Drain → Drain) :
  (modDrain s t f).pending = s.pending ∧ (modDrain s t f).out = s.out ∧ (modDrain s t f).mem = s.mem ∧
    (modDrain s t f).poison = s.poison ∧ (modDrain s t f).upsets = s.upsets ∧ (modDrain s t f).tokens = s.tokens ∧
    (modDrain s t f).replies = s.replies ∧ (modDrain s t f).delivered = s.delivered ∧ (modDrain s t f).regs = s.regs ∧
    (modDrain s t f).cycle = s.cycle ∧ (modDrain s t f).fresh = s.fresh ∧ (modDrain s t f).fuses = s.fuses ∧
    (modDrain s t f).dev = s.dev ∧ (modDrain s t f).devId = s.devId ∧ (modDrain s t f).devIdValid = s.devIdValid ∧
    (modDrain s t f).fdTag = s.fdTag ∧ (modDrain s t f).cols = s.cols ∧ (modDrain s t f).tick = s.tick ∧
    (modDrain s t f).parts = s.parts ∧ (modDrain s t f).fs = s.fs ∧ (modDrain s t f).cvus = s.cvus ∧ (modDrain s t f).ports = s.ports ∧
    (modDrain s t f).trees = s.trees ∧ (modDrain s t f).flows = s.flows ∧ (modDrain s t f).slots = s.slots ∧
    (modDrain s t f).slotGen = s.slotGen ∧ (modDrain s t f).fencesSeen = s.fencesSeen ∧ (modDrain s t f).conns = s.conns ∧
    (modDrain s t f).eths = s.eths ∧ (modDrain s t f).bootPort = s.bootPort ∧ (modDrain s t f).hosts = s.hosts ∧
    (modDrain s t f).cmds = s.cmds ∧ (modDrain s t f).incarnation = s.incarnation ∧ (modDrain s t f).eventNo = s.eventNo ∧
    (modDrain s t f).engineEpoch = s.engineEpoch ∧ (modDrain s t f).ctxBook = s.ctxBook ∧ (modDrain s t f).mgt = s.mgt ∧
    (modDrain s t f).pwr = s.pwr := by
  repeat' constructor

/-- `modVec` leaves every field but tiles. -/
@[simp] theorem modVec_fields (t : Nat) (f : Vec → Vec) :
  (modVec s t f).pending = s.pending ∧ (modVec s t f).out = s.out ∧ (modVec s t f).mem = s.mem ∧ (modVec s t f).poison = s.poison ∧
    (modVec s t f).upsets = s.upsets ∧ (modVec s t f).tokens = s.tokens ∧ (modVec s t f).replies = s.replies ∧
    (modVec s t f).delivered = s.delivered ∧ (modVec s t f).regs = s.regs ∧ (modVec s t f).cycle = s.cycle ∧
    (modVec s t f).fresh = s.fresh ∧ (modVec s t f).fuses = s.fuses ∧ (modVec s t f).dev = s.dev ∧ (modVec s t f).devId = s.devId ∧
    (modVec s t f).devIdValid = s.devIdValid ∧ (modVec s t f).fdTag = s.fdTag ∧ (modVec s t f).cols = s.cols ∧
    (modVec s t f).tick = s.tick ∧ (modVec s t f).parts = s.parts ∧ (modVec s t f).fs = s.fs ∧ (modVec s t f).cvus = s.cvus ∧
    (modVec s t f).ports = s.ports ∧ (modVec s t f).trees = s.trees ∧ (modVec s t f).flows = s.flows ∧ (modVec s t f).slots = s.slots ∧
    (modVec s t f).slotGen = s.slotGen ∧ (modVec s t f).fencesSeen = s.fencesSeen ∧ (modVec s t f).conns = s.conns ∧
    (modVec s t f).eths = s.eths ∧ (modVec s t f).bootPort = s.bootPort ∧ (modVec s t f).hosts = s.hosts ∧ (modVec s t f).cmds = s.cmds ∧
    (modVec s t f).incarnation = s.incarnation ∧ (modVec s t f).eventNo = s.eventNo ∧ (modVec s t f).engineEpoch = s.engineEpoch ∧
    (modVec s t f).ctxBook = s.ctxBook ∧ (modVec s t f).mgt = s.mgt ∧ (modVec s t f).pwr = s.pwr := by
  repeat' constructor

/-- `modSched` leaves every field but tiles. -/
@[simp] theorem modSched_fields (t : Nat) (f : Sched → Sched) :
  (modSched s t f).pending = s.pending ∧ (modSched s t f).out = s.out ∧ (modSched s t f).mem = s.mem ∧
    (modSched s t f).poison = s.poison ∧ (modSched s t f).upsets = s.upsets ∧ (modSched s t f).tokens = s.tokens ∧
    (modSched s t f).replies = s.replies ∧ (modSched s t f).delivered = s.delivered ∧ (modSched s t f).regs = s.regs ∧
    (modSched s t f).cycle = s.cycle ∧ (modSched s t f).fresh = s.fresh ∧ (modSched s t f).fuses = s.fuses ∧
    (modSched s t f).dev = s.dev ∧ (modSched s t f).devId = s.devId ∧ (modSched s t f).devIdValid = s.devIdValid ∧
    (modSched s t f).fdTag = s.fdTag ∧ (modSched s t f).cols = s.cols ∧ (modSched s t f).tick = s.tick ∧
    (modSched s t f).parts = s.parts ∧ (modSched s t f).fs = s.fs ∧ (modSched s t f).cvus = s.cvus ∧ (modSched s t f).ports = s.ports ∧
    (modSched s t f).trees = s.trees ∧ (modSched s t f).flows = s.flows ∧ (modSched s t f).slots = s.slots ∧
    (modSched s t f).slotGen = s.slotGen ∧ (modSched s t f).fencesSeen = s.fencesSeen ∧ (modSched s t f).conns = s.conns ∧
    (modSched s t f).eths = s.eths ∧ (modSched s t f).bootPort = s.bootPort ∧ (modSched s t f).hosts = s.hosts ∧
    (modSched s t f).cmds = s.cmds ∧ (modSched s t f).incarnation = s.incarnation ∧ (modSched s t f).eventNo = s.eventNo ∧
    (modSched s t f).engineEpoch = s.engineEpoch ∧ (modSched s t f).ctxBook = s.ctxBook ∧ (modSched s t f).mgt = s.mgt ∧
    (modSched s t f).pwr = s.pwr := by
  repeat' constructor

/-- `setPart` leaves every field but parts. -/
@[simp] theorem setPart_fields (q : Nat) (x : Part) :
  (setPart s q x).pending = s.pending ∧ (setPart s q x).out = s.out ∧ (setPart s q x).mem = s.mem ∧ (setPart s q x).poison = s.poison ∧
    (setPart s q x).upsets = s.upsets ∧ (setPart s q x).tokens = s.tokens ∧ (setPart s q x).replies = s.replies ∧
    (setPart s q x).delivered = s.delivered ∧ (setPart s q x).regs = s.regs ∧ (setPart s q x).cycle = s.cycle ∧
    (setPart s q x).fresh = s.fresh ∧ (setPart s q x).fuses = s.fuses ∧ (setPart s q x).dev = s.dev ∧ (setPart s q x).devId = s.devId ∧
    (setPart s q x).devIdValid = s.devIdValid ∧ (setPart s q x).fdTag = s.fdTag ∧ (setPart s q x).cols = s.cols ∧
    (setPart s q x).tick = s.tick ∧ (setPart s q x).tiles = s.tiles ∧ (setPart s q x).fs = s.fs ∧ (setPart s q x).cvus = s.cvus ∧
    (setPart s q x).ports = s.ports ∧ (setPart s q x).trees = s.trees ∧ (setPart s q x).flows = s.flows ∧
    (setPart s q x).slots = s.slots ∧ (setPart s q x).slotGen = s.slotGen ∧ (setPart s q x).fencesSeen = s.fencesSeen ∧
    (setPart s q x).conns = s.conns ∧ (setPart s q x).eths = s.eths ∧ (setPart s q x).bootPort = s.bootPort ∧
    (setPart s q x).hosts = s.hosts ∧ (setPart s q x).cmds = s.cmds ∧ (setPart s q x).incarnation = s.incarnation ∧
    (setPart s q x).eventNo = s.eventNo ∧ (setPart s q x).engineEpoch = s.engineEpoch ∧ (setPart s q x).ctxBook = s.ctxBook ∧
    (setPart s q x).mgt = s.mgt ∧ (setPart s q x).pwr = s.pwr := by
  repeat' constructor

/-- `modPart` leaves every field but parts. -/
@[simp] theorem modPart_fields (q : Nat) (f : Part → Part) :
  (modPart s q f).pending = s.pending ∧ (modPart s q f).out = s.out ∧ (modPart s q f).mem = s.mem ∧ (modPart s q f).poison = s.poison ∧
    (modPart s q f).upsets = s.upsets ∧ (modPart s q f).tokens = s.tokens ∧ (modPart s q f).replies = s.replies ∧
    (modPart s q f).delivered = s.delivered ∧ (modPart s q f).regs = s.regs ∧ (modPart s q f).cycle = s.cycle ∧
    (modPart s q f).fresh = s.fresh ∧ (modPart s q f).fuses = s.fuses ∧ (modPart s q f).dev = s.dev ∧ (modPart s q f).devId = s.devId ∧
    (modPart s q f).devIdValid = s.devIdValid ∧ (modPart s q f).fdTag = s.fdTag ∧ (modPart s q f).cols = s.cols ∧
    (modPart s q f).tick = s.tick ∧ (modPart s q f).tiles = s.tiles ∧ (modPart s q f).fs = s.fs ∧ (modPart s q f).cvus = s.cvus ∧
    (modPart s q f).ports = s.ports ∧ (modPart s q f).trees = s.trees ∧ (modPart s q f).flows = s.flows ∧
    (modPart s q f).slots = s.slots ∧ (modPart s q f).slotGen = s.slotGen ∧ (modPart s q f).fencesSeen = s.fencesSeen ∧
    (modPart s q f).conns = s.conns ∧ (modPart s q f).eths = s.eths ∧ (modPart s q f).bootPort = s.bootPort ∧
    (modPart s q f).hosts = s.hosts ∧ (modPart s q f).cmds = s.cmds ∧ (modPart s q f).incarnation = s.incarnation ∧
    (modPart s q f).eventNo = s.eventNo ∧ (modPart s q f).engineEpoch = s.engineEpoch ∧ (modPart s q f).ctxBook = s.ctxBook ∧
    (modPart s q f).mgt = s.mgt ∧ (modPart s q f).pwr = s.pwr := by
  repeat' constructor

/-- `modCtx` leaves every field but parts. -/
@[simp] theorem modCtx_fields (q : Nat) (f : StepCtx → StepCtx) :
  (modCtx s q f).pending = s.pending ∧ (modCtx s q f).out = s.out ∧ (modCtx s q f).mem = s.mem ∧ (modCtx s q f).poison = s.poison ∧
    (modCtx s q f).upsets = s.upsets ∧ (modCtx s q f).tokens = s.tokens ∧ (modCtx s q f).replies = s.replies ∧
    (modCtx s q f).delivered = s.delivered ∧ (modCtx s q f).regs = s.regs ∧ (modCtx s q f).cycle = s.cycle ∧
    (modCtx s q f).fresh = s.fresh ∧ (modCtx s q f).fuses = s.fuses ∧ (modCtx s q f).dev = s.dev ∧ (modCtx s q f).devId = s.devId ∧
    (modCtx s q f).devIdValid = s.devIdValid ∧ (modCtx s q f).fdTag = s.fdTag ∧ (modCtx s q f).cols = s.cols ∧
    (modCtx s q f).tick = s.tick ∧ (modCtx s q f).tiles = s.tiles ∧ (modCtx s q f).fs = s.fs ∧ (modCtx s q f).cvus = s.cvus ∧
    (modCtx s q f).ports = s.ports ∧ (modCtx s q f).trees = s.trees ∧ (modCtx s q f).flows = s.flows ∧ (modCtx s q f).slots = s.slots ∧
    (modCtx s q f).slotGen = s.slotGen ∧ (modCtx s q f).fencesSeen = s.fencesSeen ∧ (modCtx s q f).conns = s.conns ∧
    (modCtx s q f).eths = s.eths ∧ (modCtx s q f).bootPort = s.bootPort ∧ (modCtx s q f).hosts = s.hosts ∧ (modCtx s q f).cmds = s.cmds ∧
    (modCtx s q f).incarnation = s.incarnation ∧ (modCtx s q f).eventNo = s.eventNo ∧ (modCtx s q f).engineEpoch = s.engineEpoch ∧
    (modCtx s q f).ctxBook = s.ctxBook ∧ (modCtx s q f).mgt = s.mgt ∧ (modCtx s q f).pwr = s.pwr := by
  repeat' constructor

/-- `modSettle` leaves every field but parts. -/
@[simp] theorem modSettle_fields (q : Nat) (f : Settle → Settle) :
  (modSettle s q f).pending = s.pending ∧ (modSettle s q f).out = s.out ∧ (modSettle s q f).mem = s.mem ∧
    (modSettle s q f).poison = s.poison ∧ (modSettle s q f).upsets = s.upsets ∧ (modSettle s q f).tokens = s.tokens ∧
    (modSettle s q f).replies = s.replies ∧ (modSettle s q f).delivered = s.delivered ∧ (modSettle s q f).regs = s.regs ∧
    (modSettle s q f).cycle = s.cycle ∧ (modSettle s q f).fresh = s.fresh ∧ (modSettle s q f).fuses = s.fuses ∧
    (modSettle s q f).dev = s.dev ∧ (modSettle s q f).devId = s.devId ∧ (modSettle s q f).devIdValid = s.devIdValid ∧
    (modSettle s q f).fdTag = s.fdTag ∧ (modSettle s q f).cols = s.cols ∧ (modSettle s q f).tick = s.tick ∧
    (modSettle s q f).tiles = s.tiles ∧ (modSettle s q f).fs = s.fs ∧ (modSettle s q f).cvus = s.cvus ∧
    (modSettle s q f).ports = s.ports ∧ (modSettle s q f).trees = s.trees ∧ (modSettle s q f).flows = s.flows ∧
    (modSettle s q f).slots = s.slots ∧ (modSettle s q f).slotGen = s.slotGen ∧ (modSettle s q f).fencesSeen = s.fencesSeen ∧
    (modSettle s q f).conns = s.conns ∧ (modSettle s q f).eths = s.eths ∧ (modSettle s q f).bootPort = s.bootPort ∧
    (modSettle s q f).hosts = s.hosts ∧ (modSettle s q f).cmds = s.cmds ∧ (modSettle s q f).incarnation = s.incarnation ∧
    (modSettle s q f).eventNo = s.eventNo ∧ (modSettle s q f).engineEpoch = s.engineEpoch ∧ (modSettle s q f).ctxBook = s.ctxBook ∧
    (modSettle s q f).mgt = s.mgt ∧ (modSettle s q f).pwr = s.pwr := by
  repeat' constructor

/-- `modJoin` leaves every field but parts. -/
@[simp] theorem modJoin_fields (q : Nat) (f : Join → Join) :
  (modJoin s q f).pending = s.pending ∧ (modJoin s q f).out = s.out ∧ (modJoin s q f).mem = s.mem ∧ (modJoin s q f).poison = s.poison ∧
    (modJoin s q f).upsets = s.upsets ∧ (modJoin s q f).tokens = s.tokens ∧ (modJoin s q f).replies = s.replies ∧
    (modJoin s q f).delivered = s.delivered ∧ (modJoin s q f).regs = s.regs ∧ (modJoin s q f).cycle = s.cycle ∧
    (modJoin s q f).fresh = s.fresh ∧ (modJoin s q f).fuses = s.fuses ∧ (modJoin s q f).dev = s.dev ∧ (modJoin s q f).devId = s.devId ∧
    (modJoin s q f).devIdValid = s.devIdValid ∧ (modJoin s q f).fdTag = s.fdTag ∧ (modJoin s q f).cols = s.cols ∧
    (modJoin s q f).tick = s.tick ∧ (modJoin s q f).tiles = s.tiles ∧ (modJoin s q f).fs = s.fs ∧ (modJoin s q f).cvus = s.cvus ∧
    (modJoin s q f).ports = s.ports ∧ (modJoin s q f).trees = s.trees ∧ (modJoin s q f).flows = s.flows ∧
    (modJoin s q f).slots = s.slots ∧ (modJoin s q f).slotGen = s.slotGen ∧ (modJoin s q f).fencesSeen = s.fencesSeen ∧
    (modJoin s q f).conns = s.conns ∧ (modJoin s q f).eths = s.eths ∧ (modJoin s q f).bootPort = s.bootPort ∧
    (modJoin s q f).hosts = s.hosts ∧ (modJoin s q f).cmds = s.cmds ∧ (modJoin s q f).incarnation = s.incarnation ∧
    (modJoin s q f).eventNo = s.eventNo ∧ (modJoin s q f).engineEpoch = s.engineEpoch ∧ (modJoin s q f).ctxBook = s.ctxBook ∧
    (modJoin s q f).mgt = s.mgt ∧ (modJoin s q f).pwr = s.pwr := by
  repeat' constructor

/-- `modCkpt` leaves every field but parts. -/
@[simp] theorem modCkpt_fields (q : Nat) (f : Ckpt → Ckpt) :
  (modCkpt s q f).pending = s.pending ∧ (modCkpt s q f).out = s.out ∧ (modCkpt s q f).mem = s.mem ∧ (modCkpt s q f).poison = s.poison ∧
    (modCkpt s q f).upsets = s.upsets ∧ (modCkpt s q f).tokens = s.tokens ∧ (modCkpt s q f).replies = s.replies ∧
    (modCkpt s q f).delivered = s.delivered ∧ (modCkpt s q f).regs = s.regs ∧ (modCkpt s q f).cycle = s.cycle ∧
    (modCkpt s q f).fresh = s.fresh ∧ (modCkpt s q f).fuses = s.fuses ∧ (modCkpt s q f).dev = s.dev ∧ (modCkpt s q f).devId = s.devId ∧
    (modCkpt s q f).devIdValid = s.devIdValid ∧ (modCkpt s q f).fdTag = s.fdTag ∧ (modCkpt s q f).cols = s.cols ∧
    (modCkpt s q f).tick = s.tick ∧ (modCkpt s q f).tiles = s.tiles ∧ (modCkpt s q f).fs = s.fs ∧ (modCkpt s q f).cvus = s.cvus ∧
    (modCkpt s q f).ports = s.ports ∧ (modCkpt s q f).trees = s.trees ∧ (modCkpt s q f).flows = s.flows ∧
    (modCkpt s q f).slots = s.slots ∧ (modCkpt s q f).slotGen = s.slotGen ∧ (modCkpt s q f).fencesSeen = s.fencesSeen ∧
    (modCkpt s q f).conns = s.conns ∧ (modCkpt s q f).eths = s.eths ∧ (modCkpt s q f).bootPort = s.bootPort ∧
    (modCkpt s q f).hosts = s.hosts ∧ (modCkpt s q f).cmds = s.cmds ∧ (modCkpt s q f).incarnation = s.incarnation ∧
    (modCkpt s q f).eventNo = s.eventNo ∧ (modCkpt s q f).engineEpoch = s.engineEpoch ∧ (modCkpt s q f).ctxBook = s.ctxBook ∧
    (modCkpt s q f).mgt = s.mgt ∧ (modCkpt s q f).pwr = s.pwr := by
  repeat' constructor

/-- `modBinding` leaves every field but parts. -/
@[simp] theorem modBinding_fields (q : Nat) (f : Binding → Binding) :
  (modBinding s q f).pending = s.pending ∧ (modBinding s q f).out = s.out ∧ (modBinding s q f).mem = s.mem ∧
    (modBinding s q f).poison = s.poison ∧ (modBinding s q f).upsets = s.upsets ∧ (modBinding s q f).tokens = s.tokens ∧
    (modBinding s q f).replies = s.replies ∧ (modBinding s q f).delivered = s.delivered ∧ (modBinding s q f).regs = s.regs ∧
    (modBinding s q f).cycle = s.cycle ∧ (modBinding s q f).fresh = s.fresh ∧ (modBinding s q f).fuses = s.fuses ∧
    (modBinding s q f).dev = s.dev ∧ (modBinding s q f).devId = s.devId ∧ (modBinding s q f).devIdValid = s.devIdValid ∧
    (modBinding s q f).fdTag = s.fdTag ∧ (modBinding s q f).cols = s.cols ∧ (modBinding s q f).tick = s.tick ∧
    (modBinding s q f).tiles = s.tiles ∧ (modBinding s q f).fs = s.fs ∧ (modBinding s q f).cvus = s.cvus ∧
    (modBinding s q f).ports = s.ports ∧ (modBinding s q f).trees = s.trees ∧ (modBinding s q f).flows = s.flows ∧
    (modBinding s q f).slots = s.slots ∧ (modBinding s q f).slotGen = s.slotGen ∧ (modBinding s q f).fencesSeen = s.fencesSeen ∧
    (modBinding s q f).conns = s.conns ∧ (modBinding s q f).eths = s.eths ∧ (modBinding s q f).bootPort = s.bootPort ∧
    (modBinding s q f).hosts = s.hosts ∧ (modBinding s q f).cmds = s.cmds ∧ (modBinding s q f).incarnation = s.incarnation ∧
    (modBinding s q f).eventNo = s.eventNo ∧ (modBinding s q f).engineEpoch = s.engineEpoch ∧ (modBinding s q f).ctxBook = s.ctxBook ∧
    (modBinding s q f).mgt = s.mgt ∧ (modBinding s q f).pwr = s.pwr := by
  repeat' constructor

/-- `modPort` leaves every field but ports. -/
@[simp] theorem modPort_fields (p : Nat) (f : Port → Port) :
  (modPort s p f).pending = s.pending ∧ (modPort s p f).out = s.out ∧ (modPort s p f).mem = s.mem ∧ (modPort s p f).poison = s.poison ∧
    (modPort s p f).upsets = s.upsets ∧ (modPort s p f).tokens = s.tokens ∧ (modPort s p f).replies = s.replies ∧
    (modPort s p f).delivered = s.delivered ∧ (modPort s p f).regs = s.regs ∧ (modPort s p f).cycle = s.cycle ∧
    (modPort s p f).fresh = s.fresh ∧ (modPort s p f).fuses = s.fuses ∧ (modPort s p f).dev = s.dev ∧ (modPort s p f).devId = s.devId ∧
    (modPort s p f).devIdValid = s.devIdValid ∧ (modPort s p f).fdTag = s.fdTag ∧ (modPort s p f).cols = s.cols ∧
    (modPort s p f).tick = s.tick ∧ (modPort s p f).parts = s.parts ∧ (modPort s p f).tiles = s.tiles ∧ (modPort s p f).fs = s.fs ∧
    (modPort s p f).cvus = s.cvus ∧ (modPort s p f).trees = s.trees ∧ (modPort s p f).flows = s.flows ∧ (modPort s p f).slots = s.slots ∧
    (modPort s p f).slotGen = s.slotGen ∧ (modPort s p f).fencesSeen = s.fencesSeen ∧ (modPort s p f).conns = s.conns ∧
    (modPort s p f).eths = s.eths ∧ (modPort s p f).bootPort = s.bootPort ∧ (modPort s p f).hosts = s.hosts ∧
    (modPort s p f).cmds = s.cmds ∧ (modPort s p f).incarnation = s.incarnation ∧ (modPort s p f).eventNo = s.eventNo ∧
    (modPort s p f).engineEpoch = s.engineEpoch ∧ (modPort s p f).ctxBook = s.ctxBook ∧ (modPort s p f).mgt = s.mgt ∧
    (modPort s p f).pwr = s.pwr := by
  repeat' constructor

/-- `modTree` leaves every field but trees. -/
@[simp] theorem modTree_fields (k : Nat) (f : TreeCtx → TreeCtx) :
  (modTree s k f).pending = s.pending ∧ (modTree s k f).out = s.out ∧ (modTree s k f).mem = s.mem ∧ (modTree s k f).poison = s.poison ∧
    (modTree s k f).upsets = s.upsets ∧ (modTree s k f).tokens = s.tokens ∧ (modTree s k f).replies = s.replies ∧
    (modTree s k f).delivered = s.delivered ∧ (modTree s k f).regs = s.regs ∧ (modTree s k f).cycle = s.cycle ∧
    (modTree s k f).fresh = s.fresh ∧ (modTree s k f).fuses = s.fuses ∧ (modTree s k f).dev = s.dev ∧ (modTree s k f).devId = s.devId ∧
    (modTree s k f).devIdValid = s.devIdValid ∧ (modTree s k f).fdTag = s.fdTag ∧ (modTree s k f).cols = s.cols ∧
    (modTree s k f).tick = s.tick ∧ (modTree s k f).parts = s.parts ∧ (modTree s k f).tiles = s.tiles ∧ (modTree s k f).fs = s.fs ∧
    (modTree s k f).cvus = s.cvus ∧ (modTree s k f).ports = s.ports ∧ (modTree s k f).flows = s.flows ∧ (modTree s k f).slots = s.slots ∧
    (modTree s k f).slotGen = s.slotGen ∧ (modTree s k f).fencesSeen = s.fencesSeen ∧ (modTree s k f).conns = s.conns ∧
    (modTree s k f).eths = s.eths ∧ (modTree s k f).bootPort = s.bootPort ∧ (modTree s k f).hosts = s.hosts ∧
    (modTree s k f).cmds = s.cmds ∧ (modTree s k f).incarnation = s.incarnation ∧ (modTree s k f).eventNo = s.eventNo ∧
    (modTree s k f).engineEpoch = s.engineEpoch ∧ (modTree s k f).ctxBook = s.ctxBook ∧ (modTree s k f).mgt = s.mgt ∧
    (modTree s k f).pwr = s.pwr := by
  repeat' constructor

/-- `modEth` leaves every field but eths. -/
@[simp] theorem modEth_fields (e : Nat) (f : EthPort → EthPort) :
  (modEth s e f).pending = s.pending ∧ (modEth s e f).out = s.out ∧ (modEth s e f).mem = s.mem ∧ (modEth s e f).poison = s.poison ∧
    (modEth s e f).upsets = s.upsets ∧ (modEth s e f).tokens = s.tokens ∧ (modEth s e f).replies = s.replies ∧
    (modEth s e f).delivered = s.delivered ∧ (modEth s e f).regs = s.regs ∧ (modEth s e f).cycle = s.cycle ∧
    (modEth s e f).fresh = s.fresh ∧ (modEth s e f).fuses = s.fuses ∧ (modEth s e f).dev = s.dev ∧ (modEth s e f).devId = s.devId ∧
    (modEth s e f).devIdValid = s.devIdValid ∧ (modEth s e f).fdTag = s.fdTag ∧ (modEth s e f).cols = s.cols ∧
    (modEth s e f).tick = s.tick ∧ (modEth s e f).parts = s.parts ∧ (modEth s e f).tiles = s.tiles ∧ (modEth s e f).fs = s.fs ∧
    (modEth s e f).cvus = s.cvus ∧ (modEth s e f).ports = s.ports ∧ (modEth s e f).trees = s.trees ∧ (modEth s e f).flows = s.flows ∧
    (modEth s e f).slots = s.slots ∧ (modEth s e f).slotGen = s.slotGen ∧ (modEth s e f).fencesSeen = s.fencesSeen ∧
    (modEth s e f).conns = s.conns ∧ (modEth s e f).bootPort = s.bootPort ∧ (modEth s e f).hosts = s.hosts ∧
    (modEth s e f).cmds = s.cmds ∧ (modEth s e f).incarnation = s.incarnation ∧ (modEth s e f).eventNo = s.eventNo ∧
    (modEth s e f).engineEpoch = s.engineEpoch ∧ (modEth s e f).ctxBook = s.ctxBook ∧ (modEth s e f).mgt = s.mgt ∧
    (modEth s e f).pwr = s.pwr := by
  repeat' constructor

/-- `modCvu` leaves every field but cvus. -/
@[simp] theorem modCvu_fields (u : Nat) (f : Cvu → Cvu) :
  (modCvu s u f).pending = s.pending ∧ (modCvu s u f).out = s.out ∧ (modCvu s u f).mem = s.mem ∧ (modCvu s u f).poison = s.poison ∧
    (modCvu s u f).upsets = s.upsets ∧ (modCvu s u f).tokens = s.tokens ∧ (modCvu s u f).replies = s.replies ∧
    (modCvu s u f).delivered = s.delivered ∧ (modCvu s u f).regs = s.regs ∧ (modCvu s u f).cycle = s.cycle ∧
    (modCvu s u f).fresh = s.fresh ∧ (modCvu s u f).fuses = s.fuses ∧ (modCvu s u f).dev = s.dev ∧ (modCvu s u f).devId = s.devId ∧
    (modCvu s u f).devIdValid = s.devIdValid ∧ (modCvu s u f).fdTag = s.fdTag ∧ (modCvu s u f).cols = s.cols ∧
    (modCvu s u f).tick = s.tick ∧ (modCvu s u f).parts = s.parts ∧ (modCvu s u f).tiles = s.tiles ∧ (modCvu s u f).fs = s.fs ∧
    (modCvu s u f).ports = s.ports ∧ (modCvu s u f).trees = s.trees ∧ (modCvu s u f).flows = s.flows ∧ (modCvu s u f).slots = s.slots ∧
    (modCvu s u f).slotGen = s.slotGen ∧ (modCvu s u f).fencesSeen = s.fencesSeen ∧ (modCvu s u f).conns = s.conns ∧
    (modCvu s u f).eths = s.eths ∧ (modCvu s u f).bootPort = s.bootPort ∧ (modCvu s u f).hosts = s.hosts ∧ (modCvu s u f).cmds = s.cmds ∧
    (modCvu s u f).incarnation = s.incarnation ∧ (modCvu s u f).eventNo = s.eventNo ∧ (modCvu s u f).engineEpoch = s.engineEpoch ∧
    (modCvu s u f).ctxBook = s.ctxBook ∧ (modCvu s u f).mgt = s.mgt ∧ (modCvu s u f).pwr = s.pwr := by
  repeat' constructor

/-- `modHost` leaves every field but hosts. -/
@[simp] theorem modHost_fields (h : Nat) (f : HostSlot → HostSlot) :
  (modHost s h f).pending = s.pending ∧ (modHost s h f).out = s.out ∧ (modHost s h f).mem = s.mem ∧ (modHost s h f).poison = s.poison ∧
    (modHost s h f).upsets = s.upsets ∧ (modHost s h f).tokens = s.tokens ∧ (modHost s h f).replies = s.replies ∧
    (modHost s h f).delivered = s.delivered ∧ (modHost s h f).regs = s.regs ∧ (modHost s h f).cycle = s.cycle ∧
    (modHost s h f).fresh = s.fresh ∧ (modHost s h f).fuses = s.fuses ∧ (modHost s h f).dev = s.dev ∧ (modHost s h f).devId = s.devId ∧
    (modHost s h f).devIdValid = s.devIdValid ∧ (modHost s h f).fdTag = s.fdTag ∧ (modHost s h f).cols = s.cols ∧
    (modHost s h f).tick = s.tick ∧ (modHost s h f).parts = s.parts ∧ (modHost s h f).tiles = s.tiles ∧ (modHost s h f).fs = s.fs ∧
    (modHost s h f).cvus = s.cvus ∧ (modHost s h f).ports = s.ports ∧ (modHost s h f).trees = s.trees ∧ (modHost s h f).flows = s.flows ∧
    (modHost s h f).slots = s.slots ∧ (modHost s h f).slotGen = s.slotGen ∧ (modHost s h f).fencesSeen = s.fencesSeen ∧
    (modHost s h f).conns = s.conns ∧ (modHost s h f).eths = s.eths ∧ (modHost s h f).bootPort = s.bootPort ∧
    (modHost s h f).cmds = s.cmds ∧ (modHost s h f).incarnation = s.incarnation ∧ (modHost s h f).eventNo = s.eventNo ∧
    (modHost s h f).engineEpoch = s.engineEpoch ∧ (modHost s h f).ctxBook = s.ctxBook ∧ (modHost s h f).mgt = s.mgt ∧
    (modHost s h f).pwr = s.pwr := by
  repeat' constructor

/-- `modMgt` leaves every field but mgt. -/
@[simp] theorem modMgt_fields (f : Mgt → Mgt) :
  (modMgt s f).pending = s.pending ∧ (modMgt s f).out = s.out ∧ (modMgt s f).mem = s.mem ∧ (modMgt s f).poison = s.poison ∧
    (modMgt s f).upsets = s.upsets ∧ (modMgt s f).tokens = s.tokens ∧ (modMgt s f).replies = s.replies ∧
    (modMgt s f).delivered = s.delivered ∧ (modMgt s f).regs = s.regs ∧ (modMgt s f).cycle = s.cycle ∧ (modMgt s f).fresh = s.fresh ∧
    (modMgt s f).fuses = s.fuses ∧ (modMgt s f).dev = s.dev ∧ (modMgt s f).devId = s.devId ∧ (modMgt s f).devIdValid = s.devIdValid ∧
    (modMgt s f).fdTag = s.fdTag ∧ (modMgt s f).cols = s.cols ∧ (modMgt s f).tick = s.tick ∧ (modMgt s f).parts = s.parts ∧
    (modMgt s f).tiles = s.tiles ∧ (modMgt s f).fs = s.fs ∧ (modMgt s f).cvus = s.cvus ∧ (modMgt s f).ports = s.ports ∧
    (modMgt s f).trees = s.trees ∧ (modMgt s f).flows = s.flows ∧ (modMgt s f).slots = s.slots ∧ (modMgt s f).slotGen = s.slotGen ∧
    (modMgt s f).fencesSeen = s.fencesSeen ∧ (modMgt s f).conns = s.conns ∧ (modMgt s f).eths = s.eths ∧
    (modMgt s f).bootPort = s.bootPort ∧ (modMgt s f).hosts = s.hosts ∧ (modMgt s f).cmds = s.cmds ∧
    (modMgt s f).incarnation = s.incarnation ∧ (modMgt s f).eventNo = s.eventNo ∧ (modMgt s f).engineEpoch = s.engineEpoch ∧
    (modMgt s f).ctxBook = s.ctxBook ∧ (modMgt s f).pwr = s.pwr := by
  repeat' constructor

/-- `modFs` leaves every field but fs. -/
@[simp] theorem modFs_fields (f : FarStore → FarStore) :
  (modFs s f).pending = s.pending ∧ (modFs s f).out = s.out ∧ (modFs s f).mem = s.mem ∧ (modFs s f).poison = s.poison ∧
    (modFs s f).upsets = s.upsets ∧ (modFs s f).tokens = s.tokens ∧ (modFs s f).replies = s.replies ∧
    (modFs s f).delivered = s.delivered ∧ (modFs s f).regs = s.regs ∧ (modFs s f).cycle = s.cycle ∧ (modFs s f).fresh = s.fresh ∧
    (modFs s f).fuses = s.fuses ∧ (modFs s f).dev = s.dev ∧ (modFs s f).devId = s.devId ∧ (modFs s f).devIdValid = s.devIdValid ∧
    (modFs s f).fdTag = s.fdTag ∧ (modFs s f).cols = s.cols ∧ (modFs s f).tick = s.tick ∧ (modFs s f).parts = s.parts ∧
    (modFs s f).tiles = s.tiles ∧ (modFs s f).cvus = s.cvus ∧ (modFs s f).ports = s.ports ∧ (modFs s f).trees = s.trees ∧
    (modFs s f).flows = s.flows ∧ (modFs s f).slots = s.slots ∧ (modFs s f).slotGen = s.slotGen ∧ (modFs s f).fencesSeen = s.fencesSeen ∧
    (modFs s f).conns = s.conns ∧ (modFs s f).eths = s.eths ∧ (modFs s f).bootPort = s.bootPort ∧ (modFs s f).hosts = s.hosts ∧
    (modFs s f).cmds = s.cmds ∧ (modFs s f).incarnation = s.incarnation ∧ (modFs s f).eventNo = s.eventNo ∧
    (modFs s f).engineEpoch = s.engineEpoch ∧ (modFs s f).ctxBook = s.ctxBook ∧ (modFs s f).mgt = s.mgt ∧ (modFs s f).pwr = s.pwr := by
  repeat' constructor

/-- `modPwr` leaves every field but pwr. -/
@[simp] theorem modPwr_fields (f : Power → Power) :
  (modPwr s f).pending = s.pending ∧ (modPwr s f).out = s.out ∧ (modPwr s f).mem = s.mem ∧ (modPwr s f).poison = s.poison ∧
    (modPwr s f).upsets = s.upsets ∧ (modPwr s f).tokens = s.tokens ∧ (modPwr s f).replies = s.replies ∧
    (modPwr s f).delivered = s.delivered ∧ (modPwr s f).regs = s.regs ∧ (modPwr s f).cycle = s.cycle ∧ (modPwr s f).fresh = s.fresh ∧
    (modPwr s f).fuses = s.fuses ∧ (modPwr s f).dev = s.dev ∧ (modPwr s f).devId = s.devId ∧ (modPwr s f).devIdValid = s.devIdValid ∧
    (modPwr s f).fdTag = s.fdTag ∧ (modPwr s f).cols = s.cols ∧ (modPwr s f).tick = s.tick ∧ (modPwr s f).parts = s.parts ∧
    (modPwr s f).tiles = s.tiles ∧ (modPwr s f).fs = s.fs ∧ (modPwr s f).cvus = s.cvus ∧ (modPwr s f).ports = s.ports ∧
    (modPwr s f).trees = s.trees ∧ (modPwr s f).flows = s.flows ∧ (modPwr s f).slots = s.slots ∧ (modPwr s f).slotGen = s.slotGen ∧
    (modPwr s f).fencesSeen = s.fencesSeen ∧ (modPwr s f).conns = s.conns ∧ (modPwr s f).eths = s.eths ∧
    (modPwr s f).bootPort = s.bootPort ∧ (modPwr s f).hosts = s.hosts ∧ (modPwr s f).cmds = s.cmds ∧
    (modPwr s f).incarnation = s.incarnation ∧ (modPwr s f).eventNo = s.eventNo ∧ (modPwr s f).engineEpoch = s.engineEpoch ∧
    (modPwr s f).ctxBook = s.ctxBook ∧ (modPwr s f).mgt = s.mgt := by
  repeat' constructor

/-- `emit` leaves every field but out. -/
@[simp] theorem emit_fields (e : Emission) :
  (emit s e).pending = s.pending ∧ (emit s e).mem = s.mem ∧ (emit s e).poison = s.poison ∧ (emit s e).upsets = s.upsets ∧
    (emit s e).tokens = s.tokens ∧ (emit s e).replies = s.replies ∧ (emit s e).delivered = s.delivered ∧ (emit s e).regs = s.regs ∧
    (emit s e).cycle = s.cycle ∧ (emit s e).fresh = s.fresh ∧ (emit s e).fuses = s.fuses ∧ (emit s e).dev = s.dev ∧
    (emit s e).devId = s.devId ∧ (emit s e).devIdValid = s.devIdValid ∧ (emit s e).fdTag = s.fdTag ∧ (emit s e).cols = s.cols ∧
    (emit s e).tick = s.tick ∧ (emit s e).parts = s.parts ∧ (emit s e).tiles = s.tiles ∧ (emit s e).fs = s.fs ∧
    (emit s e).cvus = s.cvus ∧ (emit s e).ports = s.ports ∧ (emit s e).trees = s.trees ∧ (emit s e).flows = s.flows ∧
    (emit s e).slots = s.slots ∧ (emit s e).slotGen = s.slotGen ∧ (emit s e).fencesSeen = s.fencesSeen ∧ (emit s e).conns = s.conns ∧
    (emit s e).eths = s.eths ∧ (emit s e).bootPort = s.bootPort ∧ (emit s e).hosts = s.hosts ∧ (emit s e).cmds = s.cmds ∧
    (emit s e).incarnation = s.incarnation ∧ (emit s e).eventNo = s.eventNo ∧ (emit s e).engineEpoch = s.engineEpoch ∧
    (emit s e).ctxBook = s.ctxBook ∧ (emit s e).mgt = s.mgt ∧ (emit s e).pwr = s.pwr := by
  repeat' constructor

/-- `drawFresh` leaves every field but fresh. -/
@[simp] theorem drawFresh_fields :
  ((drawFresh s).2).pending = s.pending ∧ ((drawFresh s).2).out = s.out ∧ ((drawFresh s).2).mem = s.mem ∧
    ((drawFresh s).2).poison = s.poison ∧ ((drawFresh s).2).upsets = s.upsets ∧ ((drawFresh s).2).tokens = s.tokens ∧
    ((drawFresh s).2).replies = s.replies ∧ ((drawFresh s).2).delivered = s.delivered ∧ ((drawFresh s).2).regs = s.regs ∧
    ((drawFresh s).2).cycle = s.cycle ∧ ((drawFresh s).2).fuses = s.fuses ∧ ((drawFresh s).2).dev = s.dev ∧
    ((drawFresh s).2).devId = s.devId ∧ ((drawFresh s).2).devIdValid = s.devIdValid ∧ ((drawFresh s).2).fdTag = s.fdTag ∧
    ((drawFresh s).2).cols = s.cols ∧ ((drawFresh s).2).tick = s.tick ∧ ((drawFresh s).2).parts = s.parts ∧
    ((drawFresh s).2).tiles = s.tiles ∧ ((drawFresh s).2).fs = s.fs ∧ ((drawFresh s).2).cvus = s.cvus ∧
    ((drawFresh s).2).ports = s.ports ∧ ((drawFresh s).2).trees = s.trees ∧ ((drawFresh s).2).flows = s.flows ∧
    ((drawFresh s).2).slots = s.slots ∧ ((drawFresh s).2).slotGen = s.slotGen ∧ ((drawFresh s).2).fencesSeen = s.fencesSeen ∧
    ((drawFresh s).2).conns = s.conns ∧ ((drawFresh s).2).eths = s.eths ∧ ((drawFresh s).2).bootPort = s.bootPort ∧
    ((drawFresh s).2).hosts = s.hosts ∧ ((drawFresh s).2).cmds = s.cmds ∧ ((drawFresh s).2).incarnation = s.incarnation ∧
    ((drawFresh s).2).eventNo = s.eventNo ∧ ((drawFresh s).2).engineEpoch = s.engineEpoch ∧ ((drawFresh s).2).ctxBook = s.ctxBook ∧
    ((drawFresh s).2).mgt = s.mgt ∧ ((drawFresh s).2).pwr = s.pwr := by
  repeat' constructor

/-- `regPut` leaves every field but regs. -/
@[simp] theorem regPut_fields (a v : Nat) :
  (regPut s a v).pending = s.pending ∧ (regPut s a v).out = s.out ∧ (regPut s a v).mem = s.mem ∧ (regPut s a v).poison = s.poison ∧
    (regPut s a v).upsets = s.upsets ∧ (regPut s a v).tokens = s.tokens ∧ (regPut s a v).replies = s.replies ∧
    (regPut s a v).delivered = s.delivered ∧ (regPut s a v).cycle = s.cycle ∧ (regPut s a v).fresh = s.fresh ∧
    (regPut s a v).fuses = s.fuses ∧ (regPut s a v).dev = s.dev ∧ (regPut s a v).devId = s.devId ∧
    (regPut s a v).devIdValid = s.devIdValid ∧ (regPut s a v).fdTag = s.fdTag ∧ (regPut s a v).cols = s.cols ∧
    (regPut s a v).tick = s.tick ∧ (regPut s a v).parts = s.parts ∧ (regPut s a v).tiles = s.tiles ∧ (regPut s a v).fs = s.fs ∧
    (regPut s a v).cvus = s.cvus ∧ (regPut s a v).ports = s.ports ∧ (regPut s a v).trees = s.trees ∧ (regPut s a v).flows = s.flows ∧
    (regPut s a v).slots = s.slots ∧ (regPut s a v).slotGen = s.slotGen ∧ (regPut s a v).fencesSeen = s.fencesSeen ∧
    (regPut s a v).conns = s.conns ∧ (regPut s a v).eths = s.eths ∧ (regPut s a v).bootPort = s.bootPort ∧
    (regPut s a v).hosts = s.hosts ∧ (regPut s a v).cmds = s.cmds ∧ (regPut s a v).incarnation = s.incarnation ∧
    (regPut s a v).eventNo = s.eventNo ∧ (regPut s a v).engineEpoch = s.engineEpoch ∧ (regPut s a v).ctxBook = s.ctxBook ∧
    (regPut s a v).mgt = s.mgt ∧ (regPut s a v).pwr = s.pwr := by
  repeat' constructor

/-- `regSet` leaves every field but regs. -/
@[simp] theorem regSet_fields (a lo n v : Nat) :
  (regSet s a lo n v).pending = s.pending ∧ (regSet s a lo n v).out = s.out ∧ (regSet s a lo n v).mem = s.mem ∧
    (regSet s a lo n v).poison = s.poison ∧ (regSet s a lo n v).upsets = s.upsets ∧ (regSet s a lo n v).tokens = s.tokens ∧
    (regSet s a lo n v).replies = s.replies ∧ (regSet s a lo n v).delivered = s.delivered ∧ (regSet s a lo n v).cycle = s.cycle ∧
    (regSet s a lo n v).fresh = s.fresh ∧ (regSet s a lo n v).fuses = s.fuses ∧ (regSet s a lo n v).dev = s.dev ∧
    (regSet s a lo n v).devId = s.devId ∧ (regSet s a lo n v).devIdValid = s.devIdValid ∧ (regSet s a lo n v).fdTag = s.fdTag ∧
    (regSet s a lo n v).cols = s.cols ∧ (regSet s a lo n v).tick = s.tick ∧ (regSet s a lo n v).parts = s.parts ∧
    (regSet s a lo n v).tiles = s.tiles ∧ (regSet s a lo n v).fs = s.fs ∧ (regSet s a lo n v).cvus = s.cvus ∧
    (regSet s a lo n v).ports = s.ports ∧ (regSet s a lo n v).trees = s.trees ∧ (regSet s a lo n v).flows = s.flows ∧
    (regSet s a lo n v).slots = s.slots ∧ (regSet s a lo n v).slotGen = s.slotGen ∧ (regSet s a lo n v).fencesSeen = s.fencesSeen ∧
    (regSet s a lo n v).conns = s.conns ∧ (regSet s a lo n v).eths = s.eths ∧ (regSet s a lo n v).bootPort = s.bootPort ∧
    (regSet s a lo n v).hosts = s.hosts ∧ (regSet s a lo n v).cmds = s.cmds ∧ (regSet s a lo n v).incarnation = s.incarnation ∧
    (regSet s a lo n v).eventNo = s.eventNo ∧ (regSet s a lo n v).engineEpoch = s.engineEpoch ∧ (regSet s a lo n v).ctxBook = s.ctxBook ∧
    (regSet s a lo n v).mgt = s.mgt ∧ (regSet s a lo n v).pwr = s.pwr := by
  repeat' constructor

/-- `regFlag` leaves every field but regs. -/
@[simp] theorem regFlag_fields (a i : Nat) :
  (regFlag s a i).pending = s.pending ∧ (regFlag s a i).out = s.out ∧ (regFlag s a i).mem = s.mem ∧ (regFlag s a i).poison = s.poison ∧
    (regFlag s a i).upsets = s.upsets ∧ (regFlag s a i).tokens = s.tokens ∧ (regFlag s a i).replies = s.replies ∧
    (regFlag s a i).delivered = s.delivered ∧ (regFlag s a i).cycle = s.cycle ∧ (regFlag s a i).fresh = s.fresh ∧
    (regFlag s a i).fuses = s.fuses ∧ (regFlag s a i).dev = s.dev ∧ (regFlag s a i).devId = s.devId ∧
    (regFlag s a i).devIdValid = s.devIdValid ∧ (regFlag s a i).fdTag = s.fdTag ∧ (regFlag s a i).cols = s.cols ∧
    (regFlag s a i).tick = s.tick ∧ (regFlag s a i).parts = s.parts ∧ (regFlag s a i).tiles = s.tiles ∧ (regFlag s a i).fs = s.fs ∧
    (regFlag s a i).cvus = s.cvus ∧ (regFlag s a i).ports = s.ports ∧ (regFlag s a i).trees = s.trees ∧ (regFlag s a i).flows = s.flows ∧
    (regFlag s a i).slots = s.slots ∧ (regFlag s a i).slotGen = s.slotGen ∧ (regFlag s a i).fencesSeen = s.fencesSeen ∧
    (regFlag s a i).conns = s.conns ∧ (regFlag s a i).eths = s.eths ∧ (regFlag s a i).bootPort = s.bootPort ∧
    (regFlag s a i).hosts = s.hosts ∧ (regFlag s a i).cmds = s.cmds ∧ (regFlag s a i).incarnation = s.incarnation ∧
    (regFlag s a i).eventNo = s.eventNo ∧ (regFlag s a i).engineEpoch = s.engineEpoch ∧ (regFlag s a i).ctxBook = s.ctxBook ∧
    (regFlag s a i).mgt = s.mgt ∧ (regFlag s a i).pwr = s.pwr := by
  repeat' constructor

/-- `regUnflag` leaves every field but regs. -/
@[simp] theorem regUnflag_fields (a i : Nat) :
  (regUnflag s a i).pending = s.pending ∧ (regUnflag s a i).out = s.out ∧ (regUnflag s a i).mem = s.mem ∧
    (regUnflag s a i).poison = s.poison ∧ (regUnflag s a i).upsets = s.upsets ∧ (regUnflag s a i).tokens = s.tokens ∧
    (regUnflag s a i).replies = s.replies ∧ (regUnflag s a i).delivered = s.delivered ∧ (regUnflag s a i).cycle = s.cycle ∧
    (regUnflag s a i).fresh = s.fresh ∧ (regUnflag s a i).fuses = s.fuses ∧ (regUnflag s a i).dev = s.dev ∧
    (regUnflag s a i).devId = s.devId ∧ (regUnflag s a i).devIdValid = s.devIdValid ∧ (regUnflag s a i).fdTag = s.fdTag ∧
    (regUnflag s a i).cols = s.cols ∧ (regUnflag s a i).tick = s.tick ∧ (regUnflag s a i).parts = s.parts ∧
    (regUnflag s a i).tiles = s.tiles ∧ (regUnflag s a i).fs = s.fs ∧ (regUnflag s a i).cvus = s.cvus ∧
    (regUnflag s a i).ports = s.ports ∧ (regUnflag s a i).trees = s.trees ∧ (regUnflag s a i).flows = s.flows ∧
    (regUnflag s a i).slots = s.slots ∧ (regUnflag s a i).slotGen = s.slotGen ∧ (regUnflag s a i).fencesSeen = s.fencesSeen ∧
    (regUnflag s a i).conns = s.conns ∧ (regUnflag s a i).eths = s.eths ∧ (regUnflag s a i).bootPort = s.bootPort ∧
    (regUnflag s a i).hosts = s.hosts ∧ (regUnflag s a i).cmds = s.cmds ∧ (regUnflag s a i).incarnation = s.incarnation ∧
    (regUnflag s a i).eventNo = s.eventNo ∧ (regUnflag s a i).engineEpoch = s.engineEpoch ∧ (regUnflag s a i).ctxBook = s.ctxBook ∧
    (regUnflag s a i).mgt = s.mgt ∧ (regUnflag s a i).pwr = s.pwr := by
  repeat' constructor

/-- `regBump` leaves every field but regs. -/
@[simp] theorem regBump_fields (a lo n k : Nat) :
  (regBump s a lo n k).pending = s.pending ∧ (regBump s a lo n k).out = s.out ∧ (regBump s a lo n k).mem = s.mem ∧
    (regBump s a lo n k).poison = s.poison ∧ (regBump s a lo n k).upsets = s.upsets ∧ (regBump s a lo n k).tokens = s.tokens ∧
    (regBump s a lo n k).replies = s.replies ∧ (regBump s a lo n k).delivered = s.delivered ∧ (regBump s a lo n k).cycle = s.cycle ∧
    (regBump s a lo n k).fresh = s.fresh ∧ (regBump s a lo n k).fuses = s.fuses ∧ (regBump s a lo n k).dev = s.dev ∧
    (regBump s a lo n k).devId = s.devId ∧ (regBump s a lo n k).devIdValid = s.devIdValid ∧ (regBump s a lo n k).fdTag = s.fdTag ∧
    (regBump s a lo n k).cols = s.cols ∧ (regBump s a lo n k).tick = s.tick ∧ (regBump s a lo n k).parts = s.parts ∧
    (regBump s a lo n k).tiles = s.tiles ∧ (regBump s a lo n k).fs = s.fs ∧ (regBump s a lo n k).cvus = s.cvus ∧
    (regBump s a lo n k).ports = s.ports ∧ (regBump s a lo n k).trees = s.trees ∧ (regBump s a lo n k).flows = s.flows ∧
    (regBump s a lo n k).slots = s.slots ∧ (regBump s a lo n k).slotGen = s.slotGen ∧ (regBump s a lo n k).fencesSeen = s.fencesSeen ∧
    (regBump s a lo n k).conns = s.conns ∧ (regBump s a lo n k).eths = s.eths ∧ (regBump s a lo n k).bootPort = s.bootPort ∧
    (regBump s a lo n k).hosts = s.hosts ∧ (regBump s a lo n k).cmds = s.cmds ∧ (regBump s a lo n k).incarnation = s.incarnation ∧
    (regBump s a lo n k).eventNo = s.eventNo ∧ (regBump s a lo n k).engineEpoch = s.engineEpoch ∧
    (regBump s a lo n k).ctxBook = s.ctxBook ∧ (regBump s a lo n k).mgt = s.mgt ∧ (regBump s a lo n k).pwr = s.pwr := by
  repeat' constructor

/-- `regCount` leaves every field but regs. -/
@[simp] theorem regCount_fields (a lo n k : Nat) :
  (regCount s a lo n k).pending = s.pending ∧ (regCount s a lo n k).out = s.out ∧ (regCount s a lo n k).mem = s.mem ∧
    (regCount s a lo n k).poison = s.poison ∧ (regCount s a lo n k).upsets = s.upsets ∧ (regCount s a lo n k).tokens = s.tokens ∧
    (regCount s a lo n k).replies = s.replies ∧ (regCount s a lo n k).delivered = s.delivered ∧ (regCount s a lo n k).cycle = s.cycle ∧
    (regCount s a lo n k).fresh = s.fresh ∧ (regCount s a lo n k).fuses = s.fuses ∧ (regCount s a lo n k).dev = s.dev ∧
    (regCount s a lo n k).devId = s.devId ∧ (regCount s a lo n k).devIdValid = s.devIdValid ∧ (regCount s a lo n k).fdTag = s.fdTag ∧
    (regCount s a lo n k).cols = s.cols ∧ (regCount s a lo n k).tick = s.tick ∧ (regCount s a lo n k).parts = s.parts ∧
    (regCount s a lo n k).tiles = s.tiles ∧ (regCount s a lo n k).fs = s.fs ∧ (regCount s a lo n k).cvus = s.cvus ∧
    (regCount s a lo n k).ports = s.ports ∧ (regCount s a lo n k).trees = s.trees ∧ (regCount s a lo n k).flows = s.flows ∧
    (regCount s a lo n k).slots = s.slots ∧ (regCount s a lo n k).slotGen = s.slotGen ∧ (regCount s a lo n k).fencesSeen = s.fencesSeen ∧
    (regCount s a lo n k).conns = s.conns ∧ (regCount s a lo n k).eths = s.eths ∧ (regCount s a lo n k).bootPort = s.bootPort ∧
    (regCount s a lo n k).hosts = s.hosts ∧ (regCount s a lo n k).cmds = s.cmds ∧ (regCount s a lo n k).incarnation = s.incarnation ∧
    (regCount s a lo n k).eventNo = s.eventNo ∧ (regCount s a lo n k).engineEpoch = s.engineEpoch ∧
    (regCount s a lo n k).ctxBook = s.ctxBook ∧ (regCount s a lo n k).mgt = s.mgt ∧ (regCount s a lo n k).pwr = s.pwr := by
  repeat' constructor

/-- `trace` leaves every field but mgt. -/
@[simp] theorem trace_fields (u ev arg : Nat) :
  (trace s u ev arg).pending = s.pending ∧ (trace s u ev arg).out = s.out ∧ (trace s u ev arg).mem = s.mem ∧
    (trace s u ev arg).poison = s.poison ∧ (trace s u ev arg).upsets = s.upsets ∧ (trace s u ev arg).tokens = s.tokens ∧
    (trace s u ev arg).replies = s.replies ∧ (trace s u ev arg).delivered = s.delivered ∧ (trace s u ev arg).regs = s.regs ∧
    (trace s u ev arg).cycle = s.cycle ∧ (trace s u ev arg).fresh = s.fresh ∧ (trace s u ev arg).fuses = s.fuses ∧
    (trace s u ev arg).dev = s.dev ∧ (trace s u ev arg).devId = s.devId ∧ (trace s u ev arg).devIdValid = s.devIdValid ∧
    (trace s u ev arg).fdTag = s.fdTag ∧ (trace s u ev arg).cols = s.cols ∧ (trace s u ev arg).tick = s.tick ∧
    (trace s u ev arg).parts = s.parts ∧ (trace s u ev arg).tiles = s.tiles ∧ (trace s u ev arg).fs = s.fs ∧
    (trace s u ev arg).cvus = s.cvus ∧ (trace s u ev arg).ports = s.ports ∧ (trace s u ev arg).trees = s.trees ∧
    (trace s u ev arg).flows = s.flows ∧ (trace s u ev arg).slots = s.slots ∧ (trace s u ev arg).slotGen = s.slotGen ∧
    (trace s u ev arg).fencesSeen = s.fencesSeen ∧ (trace s u ev arg).conns = s.conns ∧ (trace s u ev arg).eths = s.eths ∧
    (trace s u ev arg).bootPort = s.bootPort ∧ (trace s u ev arg).hosts = s.hosts ∧ (trace s u ev arg).cmds = s.cmds ∧
    (trace s u ev arg).incarnation = s.incarnation ∧ (trace s u ev arg).eventNo = s.eventNo ∧
    (trace s u ev arg).engineEpoch = s.engineEpoch ∧ (trace s u ev arg).ctxBook = s.ctxBook ∧ (trace s u ev arg).pwr = s.pwr := by
  repeat' constructor

/-- `logWith` leaves every field but mgt. -/
@[simp] theorem logWith_fields (c k v i q : Nat) (d : List Nat) :
  (logWith s c k v i q d).pending = s.pending ∧ (logWith s c k v i q d).out = s.out ∧ (logWith s c k v i q d).mem = s.mem ∧
    (logWith s c k v i q d).poison = s.poison ∧ (logWith s c k v i q d).upsets = s.upsets ∧ (logWith s c k v i q d).tokens = s.tokens ∧
    (logWith s c k v i q d).replies = s.replies ∧ (logWith s c k v i q d).delivered = s.delivered ∧
    (logWith s c k v i q d).regs = s.regs ∧ (logWith s c k v i q d).cycle = s.cycle ∧ (logWith s c k v i q d).fresh = s.fresh ∧
    (logWith s c k v i q d).fuses = s.fuses ∧ (logWith s c k v i q d).dev = s.dev ∧ (logWith s c k v i q d).devId = s.devId ∧
    (logWith s c k v i q d).devIdValid = s.devIdValid ∧ (logWith s c k v i q d).fdTag = s.fdTag ∧ (logWith s c k v i q d).cols = s.cols ∧
    (logWith s c k v i q d).tick = s.tick ∧ (logWith s c k v i q d).parts = s.parts ∧ (logWith s c k v i q d).tiles = s.tiles ∧
    (logWith s c k v i q d).fs = s.fs ∧ (logWith s c k v i q d).cvus = s.cvus ∧ (logWith s c k v i q d).ports = s.ports ∧
    (logWith s c k v i q d).trees = s.trees ∧ (logWith s c k v i q d).flows = s.flows ∧ (logWith s c k v i q d).slots = s.slots ∧
    (logWith s c k v i q d).slotGen = s.slotGen ∧ (logWith s c k v i q d).fencesSeen = s.fencesSeen ∧
    (logWith s c k v i q d).conns = s.conns ∧ (logWith s c k v i q d).eths = s.eths ∧ (logWith s c k v i q d).bootPort = s.bootPort ∧
    (logWith s c k v i q d).hosts = s.hosts ∧ (logWith s c k v i q d).cmds = s.cmds ∧
    (logWith s c k v i q d).incarnation = s.incarnation ∧ (logWith s c k v i q d).eventNo = s.eventNo ∧
    (logWith s c k v i q d).engineEpoch = s.engineEpoch ∧ (logWith s c k v i q d).ctxBook = s.ctxBook ∧
    (logWith s c k v i q d).pwr = s.pwr := by
  repeat' constructor

/-- `logEntry` leaves every field but mgt. -/
@[simp] theorem logEntry_fields (c i q : Nat) (d : List Nat) :
  (logEntry s c i q d).pending = s.pending ∧ (logEntry s c i q d).out = s.out ∧ (logEntry s c i q d).mem = s.mem ∧
    (logEntry s c i q d).poison = s.poison ∧ (logEntry s c i q d).upsets = s.upsets ∧ (logEntry s c i q d).tokens = s.tokens ∧
    (logEntry s c i q d).replies = s.replies ∧ (logEntry s c i q d).delivered = s.delivered ∧ (logEntry s c i q d).regs = s.regs ∧
    (logEntry s c i q d).cycle = s.cycle ∧ (logEntry s c i q d).fresh = s.fresh ∧ (logEntry s c i q d).fuses = s.fuses ∧
    (logEntry s c i q d).dev = s.dev ∧ (logEntry s c i q d).devId = s.devId ∧ (logEntry s c i q d).devIdValid = s.devIdValid ∧
    (logEntry s c i q d).fdTag = s.fdTag ∧ (logEntry s c i q d).cols = s.cols ∧ (logEntry s c i q d).tick = s.tick ∧
    (logEntry s c i q d).parts = s.parts ∧ (logEntry s c i q d).tiles = s.tiles ∧ (logEntry s c i q d).fs = s.fs ∧
    (logEntry s c i q d).cvus = s.cvus ∧ (logEntry s c i q d).ports = s.ports ∧ (logEntry s c i q d).trees = s.trees ∧
    (logEntry s c i q d).flows = s.flows ∧ (logEntry s c i q d).slots = s.slots ∧ (logEntry s c i q d).slotGen = s.slotGen ∧
    (logEntry s c i q d).fencesSeen = s.fencesSeen ∧ (logEntry s c i q d).conns = s.conns ∧ (logEntry s c i q d).eths = s.eths ∧
    (logEntry s c i q d).bootPort = s.bootPort ∧ (logEntry s c i q d).hosts = s.hosts ∧ (logEntry s c i q d).cmds = s.cmds ∧
    (logEntry s c i q d).incarnation = s.incarnation ∧ (logEntry s c i q d).eventNo = s.eventNo ∧
    (logEntry s c i q d).engineEpoch = s.engineEpoch ∧ (logEntry s c i q d).ctxBook = s.ctxBook ∧ (logEntry s c i q d).pwr = s.pwr := by
  repeat' constructor

/-- `addCause` leaves every field but parts. -/
@[simp] theorem addCause_fields (q v : Nat) :
  (addCause s q v).pending = s.pending ∧ (addCause s q v).out = s.out ∧ (addCause s q v).mem = s.mem ∧
    (addCause s q v).poison = s.poison ∧ (addCause s q v).upsets = s.upsets ∧ (addCause s q v).tokens = s.tokens ∧
    (addCause s q v).replies = s.replies ∧ (addCause s q v).delivered = s.delivered ∧ (addCause s q v).regs = s.regs ∧
    (addCause s q v).cycle = s.cycle ∧ (addCause s q v).fresh = s.fresh ∧ (addCause s q v).fuses = s.fuses ∧
    (addCause s q v).dev = s.dev ∧ (addCause s q v).devId = s.devId ∧ (addCause s q v).devIdValid = s.devIdValid ∧
    (addCause s q v).fdTag = s.fdTag ∧ (addCause s q v).cols = s.cols ∧ (addCause s q v).tick = s.tick ∧
    (addCause s q v).tiles = s.tiles ∧ (addCause s q v).fs = s.fs ∧ (addCause s q v).cvus = s.cvus ∧ (addCause s q v).ports = s.ports ∧
    (addCause s q v).trees = s.trees ∧ (addCause s q v).flows = s.flows ∧ (addCause s q v).slots = s.slots ∧
    (addCause s q v).slotGen = s.slotGen ∧ (addCause s q v).fencesSeen = s.fencesSeen ∧ (addCause s q v).conns = s.conns ∧
    (addCause s q v).eths = s.eths ∧ (addCause s q v).bootPort = s.bootPort ∧ (addCause s q v).hosts = s.hosts ∧
    (addCause s q v).cmds = s.cmds ∧ (addCause s q v).incarnation = s.incarnation ∧ (addCause s q v).eventNo = s.eventNo ∧
    (addCause s q v).engineEpoch = s.engineEpoch ∧ (addCause s q v).ctxBook = s.ctxBook ∧ (addCause s q v).mgt = s.mgt ∧
    (addCause s q v).pwr = s.pwr := by
  repeat' constructor

/-- `setTile` leaves every unit but those it names. -/
@[simp] theorem setTile_reads (t : Nat) (x : Tile) (a0 c0 e0 h0 k0 p0 q0 t0 u0 : Nat) :
    partAt (setTile s t x) q0 = partAt s q0 ∧ portAt (setTile s t x) p0 = portAt s p0 ∧ treeAt (setTile s t x) k0 = treeAt s k0 ∧
    ethAt (setTile s t x) e0 = ethAt s e0 ∧ cvuAt (setTile s t x) u0 = cvuAt s u0 ∧ hostAt (setTile s t x) h0 = hostAt s h0 ∧
    chanAt (setTile s t x) c0 = chanAt s c0 ∧ regGet (setTile s t x) a0 = regGet s a0 ∧ partOfTile (setTile s t x) t0 = partOfTile s t0 ∧
    tilePresent (setTile s t x) t0 = tilePresent s t0 ∧ now (setTile s t x) = now s :=
  ⟨rfl, rfl, rfl, rfl, rfl, rfl, rfl, rfl, rfl, rfl, rfl⟩

/-- `modTile` leaves every unit but those it names. -/
@[simp] theorem modTile_reads (t : Nat) (f : Tile → Tile) (a0 c0 e0 h0 k0 p0 q0 t0 u0 : Nat) :
    partAt (modTile s t f) q0 = partAt s q0 ∧ portAt (modTile s t f) p0 = portAt s p0 ∧ treeAt (modTile s t f) k0 = treeAt s k0 ∧
    ethAt (modTile s t f) e0 = ethAt s e0 ∧ cvuAt (modTile s t f) u0 = cvuAt s u0 ∧ hostAt (modTile s t f) h0 = hostAt s h0 ∧
    chanAt (modTile s t f) c0 = chanAt s c0 ∧ regGet (modTile s t f) a0 = regGet s a0 ∧ partOfTile (modTile s t f) t0 = partOfTile s t0 ∧
    tilePresent (modTile s t f) t0 = tilePresent s t0 ∧ now (modTile s t f) = now s :=
  ⟨rfl, rfl, rfl, rfl, rfl, rfl, rfl, rfl, rfl, rfl, rfl⟩

/-- `modArr` leaves every unit but those it names. -/
@[simp] theorem modArr_reads (t : Nat) (f : Arr → Arr) (a0 c0 e0 h0 k0 p0 q0 t0 u0 : Nat) :
    partAt (modArr s t f) q0 = partAt s q0 ∧ portAt (modArr s t f) p0 = portAt s p0 ∧ treeAt (modArr s t f) k0 = treeAt s k0 ∧
    ethAt (modArr s t f) e0 = ethAt s e0 ∧ cvuAt (modArr s t f) u0 = cvuAt s u0 ∧ hostAt (modArr s t f) h0 = hostAt s h0 ∧
    chanAt (modArr s t f) c0 = chanAt s c0 ∧ regGet (modArr s t f) a0 = regGet s a0 ∧ partOfTile (modArr s t f) t0 = partOfTile s t0 ∧
    tilePresent (modArr s t f) t0 = tilePresent s t0 ∧ now (modArr s t f) = now s :=
  ⟨rfl, rfl, rfl, rfl, rfl, rfl, rfl, rfl, rfl, rfl, rfl⟩

/-- `modDrain` leaves every unit but those it names. -/
@[simp] theorem modDrain_reads (t : Nat) (f : Drain → Drain) (a0 c0 e0 h0 k0 p0 q0 t0 u0 : Nat) :
    partAt (modDrain s t f) q0 = partAt s q0 ∧ portAt (modDrain s t f) p0 = portAt s p0 ∧ treeAt (modDrain s t f) k0 = treeAt s k0 ∧
    ethAt (modDrain s t f) e0 = ethAt s e0 ∧ cvuAt (modDrain s t f) u0 = cvuAt s u0 ∧ hostAt (modDrain s t f) h0 = hostAt s h0 ∧
    chanAt (modDrain s t f) c0 = chanAt s c0 ∧ regGet (modDrain s t f) a0 = regGet s a0 ∧
    partOfTile (modDrain s t f) t0 = partOfTile s t0 ∧ tilePresent (modDrain s t f) t0 = tilePresent s t0 ∧ now (modDrain s t f) = now s :=
  ⟨rfl, rfl, rfl, rfl, rfl, rfl, rfl, rfl, rfl, rfl, rfl⟩

/-- `modVec` leaves every unit but those it names. -/
@[simp] theorem modVec_reads (t : Nat) (f : Vec → Vec) (a0 c0 e0 h0 k0 p0 q0 t0 u0 : Nat) :
    partAt (modVec s t f) q0 = partAt s q0 ∧ portAt (modVec s t f) p0 = portAt s p0 ∧ treeAt (modVec s t f) k0 = treeAt s k0 ∧
    ethAt (modVec s t f) e0 = ethAt s e0 ∧ cvuAt (modVec s t f) u0 = cvuAt s u0 ∧ hostAt (modVec s t f) h0 = hostAt s h0 ∧
    chanAt (modVec s t f) c0 = chanAt s c0 ∧ regGet (modVec s t f) a0 = regGet s a0 ∧ partOfTile (modVec s t f) t0 = partOfTile s t0 ∧
    tilePresent (modVec s t f) t0 = tilePresent s t0 ∧ now (modVec s t f) = now s :=
  ⟨rfl, rfl, rfl, rfl, rfl, rfl, rfl, rfl, rfl, rfl, rfl⟩

/-- `modSched` leaves every unit but those it names. -/
@[simp] theorem modSched_reads (t : Nat) (f : Sched → Sched) (a0 c0 e0 h0 k0 p0 q0 t0 u0 : Nat) :
    partAt (modSched s t f) q0 = partAt s q0 ∧ portAt (modSched s t f) p0 = portAt s p0 ∧ treeAt (modSched s t f) k0 = treeAt s k0 ∧
    ethAt (modSched s t f) e0 = ethAt s e0 ∧ cvuAt (modSched s t f) u0 = cvuAt s u0 ∧ hostAt (modSched s t f) h0 = hostAt s h0 ∧
    chanAt (modSched s t f) c0 = chanAt s c0 ∧ regGet (modSched s t f) a0 = regGet s a0 ∧
    partOfTile (modSched s t f) t0 = partOfTile s t0 ∧ tilePresent (modSched s t f) t0 = tilePresent s t0 ∧ now (modSched s t f) = now s :=
  ⟨rfl, rfl, rfl, rfl, rfl, rfl, rfl, rfl, rfl, rfl, rfl⟩

/-- `setPart` leaves every unit but those it names. -/
@[simp] theorem setPart_reads (q : Nat) (x : Part) (a0 c0 e0 h0 k0 p0 t0 u0 : Nat) :
    tileAt (setPart s q x) t0 = tileAt s t0 ∧ portAt (setPart s q x) p0 = portAt s p0 ∧ treeAt (setPart s q x) k0 = treeAt s k0 ∧
    ethAt (setPart s q x) e0 = ethAt s e0 ∧ cvuAt (setPart s q x) u0 = cvuAt s u0 ∧ hostAt (setPart s q x) h0 = hostAt s h0 ∧
    chanAt (setPart s q x) c0 = chanAt s c0 ∧ regGet (setPart s q x) a0 = regGet s a0 ∧
    tilePresent (setPart s q x) t0 = tilePresent s t0 ∧ now (setPart s q x) = now s :=
  ⟨rfl, rfl, rfl, rfl, rfl, rfl, rfl, rfl, rfl, rfl⟩

/-- `modPart` leaves every unit but those it names. -/
@[simp] theorem modPart_reads (q : Nat) (f : Part → Part) (a0 c0 e0 h0 k0 p0 t0 u0 : Nat) :
    tileAt (modPart s q f) t0 = tileAt s t0 ∧ portAt (modPart s q f) p0 = portAt s p0 ∧ treeAt (modPart s q f) k0 = treeAt s k0 ∧
    ethAt (modPart s q f) e0 = ethAt s e0 ∧ cvuAt (modPart s q f) u0 = cvuAt s u0 ∧ hostAt (modPart s q f) h0 = hostAt s h0 ∧
    chanAt (modPart s q f) c0 = chanAt s c0 ∧ regGet (modPart s q f) a0 = regGet s a0 ∧
    tilePresent (modPart s q f) t0 = tilePresent s t0 ∧ now (modPart s q f) = now s :=
  ⟨rfl, rfl, rfl, rfl, rfl, rfl, rfl, rfl, rfl, rfl⟩

/-- `modCtx` leaves every unit but those it names. -/
@[simp] theorem modCtx_reads (q : Nat) (f : StepCtx → StepCtx) (a0 c0 e0 h0 k0 p0 t0 u0 : Nat) :
    tileAt (modCtx s q f) t0 = tileAt s t0 ∧ portAt (modCtx s q f) p0 = portAt s p0 ∧ treeAt (modCtx s q f) k0 = treeAt s k0 ∧
    ethAt (modCtx s q f) e0 = ethAt s e0 ∧ cvuAt (modCtx s q f) u0 = cvuAt s u0 ∧ hostAt (modCtx s q f) h0 = hostAt s h0 ∧
    chanAt (modCtx s q f) c0 = chanAt s c0 ∧ regGet (modCtx s q f) a0 = regGet s a0 ∧ tilePresent (modCtx s q f) t0 = tilePresent s t0 ∧
    now (modCtx s q f) = now s :=
  ⟨rfl, rfl, rfl, rfl, rfl, rfl, rfl, rfl, rfl, rfl⟩

/-- `modSettle` leaves every unit but those it names. -/
@[simp] theorem modSettle_reads (q : Nat) (f : Settle → Settle) (a0 c0 e0 h0 k0 p0 t0 u0 : Nat) :
    tileAt (modSettle s q f) t0 = tileAt s t0 ∧ portAt (modSettle s q f) p0 = portAt s p0 ∧ treeAt (modSettle s q f) k0 = treeAt s k0 ∧
    ethAt (modSettle s q f) e0 = ethAt s e0 ∧ cvuAt (modSettle s q f) u0 = cvuAt s u0 ∧ hostAt (modSettle s q f) h0 = hostAt s h0 ∧
    chanAt (modSettle s q f) c0 = chanAt s c0 ∧ regGet (modSettle s q f) a0 = regGet s a0 ∧
    tilePresent (modSettle s q f) t0 = tilePresent s t0 ∧ now (modSettle s q f) = now s :=
  ⟨rfl, rfl, rfl, rfl, rfl, rfl, rfl, rfl, rfl, rfl⟩

/-- `modJoin` leaves every unit but those it names. -/
@[simp] theorem modJoin_reads (q : Nat) (f : Join → Join) (a0 c0 e0 h0 k0 p0 t0 u0 : Nat) :
    tileAt (modJoin s q f) t0 = tileAt s t0 ∧ portAt (modJoin s q f) p0 = portAt s p0 ∧ treeAt (modJoin s q f) k0 = treeAt s k0 ∧
    ethAt (modJoin s q f) e0 = ethAt s e0 ∧ cvuAt (modJoin s q f) u0 = cvuAt s u0 ∧ hostAt (modJoin s q f) h0 = hostAt s h0 ∧
    chanAt (modJoin s q f) c0 = chanAt s c0 ∧ regGet (modJoin s q f) a0 = regGet s a0 ∧
    tilePresent (modJoin s q f) t0 = tilePresent s t0 ∧ now (modJoin s q f) = now s :=
  ⟨rfl, rfl, rfl, rfl, rfl, rfl, rfl, rfl, rfl, rfl⟩

/-- `modCkpt` leaves every unit but those it names. -/
@[simp] theorem modCkpt_reads (q : Nat) (f : Ckpt → Ckpt) (a0 c0 e0 h0 k0 p0 t0 u0 : Nat) :
    tileAt (modCkpt s q f) t0 = tileAt s t0 ∧ portAt (modCkpt s q f) p0 = portAt s p0 ∧ treeAt (modCkpt s q f) k0 = treeAt s k0 ∧
    ethAt (modCkpt s q f) e0 = ethAt s e0 ∧ cvuAt (modCkpt s q f) u0 = cvuAt s u0 ∧ hostAt (modCkpt s q f) h0 = hostAt s h0 ∧
    chanAt (modCkpt s q f) c0 = chanAt s c0 ∧ regGet (modCkpt s q f) a0 = regGet s a0 ∧
    tilePresent (modCkpt s q f) t0 = tilePresent s t0 ∧ now (modCkpt s q f) = now s :=
  ⟨rfl, rfl, rfl, rfl, rfl, rfl, rfl, rfl, rfl, rfl⟩

/-- `modBinding` leaves every unit but those it names. -/
@[simp] theorem modBinding_reads (q : Nat) (f : Binding → Binding) (a0 c0 e0 h0 k0 p0 t0 u0 : Nat) :
    tileAt (modBinding s q f) t0 = tileAt s t0 ∧ portAt (modBinding s q f) p0 = portAt s p0 ∧
    treeAt (modBinding s q f) k0 = treeAt s k0 ∧ ethAt (modBinding s q f) e0 = ethAt s e0 ∧ cvuAt (modBinding s q f) u0 = cvuAt s u0 ∧
    hostAt (modBinding s q f) h0 = hostAt s h0 ∧ chanAt (modBinding s q f) c0 = chanAt s c0 ∧
    regGet (modBinding s q f) a0 = regGet s a0 ∧ tilePresent (modBinding s q f) t0 = tilePresent s t0 ∧ now (modBinding s q f) = now s :=
  ⟨rfl, rfl, rfl, rfl, rfl, rfl, rfl, rfl, rfl, rfl⟩

/-- `modPort` leaves every unit but those it names. -/
@[simp] theorem modPort_reads (p : Nat) (f : Port → Port) (a0 c0 e0 h0 k0 q0 t0 u0 : Nat) :
    tileAt (modPort s p f) t0 = tileAt s t0 ∧ partAt (modPort s p f) q0 = partAt s q0 ∧ treeAt (modPort s p f) k0 = treeAt s k0 ∧
    ethAt (modPort s p f) e0 = ethAt s e0 ∧ cvuAt (modPort s p f) u0 = cvuAt s u0 ∧ hostAt (modPort s p f) h0 = hostAt s h0 ∧
    chanAt (modPort s p f) c0 = chanAt s c0 ∧ regGet (modPort s p f) a0 = regGet s a0 ∧ partOfTile (modPort s p f) t0 = partOfTile s t0 ∧
    tilePresent (modPort s p f) t0 = tilePresent s t0 ∧ now (modPort s p f) = now s :=
  ⟨rfl, rfl, rfl, rfl, rfl, rfl, rfl, rfl, rfl, rfl, rfl⟩

/-- `modTree` leaves every unit but those it names. -/
@[simp] theorem modTree_reads (k : Nat) (f : TreeCtx → TreeCtx) (a0 c0 e0 h0 p0 q0 t0 u0 : Nat) :
    tileAt (modTree s k f) t0 = tileAt s t0 ∧ partAt (modTree s k f) q0 = partAt s q0 ∧ portAt (modTree s k f) p0 = portAt s p0 ∧
    ethAt (modTree s k f) e0 = ethAt s e0 ∧ cvuAt (modTree s k f) u0 = cvuAt s u0 ∧ hostAt (modTree s k f) h0 = hostAt s h0 ∧
    chanAt (modTree s k f) c0 = chanAt s c0 ∧ regGet (modTree s k f) a0 = regGet s a0 ∧ partOfTile (modTree s k f) t0 = partOfTile s t0 ∧
    tilePresent (modTree s k f) t0 = tilePresent s t0 ∧ now (modTree s k f) = now s :=
  ⟨rfl, rfl, rfl, rfl, rfl, rfl, rfl, rfl, rfl, rfl, rfl⟩

/-- `modEth` leaves every unit but those it names. -/
@[simp] theorem modEth_reads (e : Nat) (f : EthPort → EthPort) (a0 c0 h0 k0 p0 q0 t0 u0 : Nat) :
    tileAt (modEth s e f) t0 = tileAt s t0 ∧ partAt (modEth s e f) q0 = partAt s q0 ∧ portAt (modEth s e f) p0 = portAt s p0 ∧
    treeAt (modEth s e f) k0 = treeAt s k0 ∧ cvuAt (modEth s e f) u0 = cvuAt s u0 ∧ hostAt (modEth s e f) h0 = hostAt s h0 ∧
    chanAt (modEth s e f) c0 = chanAt s c0 ∧ regGet (modEth s e f) a0 = regGet s a0 ∧ partOfTile (modEth s e f) t0 = partOfTile s t0 ∧
    tilePresent (modEth s e f) t0 = tilePresent s t0 ∧ now (modEth s e f) = now s :=
  ⟨rfl, rfl, rfl, rfl, rfl, rfl, rfl, rfl, rfl, rfl, rfl⟩

/-- `modCvu` leaves every unit but those it names. -/
@[simp] theorem modCvu_reads (u : Nat) (f : Cvu → Cvu) (a0 c0 e0 h0 k0 p0 q0 t0 : Nat) :
    tileAt (modCvu s u f) t0 = tileAt s t0 ∧ partAt (modCvu s u f) q0 = partAt s q0 ∧ portAt (modCvu s u f) p0 = portAt s p0 ∧
    treeAt (modCvu s u f) k0 = treeAt s k0 ∧ ethAt (modCvu s u f) e0 = ethAt s e0 ∧ hostAt (modCvu s u f) h0 = hostAt s h0 ∧
    chanAt (modCvu s u f) c0 = chanAt s c0 ∧ regGet (modCvu s u f) a0 = regGet s a0 ∧ partOfTile (modCvu s u f) t0 = partOfTile s t0 ∧
    tilePresent (modCvu s u f) t0 = tilePresent s t0 ∧ now (modCvu s u f) = now s :=
  ⟨rfl, rfl, rfl, rfl, rfl, rfl, rfl, rfl, rfl, rfl, rfl⟩

/-- `modHost` leaves every unit but those it names. -/
@[simp] theorem modHost_reads (h : Nat) (f : HostSlot → HostSlot) (a0 c0 e0 k0 p0 q0 t0 u0 : Nat) :
    tileAt (modHost s h f) t0 = tileAt s t0 ∧ partAt (modHost s h f) q0 = partAt s q0 ∧ portAt (modHost s h f) p0 = portAt s p0 ∧
    treeAt (modHost s h f) k0 = treeAt s k0 ∧ ethAt (modHost s h f) e0 = ethAt s e0 ∧ cvuAt (modHost s h f) u0 = cvuAt s u0 ∧
    chanAt (modHost s h f) c0 = chanAt s c0 ∧ regGet (modHost s h f) a0 = regGet s a0 ∧ partOfTile (modHost s h f) t0 = partOfTile s t0 ∧
    tilePresent (modHost s h f) t0 = tilePresent s t0 ∧ now (modHost s h f) = now s :=
  ⟨rfl, rfl, rfl, rfl, rfl, rfl, rfl, rfl, rfl, rfl, rfl⟩

/-- `modMgt` leaves every unit but those it names. -/
@[simp] theorem modMgt_reads (f : Mgt → Mgt) (a0 c0 e0 h0 k0 p0 q0 t0 u0 : Nat) :
    tileAt (modMgt s f) t0 = tileAt s t0 ∧ partAt (modMgt s f) q0 = partAt s q0 ∧ portAt (modMgt s f) p0 = portAt s p0 ∧
    treeAt (modMgt s f) k0 = treeAt s k0 ∧ ethAt (modMgt s f) e0 = ethAt s e0 ∧ cvuAt (modMgt s f) u0 = cvuAt s u0 ∧
    hostAt (modMgt s f) h0 = hostAt s h0 ∧ chanAt (modMgt s f) c0 = chanAt s c0 ∧ regGet (modMgt s f) a0 = regGet s a0 ∧
    partOfTile (modMgt s f) t0 = partOfTile s t0 ∧ tilePresent (modMgt s f) t0 = tilePresent s t0 ∧ now (modMgt s f) = now s :=
  ⟨rfl, rfl, rfl, rfl, rfl, rfl, rfl, rfl, rfl, rfl, rfl, rfl⟩

/-- `modFs` leaves every unit but those it names. -/
@[simp] theorem modFs_reads (f : FarStore → FarStore) (a0 e0 h0 k0 p0 q0 t0 u0 : Nat) :
    tileAt (modFs s f) t0 = tileAt s t0 ∧ partAt (modFs s f) q0 = partAt s q0 ∧ portAt (modFs s f) p0 = portAt s p0 ∧
    treeAt (modFs s f) k0 = treeAt s k0 ∧ ethAt (modFs s f) e0 = ethAt s e0 ∧ cvuAt (modFs s f) u0 = cvuAt s u0 ∧
    hostAt (modFs s f) h0 = hostAt s h0 ∧ regGet (modFs s f) a0 = regGet s a0 ∧ partOfTile (modFs s f) t0 = partOfTile s t0 ∧
    tilePresent (modFs s f) t0 = tilePresent s t0 ∧ now (modFs s f) = now s :=
  ⟨rfl, rfl, rfl, rfl, rfl, rfl, rfl, rfl, rfl, rfl, rfl⟩

/-- `modPwr` leaves every unit but those it names. -/
@[simp] theorem modPwr_reads (f : Power → Power) (a0 c0 e0 h0 k0 p0 q0 t0 u0 : Nat) :
    tileAt (modPwr s f) t0 = tileAt s t0 ∧ partAt (modPwr s f) q0 = partAt s q0 ∧ portAt (modPwr s f) p0 = portAt s p0 ∧
    treeAt (modPwr s f) k0 = treeAt s k0 ∧ ethAt (modPwr s f) e0 = ethAt s e0 ∧ cvuAt (modPwr s f) u0 = cvuAt s u0 ∧
    hostAt (modPwr s f) h0 = hostAt s h0 ∧ chanAt (modPwr s f) c0 = chanAt s c0 ∧ regGet (modPwr s f) a0 = regGet s a0 ∧
    partOfTile (modPwr s f) t0 = partOfTile s t0 ∧ tilePresent (modPwr s f) t0 = tilePresent s t0 ∧ now (modPwr s f) = now s :=
  ⟨rfl, rfl, rfl, rfl, rfl, rfl, rfl, rfl, rfl, rfl, rfl, rfl⟩

/-- `emit` leaves every unit but those it names. -/
@[simp] theorem emit_reads (e : Emission) (a0 c0 e0 h0 k0 p0 q0 t0 u0 : Nat) :
    tileAt (emit s e) t0 = tileAt s t0 ∧ partAt (emit s e) q0 = partAt s q0 ∧ portAt (emit s e) p0 = portAt s p0 ∧
    treeAt (emit s e) k0 = treeAt s k0 ∧ ethAt (emit s e) e0 = ethAt s e0 ∧ cvuAt (emit s e) u0 = cvuAt s u0 ∧
    hostAt (emit s e) h0 = hostAt s h0 ∧ chanAt (emit s e) c0 = chanAt s c0 ∧ regGet (emit s e) a0 = regGet s a0 ∧
    partOfTile (emit s e) t0 = partOfTile s t0 ∧ tilePresent (emit s e) t0 = tilePresent s t0 ∧ now (emit s e) = now s :=
  ⟨rfl, rfl, rfl, rfl, rfl, rfl, rfl, rfl, rfl, rfl, rfl, rfl⟩

/-- `drawFresh` leaves every unit but those it names. -/
@[simp] theorem drawFresh_reads (a0 c0 e0 h0 k0 p0 q0 t0 u0 : Nat) :
    tileAt ((drawFresh s).2) t0 = tileAt s t0 ∧ partAt ((drawFresh s).2) q0 = partAt s q0 ∧ portAt ((drawFresh s).2) p0 = portAt s p0 ∧
    treeAt ((drawFresh s).2) k0 = treeAt s k0 ∧ ethAt ((drawFresh s).2) e0 = ethAt s e0 ∧ cvuAt ((drawFresh s).2) u0 = cvuAt s u0 ∧
    hostAt ((drawFresh s).2) h0 = hostAt s h0 ∧ chanAt ((drawFresh s).2) c0 = chanAt s c0 ∧ regGet ((drawFresh s).2) a0 = regGet s a0 ∧
    partOfTile ((drawFresh s).2) t0 = partOfTile s t0 ∧ tilePresent ((drawFresh s).2) t0 = tilePresent s t0 ∧
    now ((drawFresh s).2) = now s :=
  ⟨rfl, rfl, rfl, rfl, rfl, rfl, rfl, rfl, rfl, rfl, rfl, rfl⟩

/-- `regPut` leaves every unit but those it names. -/
@[simp] theorem regPut_reads (a v : Nat) (c0 e0 h0 k0 p0 q0 t0 u0 : Nat) :
    tileAt (regPut s a v) t0 = tileAt s t0 ∧ partAt (regPut s a v) q0 = partAt s q0 ∧ portAt (regPut s a v) p0 = portAt s p0 ∧
    treeAt (regPut s a v) k0 = treeAt s k0 ∧ ethAt (regPut s a v) e0 = ethAt s e0 ∧ cvuAt (regPut s a v) u0 = cvuAt s u0 ∧
    hostAt (regPut s a v) h0 = hostAt s h0 ∧ chanAt (regPut s a v) c0 = chanAt s c0 ∧ partOfTile (regPut s a v) t0 = partOfTile s t0 ∧
    tilePresent (regPut s a v) t0 = tilePresent s t0 ∧ now (regPut s a v) = now s :=
  ⟨rfl, rfl, rfl, rfl, rfl, rfl, rfl, rfl, rfl, rfl, rfl⟩

/-- `regSet` leaves every unit but those it names. -/
@[simp] theorem regSet_reads (a lo n v : Nat) (c0 e0 h0 k0 p0 q0 t0 u0 : Nat) :
    tileAt (regSet s a lo n v) t0 = tileAt s t0 ∧ partAt (regSet s a lo n v) q0 = partAt s q0 ∧
    portAt (regSet s a lo n v) p0 = portAt s p0 ∧ treeAt (regSet s a lo n v) k0 = treeAt s k0 ∧
    ethAt (regSet s a lo n v) e0 = ethAt s e0 ∧ cvuAt (regSet s a lo n v) u0 = cvuAt s u0 ∧ hostAt (regSet s a lo n v) h0 = hostAt s h0 ∧
    chanAt (regSet s a lo n v) c0 = chanAt s c0 ∧ partOfTile (regSet s a lo n v) t0 = partOfTile s t0 ∧
    tilePresent (regSet s a lo n v) t0 = tilePresent s t0 ∧ now (regSet s a lo n v) = now s :=
  ⟨rfl, rfl, rfl, rfl, rfl, rfl, rfl, rfl, rfl, rfl, rfl⟩

/-- `regFlag` leaves every unit but those it names. -/
@[simp] theorem regFlag_reads (a i : Nat) (c0 e0 h0 k0 p0 q0 t0 u0 : Nat) :
    tileAt (regFlag s a i) t0 = tileAt s t0 ∧ partAt (regFlag s a i) q0 = partAt s q0 ∧ portAt (regFlag s a i) p0 = portAt s p0 ∧
    treeAt (regFlag s a i) k0 = treeAt s k0 ∧ ethAt (regFlag s a i) e0 = ethAt s e0 ∧ cvuAt (regFlag s a i) u0 = cvuAt s u0 ∧
    hostAt (regFlag s a i) h0 = hostAt s h0 ∧ chanAt (regFlag s a i) c0 = chanAt s c0 ∧ partOfTile (regFlag s a i) t0 = partOfTile s t0 ∧
    tilePresent (regFlag s a i) t0 = tilePresent s t0 ∧ now (regFlag s a i) = now s :=
  ⟨rfl, rfl, rfl, rfl, rfl, rfl, rfl, rfl, rfl, rfl, rfl⟩

/-- `regUnflag` leaves every unit but those it names. -/
@[simp] theorem regUnflag_reads (a i : Nat) (c0 e0 h0 k0 p0 q0 t0 u0 : Nat) :
    tileAt (regUnflag s a i) t0 = tileAt s t0 ∧ partAt (regUnflag s a i) q0 = partAt s q0 ∧ portAt (regUnflag s a i) p0 = portAt s p0 ∧
    treeAt (regUnflag s a i) k0 = treeAt s k0 ∧ ethAt (regUnflag s a i) e0 = ethAt s e0 ∧ cvuAt (regUnflag s a i) u0 = cvuAt s u0 ∧
    hostAt (regUnflag s a i) h0 = hostAt s h0 ∧ chanAt (regUnflag s a i) c0 = chanAt s c0 ∧
    partOfTile (regUnflag s a i) t0 = partOfTile s t0 ∧ tilePresent (regUnflag s a i) t0 = tilePresent s t0 ∧
    now (regUnflag s a i) = now s :=
  ⟨rfl, rfl, rfl, rfl, rfl, rfl, rfl, rfl, rfl, rfl, rfl⟩

/-- `regBump` leaves every unit but those it names. -/
@[simp] theorem regBump_reads (a lo n k : Nat) (c0 e0 h0 k0 p0 q0 t0 u0 : Nat) :
    tileAt (regBump s a lo n k) t0 = tileAt s t0 ∧ partAt (regBump s a lo n k) q0 = partAt s q0 ∧
    portAt (regBump s a lo n k) p0 = portAt s p0 ∧ treeAt (regBump s a lo n k) k0 = treeAt s k0 ∧
    ethAt (regBump s a lo n k) e0 = ethAt s e0 ∧ cvuAt (regBump s a lo n k) u0 = cvuAt s u0 ∧
    hostAt (regBump s a lo n k) h0 = hostAt s h0 ∧ chanAt (regBump s a lo n k) c0 = chanAt s c0 ∧
    partOfTile (regBump s a lo n k) t0 = partOfTile s t0 ∧ tilePresent (regBump s a lo n k) t0 = tilePresent s t0 ∧
    now (regBump s a lo n k) = now s :=
  ⟨rfl, rfl, rfl, rfl, rfl, rfl, rfl, rfl, rfl, rfl, rfl⟩

/-- `regCount` leaves every unit but those it names. -/
@[simp] theorem regCount_reads (a lo n k : Nat) (c0 e0 h0 k0 p0 q0 t0 u0 : Nat) :
    tileAt (regCount s a lo n k) t0 = tileAt s t0 ∧ partAt (regCount s a lo n k) q0 = partAt s q0 ∧
    portAt (regCount s a lo n k) p0 = portAt s p0 ∧ treeAt (regCount s a lo n k) k0 = treeAt s k0 ∧
    ethAt (regCount s a lo n k) e0 = ethAt s e0 ∧ cvuAt (regCount s a lo n k) u0 = cvuAt s u0 ∧
    hostAt (regCount s a lo n k) h0 = hostAt s h0 ∧ chanAt (regCount s a lo n k) c0 = chanAt s c0 ∧
    partOfTile (regCount s a lo n k) t0 = partOfTile s t0 ∧ tilePresent (regCount s a lo n k) t0 = tilePresent s t0 ∧
    now (regCount s a lo n k) = now s :=
  ⟨rfl, rfl, rfl, rfl, rfl, rfl, rfl, rfl, rfl, rfl, rfl⟩

/-- `trace` leaves every unit but those it names. -/
@[simp] theorem trace_reads (u ev arg : Nat) (a0 c0 e0 h0 k0 p0 q0 t0 u0 : Nat) :
    tileAt (trace s u ev arg) t0 = tileAt s t0 ∧ partAt (trace s u ev arg) q0 = partAt s q0 ∧
    portAt (trace s u ev arg) p0 = portAt s p0 ∧ treeAt (trace s u ev arg) k0 = treeAt s k0 ∧ ethAt (trace s u ev arg) e0 = ethAt s e0 ∧
    cvuAt (trace s u ev arg) u0 = cvuAt s u0 ∧ hostAt (trace s u ev arg) h0 = hostAt s h0 ∧ chanAt (trace s u ev arg) c0 = chanAt s c0 ∧
    regGet (trace s u ev arg) a0 = regGet s a0 ∧ partOfTile (trace s u ev arg) t0 = partOfTile s t0 ∧
    tilePresent (trace s u ev arg) t0 = tilePresent s t0 ∧ now (trace s u ev arg) = now s :=
  ⟨rfl, rfl, rfl, rfl, rfl, rfl, rfl, rfl, rfl, rfl, rfl, rfl⟩

/-- `logWith` leaves every unit but those it names. -/
@[simp] theorem logWith_reads (c k v i q : Nat) (d : List Nat) (a0 c0 e0 h0 k0 p0 q0 t0 u0 : Nat) :
    tileAt (logWith s c k v i q d) t0 = tileAt s t0 ∧ partAt (logWith s c k v i q d) q0 = partAt s q0 ∧
    portAt (logWith s c k v i q d) p0 = portAt s p0 ∧ treeAt (logWith s c k v i q d) k0 = treeAt s k0 ∧
    ethAt (logWith s c k v i q d) e0 = ethAt s e0 ∧ cvuAt (logWith s c k v i q d) u0 = cvuAt s u0 ∧
    hostAt (logWith s c k v i q d) h0 = hostAt s h0 ∧ chanAt (logWith s c k v i q d) c0 = chanAt s c0 ∧
    regGet (logWith s c k v i q d) a0 = regGet s a0 ∧ partOfTile (logWith s c k v i q d) t0 = partOfTile s t0 ∧
    tilePresent (logWith s c k v i q d) t0 = tilePresent s t0 ∧ now (logWith s c k v i q d) = now s :=
  ⟨rfl, rfl, rfl, rfl, rfl, rfl, rfl, rfl, rfl, rfl, rfl, rfl⟩

/-- `logEntry` leaves every unit but those it names. -/
@[simp] theorem logEntry_reads (c i q : Nat) (d : List Nat) (a0 c0 e0 h0 k0 p0 q0 t0 u0 : Nat) :
    tileAt (logEntry s c i q d) t0 = tileAt s t0 ∧ partAt (logEntry s c i q d) q0 = partAt s q0 ∧
    portAt (logEntry s c i q d) p0 = portAt s p0 ∧ treeAt (logEntry s c i q d) k0 = treeAt s k0 ∧
    ethAt (logEntry s c i q d) e0 = ethAt s e0 ∧ cvuAt (logEntry s c i q d) u0 = cvuAt s u0 ∧
    hostAt (logEntry s c i q d) h0 = hostAt s h0 ∧ chanAt (logEntry s c i q d) c0 = chanAt s c0 ∧
    regGet (logEntry s c i q d) a0 = regGet s a0 ∧ partOfTile (logEntry s c i q d) t0 = partOfTile s t0 ∧
    tilePresent (logEntry s c i q d) t0 = tilePresent s t0 ∧ now (logEntry s c i q d) = now s :=
  ⟨rfl, rfl, rfl, rfl, rfl, rfl, rfl, rfl, rfl, rfl, rfl, rfl⟩

/-- `addCause` leaves every unit but those it names. -/
@[simp] theorem addCause_reads (q v : Nat) (a0 c0 e0 h0 k0 p0 t0 u0 : Nat) :
    tileAt (addCause s q v) t0 = tileAt s t0 ∧ portAt (addCause s q v) p0 = portAt s p0 ∧ treeAt (addCause s q v) k0 = treeAt s k0 ∧
    ethAt (addCause s q v) e0 = ethAt s e0 ∧ cvuAt (addCause s q v) u0 = cvuAt s u0 ∧ hostAt (addCause s q v) h0 = hostAt s h0 ∧
    chanAt (addCause s q v) c0 = chanAt s c0 ∧ regGet (addCause s q v) a0 = regGet s a0 ∧
    tilePresent (addCause s q v) t0 = tilePresent s t0 ∧ now (addCause s q v) = now s :=
  ⟨rfl, rfl, rfl, rfl, rfl, rfl, rfl, rfl, rfl, rfl⟩

/-- What `setTile` leaves to be read. -/
theorem setTile_own (t u : Nat) (x : Tile) : tileAt (setTile s t x) u =
    if t = u then x else tileAt s u := by
  simp only [setTile, tileAt, Tab.at, Tab.find_put]
  split <;> simp_all

/-- What `modTile` leaves to be read. -/
theorem modTile_own (t u : Nat) (f : Tile → Tile) : tileAt (modTile s t f) u =
    if t = u then f (tileAt s t) else tileAt s u := by
  simp only [modTile, setTile, tileAt, Tab.at, Tab.find_put]
  split <;> simp_all

/-- What `modArr` leaves to be read. -/
theorem modArr_own (t u : Nat) (f : Arr → Arr) : tileAt (modArr s t f) u =
    if t = u then { tileAt s t with arr := f (tileAt s t).arr } else tileAt s u := by
  simp only [modArr, modTile, setTile, tileAt, Tab.at, Tab.find_put]
  split <;> simp_all

/-- What `modDrain` leaves to be read. -/
theorem modDrain_own (t u : Nat) (f : Drain → Drain) : tileAt (modDrain s t f) u =
    if t = u then { tileAt s t with drain := f (tileAt s t).drain } else tileAt s u := by
  simp only [modDrain, modTile, setTile, tileAt, Tab.at, Tab.find_put]
  split <;> simp_all

/-- What `modVec` leaves to be read. -/
theorem modVec_own (t u : Nat) (f : Vec → Vec) : tileAt (modVec s t f) u =
    if t = u then { tileAt s t with vec := f (tileAt s t).vec } else tileAt s u := by
  simp only [modVec, modTile, setTile, tileAt, Tab.at, Tab.find_put]
  split <;> simp_all

/-- What `modSched` leaves to be read. -/
theorem modSched_own (t u : Nat) (f : Sched → Sched) : tileAt (modSched s t f) u =
    if t = u then { tileAt s t with sched := f (tileAt s t).sched } else tileAt s u := by
  simp only [modSched, modTile, setTile, tileAt, Tab.at, Tab.find_put]
  split <;> simp_all

/-- What `setPart` leaves to be read. -/
theorem setPart_own (q r : Nat) (x : Part) : partAt (setPart s q x) r =
    if q = r then x else partAt s r := by
  simp only [setPart, partAt, Tab.at, Tab.find_put]
  split <;> simp_all

/-- What `modPart` leaves to be read. -/
theorem modPart_own (q r : Nat) (f : Part → Part) : partAt (modPart s q f) r =
    if q = r then f (partAt s q) else partAt s r := by
  simp only [modPart, setPart, partAt, Tab.at, Tab.find_put]
  split <;> simp_all

/-- What `modCtx` leaves to be read. -/
theorem modCtx_own (q r : Nat) (f : StepCtx → StepCtx) : partAt (modCtx s q f) r =
    if q = r then { partAt s q with ctx := f (partAt s q).ctx } else partAt s r := by
  simp only [modCtx, modPart, setPart, partAt, Tab.at, Tab.find_put]
  split <;> simp_all

/-- What `modSettle` leaves to be read. -/
theorem modSettle_own (q r : Nat) (f : Settle → Settle) : partAt (modSettle s q f) r =
    if q = r then { partAt s q with settle := f (partAt s q).settle } else partAt s r := by
  simp only [modSettle, modPart, setPart, partAt, Tab.at, Tab.find_put]
  split <;> simp_all

/-- What `modJoin` leaves to be read. -/
theorem modJoin_own (q r : Nat) (f : Join → Join) : partAt (modJoin s q f) r =
    if q = r then { partAt s q with join := f (partAt s q).join } else partAt s r := by
  simp only [modJoin, modPart, setPart, partAt, Tab.at, Tab.find_put]
  split <;> simp_all

/-- What `modCkpt` leaves to be read. -/
theorem modCkpt_own (q r : Nat) (f : Ckpt → Ckpt) : partAt (modCkpt s q f) r =
    if q = r then { partAt s q with ckpt := f (partAt s q).ckpt } else partAt s r := by
  simp only [modCkpt, modPart, setPart, partAt, Tab.at, Tab.find_put]
  split <;> simp_all

/-- What `modPort` leaves to be read. -/
theorem modPort_own (p r : Nat) (f : Port → Port) : portAt (modPort s p f) r =
    if p = r then f (portAt s p) else portAt s r := by
  simp only [modPort, portAt, Tab.at, Tab.find_put]
  split <;> simp_all

/-- What `modTree` leaves to be read. -/
theorem modTree_own (k r : Nat) (f : TreeCtx → TreeCtx) : treeAt (modTree s k f) r =
    if k = r then f (treeAt s k) else treeAt s r := by
  simp only [modTree, treeAt, Tab.at, Tab.find_put]
  split <;> simp_all

/-- What `modEth` leaves to be read. -/
theorem modEth_own (e r : Nat) (f : EthPort → EthPort) : ethAt (modEth s e f) r =
    if e = r then f (ethAt s e) else ethAt s r := by
  simp only [modEth, ethAt, Tab.at, Tab.find_put]
  split <;> simp_all

/-- What `modCvu` leaves to be read. -/
theorem modCvu_own (u r : Nat) (f : Cvu → Cvu) : cvuAt (modCvu s u f) r =
    if u = r then f (cvuAt s u) else cvuAt s r := by
  simp only [modCvu, cvuAt, Tab.at, Tab.find_put]
  split <;> simp_all

/-- What `regPut` leaves to be read. -/
theorem regPut_own (a b v : Nat) : regGet (regPut s a v) b =
    if a = b then v % 2 ^ 64 else regGet s b := by
  simp only [regPut, regGet, word, Tab.at, Tab.find_put]
  split <;> simp_all

/-- A host slot set reads as set; the others as before. -/
theorem modHost_own (h g : Nat) (f : HostSlot → HostSlot) (hh : h < s.hosts.length) :
    hostAt (modHost s h f) g = if h = g then f (hostAt s h) else hostAt s g := by
  simp only [modHost, hostAt, setNth, List.getD_eq_getElem?_getD, List.getElem?_set]
  split <;> simp_all

/-- The management state, the far store's and the governor's, updated. -/
@[simp] theorem modMgt_own (f : Mgt → Mgt) : (modMgt s f).mgt = f s.mgt := rfl
@[simp] theorem modFs_own (f : FarStore → FarStore) : (modFs s f).fs = f s.fs := rfl
@[simp] theorem modPwr_own (f : Power → Power) : (modPwr s f).pwr = f s.pwr := rfl
@[simp] theorem emit_own (e : Emission) : (emit s e).out = e :: s.out := rfl
@[simp] theorem drawFresh_own : (drawFresh s).1 = s.fresh ∧ (drawFresh s).2.fresh = s.fresh + 1 := ⟨rfl, rfl⟩

end Sys2Proof.Machine
end

