-- ==== Sys2Proof/Laws/Memory.lean ====
section
/-! SUPPORT. The canonical memory: what a write reads back as, and that every operation keeps the form. -/

namespace Sys2Proof.Machine

/-! ### The form -/

/-- The form of a longer list: its head not zero, its head's address below every other, its tail in the form. -/
theorem Memory.wf_cons (k : Nat) (b : Byte) (t : List Host.Cell) :
    Memory.wf ((k, b) :: t) = true ↔ b ≠ 0 ∧ (∀ c ∈ t, k < c.1) ∧ Memory.wf t = true := by
  induction t generalizing k b with
  | nil => simp [Memory.wf]
  | cons x t ih =>
    obtain ⟨k', b'⟩ := x
    have h : Memory.wf ((k, b) :: (k', b') :: t) = (b != 0 && decide (k < k') && Memory.wf ((k', b') :: t)) := rfl
    rw [h]
    simp only [Bool.and_eq_true, bne_iff_ne, decide_eq_true_eq, ih, List.mem_cons, forall_eq_or_imp]
    constructor
    · rintro ⟨⟨h1, h2⟩, h3, h4, h5⟩
      exact ⟨h1, ⟨h2, fun c hc => Nat.lt_trans h2 (h4 c hc)⟩, h3, h4, h5⟩
    · rintro ⟨h1, ⟨h2, -⟩, h3⟩
      exact ⟨⟨h1, h2⟩, h3⟩

@[simp] theorem Memory.wf_nil : Memory.wf [] = true := rfl

/-- Every address of a written list is the one written or was listed before. -/
theorem mem_writeCells {m : List Host.Cell} {a : Nat} {b : Byte} {c : Host.Cell} (h : c ∈ writeCells m a b) : c.1 = a ∨ c ∈ m := by
  induction m with
  | nil =>
    by_cases hb : b = 0#8 <;> simp [writeCells, hb] at h
    exact .inl (by simp [h])
  | cons x t ih =>
    obtain ⟨k, v⟩ := x
    simp only [writeCells] at h
    split at h
    · split at h
      · exact .inr (List.mem_cons_of_mem _ h)
      · rcases List.mem_cons.1 h with h | h
        · exact .inl (by rw [h])
        · exact .inr (List.mem_cons_of_mem _ h)
    · split at h
      · split at h
        · exact .inr h
        · rcases List.mem_cons.1 h with h | h
          · exact .inl (by rw [h])
          · exact .inr h
      · rcases List.mem_cons.1 h with h | h
        · exact .inr (h ▸ List.mem_cons_self ..)
        · rcases ih h with h | h
          · exact .inl h
          · exact .inr (List.mem_cons_of_mem _ h)

/-- Writing a byte keeps the form. -/
@[simp] theorem wf_writeCells {m : List Host.Cell} (h : Memory.wf m = true) (a : Nat) (b : Byte) : Memory.wf (writeCells m a b) = true := by
  induction m with
  | nil => by_cases hb : b = 0#8 <;> simp [writeCells, hb, Memory.wf]
  | cons x t ih =>
    obtain ⟨k, v⟩ := x
    obtain ⟨hv, hk, ht⟩ := (Memory.wf_cons k v t).1 h
    simp only [writeCells]
    split
    next e =>
      split
      · exact ht
      next hb => exact (Memory.wf_cons _ _ _).2 ⟨hb, e ▸ hk, ht⟩
    · split
      next hlt =>
        split
        · exact h
        next hb =>
          refine (Memory.wf_cons _ _ _).2 ⟨hb, fun c hc => ?_, h⟩
          rcases List.mem_cons.1 hc with rfl | hc
          · exact hlt
          · exact Nat.lt_trans hlt (hk c hc)
      next hge =>
        refine (Memory.wf_cons _ _ _).2 ⟨hv, fun c hc => ?_, ih ht⟩
        rcases mem_writeCells hc with hc | hc
        · omega
        · exact hk c hc

/-- Writing a byte string keeps the form. -/
@[simp] theorem wf_writeBytes {m : List Host.Cell} (h : Memory.wf m = true) (a : Nat) (bs : List Byte) : Memory.wf (writeBytes m a bs) = true := by
  induction bs generalizing m a with
  | nil => exact h
  | cons b bs ih => exact ih (wf_writeCells h a b) _

/-- Keeping some of the bytes keeps the form. -/
@[simp] theorem wf_filter {m : List Host.Cell} (h : Memory.wf m = true) (p : Host.Cell → Bool) : Memory.wf (m.filter p) = true := by
  induction m with
  | nil => rfl
  | cons x t ih =>
    obtain ⟨k, v⟩ := x
    obtain ⟨hv, hk, ht⟩ := (Memory.wf_cons k v t).1 h
    simp only [List.filter_cons]
    split
    · exact (Memory.wf_cons _ _ _).2 ⟨hv, fun c hc => hk c (List.mem_filter.1 hc).1, ih ht⟩
    · exact ih ht

/-- Clearing a span keeps the form. -/
@[simp] theorem wf_clearBytes {m : List Host.Cell} (h : Memory.wf m = true) (a n : Nat) : Memory.wf (clearBytes m a n) = true :=
  wf_filter h _

/-- The memory after reset is in the form. -/
theorem wf_reset : Memory.wf State.reset.mem = true := rfl

/-! ### Reading -/

/-- An address below every listed one reads as zero. -/
theorem readCells_below {m : List Host.Cell} {a : Nat} (h : ∀ c ∈ m, a < c.1) : readCells m a = 0 := by
  induction m with
  | nil => rfl
  | cons x t ih =>
    obtain ⟨k, v⟩ := x
    have hk : a < k := h (k, v) (List.mem_cons_self ..)
    simp only [readCells, if_neg (Nat.ne_of_gt hk)]
    exact ih fun c hc => h c (List.mem_cons_of_mem _ hc)

/-- A byte just written reads back; every other byte reads as before. -/
theorem readCells_writeCells {m : List Host.Cell} (h : Memory.wf m = true) (a c : Nat) (b : Byte) :
    readCells (writeCells m a b) c = if a = c then b else readCells m c := by
  induction m with
  | nil =>
    by_cases hb : b = 0#8
    · simp [writeCells, readCells, hb]
    · simp [writeCells, readCells, hb]
  | cons x t ih =>
    obtain ⟨k, v⟩ := x
    obtain ⟨hv, hk, ht⟩ := (Memory.wf_cons k v t).1 h
    have ih := ih ht
    by_cases e : k = a
    · subst e
      by_cases hb : b = 0#8
      · by_cases hc : k = c
        · subst hc
          simp [writeCells, hb, readCells_below hk]
        · simp [writeCells, readCells, hb, hc]
      · by_cases hc : k = c <;> simp [writeCells, readCells, hb, hc]
    · by_cases hlt : a < k
      · by_cases hb : b = 0#8
        · by_cases hc : a = c
          · subst hc
            have : readCells ((k, v) :: t) a = 0 :=
              readCells_below fun c hc => by
                rcases List.mem_cons.1 hc with rfl | hc
                · exact hlt
                · exact Nat.lt_trans hlt (hk c hc)
            simp [writeCells, e, hlt, hb, this]
          · simp [writeCells, e, hlt, hb, hc]
        · by_cases hc : a = c
          · subst hc
            simp [writeCells, readCells, e, hlt, hb]
          · simp [writeCells, readCells, e, hlt, hb, hc]
      · by_cases hc : k = c
        · subst hc
          simp [writeCells, readCells, e, hlt, Ne.symm e]
        · simp [writeCells, readCells, e, hlt, hc, ih]

/-- A byte string just written: inside it its own bytes read back, outside it every byte reads as before. -/
theorem readCells_writeBytes {m : List Host.Cell} (h : Memory.wf m = true) (a c : Nat) (bs : List Byte) :
    readCells (writeBytes m a bs) c = if a ≤ c ∧ c < a + bs.length then bs.getD (c - a) 0 else readCells m c := by
  induction bs generalizing m a with
  | nil => simp [writeBytes]
  | cons b bs ih =>
    rw [writeBytes, ih (wf_writeCells h a b), readCells_writeCells h]
    by_cases h1 : a = c
    · subst h1
      simp
    · by_cases h2 : a + 1 ≤ c ∧ c < a + 1 + bs.length
      · have e : c - a = (c - (a + 1)) + 1 := by omega
        have h3 : a ≤ c ∧ c < a + (b :: bs).length := by simp only [List.length_cons]; omega
        rw [if_pos h2, if_pos h3, e, List.getD_cons_succ]
      · have h3 : ¬(a ≤ c ∧ c < a + (b :: bs).length) := by simp only [List.length_cons]; omega
        rw [if_neg h2, if_neg h3, if_neg h1]

/-- A byte string reads back whole. -/
theorem readBytes_writeBytes {m : List Host.Cell} (h : Memory.wf m = true) (a : Nat) (bs : List Byte) :
    readBytes (writeBytes m a bs) a bs.length = bs := by
  apply List.ext_getElem
  · simp [readBytes]
  · intro i h1 h2
    simp only [readBytes, List.getElem_map, List.getElem_range]
    rw [readCells_writeBytes h, if_pos (by omega)]
    simp [List.getD_eq_getElem?_getD, h2]

/-- Where bytes are kept by their addresses alone, kept ones read as before and the others as zero. -/
theorem readCells_filter (m : List Host.Cell) (p : Nat → Bool) (c : Nat) :
    readCells (m.filter (fun x => p x.1)) c = if p c then readCells m c else 0 := by
  induction m with
  | nil => simp [readCells]
  | cons x t ih =>
    obtain ⟨k, v⟩ := x
    by_cases hp : p k
    · by_cases hc : k = c
      · subst hc
        simp [hp, readCells]
      · simp [hp, readCells, hc, ih]
    · by_cases hc : k = c
      · subst hc
        simpa [hp] using ih
      · simp [hp, readCells, hc, ih]

/-- A cleared span reads as zero; every other byte as before. -/
theorem readCells_clearBytes (m : List Host.Cell) (a n c : Nat) :
    readCells (clearBytes m a n) c = if c < a ∨ a + n ≤ c then readCells m c else 0 := by
  have := readCells_filter m (fun x => decide (x < a ∨ a + n ≤ x)) c
  simpa [clearBytes] using this

/-! ### Byte order -/

@[simp] theorem toLe_length (n v : Nat) : (toLe n v).length = n := by
  induction n generalizing v with
  | zero => rfl
  | succ n ih => simp [toLe, ih]

/-- n little-endian bytes hold a number modulo 256 to the n. -/
theorem leNat_toLe (n v : Nat) : leNat (toLe n v) = v % 256 ^ n := by
  induction n generalizing v with
  | zero => simp [toLe, leNat, Nat.mod_one]
  | succ n ih =>
    simp only [toLe, leNat, ih, BitVec.toNat_ofNat]
    rw [show 256 ^ (n + 1) = 2 ^ 8 * 256 ^ n from by rw [Nat.pow_succ']; rfl, Nat.mod_mul]
    rfl

@[simp] theorem slice_length (bs : List Byte) (o n : Nat) : (slice bs o n).length = n := by
  simp [slice]

/-- A slice of a string lies in its first part, or in its second. -/
theorem slice_append_left (x y : List Byte) {o n : Nat} (h : o + n ≤ x.length) : slice (x ++ y) o n = slice x o n := by
  have e : ((x ++ y).drop o).take n = (x.drop o).take n := by
    rw [List.drop_append_of_le_length (by omega), List.take_append_of_le_length (by simp; omega)]
  simp [slice, e]

theorem slice_append_right (x y : List Byte) (o n : Nat) : slice (x ++ y) (x.length + o) n = slice y o n := by
  have e : ((x ++ y).drop (x.length + o)) = y.drop o := by rw [List.drop_append]; simp
  simp [slice, e]

/-- A whole string is its own slice. -/
theorem slice_whole (x : List Byte) : slice x 0 x.length = x := by simp [slice]

theorem slice_append_end (x y : List Byte) : slice (x ++ y) x.length y.length = y := by
  have h := slice_append_right x y 0 y.length
  rwa [Nat.add_zero, slice_whole] at h

end Sys2Proof.Machine
end

