-- ==== Sys2Proof/Laws/Trust.lean ====
section
/-! SUPPORT. What the trust block's arithmetic keeps. -/

namespace Sys2Proof.Machine

/-- Setting lanes keeps their number. -/
theorem foldl_set_length {α : Type} (f : α → Nat) (g : α → Word) (l : List α) (b : List Word) :
    (l.foldl (fun b m => b.set (f m) (g m)) b).length = b.length := by
  induction l generalizing b with
  | nil => rfl
  | cons x l ih => simp [ih]

/-- The sponge has 25 lanes, before a round and after it. -/
theorem spongeRound_length (a : List Word) (c : Word) (h : a.length = 25) : (spongeRound a c).length = 25 := by
  simp [spongeRound, spongeRows, spongeShuffle, spongeColumns, withPos, foldl_set_length, h]

theorem foldl_length {α : Type} (f : List Word → α → List Word) (h : ∀ a x, a.length = 25 → (f a x).length = 25) (l : List α) (a : List Word)
    (ha : a.length = 25) : (l.foldl f a).length = 25 := by
  induction l generalizing a with
  | nil => exact ha
  | cons x l ih => exact ih _ (h a x ha)

theorem keccakF_length (a : List Word) (h : a.length = 25) : (keccakF a).length = 25 :=
  foldl_length _ (fun a x ha => spongeRound_length a x ha) _ _ h

theorem kAbsorb_length (a : List Word) (b : List Byte) (h : a.length = 25) : (kAbsorb a b).length = 25 :=
  keccakF_length _ (by simp [withPos, h])

/-- SHAKE256 gives as many bytes as asked for. -/
theorem shake256_length (n : Nat) (m : List Byte) (h : n ≤ 200) : (shake256 n m).length = n := by
  have e := foldl_length kAbsorb kAbsorb_length (pieces 136 (shakePad m)) (List.replicate 25 0) (by simp)
  have g : ∀ l : List Word, (l.flatMap (fun w => toLe 8 w.toNat)).length = 8 * l.length := by
    intro l
    induction l with
    | nil => rfl
    | cons x l ih => simp [List.flatMap_cons, ih]; omega
  rw [shake256, List.length_take, g, e]
  omega

end Sys2Proof.Machine
end

