-- ==== Sys2Proof/WellFormed.lean ====
section
/-! DEFINITION. Well-formed commands: the operand ranges the spec gives each command. -/

namespace Sys2Proof

/-- A host slot (R352), a command's SEQ (R356), a queue pair number. -/
def isHost (h : Nat) : Bool := decide (h < 4)
def isSeq (n : Nat) : Bool := decide (n < 2 ^ 32)
def isQpn (n : Nat) : Bool := decide (n < 2 ^ 24)

/-- A tile, partition, link port, Ethernet port, check-value unit (R1, R229, R336). -/
def isTile (t : Nat) : Bool := decide (t < 1024)
def isPart (q : Nat) : Bool := decide (q < 16)
def isPort (p : Nat) : Bool := decide (p < 16)
def isEth (e : Nat) : Bool := decide (e < 4)
def isCvu (u : Nat) : Bool := decide (u < 48)

/-- A device-local address (R244). -/
def isAddr (a : Nat) : Bool := decide (a < 2 ^ 44)

/-- An access within one tile window (R242). -/
def inWindow (off len : Nat) : Bool := decide (off + len ≤ 0x800000)

/-- Where a packet comes in: a port, or 16 + q for one that partition q loops back (R299). -/
def isIngress (p : Nat) : Bool := decide (p < 32)

/-- The lines that an error of the path shows are 64 bytes (R262). -/
def EccEvent.wf (e : EccEvent) : Bool :=
  match e with
  | .path first second => decide (first.length = 64 ∧ second.length = 64)
  | .pathWrite got => decide (got.length = 64)
  | _ => true

/-- Symbols corrected on at most four lanes (R290, R291). -/
def Codewords.wf (c : Codewords) : Bool :=
  match c with
  | .corrected l => decide (l.length ≤ 4)
  | _ => true

/-- A frame's connection and codewords (R318, R332). -/
def Carried.wf (v : Carried) : Bool := isQpn v.qpn && v.cw.wf

/-- A requester of the far-store engine, by the model's numbers: a tile's DMA transfer, or an engine of a partition (R271). -/
def isSource (n : Nat) : Bool := decide (n < 2 ^ 41)

/-- A test kind (R482). -/
def isTest (kind : Nat) : Bool := decide (1 ≤ kind ∧ kind ≤ 9)

/-- A whole temperature in °C as an eight-bit field holds it (R557). -/
def isTemp (c : Int) : Bool := decide (-128 ≤ c ∧ c ≤ 127)

/-- A reset domain 1 to 8, with an index of its own for a tile, a group and a partition (R485). -/
def isReset (domain idx : Nat) : Bool :=
  match domain with
  | 1 => decide (idx < 1024)
  | 2 => decide (idx < 16)
  | 3 => decide (idx < 16)
  | 4 | 5 | 6 | 7 | 8 => true
  | _ => false

/-- The widths of a vector instruction's fields (R145). -/
def VIns.wf (i : VIns) : Bool :=
  decide (i.typ < 256 ∧ i.rnd < 8 ∧ i.pred < 8 ∧ i.srcsel < 8 ∧ i.idxr < 8)
    && decide (i.dst < 512 ∧ i.srcA < 512 ∧ i.srcB < 512 ∧ i.srcC < 512 ∧ i.sub < 16 ∧ i.typ2 < 256)

/-- The widths of a packet's header fields, and data of the length its header says (R300). -/
def Packet.wf (k : Packet) : Bool :=
  decide (k.typ < 16 ∧ k.flow < 2 ^ 18 ∧ k.srcDev < 2 ^ 16 ∧ k.dstDev < 2 ^ 16 ∧ k.jobEpoch < 2 ^ 32 ∧ k.abortEpoch < 2 ^ 16)
    && decide (k.tick < 2 ^ 24 ∧ k.slot < 2 ^ 19 ∧ k.gen < 2 ^ 8 ∧ k.length < 2 ^ 12 ∧ k.status < 16 ∧ k.addr < 2 ^ 44)
    && decide (k.data.length = if k.typ = 2 then 0 else k.length)
    && k.poison.all (fun x => decide (x.1 + x.2 ≤ k.length))

/-- The widths of a control slot's fields (R304). -/
def CtlSlot.wf (c : CtlSlot) : Bool := decide (c.typ < 256 ∧ c.tree < 256 ∧ c.epoch < 2 ^ 16)

/-- Whether every operand of a command lies in its range. -/
def Instr.wellFormed : Instr → Bool
  | .commandRecord h _ => isHost h
  | .attach e _ => isEth e
  | .identify h seq => isHost h && isSeq seq
  | .readLog h seq => isHost h && isSeq seq
  | .attest h seq => isHost h && isSeq seq
  | .loadImage h seq => isHost h && isSeq seq
  | .imageStaged h seq => isHost h && isSeq seq
  | .unload h seq => isHost h && isSeq seq
  | .start h seq => isHost h && isSeq seq
  | .hold h seq => isHost h && isSeq seq
  | .resume h seq => isHost h && isSeq seq
  | .abortStep h seq => isHost h && isSeq seq
  | .ctxSave h seq => isHost h && isSeq seq
  | .ctxRestore h seq => isHost h && isSeq seq
  | .dma h seq => isHost h && isSeq seq
  | .reset h seq => isHost h && isSeq seq
  | .deferredReset => true
  | .resetComplete domain idx => isReset domain idx
  | .selfTest h seq => isHost h && isSeq seq
  | .dump h seq _ _ => isHost h && isSeq seq
  | .dumpUnit => true
  | .dumpRequestTimeout => true
  | .bindJob h seq => isHost h && isSeq seq
  | .unbindJob h seq => isHost h && isSeq seq
  | .shadowBegin h seq => isHost h && isSeq seq
  | .shadowEnd h seq => isHost h && isSeq seq
  | .fence h seq => isHost h && isSeq seq
  | .expel h seq => isHost h && isSeq seq
  | .admitModule h seq => isHost h && isSeq seq
  | .checkpoint h seq => isHost h && isSeq seq
  | .restore h seq => isHost h && isSeq seq
  | .poolReadResponse qpn _ _ => isQpn qpn
  | .connect h seq => isHost h && isSeq seq
  | .disconnect h seq => isHost h && isSeq seq
  | .fwRestart h seq => isHost h && isSeq seq
  | .bootComplete badSites chans _ => badSites.all (fun x => decide (x.1 < 32 ∧ x.2 < 33)) && chans.all (fun c => decide (c.chan < 384))
  | .hostRdmaRead via addr _ => via.wf && isAddr addr
  | .hostRdmaWrite via addr _ => via.wf && isAddr addr
  | .hostSendData via _ => via.wf
  | .atomicRequest qpn => isQpn qpn
  | .registerWrite addr _ => isAddr addr && decide (addr % 8 = 0)
  | .devTickPeriodWrite _ => true
  | .devTickAtWrite _ => true
  | .devIdWrite _ => true
  | .lnkCfgWrite p _ => isPort p
  | .drnAnchorWrite q slot _ => isPart q && decide (slot < 4096)
  | .drnWindowWrite t _ _ => isTile t
  | .accumulatorWindowRead t off len => isTile t && inWindow off len
  | .accumulatorWindowWrite t off data => isTile t && inWindow off data.length
  | .rduTallyWrite t k half _ => isTile t && decide (k < 64 ∧ half < 2)
  | .cvuSlotWrite u off _ => isCvu u && decide (off < 128 ∧ off % 8 = 0)
  | .pwrCapWrite _ => true
  | .devTickRefWrite _ => true
  | .vecErrRead t => isTile t
  | .nsErrRead t => isTile t
  | .nsDmaRead t => isTile t
  | .fsErrRead => true
  | .fcStatusRead => true
  | .fsChanRead c => decide (c < 384)
  | .schSpecRead q => isPart q
  | .schSpec2Read q => isPart q
  | .lnkErrRead p => isPort p
  | .lnkLaneRead p l => isPort p && decide (l < 4)
  | .lnkFabricRead => true
  | .lnkFabric2Read => true
  | .ethErrRead e => isEth e
  | .cvuStatusRead u => isCvu u
  | .lnkBucketRead q => isPart q
  | .updJoinRead q => isPart q
  | .updJournalRead q => isPart q
  | .tileResetRead t => isTile t
  | .devTickRefRead => true
  | .controlMeshRequest t off _ => isTile t && decide (off < 0x800000 ∧ off % 8 = 0)
  | .agentSilent isGroup idx => decide (idx < if isGroup then 16 else 1024)
  | .mgtPulseIncrement => true
  | .mgtLockstep => true
  | .tickBoundary => true
  | .tickRecord q => isPart q
  | .preemptBoundary q => isPart q
  | .tokenArrival _ => true
  | .speculativeFire t actor _ _ => isTile t && decide (actor < 2048)
  | .fireBody t => isTile t
  | .firePass t => isTile t
  | .fireDma t => isTile t
  | .fireSync t => isTile t
  | .fireClose t => isTile t
  | .firingComplete t actor => isTile t && decide (actor < 2048)
  | .gateOpen t => isTile t
  | .intakeWrite t seg slot => isTile t && decide (seg < 4 ∧ slot.of < 4096) && slot.guess.all (fun d => decide (d ≤ 8))
  | .issueSlot t seg => isTile t && decide (seg < 4)
  | .cellFire t k n => isTile t && decide (k < 128 ∧ n < 128)
  | .shadowLoad t seg => isTile t && decide (seg.of < 4)
  | .blockPartial t seg n => isTile t && decide (seg < 4 ∧ n < 128)
  | .drainAccumulate t => isTile t
  | .accumulatorMerge t layerSlot _ _ _ => isTile t && decide (layerSlot < 4096)
  | .outputConversion t => isTile t
  | .layerClose q layerSlot => isPart q && decide (layerSlot < 4096)
  | .reductionTreeComplete q tree => isPart q && decide (tree < 256)
  | .spotRecompute t layerSlot _ _ _ _ _ _ _ => isTile t && decide (layerSlot < 4096)
  | .nop t i => isTile t && i.wf
  | .fadd t i => isTile t && i.wf
  | .fsub t i => isTile t && i.wf
  | .fmul t i => isTile t && i.wf
  | .fma t i => isTile t && i.wf
  | .fms t i => isTile t && i.wf
  | .fnma t i => isTile t && i.wf
  | .fmin t i => isTile t && i.wf
  | .fmax t i => isTile t && i.wf
  | .fabs t i => isTile t && i.wf
  | .fneg t i => isTile t && i.wf
  | .fdiv t i => isTile t && i.wf
  | .fsqrt t i => isTile t && i.wf
  | .frcp t i => isTile t && i.wf
  | .frsqrt t i => isTile t && i.wf
  | .fexp2 t i => isTile t && i.wf
  | .flog2 t i => isTile t && i.wf
  | .ftanh t i => isTile t && i.wf
  | .fcmp t i => isTile t && i.wf
  | .frint t i => isTile t && i.wf
  | .cvt t i => isTile t && i.wf
  | .packb t i => isTile t && i.wf
  | .unpackb t i => isTile t && i.wf
  | .iadd t i => isTile t && i.wf
  | .isub t i => isTile t && i.wf
  | .imul t i => isTile t && i.wf
  | .imin t i => isTile t && i.wf
  | .imax t i => isTile t && i.wf
  | .vand t i => isTile t && i.wf
  | .vor t i => isTile t && i.wf
  | .vxor t i => isTile t && i.wf
  | .shl t i => isTile t && i.wf
  | .shr t i => isTile t && i.wf
  | .sar t i => isTile t && i.wf
  | .icmp t i => isTile t && i.wf
  | .iota t i => isTile t && i.wf
  | .itof t i => isTile t && i.wf
  | .ftoi t i => isTile t && i.wf
  | .mov t i => isTile t && i.wf
  | .sel t i => isTile t && i.wf
  | .ldl t i => isTile t && i.wf
  | .stl t i => isTile t && i.wf
  | .setidx t i => isTile t && i.wf
  | .addidx t i => isTile t && i.wf
  | .pand t i => isTile t && i.wf
  | .por t i => isTile t && i.wf
  | .pxor t i => isTile t && i.wf
  | .pnot t i => isTile t && i.wf
  | .pset t i => isTile t && i.wf
  | .gfn t i => isTile t && i.wf
  | .rsum t i => isTile t && i.wf
  | .rprod t i => isTile t && i.wf
  | .rmax t i => isTile t && i.wf
  | .rmin t i => isTile t && i.wf
  | .rargmax t i => isTile t && i.wf
  | .rargmin t i => isTile t && i.wf
  | .rcount t i => isTile t && i.wf
  | .rand t i => isTile t && i.wf
  | .ror t i => isTile t && i.wf
  | .rxsum t i => isTile t && i.wf
  | .rcvt t i => isTile t && i.wf
  | .rnet t i => isTile t && i.wf
  | .rbcast t i => isTile t && i.wf
  | .popq t i => isTile t && i.wf
  | .rclr t i => isTile t && i.wf
  | .copy t _ => isTile t
  | .feed t _ => isTile t
  | .weight t _ => isTile t
  | .prefetch t _ => isTile t
  | .fill t _ => isTile t
  | .scan t _ => isTile t
  | .descriptorComplete t _ => isTile t
  | .bankGrant t bank ecc => isTile t && decide (bank < 32) && ecc.wf
  | .meshRequestArrival r => isAddr r.addr && (r.isWrite || r.data.isEmpty) && decide (r.part ≤ 16 ∧ r.abortEpoch < 65536)
  | .meshReplyArrival r => decide (r.status < 16 ∧ r.part ≤ 16 ∧ r.abortEpoch < 65536)
  | .regulatorAdmit q => isPart q
  | .fsRequestIssue source => isSource source
  | .farCacheAccess source addr _ _ ecc => source.all isSource && isAddr addr && ecc.wf
  | .guardStaleAck _ _ => true
  | .guardRefetch _ _ => true
  | .copyAheadStage q _ => isPart q
  | .writebackTimeout => true
  | .fabricRequestIssue dest => decide (dest < 2 ^ 16)
  | .packetSend p => isPort p
  | .flitReceive p cw flit => isPort p && cw.wf && decide (flit.length = 256)
  | .retryRequest p ackSeq => isPort p && decide (ackSeq < 2 ^ 12)
  | .retrainComplete p _ => isPort p
  | .portTrained p partnerPort partnerDev _ _ => isPort p && decide (partnerPort < 2 ^ 16) && partnerDev.all (fun d => decide (d < 2 ^ 16))
  | .laneFault p l => isPort p && decide (l < 4)
  | .laneTestComplete p l _ => isPort p && decide (l < 4)
  | .portSilent p => isPort p
  | .write p k => isIngress p && k.wf
  | .readReq p k => isIngress p && k.wf
  | .readData p k => isIngress p && k.wf
  | .ack p k => isIngress p && k.wf
  | .token p k => isIngress p && k.wf
  | .deposit p k => isIngress p && k.wf
  | .flowTimeout slot => decide (slot < 2 ^ 19)
  | .upwardTick p c => isPort p && c.wf
  | .voteWaitExpiry tree => decide (tree < 16)
  | .downwardTick p c => isPort p && c.wf
  | .abortSymbol p c => isPort p && c.wf
  | .fenceSymbol p c => isPort p && c.wf
  | .timeReqSend p => isPort p
  | .timeReq p c => isPort p && c.wf
  | .timeRsp p c => isPort p && c.wf
  | .periodSymbol p c => isPort p && c.wf
  | .timingParentLost => true
  | .stepAbort q cause => isPart q && decide (cause < 256)
  | .tilePurgeReport t => isTile t
  | .targetedSelfTest kind _ => isTest kind
  | .selfTestComplete kind _ _ _ => isTest kind
  | .bucketStart q b => isPart q && decide (b < 65536)
  | .bucketExchangeComplete q b => isPart q && decide (b < 65536)
  | .updateRange q _ => isPart q
  | .escrowPass q owner _ => isPart q && decide (owner < 2)
  | .catchUpUnit q owner => isPart q && decide (owner < 2)
  | .firstCopyUnit q _ => isPart q
  | .coldStreamUnit q _ => isPart q
  | .checkpointObjectAck a => isPart a.q
  | .monitorWindow m _ => decide (m < 5)
  | .ethLinkUp e => isEth e
  | .ethLinkLoss e => isEth e
  | .roceAckTimeout qpn => isQpn qpn
  | .cnpReceive qpn => isQpn qpn
  | .rateRecovery r => isQpn r.qpn
  | .droopDetect => true
  | .droopRamp => true
  | .capLoop _ => true
  | .thermalLoop dieHot memHot => isTemp dieHot && isTemp memHot
  | .uvWarn => true
  | .uvWarnClear => true
  | .uvFault => true
  | .ovFault => true
  | .overcurrent => true
  | .thermalTrip => true
  | .modEnRise => true
  | .modEnFall => true
  | .modResetNFall => true
  | .modResetNRelease => true
  | .railGood => true
  | .railFault => true
  | .refLoss => true
  | .refclkRestore => true
  | .tickRefEdge _ => true
  | .tickRefEdgeMissing => true
  | .page _ => true
  | .clearFaults => true
  | .vinOvFaultLimit => true
  | .vinUvWarnLimit => true
  | .vinUvFaultLimit => true
  | .statusWord => true
  | .readVin _ => true
  | .readIin _ => true
  | .readVout _ => true
  | .readIout _ => true
  | .readTemperature1 c => isTemp c
  | .readTemperature2 c => isTemp c
  | .readTemperature3 c => isTemp c
  | .readPout _ => true
  | .readPin _ => true
  | .bypass => true
  | .idcode => true
  | .samplePreload => true
  | .extest => true
  | .bulkAccessResponse h seq _ _ => isHost h && isSeq seq

end Sys2Proof
end

