-- ==== Sys2Proof/Tests/Slice0.lean ====
section
/-! SUPPORT. Witnesses that the hypotheses of the statements can be met, the spec's own worked numbers, and ill-formed commands. -/

namespace Sys2Proof.Tests

open Sys2Proof.Machine

set_option Elab.async false

/-! ### Small states -/

/-- A device that is READY under its firmware. -/
def dev0 : State := { State.reset with dev := .ready, mgt := { running := true } }

/-- Partition 0 and nothing else. -/
def withPart (s : State) (p : Part) : State := { s with parts := [(0, p)] }

/-- A group of tiles under an image. -/
def part0 (st : PartState) : Part := { state := st, gw := 1, gh := 1, image := some {}, carve := 0x10B40000000 }

/-- A job with one partition. -/
def bound (p : Part) : Part := { p with binding := some {} }

/-- One accepted command of host 0. -/
def withCmd (s : State) (c : Cmd) : State := { s with cmds := [c], hosts := [{ attached := true, held := true, anySeq := false, h := 1 }, {}, {}, {}] }

/-- A command on partition 0, and one on the device. -/
def cmd (op : Nat) : Cmd := { seq := 1, opcode := op }
def devCmd (op : Nat) : Cmd := { seq := 1, opcode := op, partition := 0xFF }

/-- A switch that is open, with the die off. -/
def offDev : State := { State.reset with dev := .off, pwr := { rails := 0, switchOpen := true, modEn := false } }

/-- The next state of a command, or the present one. -/
def after (c : Instr) (s : State) : State := match exec c s with | .next t => t | _ => s

/-- Whether a command completes. -/
def completes (c : Instr) (s : State) : Bool := match exec c s with | .next _ => true | _ => false

/-! ### The power chain -/

theorem witness_queue : State.reset.pending = [] := by decide
theorem witness_step_keeps : Inv State.reset ∧ step State.reset = .next { State.reset with cycle := 1 } :=
  ⟨⟨by decide, by simp [GovernorInRange, State.reset], by decide⟩, rfl⟩
theorem witness_exec_next : completes .tickBoundary State.reset = true := by decide +kernel
theorem witness_warn : (0xE1 : BitVec 8).getLsbD 4 = false := by decide
theorem witness_cap : (after (.pwrCapWrite 1999) State.reset).pwr.capW = 2000
    ∧ (after (.pwrCapWrite 3001) State.reset).pwr.capW = 3000
    ∧ (after (.pwrCapWrite 0xFFFFF000000009C4) State.reset).pwr.capW = 2500 := by decide +kernel

/-- Monitor 0 is enabled at reset with a threshold of 10,000. -/
theorem witness_monitor_below : (0 : Nat) < 5 ∧ (monGet State.reset 0).testBit 32 = true ∧ ¬field (monGet State.reset 0) 0 32 ≤ 9999 := by
  decide
theorem witness_monitor_measures : monMeasure { fsCe := 10000 } 0 none = some 10000 ∧ monMeasure {} 4 none = none
    ∧ monMeasure { margin := some 7 } 4 (some 5) = some 5 := by decide
theorem witness_monitor_off : (monGet (regPut State.reset (monReg 0) (10000 ^^^ monDefault 0)) 0).testBit 32 = false := by decide
theorem witness_monitor_first : (monGet State.reset 0).testBit 32 = true ∧ field (monGet State.reset 0) 0 32 ≤ 10000
    ∧ (monGet State.reset 0).testBit 33 = false := by decide
theorem witness_monitor_again :
    let s := regPut State.reset (monReg 0) ((10000 + 3 * 2 ^ 32) ^^^ monDefault 0)
    (monGet s 0).testBit 32 = true ∧ field (monGet s 0) 0 32 ≤ 10000 ∧ (monGet s 0).testBit 33 = true := by decide
theorem witness_monitor_thermal : (monGet State.reset 4).testBit 32 = true ∧ signed 32 5 ≤ signed 32 (field (monGet State.reset 4) 0 32)
    ∧ (monGet State.reset 4).testBit 33 = false := by decide

theorem witness_governor : dev0.dev ≠ .off ∧ dev0.pwr.rails = 8 := by decide
theorem witness_capLoop : (after (.capLoop 3001) dev0).pwr.cap = 1
    ∧ (after (.capLoop 2910) { dev0 with pwr := { cap := 5 } }).pwr.cap = 4
    ∧ (after (.capLoop 2911) { dev0 with pwr := { cap := 5 } }).pwr.cap = 5 := by decide +kernel
theorem witness_thermalLoop : (after (.thermalLoop 103 0) dev0).pwr.therm = 1
    ∧ (after (.thermalLoop 101 0) { dev0 with pwr := { therm := 5 } }).pwr.therm = 4 := by decide +kernel

theorem witness_fault : State.reset.pwr.switchOpen = false := by decide
theorem witness_modEnRise : offDev.pwr.modEn = false := by decide
theorem witness_modEnFall : dev0.pwr.modEn = true ∧ dev0.pwr.switchOpen = false := by decide
theorem witness_railGood :
    let s := { offDev with pwr := { rails := 6 } }
    s.dev = .off ∧ s.pwr.modEn = true ∧ s.pwr.switchOpen = false ∧ s.pwr.rails < 7 := by decide
theorem witness_lastRail :
    let s := { offDev with pwr := { rails := 7 } }
    s.dev = .off ∧ s.pwr.modEn = true ∧ s.pwr.switchOpen = false ∧ s.pwr.rails = 7 := by decide
theorem witness_warm : dev0.dev ≠ .off ∧ dev0.pwr.rails = 8 ∧ dev0.pwr.refclk = true ∧ dev0.mgt.resets = [] := by decide
theorem witness_release :
    let s := { State.reset with pwr := { rails := 3, modResetN := false } }
    s.dev = .boot ∧ s.pwr.rails = 3 ∧ s.pwr.switchOpen = false ∧ s.pwr.extest = false ∧ s.pwr.refclk = true
      ∧ s.mgt.refLossPending = false := by decide
theorem witness_restore_refclk :
    let s := { State.reset with pwr := { rails := 3, refclk := false } }
    s.dev = .boot ∧ s.pwr.rails = 3 ∧ s.pwr.switchOpen = false ∧ s.pwr.extest = false ∧ s.pwr.modResetN = true
      ∧ s.mgt.refLossPending = false := by decide
def refDev : State := { dev0 with tick := { refEnable := true } }
theorem witness_refEdge : refDev.dev ≠ .off ∧ refDev.pwr.rails = 8 ∧ refDev.tick.master = true ∧ refDev.tick.refEnable = true
    ∧ refDev.tick.badRun < 8 ∧ (-1250 : Int).natAbs ≤ 1250 ∧ 1250 < (1251 : Int).natAbs := by decide
theorem witness_refEighth : ({ refDev.tick with badRun := 7 } : TickGen).badRun = 7 := by decide

theorem witness_pmbus : dev0.dev ≠ .off ∧ dev0.pwr.rails = 8 ∧ dev0.pwr.switchOpen = false ∧ dev0.pwr.pmPage = 0 := by decide
theorem witness_pmbus_page : (6 : Byte).toNat ≤ 6 ∧ 6 < (7 : Byte).toNat := by decide
theorem witness_pmbus_other : ({ dev0.pwr with pmPage := 6 } : Power).pmPage ≠ 0 := by decide
theorem witness_jtag : 4 ≤ dev0.pwr.rails ∧ dev0.pwr.extest = false := by decide

/-! ### Host commands -/

/-- The record of an IDENTIFY with a SEQ. -/
def identifyRecord (seq : Nat) : List Byte := toLe 2 opIdentify ++ [0xFF, 0] ++ toLe 4 seq ++ List.replicate 56 0

/-- A slot whose highest SEQ is 300, with one cached answer. -/
def cachedSlot : State :=
  { dev0 with hosts := [{ attached := true, held := true, anySeq := false, h := 300, cache := [(300, List.replicate 64 0)] }, {}, {}, {}] }

theorem witness_record_new : (0 : Nat) < cachedSlot.hosts.length ∧ (hostAt cachedSlot 0).attached = true
    ∧ (identifyRecord 301).length ≤ 65600 ∧ (cachedSlot.cmds.filter (fun c => c.host = 0)).length < 64
    ∧ ((parseCmd 0 (identifyRecord 301)).seq + 2 ^ 32 - 300) % 2 ^ 32 = 1 ∧ cachedSlot.mgt.running = true
    ∧ (parseCmd 0 (identifyRecord 301)).opcode ∈ opcodes ∧ cachedSlot.cmds = [] := by decide +kernel
theorem witness_record_cached : (hostAt cachedSlot 0).anySeq = false ∧ ((hostAt cachedSlot 0).cache.find? (fun r => r.1 = 300)).isSome = true
    ∧ (300 + 2 ^ 32 - (parseCmd 0 (identifyRecord 300)).seq) % 2 ^ 32 ≤ 255 := by decide +kernel
theorem witness_record_waiting :
    let s := { cachedSlot with cmds := [{ seq := 299, opcode := opIdentify, partition := 0xFF }] }
    (hostAt s 0).cache.find? (fun r => r.1 = 299) = none ∧ (cmdAt s 0 299).isSome = true := by decide +kernel
theorem witness_record_old : 255 < (300 + 2 ^ 32 - (parseCmd 0 (identifyRecord 44)).seq) % 2 ^ 32
    ∧ 2 ^ 31 < ((parseCmd 0 (identifyRecord 44)).seq + 2 ^ 32 - 300) % 2 ^ 32 := by decide +kernel

theorem witness_identify : Starts (withCmd dev0 (devCmd opIdentify)) 0 1 opIdentify (devCmd opIdentify) [] := by
  refine ⟨?_, ?_, ?_⟩ <;> decide +kernel
theorem witness_readLog :
    let s := withCmd dev0 (devCmd opReadLog)
    Starts s 0 1 opReadLog (devCmd opReadLog) (readLogFails s (devCmd opReadLog)) ∧ (devCmd opReadLog).arg1 = 0 := by
  refine ⟨⟨?_, ?_, ?_⟩, ?_⟩ <;> decide +kernel
theorem witness_readLog_bytes :
    let c := { devCmd opReadLog with arg1 := 64, bulkLen := 64 }
    let s := withCmd (logEntry dev0 0x11 0 0xFF [9, 0]) c
    Starts s 0 1 opReadLog c (readLogFails s c) ∧ c.arg1 ≠ 0 := by
  refine ⟨⟨?_, ?_, ?_⟩, ?_⟩ <;> decide +kernel
theorem witness_attest :
    let c := { devCmd opAttest with payloadLen := 1, payload := [0], bulkLen := 65536 }
    let s := withCmd dev0 c
    Starts s 0 1 opAttest c (attestFails s c) := by
  refine ⟨?_, ?_, ?_⟩ <;> decide +kernel

def dumpCmd : Cmd := { devCmd opDump with arg0 := 1, bulkLen := fullDump }
def dumpWalk (todo : List (Nat × Nat)) : State :=
  { withCmd dev0 dumpCmd with dev := .dump, mgt := { running := true, dump := some { seq := 1, toHost := true, todo := todo } } }
theorem noActive_of_empty {s : State} (h : s.parts = []) : NoActivePartition s := by
  intro q
  simp [partAt, h, Tab.at, Tab.find]
theorem witness_dump : (withCmd dev0 dumpCmd).dev = .ready ∧ NoActivePartition (withCmd dev0 dumpCmd) ∧ (withCmd dev0 dumpCmd).mgt.marked = []
    ∧ Starts (withCmd dev0 dumpCmd) 0 1 opDump dumpCmd (check (decide (1 < dumpCmd.arg0)) stBadField 16
      ++ check (decide (dumpCmd.arg0 = 1 ∧ dumpCmd.bulkLen < fullDump)) stBadLength 40) :=
  ⟨rfl, noActive_of_empty rfl, rfl, by decide +kernel, by decide +kernel, by decide +kernel⟩
theorem witness_dumpUnit : (walking (dumpWalk [(6, 1023)])).map DumpRun.todo = some [(6, 1023)]
    ∧ (walking (dumpWalk [(6, 1023)])).map DumpRun.toHost = some true ∧ (dumpWalk [(6, 1023)]).mgt.marked.contains (6, 1023) = false
    ∧ unitTesting (dumpWalk [(6, 1023)]) (6, 1023) = false := by decide +kernel
theorem witness_dumpEnd : (dumpWalk []).dev = .dump ∧ (cmdAt (dumpWalk []) 0 1).isSome = true ∧ (walking (dumpWalk [])).map DumpRun.todo = some [] := by
  decide +kernel

theorem witness_ctxSave :
    let s := withPart (withCmd dev0 (cmd opCtxSave)) { part0 .held with image := some { carveGib := 1 } }
    Starts s 0 1 opCtxSave (cmd opCtxSave) (ctxFails s (cmd opCtxSave)) ∧ fsBase ≤ (partAt s 0).carve := by
  refine ⟨⟨?_, ?_, ?_⟩, ?_⟩ <;> decide +kernel
theorem witness_ctxRestore :
    let s := withPart (withCmd dev0 (cmd opCtxRestore)) { part0 .held with gw := 0 }
    Starts s 0 1 opCtxRestore (cmd opCtxRestore) (ctxFails s (cmd opCtxRestore) ++ ctxReadFails s (cmd opCtxRestore))
      ∧ (partTiles (partAt s 0)).Nodup := by
  refine ⟨⟨?_, ?_, ?_⟩, ?_⟩ <;> decide +kernel
theorem witness_dma_empty :
    let s := withPart (withCmd dev0 (cmd opDma)) (part0 .loaded)
    Starts s 0 1 opDma (cmd opDma) (dmaFails s (cmd opDma)) ∧ (cmd opDma).payload = [] := by
  refine ⟨⟨?_, ?_, ?_⟩, ?_⟩ <;> decide +kernel
/-- FILL of the last 64 bytes of tile 0's near store. -/
def fillCmd : Cmd :=
  { cmd opDma with payloadLen := 64, payload := [5, 0, 0, 0] ++ toLe 4 64 ++ List.replicate 16 0 ++ toLe 8 0x5FFFC0 ++ List.replicate 8 0 ++ toLe 4 1 ++ List.replicate 20 0 }
theorem witness_dma :
    let s := withPart (withCmd dev0 fillCmd) { part0 .loaded with image := some { carveGib := 1, layers := [{}] } }
    Starts s 0 1 opDma fillCmd (dmaFails s fillCmd) ∧ fillCmd.payload ≠ [] := by
  refine ⟨⟨?_, ?_, ?_⟩, ?_⟩ <;> decide +kernel

/-! ### Firmware, Ethernet, resets, tests -/

theorem witness_fwRestart :
    let c := { devCmd opFwRestart with bulkLen := 4096 }
    Starts (withCmd dev0 c) 0 1 opFwRestart c (check (decide (c.bulkLen = 0)) stBadLength 40) := by
  refine ⟨?_, ?_, ?_⟩ <;> decide +kernel

/-- A well-formed key of zeros: every coefficient is 0. -/
@[irreducible] def zeroKey : List Byte := 0x0A :: List.replicate 1792 0
theorem zeroKey_good : badKey zeroKey = false := by
  have h : ∀ i, keyCoeff zeroKey i = 0 := by
    intro i
    have z : ∀ n, (List.replicate n (0 : Byte)).foldl (fun a b => 256 * a + b.toNat) 0 = 0 := by
      intro n
      induction n with
      | zero => rfl
      | succ n ih => simpa [List.replicate_succ] using ih
    simp only [keyCoeff, zeroKey, List.drop_succ_cons, List.drop_replicate, List.take_replicate, z]
    simp only [field, Nat.zero_shiftRight, Nat.zero_mod]
  have l : zeroKey.length = keyBytes := by decide +kernel
  have f : zeroKey.getD 0 0 = 0x0A := by decide +kernel
  simp only [badKey, h, l, f]
  decide +kernel

/-- A firmware image of one body block whose key part is the key of zeros, signed by slot 0: its header, body and key part, and its whole. -/
def fwHead : List Byte :=
  [0x44, 0x52, 0x46, 0x57, 1, 0, 0, 0] ++ toLe 4 3520 ++ toLe 4 3 ++ [0, 7, 0, 0] ++ toLe 4 64 ++ List.replicate 296 0 ++ zeroKey
    ++ List.replicate 63 0
def fwTail : List Byte := [1, 0] ++ List.replicate 1326 0
def fwImage : List Byte := fwHead ++ ((shake256 32 zeroKey).take 16 ++ fwTail)
def fwDev : State :=
  { dev0 with
    dev := .boot
    mgt := {}
    fuses := { rootDigests := [shake256 32 zeroKey, [], [], []] }
    cmds := [{ devCmd opFwRestart with bulkLen := 3520, phase := 1 }] }

theorem fwDev_root : rootDigest fwDev 0 = shake256 32 zeroKey := by simp only [rootDigest, fwDev, List.getD_cons_zero]
theorem fwHead_length : fwHead.length = 2176 := by decide +kernel
theorem root_length : ((shake256 32 zeroKey).take 16).length = 16 := by rw [List.length_take, shake256_length _ _ (by decide)]; rfl
theorem fwImage_low {o n : Nat} (h : o + n ≤ 2176) : slice fwImage o n = slice fwHead o n :=
  slice_append_left _ _ (by rw [fwHead_length]; exact h)
theorem fwImage_le {o n : Nat} (h : o + n ≤ 2176) : le fwImage o n = le fwHead o n := by rw [le, le, fwImage_low h]
theorem fwImage_sigAt : fwSigAt fwImage = 2176 := by
  rw [fwSigAt, fwKeyAt, fwImage_le (by decide)]
  decide +kernel
theorem fwImage_sig : slice fwImage 2176 1344 = (shake256 32 zeroKey).take 16 ++ fwTail := by
  have h := slice_append_end fwHead ((shake256 32 zeroKey).take 16 ++ fwTail)
  have l : ((shake256 32 zeroKey).take 16 ++ fwTail).length = 1344 := by rw [List.length_append, root_length]; decide +kernel
  rw [fwHead_length, l] at h
  rw [fwImage]
  exact h
theorem fwImage_sig_at (o n : Nat) : slice (slice fwImage 2176 1344) (16 + o) n = slice fwTail o n := by
  have h := slice_append_right ((shake256 32 zeroKey).take 16) fwTail o n
  rw [root_length] at h
  rw [fwImage_sig, h]

/-- The image meets every check wherever its signature verifies: Falcon itself is left open in Config. -/
theorem witness_firmware (hv : verifies zeroKey (fwDigest fwImage) [0#8] = true) :
    (cmdAt fwDev 0 1).map Cmd.phase = some 1 ∧ (cmdAt fwDev 0 1).map Cmd.opcode = some opFwRestart ∧ (cmdAt fwDev 0 1).map Cmd.r0 = some 0 ∧ fwDev.dev = .boot ∧ fwDev.mgt.refetching = false
      ∧ decideFail (fwFails fwDev fwImage 3520) = none := by
  refine ⟨by decide +kernel, by decide +kernel, by decide +kernel, by decide +kernel, by decide +kernel, ?_⟩
  have h0 : ∀ o n, o + n ≤ 2176 → le fwImage o n = le fwHead o n := fun o n h => fwImage_le h
  have h1 : fwHeadFails fwDev fwImage = [] := by
    simp only [fwHeadFails, fwImage_low (show 0 + 4 ≤ 2176 by decide), fwImage_low (show 24 + 232 ≤ 2176 by decide),
      h0 4 2 (by decide), h0 6 1 (by decide), h0 7 1 (by decide), h0 12 4 (by decide), h0 17 1 (by decide), h0 18 1 (by decide),
      h0 19 1 (by decide), h0 20 4 (by decide)]
    decide +kernel
  have h2 : fwLenFails fwImage 3520 = [] := by
    simp only [fwLenFails, fwSum, fwAppAt, fwImage_sigAt, h0 8 4 (by decide), h0 19 1 (by decide)]
    decide +kernel
  have k1 : fwKeyAt fwImage = 320 := by rw [fwKeyAt, h0 20 4 (by decide)]; decide +kernel
  have k2 : slice fwImage 320 1793 = zeroKey := by rw [fwImage_low (by decide)]; decide +kernel
  have h3 : keyPartFails fwImage 320 = [] := by
    simp only [keyPartFails, keyBytes, k2, zeroKey_good, fwImage_low (show 320 + 1793 + 63 ≤ 2176 by decide)]
    decide +kernel
  have h4 : le fwImage 19 1 = 0 := by rw [h0 19 1 (by decide)]; decide +kernel
  have h5 : le fwImage 6 1 = 0 := by rw [h0 6 1 (by decide)]; decide +kernel
  have h13 : le fwImage 16 1 = 0 := by rw [h0 16 1 (by decide)]; decide +kernel
  have g1 : (slice fwImage 2176 1344).take 16 = (rootDigest fwDev 0).take 16 := by
    rw [fwImage_sig, List.take_append_of_le_length (by rw [root_length]), List.take_of_length_le (by rw [root_length]), fwDev_root]
  have g2 : le (slice fwImage 2176 1344) 16 2 = 1 := by
    rw [le, show 16 = 16 + 0 from rfl, fwImage_sig_at]
    decide +kernel
  have g3 : allZero (slice (slice fwImage 2176 1344) 18 6) = true := by
    rw [show 18 = 16 + 2 from rfl, fwImage_sig_at]
    decide +kernel
  have g4 : allZero (slice (slice fwImage 2176 1344) 25 1279) = true := by
    rw [show 25 = 16 + 9 from rfl, fwImage_sig_at]
    decide +kernel
  have g5 : allZero (slice (slice fwImage 2176 1344) 1304 40) = true := by
    rw [show 1304 = 16 + 1288 from rfl, fwImage_sig_at]
    decide +kernel
  have g6 : slice (slice fwImage 2176 1344) 24 1 = [0#8] := by
    rw [show 24 = 16 + 8 from rfl, fwImage_sig_at]
    decide +kernel
  have v : fwDev.fuses.revoked = 0 := rfl
  have w : fwDev.fuses.minSvn = 0 := rfl
  simp [fwFails, fwKeyFails, h1, h2, h3, h4, h5, h13, fwImage_sigAt, g1, g2, g3, g4, g5, g6, fwDev_root, v, w, fwKey, keyBytes, k1, k2, hv, outside, badF,
    check, decideFail]

theorem witness_bulkTaken :
    let s := { withCmd dev0 (devCmd opReadLog) with cmds := [{ devCmd opReadLog with phase := 1 }] }
    (cmdAt s 0 1).map Cmd.phase = some 1 ∧ s.mgt.refetching = false ∧ 0 < s.hosts.length := by decide +kernel
theorem witness_boot :
    let s : State := { State.reset with mgt := { next := some {} } }
    s.dev = .boot ∧ s.mgt.next.isSome = true ∧ dieFree s = true := by decide
theorem witness_lockstep : dev0.mgt.resets = [] ∧ dev0.mgt.running = true ∧ NoActivePartition dev0 :=
  ⟨rfl, rfl, noActive_of_empty rfl⟩

/-- An ATTACH for slot 3 with a path of 4,096 bytes. -/
def attachGram_ : List Byte := [1, 3, 0, 5] ++ List.replicate 28 0
def upDev : State := { State.reset with eths := [(0, { state := 2 })] }
theorem witness_attach : (ethAt upDev 0).state = 2 ∧ upDev.dev ≠ .off ∧ upDev.mgt.resets = [] ∧ attachGram_.length = 32
    ∧ le attachGram_ 0 1 = 1 ∧ attachBad attachGram_ = false ∧ upDev.conns.length < 65536 ∧ flowsInUse upDev < 262144
    ∧ upDev.hosts.length = 4 ∧ le attachGram_ 1 1 = 3 ∧ (hostAt upDev 3).held = false ∧ (hostAt upDev 3).attached = false := by decide +kernel
/-- An ATTACH for any slot, the first three being held. -/
theorem witness_attach_any :
    let s := { upDev with hosts := [{ held := true }, { held := true }, { held := true }, {}] }
    le (attachGram_.set 1 0xFF) 1 1 = 0xFF ∧ attachBad (attachGram_.set 1 0xFF) = false ∧ (∀ j, j < 3 → (hostAt s j).held = true)
      ∧ (hostAt s 3).held = false ∧ (hostAt s 3).attached = false := by decide +kernel
theorem witness_linkUp : (3 : Nat) < 4 ∧ (ethAt dev0 3).state = 1 ∧ dev0.dev ≠ .off ∧ dev0.dev ≠ .boot := by decide
theorem witness_linkUp_boot : (ethAt State.reset 3).state = 1 ∧ State.reset.dev = .boot ∧ State.reset.bootPort = none := by decide
theorem witness_linkLoss : (ethAt upDev 0).state = 2 := by decide
/-- A host-data connection, and one that has used its seven retries. -/
def conn0 : Conn := { qpn := 7, kind := 1 }
def connDev (c : Conn) : State := { dev0 with conns := [c] }
theorem witness_conn : connAt (connDev conn0) 7 = some conn0 ∧ conn0.retries < conn0.retryMax ∧ conn0.steps < 5 := by decide
theorem witness_conn_recovers : connAt (connDev { conn0 with rate := 100000 }) 7 = some { conn0 with rate := 100000 }
    ∧ ({ conn0 with rate := 100000 } : Conn).rate < conn0.target := by decide
theorem noCopy_of_empty {s : State} (h : s.parts = []) (q : Nat) : (partAt s q).ckpt.copy = none ∧ (partAt s q).ckpt.restore = none := by
  simp [partAt, h, Tab.at, Tab.find]
theorem witness_conn_spent :
    let c := { conn0 with retries := 7 }
    connAt (connDev c) 7 = some c ∧ c.retryMax ≤ c.retries
      ∧ ∀ q, (partAt (connDev c) q).ckpt.copy = none ∧ (partAt (connDev c) q).ckpt.restore = none :=
  ⟨rfl, Nat.le_refl 7, noCopy_of_empty rfl⟩

def resetCmd (domain idx : Nat) : Cmd := { (if domain < 4 then cmd opReset else devCmd opReset) with arg0 := domain, arg1 := idx }
def resetDev (domain idx : Nat) : State := withPart (withCmd dev0 (resetCmd domain idx)) (part0 .loaded)
theorem witness_reset_tile : Starts (resetDev 1 231) 0 1 opReset (resetCmd 1 231) (resetFails (resetDev 1 231) (resetCmd 1 231))
    ∧ (resetDev 1 231).mgt.resets = [] ∧ tilePresent (resetDev 1 231) 231 = true ∧ (partAt (resetDev 1 231) 0).state = .loaded := by
  refine ⟨⟨?_, ?_, ?_⟩, ?_, ?_, ?_⟩ <;> decide +kernel
theorem witness_reset_running :
    let s := withPart (withCmd dev0 (resetCmd 1 0)) (part0 .running)
    Starts s 0 1 opReset (resetCmd 1 0) (resetFails s (resetCmd 1 0)) ∧ s.mgt.resets = [] ∧ (partAt s 0).state = .running
      ∧ (partAt s 0).purge = none := by
  refine ⟨⟨?_, ?_, ?_⟩, ?_, ?_, ?_⟩ <;> decide +kernel
theorem witness_reset_part : Starts (resetDev 3 0) 0 1 opReset (resetCmd 3 0) (resetFails (resetDev 3 0) (resetCmd 3 0))
    ∧ (partAt (resetDev 3 0) 0).state = .loaded := by
  refine ⟨⟨?_, ?_, ?_⟩, ?_⟩ <;> decide +kernel
theorem witness_reset_shared : ∀ d ∈ [4, 5], Starts (withCmd dev0 (resetCmd d 0)) 0 1 opReset (resetCmd d 0) (resetFails (withCmd dev0 (resetCmd d 0)) (resetCmd d 0))
    ∧ NoActivePartition (withCmd dev0 (resetCmd d 0)) := by
  intro d hd
  have : d = 4 ∨ d = 5 := by simpa using hd
  rcases this with rfl | rfl <;> exact ⟨⟨by decide +kernel, by decide +kernel, by decide +kernel⟩, noActive_of_empty rfl⟩
theorem witness_reset_others : ∀ d ∈ [6, 7, 8], (withCmd dev0 (resetCmd d 0)).cmds = [resetCmd d 0] ∧ starting (withCmd dev0 (resetCmd d 0)) 0 1 opReset = some (resetCmd d 0)
    ∧ judge (withCmd dev0 (resetCmd d 0)) (resetCmd d 0) [] = none := by decide +kernel
theorem witness_deferred : dev0.mgt.resets = [] ∧ dev0.dev ≠ .off ∧ ({ dev0.mgt with deferred := [8, 6] } : Mgt).deferred = 8 :: [6] := by decide

def resetting (r : ResetRun) : State := { dev0 with mgt := { running := true, resets := [r] } }
theorem witness_resetComplete_tile :
    let s := modTile (resetting { domain := 1, idx := 5 }) 5 (fun t => { t with resetting := true })
    s.mgt.tests = [] ∧ s.mgt.running = true ∧ s.mgt.resets = [{ domain := 1, idx := 5 }] ∧ (tileAt s 5).resetting = true := by decide
theorem witness_resetComplete_part :
    let s := withPart (resetting { domain := 3, idx := 0, fault := true }) (part0 .faulted)
    s.mgt.resets = [{ domain := 3, idx := 0, fault := true }] ∧ (partAt s 0).purge = none ∧ (partAt s 0).state = .faulted
      ∧ (partTiles (partAt s 0)).Nodup := by decide +kernel
theorem witness_resetComplete_shared : ∀ d ∈ [4, 5, 6, 7],
    let s := resetting { domain := d, idx := 0 }
    s.mgt.resets = [{ domain := d, idx := 0 }] ∧ s.parts = [] ∧ s.slots = [] ∧ s.engineEpoch.length = 4 ∧ s.mgt.restarting = false := by decide
theorem witness_resetComplete_device :
    let s := resetting { domain := 8, idx := 0 }
    s.mgt.resets = [{ domain := 8, idx := 0 }] ∧ s.mgt.refLossPending = false ∧ dieFree s = true := by decide

def testCmd (kind idx : Nat) : Cmd := { devCmd opSelfTest with arg0 := kind, arg1 := idx }
theorem witness_selfTest : ∀ c ∈ [testCmd 1 1023, testCmd 9 0], starting (withCmd dev0 c) 0 1 opSelfTest = some c
    ∧ judge (withCmd dev0 c) c (selfTestFails (withCmd dev0 c) c) = none := by decide +kernel
def testing (x : TestRun) : State := { dev0 with mgt := { running := true, tests := [x] } }
theorem witness_targeted : ∀ k ∈ [1, 2, 3], (testing { kind := k, idx := 0 }).mgt.tests = [{ kind := k, idx := 0 }] ∧ k ≤ 3
    ∧ (testing { kind := k, idx := 0 }).mgt.running = true := by decide
theorem witness_testEnd : (testing { kind := 1, idx := 9, started := true, retire := false }).mgt.tests
    = [{ kind := 1, idx := 9, started := true, retire := false }] ∧ (testing { kind := 1, idx := 9, started := true, retire := false }).mgt.marked = [] := by
  decide
theorem witness_laneTest :
    let s := modPort (testing { kind := 4, idx := 63, started := true, retire := false }) 15 (fun x => { x with lanes := [{}, {}, {}, { state := 2 }] })
    (portAt s 15).lanes.length = 4 ∧ ((portAt s 15).lanes.getD 3 {}).state = 2 ∧ s.mgt.marked = [] := by decide
theorem witness_silent : partOfTile dev0 9 = none ∧ dev0.mgt.tests = [] := by decide
theorem witness_purgeReport :
    let s := withPart dev0 { part0 .aborting with purge := some { tiles := [0, 1] } }
    partOfTile s 0 = some 0 ∧ ((partAt s 0).purge.map Purge.sent) = some true ∧ ((partAt s 0).purge.map Purge.tiles) = some [0, 1] := by decide

/-! ### Registers and host accesses -/

theorem witness_readClears : (1023 : Nat) < 1024 ∧ (15 : Nat) < 16 ∧ (3 : Nat) < 4 ∧ (47 : Nat) < 48 ∧ (383 : Nat) < 384 := by decide
theorem witness_period : (1250 : Nat) ≤ (0x000004E200000000 : Word).toNat / 2 ^ 32 ∧ State.reset.tick.locked = false := by decide
theorem witness_period_rejected : 1 ≤ (0x0000000100000000 : Word).toNat / 2 ^ 32 ∧ (0x000004E100000000 : Word).toNat / 2 ^ 32 < 1250 := by decide
theorem witness_period_locked : ({ State.reset.tick with locked := true, master := false } : TickGen).locked = true := by decide
theorem witness_devId : ∀ x ∈ State.reset.parts, x.2.state = .empty := by decide
theorem witness_devId_kept : ∃ x ∈ (withPart dev0 (part0 .loaded)).parts, x.2.state ≠ .empty := by decide
theorem witness_refWrite : (0x11 : Word).getLsbD 2 = false := by decide
theorem witness_linkOff : (15 : Nat) < portCount dev0 ∧ (portAt dev0 15).state = 0 ∧ (2 : Word).getLsbD 0 = false := by decide
theorem witness_anchor : (layerOf { part0 .loaded with image := some { layers := [{ slot := 4095, rungs := [(0x30, 0x30)] }] } } 4095).isSome = true := by
  decide
theorem witness_window : tilePresent dev0 1023 = true ∧ (partAt dev0 (partNum dev0 1023)).state ≠ .running := by decide
theorem witness_window_running : tilePresent (withPart dev0 (part0 .running)) 0 = true
    ∧ (partAt (withPart dev0 (part0 .running)) (partNum (withPart dev0 (part0 .running)) 0)).state = .running := by decide
theorem witness_tally : tilePresent dev0 0 = true ∧ tileRunning dev0 0 = false ∧ (63 : Nat) < 64 ∧ (1 : Nat) < 2 := by decide
theorem witness_cvu : cvuPresent dev0 47 = true ∧ isGeneral 47 = true ∧ (partAt dev0 (cvuAt dev0 47).sel).state ≠ .running
    ∧ streamOpen dev0 47 (cvuAt dev0 47).sel = false := by decide
theorem witness_window_bytes : (0x600000 : Nat) ≤ 0x6FFFF8 ∧ 0x6FFFF8 + 8 ≤ 0x700000 := by decide
theorem witness_window_write : (65535 : Nat) < 65536 ∧ (List.replicate 8 (1 : Byte)).length = 8 ∧ windowWide dev0 1023 = false := by decide
theorem witness_rdma : (connAt (connDev conn0) 7).isSome = true ∧ (connDev conn0).dev ≠ .boot ∧ (connDev conn0).mgt.running = true ∧ 0x208 + 8 ≤ 0x100000000 ∧ 0x208 % 8 = 0
    ∧ 0x20C % 8 ≠ 0 := by decide
/-- A far store of 32 active channels. -/
def fsDev : State := { connDev conn0 with fs := { active := List.range 32 } }
theorem isFenced_of_none {s : State} (h : s.fs.chans = []) (a : Nat) : isFenced s a = false := by
  simp [isFenced, chanAt, h, Tab.at, Tab.find]
theorem witness_rdmaWrite : fsBase + reserveBytes fsDev ≤ 0x10B40000000 ∧ 0x10B40000000 + 1 ≤ fsBase + fsCapacity fsDev
    ∧ fsBase + fsCapacity fsDev < ctl 0 ∧ fsDev.fs.resetting = false ∧ fsDev.fs.guards = [] ∧ (∀ i < 1, isFenced fsDev (0x10B40000000 + i) = false)
    ∧ Memory.wf fsDev.mem = true :=
  ⟨by decide, by decide +kernel, by decide +kernel, rfl, rfl, fun i _ => isFenced_of_none rfl _, rfl⟩
theorem witness_marked : connAt (connDev conn0) 7 = some conn0 ∧ (∀ k, conn0.cnpAt = some k → k + 62500 ≤ (connDev conn0).cycle) ∧ conn0.kind = 1 :=
  ⟨by decide, by decide, by decide⟩
theorem witness_send : (connAt (connDev conn0) 7).any (fun c => c.kind = 1) = true := by decide
theorem witness_atomic : (connAt (connDev conn0) 7).isSome = true
    ∧ ∀ q, (partAt (connDev conn0) q).ckpt.copy = none ∧ (partAt (connDev conn0) q).ckpt.restore = none := ⟨by decide, noCopy_of_empty rfl⟩
theorem witness_mesh : tilePresent dev0 1023 = true ∧ (0x73FFF8 : Nat) % 8 = 0 ∧ 0x700000 ≤ 0x73FFF8 ∧ 0x73FFF8 < 0x740000 := by decide

/-! ### Running a partition -/

def startCmd_ : Cmd := { cmd opStart with arg0 := 9, arg1 := 1 }
theorem witness_start :
    let s := withPart (withCmd dev0 startCmd_) (bound (part0 .loaded))
    Starts s 0 1 opStart startCmd_ [] ∧ (partAt s 0).settle.restored = none ∧ now s < startCmd_.arg1 := by
  refine ⟨⟨?_, ?_, ?_⟩, ?_, ?_⟩ <;> decide +kernel
theorem witness_start_restored : ({ bound (part0 .loaded) with settle := { restored := some 9 } } : Part).settle.restored = some startCmd_.arg0 := by
  decide
theorem witness_hold : Starts (withPart (withCmd dev0 (cmd opHold)) (part0 .running)) 0 1 opHold (cmd opHold) [] := by
  refine ⟨?_, ?_, ?_⟩ <;> decide +kernel
theorem witness_resume :
    let c := { cmd opResume with arg0 := 1 }
    Starts (withPart (withCmd dev0 c) (part0 .held)) 0 1 opResume c [] ∧ now dev0 < c.arg0 := by
  refine ⟨⟨?_, ?_, ?_⟩, ?_⟩ <;> decide +kernel
def dueState : State := withPart (withCmd dev0 { cmd opHold with phase := 2 }) { part0 .running with preempt := true, preemptDue := true }
theorem witness_preempt : (partAt dueState 0).state = .running ∧ (partAt dueState 0).preemptDue = true
    ∧ (waitingCmd dueState 0 opHold).isSome = true ∧ 0 < dueState.hosts.length := by decide
theorem witness_preempt_none : (partAt dev0 15).state ≠ .running := by decide
theorem witness_abortStep :
    let s := withPart (withCmd dev0 (cmd opAbortStep)) (part0 .running)
    Starts s 0 1 opAbortStep (cmd opAbortStep) [] ∧ (partAt s 0).purge = none ∧ ∀ u, ∀ run ∈ (tileAt s u).dma, run.host ≠ some (0, 1) := by
  refine ⟨⟨?_, ?_, ?_⟩, ?_, fun u run h => ?_⟩
  case refine_5 => simp [tileAt, withPart, withCmd, dev0, State.reset, Tab.at, Tab.find] at h
  all_goals decide +kernel
theorem witness_stepAbort : (partAt (withPart dev0 (part0 .running)) 0).state = .running
    ∧ (partAt (withPart dev0 (part0 .running)) 0).purge = none ∧ (1 : Nat) ≤ 8 ∧ (8 : Nat) ≤ 8 := by decide
theorem witness_tick : dev0.parts = [] ∧ dev0.trees = [] := by decide
theorem witness_tick_period : ({ dev0.tick with pendingPeriod := 1250, pendingAt := 1 } : TickGen).pendingPeriod ≠ 0 ∧ 1 ≤ now dev0 + 1 := by decide
theorem witness_tickRecord :
    (partAt (withPart dev0 { part0 .running with ctx := { recordDue := some (7, 1, 2, 3) } }) 0).ctx.recordDue = some (7, 1, 2, 3) := by decide
theorem witness_tickStart :
    let p : Part := { part0 .loaded with startAt := some 1 }
    let s := withPart (withCmd dev0 { startCmd_ with phase := 2 }) p
    s.parts = [(0, p)] ∧ p.state = .loaded ∧ p.startAt = some 1 ∧ 1 ≤ now s + 1 ∧ now s + 1 < 2 ^ 64 ∧ p.ckpt.pending = false ∧ p.join = {}
      ∧ p.settle = {} ∧ p.binding = none ∧ s.trees = [] ∧ s.tick.pendingPeriod = 0 ∧ (waitingCmd s 0 opStart).isSome = true := by decide

/-! ### Images -/

def loadCmd : Cmd := { cmd opLoadImage with arg0 := 15, bulkLen := 768 }
theorem witness_loadImage : Starts (withCmd dev0 loadCmd) 0 1 opLoadImage loadCmd [] ∧ loadCmd.arg0 ≤ 15 ∧ 0 < loadCmd.bulkLen
    ∧ (withCmd dev0 loadCmd).fs.failed = false ∧ stagingBusy (withCmd dev0 loadCmd) 0 1 = false := by
  refine ⟨⟨?_, ?_, ?_⟩, ?_, ?_, ?_, ?_⟩ <;> decide +kernel

/-- The smallest image: one group of tiles, one tick of one step, no layer, no actor; all but its digest. -/
def imgBody : List Byte :=
  [0x44, 0x52, 0x53, 0x49, 1, 0, 0, 0] ++ toLe 8 768 ++ toLe 4 3 ++ toLe 4 0 ++ toLe 8 128 ++ toLe 8 77 ++ [7, 0] ++ List.replicate 86 0
    ++ (toLe 4 1 ++ toLe 4 0xFFFFFFFF ++ toLe 8 256 ++ toLe 8 256 ++ toLe 8 1)
    ++ (toLe 4 3 ++ toLe 4 0xFFFFFFFF ++ toLe 8 512 ++ toLe 8 16 ++ toLe 8 1)
    ++ (toLe 4 9 ++ toLe 4 0xFFFFFFFF ++ toLe 8 576 ++ toLe 8 128 ++ toLe 8 1) ++ List.replicate 32 0
    ++ ([1, 1, 0, 1] ++ toLe 4 1 ++ toLe 4 1 ++ List.replicate 8 0 ++ toLe 4 1 ++ toLe 4 1 ++ List.replicate 228 0)
    ++ ([0, 1] ++ List.replicate 62 0)
    ++ ([1, 0, 0, 0, 1, 0, 0, 0] ++ toLe 4 1 ++ toLe 4 1 ++ toLe 4 2 ++ toLe 4 1 ++ List.replicate 104 0)
def img : List Byte := imgBody ++ shake256 64 imgBody
def stagedCmd : Cmd := { loadCmd with phase := 2, bulk := img }
def stagedDev : State := { withCmd dev0 stagedCmd with fs := { active := List.range 32 } }

theorem imgBody_length : imgBody.length = 704 := by decide +kernel
theorem img_digest : carriedDigest img = imageDigest img := by
  have h : imgInteg img = 704 := by decide +kernel
  have d : img.take 704 = imgBody := by
    rw [img, ← imgBody_length]
    exact List.take_left
  have e := slice_append_end imgBody (shake256 64 imgBody)
  rw [imgBody_length, shake256_length 64 _ (by decide)] at e
  rw [carriedDigest, imageDigest, h, d]
  exact e
theorem img_signState : signState stagedDev img = some (0, 0) := by
  have h : imgSigned img = false := by decide +kernel
  have r : stagedDev.fuses.requireSigned = false := by decide
  simp [signState, img_digest, h, r]
theorem witness_imageStaged : cmdAt stagedDev 0 1 = some stagedCmd ∧ stagedCmd.opcode = opLoadImage ∧ stagedCmd.phase = 2 ∧ 0 < stagedDev.hosts.length
    ∧ decideFail (heldFail stagedCmd ++ imageFails stagedDev stagedCmd stagedCmd.bulk) = none := by
  have h0 : heldFail stagedCmd = [] := by decide +kernel
  have h1 : headFails stagedDev img 768 = [] := by decide +kernel
  have l : img.length = 768 := by rw [img, List.length_append, imgBody_length, shake256_length 64 _ (by decide)]
  have h2 : tableFits img = true := by
    simp only [tableFits, l]
    decide +kernel
  have h3 : contentFails stagedDev 0 img (readImage img 15) = [] := by decide +kernel
  have h4 : noRoom stagedDev 0 (readImage img 15) = false := by decide +kernel
  have h5 : (partAt stagedDev 0).binding = none := by decide
  refine ⟨rfl, rfl, rfl, by decide, ?_⟩
  have hc : imageFails stagedDev stagedCmd img = [] := by
    show headFails stagedDev img 768 ++ _ = []
    simp [h1, h2, h3, h4, h5, img_signState, check, stagedCmd, loadCmd, cmd]
  rw [h0, show stagedCmd.bulk = img from rfl, hc]
  rfl
theorem witness_unload : Starts (withPart (withCmd dev0 (cmd opUnload)) (part0 .loaded)) 0 1 opUnload (cmd opUnload) [] := by
  refine ⟨?_, ?_, ?_⟩ <;> decide +kernel

/-! ### Jobs, certificates, pools -/

/-- A LINK flow of partition 0 to module 2. -/
def link0 : Flow := { cfg := { kind := 1, slotLimit := 4, timeoutUs := 1000, creditKib := 64 }, dstDev := 2, portMask := 1 }
def linkDev (p : Part) : State := { withPart dev0 p with flows := [link0], devId := 1, devIdValid := true }

/-- BIND_JOB's payload before its keys: a shard of one parameter, both versions in one MiB, one key of quorum one, one recipe. -/
def bindHead : List Byte :=
  List.replicate 14 0 ++ [1, 1] ++ toLe 8 1 ++ List.replicate 32 0 ++ toLe 4 1 ++ toLe 4 1 ++ toLe 4 2 ++ toLe 4 1 ++ List.replicate 41 0 ++ [1]
    ++ List.replicate 10 0 ++ toLe 4 1 ++ List.replicate 128 0
def bindCmd : Cmd := { cmd opBindJob with payloadLen := 2049, payload := bindHead ++ zeroKey, bulkLen := 64 }
def bindDev : State := { linkDev { part0 .loaded with image := some { carveGib := 1, sigState := 1 } } with
  cmds := [bindCmd], hosts := [{ attached := true, held := true, anySeq := false, h := 1 }, {}, {}, {}] }
theorem bind_keys : bindKeys bindCmd.payload = [zeroKey] := by decide +kernel
theorem bind_key_good : (withPos [zeroKey]).flatMap (fun k =>
    check (badKey k.2 || ([zeroKey].take k.1).contains k.2) stBadField (64 + 256 + keyBytes * k.1)) = [] := by
  simp only [withPos, List.length_singleton, List.range_one, List.zip_cons_cons, List.zip_nil_right, List.flatMap_cons, List.flatMap_nil, zeroKey_good]
  rfl
theorem bind_fails : bindPayloadFails bindDev bindCmd = [] := by
  unfold bindPayloadFails
  simp only [bind_keys]
  rw [bind_key_good]
  decide +kernel
theorem witness_bindJob : Starts bindDev 0 1 opBindJob bindCmd (bindPayloadFails bindDev bindCmd) := by
  rw [bind_fails]
  refine ⟨?_, ?_, ?_⟩ <;> decide +kernel
theorem witness_unbindJob : Starts (withPart (withCmd dev0 (cmd opUnbindJob)) (bound (part0 .loaded))) 0 1 opUnbindJob (cmd opUnbindJob) [] := by
  refine ⟨?_, ?_, ?_⟩ <;> decide +kernel
def shadowCmd_ : Cmd := { cmd opShadowBegin with payloadLen := 16, payload := toLe 2 2 ++ toLe 2 0 ++ toLe 4 0 ++ toLe 4 1 ++ toLe 4 1 }
def shadowDev : State := { linkDev (bound (part0 .loaded)) with
  cmds := [shadowCmd_], hosts := [{ attached := true, held := true, anySeq := false, h := 1 }, {}, {}, {}] }
theorem witness_shadowBegin : Starts shadowDev 0 1 opShadowBegin shadowCmd_ (shadowFails shadowDev shadowCmd_) := by
  refine ⟨?_, ?_, ?_⟩ <;> decide +kernel
theorem witness_shadowEnd : Starts (withPart (withCmd dev0 (cmd opShadowEnd)) { bound (part0 .running) with join := { mode := 1 } })
    0 1 opShadowEnd (cmd opShadowEnd) [] := by
  refine ⟨?_, ?_, ?_⟩ <;> decide +kernel

/-- A certificate over one device from epoch 0 to 1, with one signature entry. -/
def certOf (op dev : Nat) (part : List Byte) : List Byte :=
  toLe 8 0 ++ toLe 2 op ++ [1, 1] ++ toLe 4 0 ++ toLe 4 1 ++ List.replicate 44 0 ++ toLe 2 dev ++ List.replicate 6 0 ++ part
    ++ [0, 0, 1, 0] ++ List.replicate 1284 0
def certCmd (op arg0 arg1 dev : Nat) (part : List Byte) : Cmd :=
  { cmd op with arg0 := arg0, arg1 := arg1, payloadLen := (certOf op dev part).length, payload := certOf op dev part }
/-- A job of one key whose quorum asks for no signature, so that no signature need be checked here. -/
def jobPart (p : Part) (expelled : List Nat) : Part := { p with binding := some { keys := [[]], expelled := expelled, slots := [{}, {}, {}, {}] } }
def certDev (c : Cmd) (p : Part) : State := { linkDev p with
  cmds := [c], hosts := [{ attached := true, held := true, anySeq := false, h := 1 }, {}, {}, {}] }
def fenceCmd : Cmd := certCmd opFence 0 0 1 []
theorem witness_fence : Starts (certDev fenceCmd (jobPart (part0 .running) [])) 0 1 opFence fenceCmd (certFails (jobPart (part0 .running) []) fenceCmd 0)
    ∧ (certDev fenceCmd (jobPart (part0 .running) [])).devId ∈ certDevices fenceCmd.payload := by
  refine ⟨⟨?_, ?_, ?_⟩, ?_⟩ <;> decide +kernel
theorem witness_fence_other : (certDev fenceCmd (jobPart (part0 .running) [])).devId ∉ certDevices (certCmd opFence 0 0 2 []).payload := by decide +kernel
def expelCmd : Cmd := certCmd opExpel 0 0 2 []
theorem witness_expel : Starts (certDev expelCmd (jobPart (part0 .held) [])) 0 1 opExpel expelCmd (certFails (jobPart (part0 .held) []) expelCmd 0) := by
  refine ⟨?_, ?_, ?_⟩ <;> decide +kernel
/-- A member's ADMIT: device 2 is replaced by device 3, the tree fields those of a root. -/
def memberCmd : Cmd := certCmd opAdmit 0 1 2 (toLe 2 2 ++ toLe 2 3 ++ toLe 2 1 ++ toLe 2 0 ++ [0, 1, 0, 0, 0, 0, 0, 0])
theorem witness_admit : Starts (certDev memberCmd (jobPart (part0 .held) [2])) 0 1 opAdmit memberCmd
      (admitMemberFails (certDev memberCmd (jobPart (part0 .held) [2])) memberCmd)
    ∧ admitsSpare (jobPart (part0 .held) [2]) = false := by
  refine ⟨⟨?_, ?_, ?_⟩, ?_⟩ <;> decide +kernel
/-- A shadow's ADMIT in the place of device 2, with no flow to read from; and a cold one that reads over flow 0. -/
def warmCmd : Cmd := certCmd opAdmit 0 1 2 (toLe 2 2 ++ [0, 0] ++ List.replicate 12 0 ++ [0, 1, 0, 0, 0, 0, 0, 0])
def coldCmd : Cmd := certCmd opAdmit 1 1 2 (toLe 2 2 ++ [1, 0] ++ List.replicate 12 0 ++ [0, 1, 0, 0, 0, 0, 0, 0])
def warmPart : Part := { jobPart (part0 .running) [] with join := { mode := 1, memberDev := 2, copyDone := true } }
theorem witness_admit_warm : Starts (certDev warmCmd warmPart) 0 1 opAdmit warmCmd (admitSpareFails (certDev warmCmd warmPart) warmCmd)
    ∧ admitsSpare warmPart = true ∧ warmCmd.arg0 = 0 ∧ warmPart.join.copyDone = true ∧ warmPart.purge = none
    ∧ isBound warmPart = true := by
  refine ⟨⟨?_, ?_, ?_⟩, ?_, ?_, ?_, ?_, ?_⟩ <;> decide +kernel
theorem witness_admit_cold : Starts (certDev coldCmd (jobPart (part0 .loaded) [])) 0 1 opAdmit coldCmd
      (admitSpareFails (certDev coldCmd (jobPart (part0 .loaded) [])) coldCmd)
    ∧ admitsSpare (jobPart (part0 .loaded) []) = true ∧ coldCmd.arg0 = 1 := by
  refine ⟨⟨?_, ?_, ?_⟩, ?_, ?_⟩ <;> decide +kernel

theorem witness_coldStream : ({ mode := 3, sources := [0] } : Join).sources ≠ [] ∧ unitsOf (shardSize (bound (part0 .loaded))) ≤ 0 + 1 := by decide
theorem witness_coldStream_last :
    let c : Cmd := { cmd opAdmit with phase := 2 }
    let s := withPart (withCmd dev0 c) { bound (part0 .loaded) with join := { mode := 4, sources := [0], admitModule := some (0, 1) } }
    (partAt s 0).join.mode = 4 ∧ (partAt s 0).join.admitModule = some (0, 1) ∧ cmdAt s 0 1 = some c ∧ 0 < s.hosts.length
      ∧ unitsOf (shardSize (partAt s 0)) ≤ (partAt s 0).join.unit + 1 := by decide
/-- A keeper's copy of two slots, and an owner's of one, a shard of one parameter each; 12 bytes of credit. -/
def copyPart (slots : List EscrowSlot) : Part := { part0 .running with bucketTokens := 12, binding := some { params := 1, slots := slots } }
theorem witness_coldWide : ({ mode := 4, sources := [0] } : Join).mode = 4 ∧ fsBase ≤ paramAddr (copyPart []) 0 0 ∧ Memory.wf dev0.mem = true
    ∧ PlainSpan dev0 (paramAddr (copyPart []) 0 0) 12 :=
  ⟨rfl, by decide, rfl, .inr ⟨by decide, rfl, fun c => by simp [chanAt, dev0, State.reset, Tab.at, Tab.find]⟩⟩
theorem witness_firstCopy : ∀ i ∈ [0, 1], i < 2 ∧ (([{ role := 2 }, { role := 2 }, {}, {}] : List EscrowSlot).getD i {}).role = 2
    ∧ Funded (withPart dev0 (copyPart [{ role := 2 }, { role := 2 }, {}, {}])) 0 (12 * ((unitSpan (shardSize (copyPart [])) 0).2 - (unitSpan (shardSize (copyPart [])) 0).1)) := by
  intro i h
  have : i = 0 ∨ i = 1 := by simpa using h
  rcases this with rfl | rfl <;> exact ⟨by decide, by decide, by decide, by decide, by decide +kernel, by decide⟩
theorem witness_firstCopy_owner :
    let b : Binding := { slots := [{}, {}, {}, { role := 1, params := 1 }] }
    let p : Part := { part0 .running with bucketTokens := 12, binding := some b }
    (b.slots.getD 3 {}).role = 1 ∧ 0 < 2 * unitsOf (ownerParams p 1)
      ∧ Funded (withPart dev0 p) 0 (12 * ((unitSpan (ownerParams p 1) (0 % max (unitsOf (ownerParams p 1)) 1)).2 - (unitSpan (ownerParams p 1) (0 % max (unitsOf (ownerParams p 1)) 1)).1)) :=
  ⟨by decide, by decide +kernel, by decide, by decide, by decide +kernel, by decide⟩
theorem witness_firstCopy_shadow :
    let p : Part := { copyPart [] with join := { serves := some 0 } }
    isBound p = true ∧ p.join.serves = some 0 ∧ p.join.served < unitsOf (shardSize p)
      ∧ Funded (withPart dev0 p) 0 (12 * ((unitSpan (shardSize p) p.join.served).2 - (unitSpan (shardSize p) p.join.served).1)) :=
  ⟨by decide, by decide, by decide +kernel, by decide, by decide, by decide +kernel, by decide⟩

def connectCmd : Cmd := { devCmd opConnect with payloadLen := 32, payload := List.replicate 24 0 ++ [3, 3, 2] ++ List.replicate 5 0 }
theorem witness_connect : Starts (withCmd dev0 connectCmd) 0 1 opConnect connectCmd (connectFails connectCmd)
    ∧ (withCmd dev0 connectCmd).conns.length < 65536 ∧ flowsInUse (withCmd dev0 connectCmd) < 262144 := by
  refine ⟨⟨?_, ?_, ?_⟩, ?_, ?_⟩ <;> decide +kernel
theorem witness_disconnect :
    let c := { devCmd opDisconnect with arg0 := 7 }
    let s := withCmd (connDev conn0) c
    Starts s 0 1 opDisconnect c [] ∧ connAt s c.arg0 = some conn0 ∧ conn0.kind ≠ 0 := by
  refine ⟨⟨?_, ?_, ?_⟩, ?_, ?_⟩ <;> decide +kernel
def poolConn : Conn := { qpn := 7, kind := 2 }
theorem witness_restore :
    let c := { cmd opRestore with arg0 := 7, arg1 := 4, payloadLen := 32, payload := List.replicate 8 0 ++ toLe 4 104 ++ List.replicate 20 0 }
    let s := withPart (withCmd (connDev poolConn) c) (bound (part0 .loaded))
    starting s 0 1 opRestore = some c ∧ (judge s c (restoreFails s c)).map Prod.fst = none ∧ 0 < s.hosts.length := by
  refine ⟨?_, ?_, ?_⟩ <;> decide +kernel
theorem witness_restore_stale :
    let c := { cmd opRestore with flags := 1, arg0 := 7, arg1 := 4, jobEpoch := 1, payloadLen := 32, payload := List.replicate 8 0 ++ toLe 4 104 ++ List.replicate 20 0 }
    let s := withPart (withCmd (connDev poolConn) c) (bound (part0 .loaded))
    starting s 0 1 opRestore = some c ∧ (judge s c (restoreFails s c)).map Prod.fst = some stStaleEpoch := by
  refine ⟨?_, ?_⟩ <;> decide +kernel
def restoreRun : RestoreRun := { seq := 1, conns := [7], gen := 4, commitLen := 104, outstanding := [(0, 0)] }
def commitHead : List Byte := [0x44, 0x52, 0x43, 0x4D, 1, 0, 0, 0] ++ toLe 8 0 ++ toLe 8 4 ++ toLe 4 1 ++ List.replicate 36 0
theorem witness_poolRead :
    let p : Part := { bound (part0 .loaded) with ckpt := { restore := some restoreRun } }
    let c := { cmd opRestore with phase := 2 }
    let s := withPart (withCmd (connDev poolConn) c) p
    restoreOn s 7 = some (0, restoreRun, 0, 0) ∧ cmdAt s 0 1 = some c ∧ c.opcode = opRestore ∧ c.partition = 0 ∧ commitHeadOk p restoreRun commitHead = true
      ∧ restoreRun.commitLen = 72 + 32 * commitCount commitHead := by decide +kernel
def cutCmd : Cmd := { cmd opCheckpoint with payloadLen := 64, payload := 1 :: List.replicate 63 0 }
def targetCmd : Cmd := { cmd opCheckpoint with arg0 := 7, payloadLen := 64, payload := [2, 1, 0, 0] ++ toLe 4 5 ++ toLe 8 0x810100 ++ List.replicate 48 0 }
def ckptPart : Part := { part0 .running with binding := some { params := 1 } }
theorem witness_checkpoint : ∀ c ∈ [cutCmd, targetCmd], starting (withPart (withCmd (connDev poolConn) c) ckptPart) 0 1 opCheckpoint = some c
    ∧ judge (withPart (withCmd (connDev poolConn) c) ckptPart) c (checkpointFails (withPart (withCmd (connDev poolConn) c) ckptPart) c) = none := by
  decide +kernel
/-- The header of another generation, a commit record with no entry of this device, and a SEAL of zeros. -/
theorem witness_poolRead_bad :
    let run (n : Nat) : RestoreRun := { restoreRun with outstanding := [(n, 0)] }
    let s (n : Nat) := withPart (withCmd (connDev poolConn) { cmd opRestore with phase := 2 }) { bound (part0 .loaded) with ckpt := { restore := some (run n) } }
    (∀ n ∈ [0, 1, 2], restoreOn (s n) 7 = some (0, run n, n, 0)) ∧ commitHeadOk (partAt (s 0) 0) (run 0) [] = false
      ∧ commitEntry (s 1) 0 (List.replicate 104 0) = none ∧ sealHeadOk (s 2) 0 (run 2) (List.replicate 136 0) = false := by decide +kernel
theorem witness_poolRead_length : ({ restoreRun with commitLen := 200 } : RestoreRun).commitLen ≠ 72 + 32 * commitCount commitHead := by decide +kernel
theorem witness_objectAck :
    let c : CkptCopy := { gen := 3, granules := 2, metaSent := true, issued := [0, 1], outstanding := [(1, 0)] }
    c.outstanding = (0 + 1, 0) :: [] ∧ c.metaSent = true ∧ (∀ k, k < c.granules → k ∈ c.issued) ∧ 1 < c.granules ∧ c.copied = [] := by decide
theorem witness_sealAck : ({ outstanding := [(2 ^ 40, 0)] } : CkptCopy).outstanding = (2 ^ 40, 0) :: [] := by decide
theorem witness_copyAhead :
    let c : CkptCopy := { granules := 1, waiting := [0] }
    let p : Part := { ckptPart with ckpt := { copy := some c }, quota := [0, 0, 1] }
    granulePinned p c.ver 0 = true ∧ 0 ∈ c.waiting ∧ c.staged.length < stagingRoom p ∧ fsBase ≤ granuleAddr p c.ver 0
      ∧ (withPart dev0 p).poison = [] := by decide
theorem witness_copyAhead_funded :
    let p : Part := { ckptPart with bucketTokens := 2 * granuleLen (shardSize ckptPart) 0 }
    Funded (withPart dev0 p) 0 (2 * granuleLen (shardSize p) 0) ∧ PlainSpan (withPart dev0 p) (granuleAddr p 0 0) (granuleLen (shardSize p) 0) :=
  ⟨⟨by decide, by decide, by decide +kernel, by decide⟩, .inr ⟨by decide, rfl, fun c => by simp [chanAt, withPart, dev0, State.reset, Tab.at, Tab.find]⟩⟩

/-! ### The vector engine -/

theorem witness_engine : EngineReady dev0 1023 := ⟨by decide, rfl, rfl, rfl, rfl, rfl⟩
def ins : VIns := default
theorem witness_float : ∀ op ∈ (List.range 0x12).drop 1, bundleOk dev0 (op, { ins with typ := 0x22, rnd := 4, dst := 511 }) nopSlot = true := by decide
theorem witness_int : ∀ op ∈ [0x20, 0x21, 0x22, 0x23, 0x24, 0x25, 0x26, 0x27, 0x28, 0x29, 0x2A, 0x2C, 0x30, 0x31, 0x00],
    bundleOk dev0 (op, { ins with srcA := 511 }) nopSlot = true := by decide
theorem witness_mask : ∀ op ∈ [0x40, 0x41, 0x42, 0x43, 0x44], bundleOk dev0 (op, { ins with dst := 7, srcA := 7 }) nopSlot = true
    ∧ (tileAt dev0 1023).vec.preds.length = 8 := by decide
theorem witness_pset_end : bundleOk dev0 (0x44, { ins with dst := 1, imm := 256 }) nopSlot = true
    ∧ bundleOk dev0 (0x44, { ins with dst := 1, imm := 257 }) nopSlot = false := by decide
theorem witness_compare : bundleOk dev0 (0x12, { ins with typ := 0x21, dst := 1, sub := 7 }) nopSlot = true
    ∧ bundleOk dev0 (0x2B, { ins with dst := 7, sub := 5 }) nopSlot = true := by decide
theorem witness_convert : bundleOk dev0 (0x13, { ins with typ := 0x20 }) nopSlot = true
    ∧ bundleOk dev0 (0x18, { ins with typ := 0x22, typ2 := 0x21, sub := 1 }) nopSlot = true
    ∧ bundleOk dev0 (0x18, { ins with typ := 0x21, typ2 := 0x22, sub := 1 }) nopSlot = true
    ∧ bundleOk dev0 (0x2D, { ins with typ := 0x20, sub := 1 }) nopSlot = true ∧ bundleOk dev0 (0x2E, { ins with typ := 0x22 }) nopSlot = true := by decide
theorem witness_blocks : bundleOk dev0 (0x19, { ins with typ := 0x22, typ2 := 1, dst := 1, imm := 127 }) nopSlot = true
    ∧ bundleOk dev0 (0x1A, { ins with typ := 0x22, typ2 := 8 }) nopSlot = true ∧ bundleOk dev0 (0x48, { ins with typ := 0x21, sub := 4 }) nopSlot = true := by decide
theorem witness_store : ∀ op ∈ [0x38, 0x39], bundleOk dev0 (op, { ins with imm := 0x5FFE00 }) nopSlot = true
    ∧ spanPoisoned dev0 (tileBase 1023 + 0x5FFE00) 512 = false := by decide
theorem witness_index : ∀ op ∈ [0x3C, 0x3D], bundleOk dev0 (op, { ins with dst := 7, imm := 0xFFFFFFFF }) nopSlot = true
    ∧ (tileAt dev0 1023).vec.idx.length = 8 := by decide
theorem witness_tallies : ∀ op ∈ [0xCA, 0xCC, 0xCD, 0xCE], bundleOk dev0 nopSlot (op, { ins with typ := if op < 0xCD then 0x22 else 0, dst := 63, imm := 62 }) = true
    ∧ (tileAt dev0 1023).vec.netOpen = [] ∧ (tileAt dev0 1023).vec.badTallies = [] := by decide
theorem witness_reduce_int : ∀ op ∈ [0xC0, 0xC1, 0xC2, 0xC3, 0xC6, 0xC7, 0xC8], bundleOk dev0 nopSlot (op, { ins with dst := 63, sub := 4 }) = true
    ∧ redInt op 0 = true ∧ 4 % 4 = 0 := by decide
theorem witness_reduce_float : ∀ op ∈ [0xC0, 0xC1, 0xC2, 0xC3, 0xC4, 0xC5], bundleOk dev0 nopSlot (op, { ins with typ := 0x22, dst := 63 }) = true
    ∧ redInt op 0x22 = false := by decide
theorem witness_reduce_exact : bundleOk dev0 nopSlot (0xC9, { ins with typ := 0x21, sub := 1 }) = true
    ∧ bundleOk dev0 nopSlot (0xC9, { ins with typ := 0x22 }) = true ∧ (exactLeaf { ins with typ := 0x22 } 0).1.nonfinite = false
    ∧ -(2 ^ 119) ≤ (exactLeaf { ins with typ := 0x22 } 0).1.val ∧ (exactLeaf { ins with typ := 0x22 } 0).1.val < 2 ^ 119 := by decide +kernel
theorem witness_stream :
    let s := modVec dev0 5 (fun v => { v with streams := [(63, { op := 0xC0, typ := 0x22, lines := 3 })] })
    ((tileAt s 5).vec.streams.find 63).map Stream.op = some 0xC0 ∧ ((tileAt s 5).vec.streams.find 63).map Stream.typ = some 0x22
      ∧ ∀ sub ∈ [1, 2, 3], bundleOk s nopSlot (0xC0, { ins with typ := 0x22, dst := 63, sub := sub }) = true := by decide

/-! ### Tiles at work -/

/-- Partition 0, RUNNING, with its tile 0 set up. -/
def tileDev (p : Part) (c : TileConf) (x : Tile) : State := { withPart dev0 p with tiles := [(0, { x with conf := c })] }
def run0 : Part := { part0 .running with ctx := { active := true, firstTick := 0 } }
def treeRec0 : TreeRec := { tree := 255, op := 0xC0, typ := 0x22, contrib := [0], dst := 3 }
def treePart : Part := { run0 with image := some { trees := [treeRec0] } }
theorem witness_rnet : netTree (tileDev treePart {} {}) 0 255 = some (0, treeRec0, 0) ∧ tagMatches treeRec0.op (tallyTag (tileDev treePart {} {}) 0 0) = true
    ∧ bundleOk dev0 nopSlot (0xCB, { ins with imm := 255 }) = true := by decide +kernel
theorem witness_popq : (tileAt (tileDev run0 {} { drain := { queue := [{}] } }) 0).drain.queue = {} :: [] := by decide
theorem witness_networkTree :
    let p : Part := { treePart with trees := [(255, [{ idx := 0, val := 5 }])] }
    (imageOf p).trees.find? (fun y => y.tree = 255) = some treeRec0 ∧ (treeRec0.contrib.map (tileOfLocal p)).Nodup ∧ treeRec0.root < treeRec0.contrib.length
      ∧ (p.trees.at 255 []).map Contrib.idx = [0] := by decide
theorem witness_networkTree_waits : ∃ k, k < treeRec0.contrib.length ∧ ∀ c ∈ treePart.trees.at 255 [], c.idx ≠ k := ⟨0, by decide, by decide⟩

def actor0 (kind : Nat) : ActorRec := { kind := kind, slots := 1, need := [1], firings := 1, len := 1, arg := 0x1000 }
def fire0 : Firing := { actor := 0 }
def readyDev (kind : Nat) : State := tileDev run0 { actors := [actor0 kind] } { sched := { ready := [fire0] } }
theorem witness_firing : ∀ kind ∈ [kindBody, kindPass, kindDma, kindSync, kindClose],
    ((tileAt (readyDev kind) 0).sched.stopped = false ∧ nextFiring (readyDev kind) 0 kind = some fire0
      ∧ actorRec (readyDev kind) 0 0 = some (actor0 kind) ∧ (actor0 kind).kind = kind ∧ (tileAt (readyDev kind) 0).sched.running = []
      ∧ (readyDev kind).fs.guards = [] ∧ (tileAt (readyDev kind) 0).banks = [])
      ∧ doesWork (readyDev kind) 0 fire0 (actor0 kind) = true ∧ (readyDev kind).upsets = [] := by decide +kernel
theorem witness_firing_again :
    let f : Firing := { fire0 with rerun := true }
    let s := tileDev run0 { actors := [actor0 kindPass] } { sched := { ready := [f] } }
    nextFiring s 0 kindPass = some f ∧ doesWork s 0 f (actor0 kindPass) = true ∧ ∀ y ∈ (tileAt s 0).arr.plans, y.id ≠ (tileAt s 0).arr.nextPlan := by decide +kernel
theorem witness_firing_units : waitingPlan (readyDev kindPass) 0 = none ∧ (tileAt (readyDev kindPass) 0).arr.faultStop = false
    ∧ (tileAt (readyDev kindPass) 0).arr.keptClose = [] ∧ (tileAt (readyDev kindDma) 0).dma = [] ∧ (tileAt (readyDev kindBody) 0).vec.body = none
    ∧ readBytes (readyDev kindBody).mem (tileBase 0 + 0x1000) 32 = List.replicate 32 0
    ∧ spanPoisoned (readyDev kindBody) (tileBase 0 + 0x1000) 32 = false := by decide +kernel
theorem witness_firing_cond : doesWork (readyDev kindBody) 0 fire0 { actor0 kindBody with flags := 1 } = readsTaken (readyDev kindBody) 0 0 { actor0 kindBody with flags := 1 } := by
  rfl
def specActor : ActorRec := { actor0 kindBody with flags := 2 }
def specPart : Part := { run0 with image := some { predict := [{ kind := 2, confidence := 3 }] } }
def specDev : State := tileDev specPart { actors := [specActor] } {}
theorem witness_speculate : partOfTile specDev 0 = some 0 ∧ actorRec specDev 0 0 = some specActor ∧ specActor.speculable = true
    ∧ hasPredictor specDev = true ∧ ((imageOf specPart).predict.find? (fun x => x.kind = 2 && x.tile = localOfTile specPart 0 && x.target = 0)).isSome = true
    ∧ windowOpen specDev specPart specActor = true ∧ (ctxOf specDev 0 0).specOpen = false ∧ (ctxOf specDev 0 0).fired < specActor.firings
    ∧ (ctxOf specDev 0 0).counts.getD 0 0 < specActor.need.getD 0 0 ∧ heldTokens specDev 0 + specActor.outCount ≤ 256
    ∧ (tileAt specDev 0).sched.stopped = false ∧ (tileAt specDev 0).sched.ready = [] := by decide +kernel
def doneDev (f : Firing) : State :=
  tileDev run0 { actors := [{ actor0 kindSync with outCount := 1 }], edges := [{ tile := 63, actor := 0, slot := 0 }] } { sched := { running := [f] } }
theorem witness_complete : partOfTile (doneDev { fire0 with finished := true }) 0 = some 0
    ∧ (actorRec (doneDev { fire0 with finished := true }) 0 0).map ActorRec.gateClose = some false
    ∧ (tileAt (doneDev { fire0 with finished := true }) 0).sched.running = [{ fire0 with finished := true }] := by decide
theorem witness_complete_spec : (tileAt (doneDev { fire0 with finished := true, spec := true }) 0).sched.running = [{ fire0 with finished := true, spec := true }] := by
  decide
theorem witness_token_nowhere : partOfTile dev0 1023 = none := by decide
theorem witness_token_epoch : partOfTile (readyDev kindSync) 0 = some 0 ∧ 65535 ≠ (partAt (readyDev kindSync) 0).abortEpoch := by decide
theorem witness_token :
    let r : ActorRec := { actor0 kindSync with flags := 16, slots := 8 }
    let s := tileDev run0 { actors := [r] } {}
    partOfTile s 0 = some 0 ∧ 0 = (partAt s 0).abortEpoch ∧ actorRec s 0 0 = some r ∧ 7 < r.slots ∧ (ctxOf s 0 0).fired < r.firings
      ∧ (ctxOf s 0 0).counts.getD 7 0 < 65535 ∧ (ctxOf s 0 0).counts.length = 8 ∧ r.remote = true ∧ (ctxOf s 0 0).specOpen = false := by decide

/-! ### The array and the drain -/

def arrDev (a : Arr) : State := tileDev run0 {} { arr := a }
def digitEl : LaneEl := laneEl 7 false false
theorem witness_cell : westIn { laneIn := [(0, [digitEl])] } 0 0 = digitEl :: [] ∧ cellReady { laneIn := [(0, [digitEl])] } 0 0 digitEl = true
    ∧ digitEl.par = (laneEl digitEl.digit digitEl.sign digitEl.swap).par ∧ psumBad ((northIn { laneIn := [(0, [digitEl])] } 0 0).head?) = false
    ∧ (cellAt { laneIn := [(0, [digitEl])] } 0 0).activePar = parOf 16 (cellAt { laneIn := [(0, [digitEl])] } 0 0).active.toNat := by decide
theorem witness_cell_swap :
    let e := laneEl 0 false true
    let a : Arr := { laneIn := [(0, [e])], cells := [(0, { full := true })] }
    westIn a 0 0 = e :: [] ∧ cellReady a 0 0 e = true ∧ e.par = (laneEl e.digit e.sign e.swap).par ∧ e.swap = true := by decide
theorem witness_cell_parity :
    let e := { digitEl with par := !digitEl.par }
    e.par ≠ (laneEl e.digit e.sign e.swap).par ∧ cellReady { laneIn := [(0, [e])] } 0 0 e = true := by decide
def layer0 : LayerRec := { tag := 5, cap := 8, rungs := [(0x30, 0x22)], inWidth := 32, outWidth := 128 }
def ringPart : Part := { run0 with image := some { layers := [layer0] } }
def ring0 : Ring := { slotBase := 0, slotSize := 1024, tagBase := 0x1000, tagSize := 64 }
def intakeDev (r : Ring) (l : List SrcBlk) : State := tileDev ringPart {} { arr := { rings := [(0, r)], intakeQ := [(0, l)] } }
theorem witness_intake : partOfTile (intakeDev ring0 [{ fmt := 1, bytes := List.replicate 16 0 }]) 0 = some 0
    ∧ ring0.room (feedBlock 1 (List.replicate 16 0) 0 8 rne (bitsAt ringPart 5 1 (countFrom 0 32))).d = true ∧ 64 ≤ ring0.slotSize
    ∧ ring0.slotBase + ring0.slotSize ≤ 0x600000 := by decide +kernel
theorem witness_intake_full : ({ ring0 with tagSize := 0 } : Ring).room (feedBlock 1 (List.replicate 16 0) 0 8 rne (bitsAt ringPart 5 1 (countFrom 0 32))).d = false := by
  decide +kernel
theorem witness_intake_empty : (tileAt (intakeDev ring0 []) 0).arr.intakeQ.at (ringKey 0 0) [] = [] := by decide
def feed0 : FeedRec := { kind := 2, windowRows := 2, gateSlots := 9, gateTicks := 3, setCount := 2, destQueue := true, setList := 0x2000 }
def plan0 : Plan := { id := 1, feed := 0, layerSlot := 0 }
def queued (n : Nat) : Ring := { ring0 with rowsIn := n, slotIn := n, queuedAt := List.replicate n 0, denoms := List.replicate n 1 }
def planDev (p : Part) (x : Plan) (r : Ring) (a : Arr) : State :=
  tileDev p { feeds := [feed0] } { arr := { a with plans := [x], rings := [(0, r), (1, r), (2, r), (3, r)] } }
theorem witness_gate : ∀ n ∈ [0, 1, 2], waitingPlan (planDev ringPart plan0 (queued n) {}) 0 = some plan0 ∧ rowsQueued (planDev ringPart plan0 (queued n) {}) 0 plan0 = n
    ∧ (tileAt (planDev ringPart plan0 (queued n) {}) 0).arr.faultStop = false := by decide +kernel
theorem witness_gate_deadline :
    let p : Part := { ringPart with ctx := { ringPart.ctx with runTicks := 3 } }
    let s := planDev p plan0 (queued 1) {}
    rowsQueued s 0 plan0 < feed0.windowRows ∧ feed0.gateSlots ≠ 0 ∧ (∀ y ∈ planRings s 0 plan0, (y.denoms.drop y.window).foldl (· + ·) 0 < feed0.gateSlots)
      ∧ firstQueued s 0 plan0 = some 0 ∧ 0 + feed0.gateTicks ≤ p.ctx.runTicks ∧ partOfTile s 0 = some 0 := by decide +kernel
def openPlan : Plan := { plan0 with opened := true, rows := 1 }
theorem witness_issue : (tileAt (planDev ringPart openPlan (queued 1) {}) 0).arr.issue.at 3 [] = []
    ∧ nextPass (planDev ringPart openPlan (queued 1) {}) 0 3 = some (openPlan, 0) ∧ openPlan.issued.length = 4
    ∧ ∀ i, i < 32 → ((tileAt (planDev ringPart openPlan (queued 1) {}) 0).arr.laneIn.at (32 * 3 + i) []).length < 2 := by decide +kernel
theorem witness_issue_full : 2 ≤ ((tileAt (arrDev { laneIn := [(127, [digitEl, digitEl])] }) 0).arr.laneIn.at (32 * 3 + 31) []).length := by decide
theorem witness_load :
    let s := planDev ringPart plan0 ring0 {}
    (tileAt s 0).arr.loads.at 3 [] = [] ∧ nextLoad s 0 3 = some (plan0, 0) ∧ plan0.loaded.length = 4
      ∧ le (readBytes s.mem (tileBase 0 + feed0.setList) 4) 0 4 = 0 ∧ feed0.setList + 4 ≤ 0x600000
      ∧ (cellAt (tileAt s 0).arr 96 0).full = false ∧ (tileAt s 0).arr.expShadow.find 384 = none := by decide +kernel
theorem witness_partial :
    let a : Arr := { tags := [(511, [0x100, 7])], forming := [(511, [5#25])] }
    (cellAt a 127 127).south = [] ∧ a.tags.at 511 [] = 0x100 :: [7] ∧ 0x100 ≠ swapMark ∧ (a.combine.at 511 []).length < 16
      ∧ field 0x100 8 4 ≤ (a.forming.at 511 []).length := by decide
theorem witness_partial_swap :
    let a : Arr := { tags := [(0, [swapMark])], digitStage := [(0, [.swapTok])], expShadow := [(0, 9)] }
    a.tags.at 0 [] = [swapMark] ∧ a.digitStage.at 0 [] = [.swapTok] ∧ a.expShadow.find 0 = some 9 := by decide
def rowPlan : Plan := { openPlan with cleared := 1 }
def rowDev (c : Tab (List Partial)) : State := planDev ringPart rowPlan (queued 1) { combine := c }
def fullRow : Tab (List Partial) := (List.range 512).map (fun i => (i, [{}]))
theorem witness_drain : partOfTile (rowDev fullRow) 0 = some 0 ∧ (∀ n < 128, drainPlan (rowDev fullRow) 0 n = some (rowPlan, 0)) ∧ 0 / rowPlan.rows < rowPlan.cleared
    ∧ rowPlan.entered.length = 128 ∧ 0 < rowPlan.rows ∧ 0 + 1 < (feedRec (rowDev fullRow) 0 rowPlan.feed).setCount * rowPlan.rows
    ∧ (tileAt (rowDev fullRow) 0).arr.plans.find? (fun y => y.id = rowPlan.id) = some rowPlan
    ∧ ((List.range 512).all fun i => !(fullRow.at i []).isEmpty) = true ∧ (∀ n < 128, ((colParts (tileAt (rowDev fullRow) 0).arr n).filter Partial.counts).length = 0)
    ∧ (tileAt (rowDev fullRow) 0).drain.late.at 0 [] = [] := by decide +kernel
theorem witness_drain_waits : ∃ i, i < 512 ∧ (tileAt (rowDev []) 0).arr.combine.at i [] = [] := ⟨511, by decide, by decide⟩
theorem witness_merge : partOfTile (arrDev {}) 63 = none ∧ partOfTile (arrDev {}) 0 = some 0 := by decide
def convPlan0 : Plan := { openPlan with entered := List.replicate 128 1 }
def convPart : Part := { ringPart with ctx := { ringPart.ctx with latched := [(0, { established := true })] } }
def convDev (p : Part) (n : Nat) : State :=
  tileDev p { feeds := [feed0] } { arr := { plans := [convPlan0] }, drain := { queue := List.replicate n {} } }
theorem witness_convert_row : ∀ n ∈ [15, 16], partOfTile (convDev convPart n) 0 = some 0 ∧ convPlan (convDev convPart n) 0 = some convPlan0
    ∧ convPlan0.convSet < convPlan0.drainSet ∧ (tileAt (convDev convPart n) 0).vec.body = none ∧ (rungOf convPart 0).2 = 0x22 ∧ feed0.destQueue = true
    ∧ (tileAt (convDev convPart n) 0).drain.queue.length = n := by decide +kernel
theorem witness_convert_kept : (rungOf { convPart with image := some { layers := [{ layer0 with rungs := [(0x30, 0x30)] }] } } 0).2 = 0x30
    ∧ convPlan0.convSet + 1 < feed0.setCount := by decide +kernel
def closePart (rung : Nat) : Part :=
  { run0 with
    image := some { layers := [{ layer0 with rungs := [(0x30, 0x22), (0x31, 0x22)] }] }
    anchors := [(0, {})]
    ctx := { run0.ctx with layers := [(0, { running := true, rung := rung, tilesDone := [0] })] } }
def closeDev (rung : Nat) (ovf : List Nat) : State := tileDev (closePart rung) { actors := [actor0 kindClose] } { drain := { ovf := ovf } }
theorem witness_close : layerTiles (closeDev 0 []) (closePart 0) 0 = [0] ∧ (layerRunOf (closePart 0) 0).running = true
    ∧ partDone (closeDev 0 []) (closePart 0) 0 0 = true ∧ (closePart 0).anchors.find 0 = some {} ∧ 0 ∉ (tileAt (closeDev 0 []) 0).drain.ovf := by decide +kernel
theorem witness_close_waits : partDone { closeDev 0 [] with tiles := [(0, { conf := { actors := [actor0 kindPass] } })] } (closePart 0) 0 0 = false := by
  decide +kernel
theorem witness_close_repeat : fsBase ≤ (regionOf (closePart 0) 6).1 ∧ 0 ∈ (tileAt (closeDev 0 [0]) 0).drain.ovf ∧ (layerRunOf (closePart 0) 0).rung < lastRung (closePart 0) 0 := by decide +kernel
theorem witness_close_last : fsBase ≤ (regionOf (closePart 1) 6).1 ∧ 0 ∈ (tileAt (closeDev 1 [0]) 0).drain.ovf ∧ (layerRunOf (closePart 1) 0).rung = lastRung (closePart 1) 0 := by decide +kernel
theorem witness_spot :
    let p : Part := { run0 with image := some { layers := [layer0], numerics := { spotEnable := 1 } } }
    let s := tileDev p {} {}
    partOfTile s 0 = some 0 ∧ (imageOf p).numerics.spotEnable ≠ 0 ∧ (layerOf p 0).isSome = true ∧ sampled 0 p.ctx.step (blockNumber layer0 0) = true
      ∧ (tileAt s 0).arr.plans = [] ∧ nextFiring s 0 kindPass = none := by decide +kernel


/-! ### Transfers -/

theorem plain_near {s : State} {a n : Nat} (h : a + n ≤ 0x200000000 ∧ offOf a + n ≤ 0x600000)
    (hb : ∀ t, (tileAt s t).banks = [] := by intro t; rfl) : PlainSpan s a n := .inl ⟨h.1, h.2, hb _⟩
theorem plain_far {s : State} {a n : Nat} (h : fsBase ≤ a) (hg : s.fs.guards = []) (hc : s.fs.chans = []) : PlainSpan s a n :=
  .inr ⟨h, hg, fun c => by simp [chanAt, hc, Tab.at, Tab.find]⟩

/-- The 64 bytes of a descriptor. -/
def descB (d : DescF) : List Byte :=
  toLe 1 d.op ++ toLe 1 d.flags ++ toLe 1 d.fmt ++ toLe 1 d.cvu ++ toLe 4 d.count ++ toLe 8 d.src ++ toLe 8 d.srcScale ++ toLe 8 d.dst
    ++ toLe 8 d.dstScale ++ toLe 4 d.rows ++ toLe 4 d.srcStride ++ toLe 4 d.dstStride ++ toLe 2 d.layerSlot ++ toLe 1 d.segment ++ [0]
    ++ toLe 6 d.index0 ++ [0, 0]
def moveD : DescF := { (default : DescF) with op := 1, count := 64, src := 0x1000, dst := 0x2000, rows := 2, srcStride := 64, dstStride := 128 }
def dmaOf (d : DescF) (phase : Nat) : DmaRun := { descs := [{ bytes := descB d, phase := phase }] }
def dmaDev (d : DescF) : State := tileDev ringPart {} { dma := [dmaOf d 1] }
theorem dma_banks (d : DescF) (t : Nat) : (tileAt (dmaDev d) t).banks = [] := by
  by_cases h : t = 0 <;> simp [tileAt, dmaDev, tileDev, Tab.at, Tab.find, h, Ne.symm]
theorem part_ring : partOfTile (withPart dev0 ringPart) 0 = some 0 := by decide
theorem part_of_ring (d : DescF) : partOfTile (dmaDev d) 0 = some 0 :=
  (rfl : partOfTile (dmaDev d) 0 = partOfTile (withPart dev0 ringPart) 0).trans part_ring
theorem descMoves_of {d : DescF} (hd : descOf (descB d) = d) (ht : targetResetting (dmaDev d) 0 d = false) (hu : unitWaits (dmaDev d) d = false) :
    DescMoves (dmaDev d) 0 0 0 d.op d :=
  ⟨part_of_ring d, ⟨dmaOf d 1, { bytes := descB d, phase := 1 }, rfl, rfl, hd, rfl, rfl⟩, rfl, rfl, hu, fun _ => rfl, ht, rfl, rfl, rfl⟩
theorem witness_rows : ∀ op ∈ [1, 4, 5], DescMoves (dmaDev { moveD with op := op }) 0 0 0 op { moveD with op := op } := by
  intro op h; exact descMoves_of (d := { moveD with op := op }) (by revert op; decide +kernel) (by revert op; decide +kernel) (by revert op; decide +kernel)
theorem witness_copy : remoteDev (dmaDev moveD) moveD.src = none ∧ remoteDev (dmaDev moveD) moveD.dst = none ∧ moveD.flags % 64 / 8 = 0
    ∧ (∀ r < 2, ∀ r' < 2, (r ≠ r' → 0x2000 + r * 128 + 64 ≤ 0x2000 + r' * 128 ∨ 0x2000 + r' * 128 + 64 ≤ 0x2000 + r * 128)
      ∧ (0x2000 + r * 128 + 64 ≤ 0x1000 + r' * 64 ∨ 0x1000 + r' * 64 + 64 ≤ 0x2000 + r * 128)) := by decide
theorem witness_row_spans : ∀ r, r < 2 → PlainSpan (dmaDev moveD) (0x1000 + r * 64) 64 ∧ PlainSpan (dmaDev moveD) (0x2000 + r * 128) 64 := by
  intro r h; exact ⟨plain_near (by revert r; decide) (dma_banks _), plain_near (by revert r; decide) (dma_banks _)⟩
def scanD : DescF := { moveD with op := 6, flags := 8, dst := 0 }
theorem witness_scan : DescMoves (dmaDev scanD) 0 0 0 6 scanD ∧ scanD.check = true ∧ (cvSlotAt (dmaDev scanD) (40 + scanD.cvu % 8) 0).hold = false :=
  ⟨descMoves_of (by decide +kernel) (by decide +kernel) (by decide +kernel), rfl, rfl⟩
def feedD : DescF := { (default : DescF) with op := 2, fmt := 1, count := 3, src := 0x1000, srcScale := 0x2000, rows := 1, index0 := 7 }
theorem witness_feed : DescMoves (dmaDev feedD) 0 0 0 2 feedD ∧ feedD.srcComp = false := ⟨descMoves_of (by decide +kernel) (by decide +kernel) rfl, rfl⟩
theorem witness_feed_spans : ∀ i < 3, PlainSpan (dmaDev feedD) (localAddr feedD.src + i * blockStride 1) (fieldBytes 1)
    ∧ PlainSpan (dmaDev feedD) (localAddr feedD.srcScale + i) 1 :=
  fun i h => ⟨plain_near (by revert i; decide) (dma_banks _), plain_near (by revert i; decide) (dma_banks _)⟩
def weightD : DescF := { (default : DescF) with op := 3, fmt := 1, count := 1, src := 0x10000, srcScale := 0x20000, dst := 0x30000, rows := 1 }
theorem witness_weight : DescMoves (dmaDev weightD) 0 0 0 3 weightD ∧ offOf (localAddr weightD.dst) + 33280 ≤ 0x600000
    ∧ localAddr weightD.dst + 33280 ≤ 0x200000000 := ⟨descMoves_of (by decide +kernel) (by decide +kernel) rfl, by decide, by decide⟩
theorem witness_weight_spans : ∀ i < 512, PlainSpan (dmaDev weightD) (localAddr weightD.src + i * blockStride 1) (fieldBytes 1)
    ∧ PlainSpan (dmaDev weightD) (localAddr weightD.srcScale + i) 1 := by
  have e1 : localAddr weightD.src = 65536 := by decide
  have e2 : localAddr weightD.srcScale = 131072 := by decide
  have e3 : blockStride 1 = 16 := by decide
  have e4 : fieldBytes 1 = 16 := by decide
  intro i h
  refine ⟨plain_near ?_ (dma_banks _), plain_near ?_ (dma_banks _)⟩
  · rw [e1, e3, e4]; constructor
    · omega
    · unfold offOf; omega
  · rw [e2]; constructor
    · omega
    · unfold offOf; omega

def startRun (d : DescF) (actor : Option Nat) : DmaRun := { actor := actor, descs := [{ bytes := descB d }] }
theorem witness_desc_refused :
    let r := startRun { moveD with fmt := 1 } (some 0)
    let s := tileDev ringPart {} { dma := [r] }
    partOfTile s 0 = some 0 ∧ headRun s 0 = some r ∧ mayStartDesc r 0 false = true
      ∧ decideFail (descFails s 0 false (descOf (descB { moveD with fmt := 1 }))) = some (stBadField, 2) := by decide +kernel
theorem witness_desc_nothing : (descOf (descB { moveD with rows := 0 })).count * (descOf (descB { moveD with rows := 0 })).rows = 0
    ∧ (startRun { moveD with rows := 0 } none).actor = none := by decide +kernel
def lastD (actor : Option Nat) : DmaRun :=
  { actor := actor, host := if actor.isNone then some (0, 1) else none, descs := [{ bytes := descB moveD, phase := 2 }] }
theorem witness_list_host :
    let s := { tileDev ringPart {} { dma := [lastD none] } with cmds := [cmd 0], hosts := (withCmd dev0 (cmd 0)).hosts }
    (tileAt s 0).dma = [lastD none] ∧ remotePending s 0 0 = false ∧ feedPending s (descOf (descB moveD)) = false ∧ cmdAt s 0 1 = some (cmd 0)
      ∧ 0 < s.hosts.length := by decide +kernel
theorem witness_list_actor :
    let s := tileDev ringPart { actors := [actor0 kindDma] } { dma := [lastD (some 0)], sched := { running := [fire0] } }
    (tileAt s 0).dma = [lastD (some 0)] ∧ (tileAt s 0).sched.running = [fire0] ∧ fire0.actor = 0 ∧ fire0.finished = false := by decide +kernel

/-! ### Banks, regulators, the packet layer, the far store -/

def meshR (w : Bool) : MeshReq := { requester := 1023, epoch := 0, part := 16, abortEpoch := 0, tag := 0, addr := 0x40, isWrite := w, len := 64, data := List.replicate 64 9 }
def bank0 (w : Bool) : BankReq := { port := meshPort, addr := 0x40, len := 64, req := meshR w }
theorem witness_bank : ∀ w ∈ [true, false],
    let s := tileDev run0 {} { banks := [(31, [bank0 w])] }
    (tileAt s 0).banks = [(31, [bank0 w])] ∧ oldestReq ((tileAt s 0).banks.at 31 []) = some (bank0 w) ∧ bankFree s 0 31 = true
      ∧ (bank0 w).addr - (bank0 w).req.addr + (bank0 w).len ≤ (bank0 w).req.data.length ∧ (tileAt s 0).banks.at 32 [] = []
      ∧ (bank0 w).addr + (bank0 w).len ≤ 0x200000000 := by decide
theorem witness_bank_span : PlainSpan dev0 0x40 64 := plain_near (by decide)
theorem witness_bank_empty : (tileAt dev0 0).banks.at 31 [] = [] := by decide
theorem witness_bank_busy : bankFree (tileDev run0 {} { granted := [(31, 0)] }) 0 31 = false := by decide
def regDev (tokens : Nat) : State := withPart dev0 { run0 with regWait := [{ bytes := 300, addr := 0x100000000FF }], bucketTokens := tokens }
theorem witness_admitted : (partAt (regDev 0) 0).regWait = [{ bytes := 300, addr := 0x100000000FF }] ∧ (regDev 0).parts.length = 1
    ∧ (partAt (regDev 0) 0).bucketTokens < min 300 (256 - 0x100000000FF % 256) ∧ min 300 (256 - 0x100000000FF % 256) ≤ (partAt (regDev 1) 0).bucketTokens := by decide
theorem witness_admitted_ops : (∀ o ∈ (partAt (regDev 1) 0).regOps, o.served = none) ∧ (partAt (regDev 1) 0).ckpt.copy = none := by decide
def req0 (source : Nat) : FsReq := { source := source, addr := 0x10B40000000, bytes := 256 }
def slotDev (held : Nat) : State := modFs dev0 (fun f => { f with waiting := [req0 7], issued := List.replicate held (req0 5) })
theorem bankHeld_slotDev (n : Nat) : bankHeld (slotDev n) (Config.dramBank 0x10B40000000) = n := by
  simp [bankHeld, slotDev, modFs, req0]
theorem issued_slotDev (n : Nat) : (slotDev n).fs.issued.length = n := by simp [slotDev, modFs]
theorem waiting_slotDev (n : Nat) : (slotDev n).fs.waiting = [req0 7] := rfl
theorem slotFree_slotDev {n : Nat} (h : n < 4096) : slotFree (slotDev n) 0x10B40000000 = true := by
  unfold slotFree
  rw [issued_slotDev, bankHeld_slotDev, decide_eq_true (by omega : n < 65536), decide_eq_true h]; simp
theorem witness_slot : (slotDev 4095).fs.waiting.find? (fun w => w.source = 7 && slotFree (slotDev 4095) w.addr) = some (req0 7) := by
  rw [waiting_slotDev, List.find?_cons_of_pos]
  exact Bool.and_eq_true_iff.2 ⟨rfl, slotFree_slotDev (by decide)⟩
theorem witness_slot_full : 65536 ≤ (slotDev 65536).fs.issued.length
    ∧ ∀ w ∈ (slotDev 4096).fs.waiting, w.source = 7 → 4096 ≤ bankHeld (slotDev 4096) (Config.dramBank w.addr) := by
  refine ⟨Nat.le_of_eq (issued_slotDev _).symm, fun w h _ => ?_⟩
  rw [List.mem_singleton.1 h]
  exact Nat.le_of_eq (bankHeld_slotDev 4096).symm
theorem witness_mesh_near : isTileAddr (meshR true).addr = true ∧ tilePresent dev0 0 = true ∧ tileGone dev0 0 1023 = false
    ∧ within (meshR true).addr 64 (tileBase 0) (partEnd (windowPart (offOf (meshR true).addr))) = true ∧ windowPart (offOf (meshR true).addr) = 0
    ∧ staleTraffic dev0 (meshR true).part (meshR true).abortEpoch = false := by decide
theorem witness_mesh_stale : staleTraffic (withPart dev0 run0) 0 1 = true := by decide
theorem witness_mesh_windows : ∀ x ∈ [(1, 0x600000), (2, 0x700000)], windowPart (offOf x.2) = x.1
    ∧ within x.2 64 (tileBase 0) (partEnd (windowPart (offOf x.2))) = true := by decide
theorem witness_mesh_regs : windowPart (offOf 0x780000) = 4 := by decide
theorem witness_mesh_absent : tilePresent { dev0 with fuses := { dev0.fuses with variant := .dj3072H } } 1023 = false := by decide
theorem witness_mesh_gone : tileGone { dev0 with tiles := [(0, { resetting := true })] } 0 1023 = true := by decide
def farR (w : Bool) : MeshReq := { meshR w with addr := 0x10B40000000 }
theorem witness_mesh_far : isTileAddr (farR true).addr = false ∧ fsDev.fs.resetting = false ∧ within (farR true).addr 64 fsBase (fsCapacity fsDev) = true
    ∧ fsDev.poison = [] ∧ Memory.wf fsDev.mem = true ∧ (farR true).data.length = (farR true).len := by decide +kernel
theorem witness_mesh_far_span : PlainSpan fsDev (farR true).addr 64 := plain_far (by decide) rfl rfl
theorem witness_mesh_outside : within 0xFEFFFFFFFFF 64 fsBase (fsCapacity fsDev) = false := by decide +kernel
def reply0 (e : Nat) : MeshReply := { requester := 1023, epoch := e, part := 16, abortEpoch := 0, tag := 0, status := 0, poisoned := false, data := [] }
theorem witness_reply_way : (takeOldest samePath (fun x => decide (x.2 = reply0 0)) { dev0 with replies := [(0, reply0 0)] }.replies).isSome = true
    ∧ takeOldest samePath (fun x => decide (x.2 = reply0 0)) [(0, reply0 1), (0, reply0 0)] = none := by decide
theorem witness_reply_engine : ({ reply0 1 with requester := 1024 } : MeshReply).epoch ≠ requesterEpoch dev0 1024 := by decide
theorem witness_reply : (reply0 0).epoch = requesterEpoch dev0 1023 ∧ (reply0 1).epoch ≠ requesterEpoch dev0 1023 ∧ (reply0 1).requester < 1024 := by decide
theorem chan_none {s : State} (h : s.fs.chans = []) (c : Nat) : (chanAt s c).state ≠ 3 := by simp [chanAt, h, Tab.at, Tab.find]
theorem witness_far : isFsAddr fsDev 0x10B40000000 = true ∧ fsDev.fs.guards = [] ∧ fsDev.poison = [] ∧ fcSet ((0x10B40000000 - fsBase) / 256) ∉ fsDev.fs.setsOff
    ∧ fcHit fsDev ((0x10B40000000 - fsBase) / 256) = false ∧ isFsAddr fsDev 0xFF = false ∧ 0x10B40000000 % 256 + 256 ≤ 256 := by decide +kernel
theorem witness_far_slot : slotFree fsDev 0x10B40000000 = true := by decide
theorem witness_far_served : servedReq (modFs fsDev (fun f => { f with issued := [req0 5] })) 5 0x10B400000FF = some (req0 5) := by decide
theorem witness_far_check : checkFails fsDev 0x10B40000000 (1 :: List.replicate 63 0) = true
    ∧ checkFails fsDev 0x10B40000000 (List.replicate 64 0) = false := by decide +kernel
theorem witness_far_chans : ∀ c, (chanAt fsDev c).state ≠ 3 := chan_none rfl
theorem witness_far_hit :
    let l := (0x10B40000000 - fsBase) / 256
    fcHit (modFs fsDev (fun f => { f with cache := [(fcSet l, [{ unit := l }])] })) l = true := by decide +kernel
def guardD : DescF := { (default : DescF) with op := 1, flags := 1, count := 256, src := 0x10B40000000, dst := 0x2000, rows := 1 }
def unit0 : Nat := (0x10B40000000 - fsBase) / 256
def guard0 : Guard := { id := 1, bytes := descB guardD, stale := [unit0], acks := [unit0], held := [(0x10B40000000, [1])] }
theorem witness_stale_ack :
    let s := modFs fsDev (fun f => { f with guards := [guard0] })
    s.fs.guards = [guard0] ∧ guard0.acks = [unit0] ∧ fsBase ≤ 0x10B40000000 ∧ (0x10B40000000 - fsBase) / 256 = unit0 ∧ Memory.wf s.mem = true := by decide +kernel
theorem witness_refetch :
    let x := { guard0 with acks := [], held := [] }
    let s := modFs fsDev (fun f => { f with guards := [x] })
    let d := descOf x.bytes
    unit0 ∈ x.stale ∧ unit0 ∉ x.acks ∧ guardMoved s x = true ∧ d.op = 1 ∧ d.srcComp = false ∧ d.dstComp = false ∧ d.rows = 1
      ∧ localAddr d.src = fsBase + 256 * unit0 ∧ d.count = 256 ∧ localAddr d.dst + 256 ≤ 0x200000000 ∧ offOf (localAddr d.dst) + 256 ≤ 0x600000
      ∧ s.poison = [] ∧ Memory.wf s.mem = true := by decide +kernel
theorem witness_refetch_funded : Funded (modPart (modFs fsDev (fun f => { f with guards := [guard0] })) 0 (fun p => { p with bucketTokens := 256 })) guard0.q 256 :=
  ⟨by decide, by decide, by decide, by decide⟩
theorem witness_refetch_span : PlainSpan { fsDev with fs := { fsDev.fs with guards := [] } } 0x10B40000000 256 := plain_far (by decide) rfl rfl
theorem witness_refetch_prefetch : (descOf (descB { guardD with op := 4 })).op = 4
    ∧ guardMoved (modFs fsDev (fun f => { f with guards := [{ guard0 with acks := [], held := [] }] })) guard0 = true := by decide +kernel
theorem witness_refetch_not : unit0 ∈ guard0.acks := by decide
theorem witness_writeback : (modFs dev0 (fun f => { f with draining := true })).fs.draining = true ∧ dev0.fs.draining = false := by decide

/-! ### Links -/

def portDev (x : Port) : State := modPort dev0 15 (fun _ => x)
def up0 : Port := { state := 2 }
theorem witness_trained : ∀ st ∈ [0, 1, 3],
    15 < portCount (portDev { state := st }) ∧ (portDev { state := st }).dev ≠ .off ∧ (portAt (portDev { state := st }) 15).enable = true
    ∧ (portAt (portDev { state := st }) 15).state ≠ 2 ∧ (∀ l ∈ (portAt (portDev { state := st }) 15).lanes, l.faulty = false)
    ∧ 2 ≤ (((portAt (portDev { state := st }) 15).lanes.map (turnLane 0)).filter (fun l => l.state = 0)).length := by decide
def thin : Port := { state := 1, lanes := List.replicate 3 { state := 1 } ++ [{}] }
theorem witness_untrained : (portAt (portDev thin) 15).state = 1
    ∧ (((portAt (portDev thin) 15).lanes.map (turnLane 0)).filter (fun l => l.state = 0)).length < 2
    ∧ (portDev thin).tick.locked = false ∧ ∀ y ∈ boundParts (portDev thin), usesPort (portDev thin) y.1 y.2 15 = false := by decide
theorem witness_lane : (portAt (portDev up0) 15).lanes[3]? = some ({} : Lane) ∧ ({} : Lane).state = 0 ∧ (portAt (portDev up0) 15).state = 2
    ∧ (portAt (portDev { state := 1 }) 15).state ≠ 2 := by decide
theorem witness_retrain : (portAt (portDev { state := 3, retrainFails := [0] }) 15).state = 3
    ∧ ((portAt (portDev { state := 3, retrainFails := [0] }) 15).retrainFails.filter (fun c => decide (0 < c + 1250000000))).length < 2
    ∧ 2 ≤ ((portAt (portDev { state := 3, retrainFails := [0, 0] }) 15).retrainFails.filter (fun c => decide (0 < c + 1250000000))).length
    ∧ boundParts (portDev { state := 3, retrainFails := [0, 0] }) = [] := by decide
theorem witness_silent_port : (portAt (portDev up0) 15).state = 2 ∧ (portDev up0).tick.locked = false ∧ boundParts (portDev up0) = []
    ∧ (portAt (portDev { state := 1 }) 15).state ≠ 2 := by decide

/-- A flit of SEQ 1 with an empty body. -/
def flit1 (typ : Nat) : List Byte := flitBytes [] (1 + typ * 2 ^ 24)
set_option maxRecDepth 100000 in
theorem witness_flit : ∀ typ ∈ [0, 1], (flit1 typ).length = 256 ∧ le (flit1 typ) 248 8 = cvOf crc64we ((flit1 typ).take 248)
    ∧ field (le (flit1 typ) 242 6) 24 2 ≤ 1 ∧ field (le (flit1 typ) 242 6) 0 12 = ((portAt (portDev up0) 15).rxSeq + 1) % 4096
    ∧ (portAt (portDev up0) 15).rxSeq < 4096 ∧ (portAt (portDev up0) 15).ctlWait = [] := by decide +kernel
theorem witness_flit_bad : ([] : List Byte).length ≠ 256 ∧ Codewords.corrected [1] ≠ .uncorrectable := by decide
theorem witness_retry : (portAt (portDev { up0 with replay := [(4, []), (5, [1])] }) 15).replay = [(4, [])] ++ (5, [1]) :: [] ∧ (∀ y ∈ [((4 : Nat), ([] : List Byte))], y.1 ≠ 5)
    ∧ (portAt (portDev { up0 with replay := [(4, [])], retries := 8 }) 15).retries = 8
    ∧ ∀ y ∈ (portAt (portDev { up0 with replay := [(4, [])], retries := 8 }) 15).replay, y.1 ≠ 5 := by decide

def pkt0 : Packet := { (default : Packet) with typ := 1, flow := 3, srcDev := 9, dstDev := 7, length := 4, data := [1, 2, 3, 4], addr := 0x1000, last := true, tick := 5 }
def flow0 : Flow := { q := 0, idx := 3, cfg := { kind := 1, creditKib := 1, slotLimit := 1, remoteFlow := 6 }, dstDev := 9, portMask := 0x8000 }
/-- Module 7 with port 15 UP and a flow of partition 0 to module 9. -/
def netDev (p : Part) : State := { withPart (portDev up0) { p with bucketTokens := 2 ^ 26 } with devId := 7, devIdValid := true, flows := [flow0], tick := { dev0.tick with count := 5 } }
def outDev : State :=
  { netDev { run0 with image := some { slotQuota := 1 } } with flows := [{ flow0 with queue := [{ q := 0, flow := 3, pkt := pkt0 }] }] }
theorem witness_issue_request : slotsTo outDev 9 < 65536 ∧ slotsInUse outDev < 524288
    ∧ outDev.flows.find? (fun f => f.dstDev = 9 && mayIssue outDev f) = some { flow0 with queue := [{ q := 0, flow := 3, pkt := pkt0 }] }
    ∧ portFor outDev { flow0 with queue := [{ q := 0, flow := 3, pkt := pkt0 }] } < 16 ∧ pkt0.cval = false := by decide +kernel
def loopFlow : Flow := { flow0 with cfg := { flow0.cfg with kind := 2 }, queue := [{ q := 0, flow := 3, pkt := pkt0 }] }
theorem witness_issue_loopback :
    let s := { outDev with flows := [loopFlow] }
    slotsTo s 9 < 65536 ∧ s.flows.find? (fun f => f.dstDev = 9 && mayIssue s f) = some loopFlow ∧ loopFlow.cfg.kind = 2 ∧ loopFlow.txPort = none
      ∧ loopFlow.q = 0 := by decide +kernel
def sendDev (o : OutPkt) (p : Part) : State := { netDev p with ports := [(15, { up0 with sendReq := if isReply o.pkt then [] else [o], sendRsp := if isReply o.pkt then [o] else [] })] }
theorem witness_packet : ∀ typ ∈ [1, 4],
    let o : OutPkt := { q := 0, flow := 3, pkt := { pkt0 with typ := typ } }
    let s := sendDev o run0
    portUp s 15 = true ∧ nextOut s 15 = some o ∧ roomFor (portAt s 15) o.pkt = true ∧ o.ident = none := by decide +kernel
theorem witness_packet_kept :
    let o : OutPkt := { q := 0, flow := 3, pkt := pkt0, ident := some (0, 4) }
    let s := sendDev o { bound run0 with quota := [1, 1] }
    portUp s 15 = true ∧ nextOut s 15 = some o ∧ roomFor (portAt s 15) o.pkt = true ∧ isBound (partAt s 0) = true ∧ Funded s 0 (32 + 4)
      ∧ wholeMessages (partAt s 0).settle.retention < entryLimit s ∧ msgBytes (partAt s 0).settle.retention + 4 ≤ (partAt s 0).quota.getD 1 0 * 2 ^ 20 := by
  refine ⟨by decide +kernel, by decide +kernel, by decide +kernel, by decide +kernel, ⟨rfl, rfl, by decide, rfl⟩, by decide +kernel, by decide +kernel⟩
theorem witness_packet_waits : portUp dev0 15 = false := by decide

/-! ### Packets that arrive -/

def arrive (k : Packet) (p : Part) : Prop := Arrives (netDev p) 15 k.typ k 0 flow0
theorem arrives_of (s : State) (k : Packet) (q : Nat) (f : Flow)
    (h : (!malformed k && decide (arrivalFlow s 15 k = some f ∧ f.q = q ∧ flowAt s q f.idx = some f) && !k.cval && portUp s 15 && !isFencedPart (partAt s q)
      && (!isBound (partAt s q) || decide (k.jobEpoch = jobEpochOf (partAt s q))) && decide (k.abortEpoch = (partAt s q).abortEpoch)) = true) :
    Arrives s 15 k.typ k q f := by
  simp only [Bool.and_eq_true, Bool.or_eq_true, Bool.not_eq_true', decide_eq_true_eq] at h
  obtain ⟨⟨⟨⟨⟨⟨h1, h2, h3, hf⟩, hc⟩, h4⟩, h5⟩, h6⟩, h7⟩ := h
  refine ⟨rfl, h1, h2, h3, hf, fun x => ?_, by omega, h4, h5, fun hb => ?_, h7⟩
  · rw [hc] at x; cases x
  · rcases h6 with h6 | h6
    · rw [h6] at hb; cases hb
    · exact h6
theorem slot_default (s : State) (q : Nat) (h : (partAt s q).binding = none) (i : Nat) : (escrowSlot (partAt s q) i).catchUp = false := by
  simp [escrowSlot, h]
theorem slot_empty (s : State) (q : Nat) (b : Binding) (h : (partAt s q).binding = some b) (hb : b.slots = []) (i : Nat) :
    (escrowSlot (partAt s q) i).catchUp = false := by simp [escrowSlot, h, hb]
def jobPart1 : Part := { bound run0 with quota := [1, 1] }
theorem witness_write : Arrives (netDev run0) 15 1 pkt0 0 flow0 ∧ requestStatus (netDev run0) 0 pkt0.addr 4 = stOk ∧ Memory.wf (netDev run0).mem = true :=
  ⟨arrives_of _ pkt0 _ _ (by decide +kernel), by decide +kernel, by decide⟩
theorem witness_write_fresh : Fresh (netDev run0) 0 flow0 pkt0 :=
  ⟨fun h => absurd h (by decide), rfl, slot_default _ 0 rfl⟩
theorem funded_net (p : Part) (h : p.regWait = []) (ho : p.regOps = []) (n : Nat) (hn : n ≤ 2 ^ 26) : Funded (netDev p) 0 n := ⟨h, ho, hn, rfl⟩
theorem witness_write_funded : Funded (netDev run0) 0 40 ∧ Funded (netDev jobPart1) 0 40 := ⟨funded_net _ rfl rfl _ (by decide), funded_net _ rfl rfl _ (by decide)⟩
theorem witness_write_refused : requestStatus (netDev run0) 0 0x1FFFFFFFC 8 ≠ stOk := by decide +kernel
theorem witness_write_span : PlainSpan (netDev run0) pkt0.addr 4 := plain_near (by decide)
theorem witness_write_journal : Arrives (netDev jobPart1) 15 1 pkt0 0 flow0 ∧ Fresh (netDev jobPart1) 0 flow0 pkt0
    ∧ journals (partAt (netDev jobPart1) 0) pkt0 = true ∧ requestStatus (netDev jobPart1) 0 pkt0.addr 4 = stOk :=
  ⟨arrives_of _ pkt0 _ _ (by decide +kernel), ⟨fun _ => by decide +kernel, rfl, slot_empty _ 0 {} rfl rfl⟩, by decide, by decide +kernel⟩
theorem witness_write_twice :
    let m : Msg := { flow := 3, off := 5, pkt := pkt0 }
    let s := netDev { jobPart1 with settle := { journal := [m] } }
    Arrives s 15 1 pkt0 0 flow0 ∧ journals (partAt s 0) pkt0 = true ∧ journalEntry s (partAt s 0) flow0 pkt0 = some (0, m) :=
  ⟨arrives_of _ pkt0 _ _ (by decide +kernel), by decide, by decide +kernel⟩
def readPkt : Packet := { pkt0 with typ := 2, data := [] }
theorem witness_read : Arrives (netDev run0) 15 2 readPkt 0 flow0 ∧ readPkt.addr ≠ fdTagAddr ∧ requestStatus (netDev run0) 0 readPkt.addr 4 = stOk
    ∧ (netDev run0).poison = [] ∧ (netDev run0).upsets = [] ∧ slotsInUse (netDev run0) < 524288 := ⟨arrives_of _ readPkt _ _ (by decide +kernel), by decide, by decide +kernel, rfl, rfl, by decide⟩
theorem witness_read_tag : Arrives (netDev run0) 15 2 { readPkt with addr := fdTagAddr, length := 8 } 0 flow0 :=
  arrives_of _ { readPkt with addr := fdTagAddr, length := 8 } _ _ (by decide +kernel)
def slot0 (u : SlotUse) : ReqSlot := { num := 2, gen := 255, q := 0, flow := 3, usage := u, ident := some (1, 4) }
def slotsDev (u : SlotUse) (p : Part) : State := { netDev p with slots := [slot0 u] }
def dataPkt : Packet := { pkt0 with typ := 3, slot := 2, gen := 255 }
theorem witness_data : Arrives (slotsDev (.read 0 0 0x2000 0) run0) 15 3 dataPkt 0 flow0
    ∧ replySlot (slotsDev (.read 0 0 0x2000 0) run0) flow0 dataPkt = some (slot0 (.read 0 0 0x2000 0)) ∧ dataPkt.status = stOk ∧ dataPkt.cval = false :=
  ⟨arrives_of _ dataPkt _ _ (by decide +kernel), by decide, rfl, rfl⟩
theorem witness_data_span : PlainSpan (slotsDev (.read 0 0 0x2000 0) run0) 0x2000 4 := plain_near (by decide)
def ackPkt : Packet := { dataPkt with typ := 4, length := 0, data := [] }
theorem witness_ack : ∀ u ∈ [SlotUse.send, .dma 0 0, .deposit 0 0], Arrives (slotsDev u run0) 15 4 ackPkt 0 flow0
    ∧ replySlot (slotsDev u run0) flow0 ackPkt = some (slot0 u) :=
  fun u h => ⟨arrives_of _ ackPkt _ _ (by revert u; decide +kernel), by revert u; decide⟩
theorem witness_timeout : ∀ u ∈ [SlotUse.send, .deposit 0 0], (slotsDev u run0).slots.find? (fun y => y.num = 2) = some (slot0 u)
    ∧ (partAt (slotsDev u run0) 0).join = {} ∧ (partAt (slotsDev u run0) 0).state = .running ∧ (partAt (slotsDev u run0) 0).purge = none := by decide
def tokRec : ActorRec := { actor0 kindSync with flags := 16, slots := 8 }
def tokDev : State := { netDev run0 with tiles := [(0, { conf := { actors := [tokRec] } })] }
def tokPkt : Packet := { pkt0 with typ := 5, length := 16, data := toLe 16 (tokenBits 0 7 true 0 5 0).toNat }
theorem witness_timeout_read : ∀ u ∈ [SlotUse.dma 0 0, .read 0 0 0x2000 0], (slotsDev u run0).slots.find? (fun y => y.num = 2) = some (slot0 u)
    ∧ (slotsDev u run0).slots.find? (fun y => y.num = 3) = none := by decide
theorem witness_token_packet : Arrives tokDev 15 5 tokPkt 0 flow0 ∧ Fresh tokDev 0 flow0 tokPkt ∧ partGone (partAt tokDev 0) = false
    ∧ partOfTile tokDev 0 = some 0 ∧ actorRec tokDev 0 0 = some tokRec ∧ 7 < tokRec.slots ∧ (ctxOf tokDev 0 0).fired < tokRec.firings
    ∧ (ctxOf tokDev 0 0).counts.getD 7 0 < 65535 ∧ (ctxOf tokDev 0 0).counts.length = 8 ∧ tokRec.remote = true ∧ (ctxOf tokDev 0 0).specOpen = false :=
  ⟨arrives_of _ tokPkt _ _ (by decide +kernel), ⟨fun h => absurd h (by decide), rfl, slot_default _ 0 rfl⟩, by decide, by decide, by decide, by decide, by decide,
    by decide, by decide, by decide, by decide⟩
def buck0 : BucketRec := { op := 3, alg := 2, size := 128, p := 3, rank := 2, src := 0x1000, dst := 0x2000, flagsAddr := 0x3000 }
def depBlock : DBlock := { elems := List.replicate 32 1, empty := false, ranks := [2] }
def depPkt : Packet := { pkt0 with typ := 6, addr := 1 * 2 ^ 16, length := 136, data := depositBytes false 0 0 depBlock }
def depPart (l : List BucketRun) : Part := { run0 with image := some { buckets := [buck0] }, buckets := l }
def depRun : BucketRun := { opened := true, blocks := [(0, depBlock)] }
theorem witness_deposit_early : Arrives (netDev (depPart [])) 15 6 depPkt 0 flow0 ∧ Fresh (netDev (depPart [])) 0 flow0 depPkt
    ∧ bucketRec (partAt (netDev (depPart [])) 0) 0 = some buck0 ∧ 1 < buck0.p ∧ busyRun (partAt (netDev (depPart [])) 0) 0 = none :=
  ⟨arrives_of _ depPkt _ _ (by decide +kernel), ⟨fun h => absurd h (by decide), rfl, slot_default _ 0 rfl⟩, by decide, by decide, by decide +kernel⟩
theorem witness_deposit :
    let s := netDev (depPart [depRun])
    Arrives s 15 6 depPkt 0 flow0 ∧ busyRun (partAt s 0) 0 = some (0, depRun) ∧ takeBlocks 256 depPkt.data = some [(256, List.replicate 32 1)]
      ∧ headerFault (partAt s 0) buck0 depRun 256 = false ∧ (field 256 8 4 = 2 ↔ depRun.d64 = true) ∧ (256 / 2 ^ 32 = buck0.blocks → False)
      ∧ depBlock.ranks ≠ [] ∧ (depRun.blocks.at 0 {}).ranks.length + 1 < buck0.need 0 :=
  ⟨arrives_of _ depPkt _ _ (by decide +kernel), by decide +kernel, by decide +kernel, by decide +kernel, by decide, by decide, by decide, by decide +kernel⟩
theorem witness_deposit_fault :
    let k := { depPkt with addr := 3 * 2 ^ 16 }
    Arrives (netDev (depPart [])) 15 6 k 0 flow0 ∧ buck0.p ≤ 3 ∧ partGone (partAt (netDev (depPart [])) 0) = false ∧ Funded (netDev (depPart [])) 0 (32 + 136) :=
  ⟨arrives_of _ { depPkt with addr := 3 * 2 ^ 16 } _ _ (by decide +kernel), by decide, by decide +kernel, funded_net _ rfl rfl _ (by decide)⟩

/-! ### Tree contexts and symbols -/

/-- A symbol with its CRC. -/
def symOf (typ bits : Nat) : CtlSlot := { typ := typ, tree := 0, epoch := 0, sym := BitVec.ofNat 64 (bits + symCrc bits * 2 ^ 48) }
def tree0 : TreeCtx := { valid := true, parent := 15, childMask := 1, timing := true }
/-- Tree context 0 of partition 0, its parent behind port 15 and a child behind port 0. -/
def treeDev (x : TreeCtx) (p : Part) : State := { withPart dev0 p with trees := [(0, x)], ports := [(0, up0), (15, up0)] }
theorem witness_up : ∀ x ∈ [{ tree0 with sentAny := true, sentTick := 5 }, tree0, { tree0 with own := [(5, 0)] }],
    (symOf 1 5).typ = 1 ∧ symOk (symOf 1 5) = true ∧ (treeAt (treeDev x run0) 0).valid = true ∧ (symOf 1 5).epoch = x.epoch % 65536
      ∧ x.childMask.getLsbD 0 = true ∧ fullTick (now (treeDev x run0)) (field (symOf 1 5).sym.toNat 0 24) = 5 := by decide +kernel
theorem witness_up_last : portUp (treeDev tree0 run0) 15 = true ∧ (portAt (treeDev tree0 run0) 15).replay.length < 512 ∧ run0.ctx.waitResult = false
    ∧ isFencedPart run0 = false ∧ isShadowing run0 = false ∧ childPorts tree0 = [0] := by decide
theorem witness_up_late : 5 ≤ { tree0 with sentAny := true, sentTick := 5 }.sentTick ∧ ¬ 5 ≤ { tree0 with sentAny := true, sentTick := 4 }.sentTick := by decide
theorem witness_expiry : ∃ d ∈ childPorts { tree0 with own := [(5, 0)] }, ∀ g ∈ { tree0 with own := [(5, 0)] }.got, g.1 = 5 → g.2.1 ≠ d :=
  ⟨0, by decide, by decide⟩
def jobRun : Part := { run0 with binding := some {}, image := some { ticksPerStep := 2 } }
theorem witness_down : ∀ v ∈ [0, 2, 8], SymbolArrives (treeDev tree0 jobRun) 1 (symOf 1 (7 + v * 2 ^ 24)) ∧ (portUp (treeDev tree0 jobRun) 0 = true)
    ∧ (portAt (treeDev tree0 jobRun) 0).replay.length < 512 ∧ tree0.root = false ∧ (treeDev tree0 jobRun).tick.armed = false ∧ isFencedPart jobRun = false
    ∧ (BitVec.ofNat 8 (field (symOf 1 (7 + v * 2 ^ 24)).sym.toNat 24 8)).getLsbD 0 = false
    ∧ (BitVec.ofNat 8 (field (symOf 1 (7 + v * 2 ^ 24)).sym.toNat 24 8)).getLsbD 5 = false := by
  intro v h; unfold SymbolArrives; revert v; decide +kernel
def awaiting : Part := { jobRun with ctx := { jobRun.ctx with waitResult := true, awaited := 7 } }
theorem witness_settles : ∀ v ∈ [0, 64, 128], SymbolArrives (treeDev tree0 awaiting) 1 (symOf 1 (7 + v * 2 ^ 24)) ∧ awaiting.state = .running
    ∧ awaiting.ctx.awaited = fullTick (now (treeDev tree0 awaiting)) (field (symOf 1 (7 + v * 2 ^ 24)).sym.toNat 0 24) ∧ (imageOf awaiting).ticksPerStep ≠ 1
    ∧ (BitVec.ofNat 8 (field (symOf 1 (7 + v * 2 ^ 24)).sym.toNat 24 8)).toNat = v := by
  intro v h; unfold SymbolArrives; revert v; decide +kernel
theorem witness_down_plain : ∀ v ∈ [0, 2, 8], shadowDue jobRun 0 7 = false ∧ jobRun.ctx.waitResult = false
    ∧ fullTick (now (treeDev tree0 jobRun)) (field (symOf 1 (7 + v * 2 ^ 24)).sym.toNat 0 24) = 7 := by
  intro v h; refine ⟨by simp [shadowDue, isShadowing, jobRun, run0, part0], rfl, ?_⟩; revert v; decide +kernel
theorem witness_abort : SymbolArrives (treeDev tree0 run0) 2 (symOf 2 9) ∧ field (symOf 2 9).sym.toNat 32 16 = run0.abortEpoch ∧ run0.state = .running
    ∧ run0.purge = none ∧ SymbolArrives (treeDev tree0 (part0 .loaded)) 2 (symOf 2 9) := by
  unfold SymbolArrives; decide +kernel
def fenceDev : State := { treeDev tree0 jobRun with devId := 7, devIdValid := true }
theorem witness_fence_symbol : (symOf 3 (7 + 2 ^ 16)).typ = 3 ∧ symOk (symOf 3 (7 + 2 ^ 16)) = true ∧ (treeAt fenceDev 0).valid = true
    ∧ field (symOf 3 (7 + 2 ^ 16)).sym.toNat 0 16 = fenceDev.devId ∧ newerEpoch (field (symOf 3 (7 + 2 ^ 16)).sym.toNat 16 32) (jobEpochOf jobRun) = true
    ∧ isBound jobRun = true ∧ fenceDev.fencesSeen.contains (7, 1) = false ∧ fenceDev.dev = .ready
    ∧ field (symOf 3 8).sym.toNat 0 16 ≠ fenceDev.devId := by decide +kernel
theorem witness_fence_seen : ({ fenceDev with fencesSeen := [(7, 1)] } : State).fencesSeen.contains (7, 1) = true := by decide
def lockedDev : State := { treeDev tree0 run0 with tick := { dev0.tick with locked := true } }
theorem witness_parent_lost : timingParent lockedDev = some (0, 15) ∧ (partAt lockedDev (treeAt lockedDev 0).part).state = .running
    ∧ (partAt lockedDev (treeAt lockedDev 0).part).purge = none ∧ dev0.tick.locked = false := by decide
theorem witness_time_send :
    (List.range 16).find? (fun k => (treeAt lockedDev k).valid && (treeAt lockedDev k).timing && isParentPort 15 lockedDev (treeAt lockedDev k)) = some 0
      ∧ portUp lockedDev 15 = true ∧ (portAt lockedDev 15).replay.length < 512 ∧ isFencedPart (partAt lockedDev (treeAt lockedDev 0).part) = false := by decide
theorem witness_time_req : SymbolArrives lockedDev 4 (symOf 4 0) ∧ (treeAt lockedDev 0).childMask.getLsbD 0 = true ∧ portUp lockedDev 0 = true := by
  unfold SymbolArrives; decide +kernel
theorem witness_time_rsp : ∀ sy ∈ [symOf 5 0x100, symOf 6 (0x9000 + 3 * 2 ^ 32)], symOk sy = true ∧ (treeAt lockedDev sy.tree).valid = true
    ∧ sy.epoch = (treeAt lockedDev sy.tree).epoch % 65536 ∧ (treeAt lockedDev 0).root = false ∧ (treeAt lockedDev 0).timing = true ∧ lockedDev.tick.armed = false
    ∧ childPorts (treeAt lockedDev 0) = [0] := by decide +kernel
theorem witness_time_left : (portAt { lockedDev with ports := [(15, { up0 with timeReqAt := some 0 })] } 15).timeReqAt = some 0 := by decide

/-! ### Buckets, updates, the escrow -/

theorem witness_bucket_start :
    let run : BucketRun := { asked := 4 }
    let p := depPart [run]
    let s := netDev p
    openBuckets s < 256 ∧ busyRun p 0 = none ∧ (withPos p.buckets).find? (fun x => x.2.b = 0 && !x.2.opened) = some (0, run) ∧ oldestAsked s = some 4
      ∧ bucketRec p 0 = some buck0 ∧ 0 < buck0.p ∧ run.blocks = [] ∧ run.results = [] ∧ p.earlyDeposits = [] ∧ s.poison = [] ∧ s.upsets = [] := by decide +kernel
theorem witness_bucket_reads : (∀ x ∈ roundReads (depPart [{ asked := 4 }]) buck0 true, PlainSpan (netDev (depPart [{ asked := 4 }])) x.1 x.2)
    ∧ Funded (netDev (depPart [{ asked := 4 }])) 0 (129 * buck0.blocks) := by
  refine ⟨fun x h => ?_, funded_net _ rfl rfl _ (by decide)⟩
  have : x = (imageAddr (depPart []) buck0.src, 128 * buck0.blocks) := by
    rw [show roundReads (depPart [{ asked := 4 }]) buck0 true = [(imageAddr (depPart []) buck0.src, 128 * buck0.blocks)] by decide] at h
    exact List.mem_singleton.1 h
  rw [this]; exact plain_near (by decide)
def gatherRec : BucketRec := { buck0 with op := 2, size := 384, rank := 2 }
theorem witness_bucket_gather : (depPart [{ asked := 4 }]).image.isSome = true ∧ gatherRec.op = 2 ∧ 0 < gatherRec.p
    ∧ gatherUnits (netDev (depPart [])) (depPart []) gatherRec ≠ [] := by decide +kernel
def sumBlock : DBlock := { elems := List.replicate 32 0, empty := false }
def doneRun (sat : Bool) : BucketRun := { opened := true, results := [(0, { depBlock with ranks := [] }), (1, { sumBlock with sat := sat })] }
theorem witness_bucket_done : ∀ sat ∈ [true, false],
    let p := depPart [doneRun sat]
    bucketRec p 0 = some buck0 ∧ busyRun p 0 = some (0, doneRun sat) ∧ (doneRun sat).results.find buck0.blocks = some { sumBlock with sat := sat }
      ∧ p.spoilt.contains 0 = false ∧ (doneRun sat).written = false ∧ sumBlock.nonfinite = false ∧ (doneRun sat).d64 = false ∧ buck0.op ≠ 2
      ∧ (∀ x ∈ p.earlyDeposits, x.1 ≠ 0) := by decide +kernel
theorem witness_bucket_results : (∀ j, j < buck0.blocks → buck0.wants j = true → ∃ z, (doneRun false).results.find j = some z ∧ z.elems.length = 32 ∧ z.empty = false)
    ∧ (imageAddr (depPart []) buck0.dst + 128 * buck0.blocks ≤ imageAddr (depPart []) buck0.flagsAddr) := by
  refine ⟨fun j hj _ => ⟨{ depBlock with ranks := [] }, ?_, rfl, rfl⟩, by decide⟩
  have : j = 0 := by
    have h : buck0.blocks = 1 := by decide
    omega
  subst this; decide
theorem witness_bucket_spans : PlainSpan (netDev (depPart [])) (imageAddr (depPart []) buck0.dst) (128 * buck0.blocks)
    ∧ PlainSpan (netDev (depPart [])) (imageAddr (depPart []) buck0.flagsAddr) buck0.blocks := ⟨plain_near (by decide), plain_near (by decide)⟩

def recipe0 : Recipe := { first := 0, count := 32, bucket := 0, opt := 2 }
def shardPart : Part :=
  { run0 with
    image := some { buckets := [{ buck0 with src := 0x1000 }], ticksPerStep := 4 }
    regions := [(1, 1), (2, 1), (4, 1), (5, 1)]
    bucketTokens := 2 ^ 26
    binding := some { params := 32, recipes := [recipe0] } }
def rangeDev (p : Part) : State := tileDev p {} { sched := { updates := [(5, 0)] } }
theorem witness_range : rangeOwner (rangeDev shardPart) 0 0 = some (0, 5) ∧ (ownRecipes shardPart)[0]? = some recipe0 ∧ shardPart.join = {}
    ∧ rangePins shardPart recipe0 = [] ∧ recipe0.narrowOut = false ∧ settling (rangeDev shardPart) shardPart = false
    ∧ (∀ j, j < 2 → keeps (escrowSlot shardPart j) = false) ∧ (bucketRec shardPart recipe0.bucket).isSome = true
    ∧ isIncomplete { shardPart with join := { mode := 3 } } = true ∧ isIncomplete shardPart = false
    ∧ (rangeDev shardPart).poison = [] ∧ (rangeDev shardPart).upsets = [] ∧ Memory.wf (rangeDev shardPart).mem = true := by decide +kernel
theorem witness_range_funded : Funded (rangeDev shardPart) 0 (32 * 32 + 1) := ⟨rfl, rfl, by decide, rfl⟩
theorem witness_range_spans : ∀ x ∈ rangeReads shardPart recipe0 ++ rangeWrites shardPart recipe0, PlainSpan (rangeDev shardPart) x.1 x.2 := by
  intro x h
  have e : rangeReads shardPart recipe0 ++ rangeWrites shardPart recipe0
      = [(paramAddr shardPart 0 0, 384), (0x2000, 128), (0x3000, 1), (paramAddr shardPart 1 0, 384)] := by decide +kernel
  rw [e] at h
  simp only [List.mem_cons, List.not_mem_nil, or_false] at h
  rcases h with rfl | rfl | rfl | rfl
  · exact plain_far (by decide) rfl rfl
  · exact plain_near (by decide) (fun t => by by_cases h : t = 0 <;> simp [tileAt, rangeDev, tileDev, Tab.at, Tab.find, h, Ne.symm])
  · exact plain_near (by decide) (fun t => by by_cases h : t = 0 <;> simp [tileAt, rangeDev, tileDev, Tab.at, Tab.find, h, Ne.symm])
  · exact plain_far (by decide) rfl rfl
theorem witness_range_pinned : rangePins { shardPart with ckpt := { shardPart.ckpt with copy := some { ver := 1, granules := 1 } } } recipe0 ≠ [] := by decide +kernel
theorem witness_range_apart :
    let lo := paramAddr shardPart (altVer shardPart) 0
    ∀ n < 32, (paramAddr shardPart 0 n + 12 ≤ lo ∨ lo + 12 * 32 ≤ paramAddr shardPart 0 n)
      ∧ (imageAddr shardPart 0x2000 + 4 * n + 4 ≤ lo ∨ lo + 12 * 32 ≤ imageAddr shardPart 0x2000 + 4 * n)
      ∧ (imageAddr shardPart 0x3000 + n / 32 + 1 ≤ lo ∨ lo + 12 * 32 ≤ imageAddr shardPart 0x3000 + n / 32) := by decide +kernel
def ownerPart (e : EscrowSlot) : Part := { shardPart with binding := some { params := 32, recipes := [recipe0], slots := [{}, {}, e, {}] } }
theorem witness_pass :
    let p := ownerPart { role := 1, params := 33, passDone := 1, arrived := [(132, 264, 5)] }
    let s := withPart dev0 p
    (escrowSlot p 2).role ≠ 0 ∧ 1 < ownerBlocks p 0 ∧ (forwardValues s p 0).1 = p.ctx.step ∧ (escrowSlot p 2).catchUp = false ∧ settling s p = false
      ∧ blockArrived p 0 1 = true ∧ blockArrived p 0 0 = false := by decide +kernel
theorem witness_pass_funded (e : EscrowSlot) : Funded (withPart dev0 (ownerPart e)) 0 (2 ^ 26) := ⟨rfl, rfl, Nat.le_refl _, rfl⟩
theorem witness_catch_up : ∀ w ∈ [0, 1],
    let p := ownerPart { role := 1, params := 32769, catchUp := true, watermark := w }
    (escrowSlot p 2).catchUp = true ∧ w < unitsOf (ownerParams p 0) ∧ (w = 0 → w + 1 < unitsOf (ownerParams p 0)) ∧ (w = 1 → unitsOf (ownerParams p 0) ≤ w + 1) := by
  decide +kernel
theorem witness_catch_up_span (p : Part) (h : fsBase ≤ escrowBase p 0) (n : Nat) : PlainSpan (withPart dev0 p) (escrowBase p 0) n := plain_far h rfl rfl
theorem witness_catch_up_base : fsBase ≤ escrowBase (ownerPart {}) 0 := by decide

/-! ### The spec's own numbers -/

/-- "123456789" (09_check_values.md, "Published parameter sets"). -/
def digits9 : List Byte := [0x31, 0x32, 0x33, 0x34, 0x35, 0x36, 0x37, 0x38, 0x39]
theorem test_crc8 : cvOf ⟨8, 0x07, 0, 0, false, false⟩ digits9 = 0xF4 := by decide +kernel
theorem test_crc16_ibm : cvOf ⟨16, 0x1021, 0xFFFF, 0, false, false⟩ digits9 = 0x29B1 := by decide +kernel
theorem test_crc16_t10 : cvOf ⟨16, 0x8BB7, 0, 0, false, false⟩ digits9 = 0xD0DB := by decide +kernel
theorem test_crc32 : cvOf ⟨32, 0x04C11DB7, 0xFFFFFFFF, 0xFFFFFFFF, true, true⟩ digits9 = 0xCBF43926 := by decide +kernel
theorem test_crc32c : cvOf ⟨32, 0x1EDC6F41, 0xFFFFFFFF, 0xFFFFFFFF, true, true⟩ digits9 = 0xE3069283 := by decide +kernel
theorem test_crc64_ecma : cvOf ⟨64, 0x42F0E1EBA9EA3693, 0, 0, false, false⟩ digits9 = 0x6C40DF5F0B497347 := by decide +kernel
theorem test_crc64_xz : cvOf crc64xz digits9 = 0x995DC9BBDF1939FA := by decide +kernel
/-- Two units carry one stream (09_check_values.md, "Worked example"). -/
theorem test_crc32c_split :
    let p : CvParams := ⟨32, 0x1EDC6F41, 0xFFFFFFFF, 0xFFFFFFFF, true, true⟩
    cvFinal p (cvRun p (cvRun p p.init (digits9.take 4)) (digits9.drop 4)) = 0xE3069283 := by decide +kernel
/-- The places of R87's examples. -/
theorem test_weight_places : weightOffset 127 127 = 0x7FFE ∧ weightOffset 69 10 = 0x40FA ∧ weightOffset 40 100 = 0x3730 ∧ weightOffset 35 125 = 0x3C24 := by decide
/-- R260's example: stack 1, channel 4 is physical channel 36. -/
theorem test_fs_locate : fsLocate { dev0 with fs := { active := List.range 384 } } 0x1000186A000 = (36, 0x10400) := by decide +kernel
/-- R47's example: 7 × 2^133 in an MXFP8 block. -/
theorem test_block_surplus :
    let b := convertBlock (.fin false 7 133 :: List.replicate 31 FVal.zero) 3 rne (List.replicate 32 0)
    b.e = 254 ∧ b.q.headD 0 = 448 ∧ b.d = 3 ∧ b.inexact = false := by decide +kernel
/-- R104's examples at anchor −41. -/
theorem test_entry : roundScaled rne 0 1000003 22 = 4194316582912 ∧ roundScaled rne 0 342641 (-19) = 1 := by decide +kernel
/-- "A split shown bit-identical" (04_accumulation.md). -/
theorem test_split :
    let c := enterCol (-4) 39 0 3 [{ p := 11, e := -6 }, { p := 37, e := -7 }, { p := -5, e := -5 }] {}
    c.val = 6 ∧ c.has tagInexact = true ∧ (drainIeee bf16 rne 0 6 (-4)).1 = 0x3EC0 := by decide +kernel
/-- R151's example: FMA FP32, merge under P3. -/
theorem test_fma_slot : readIns [0x04, 0x22, 0x30, 0x00, 0x28, 0x18, 0x34, 0x40, 0x01, 0, 0, 0, 0, 0, 0, 0]
    = some (0x04, { ins with typ := 0x22, pred := 3, dst := 40, srcA := 12, srcB := 13, srcC := 40 }) := by decide +kernel
/-- R166's example: 2^24, 1, 1, 1 unsplit. -/
theorem test_tree : ((treeOfLeaves (redNode 0xC0 rne false false false) 2
    ([0x4B800000, 0x3F800000, 0x3F800000, 0x3F800000].map (fun v => some { val := v, pos := 0 }))).1.map RNode.val) = some 0x4B800001 := by decide +kernel
/-- "One bucket, one overdraft" (11_training_support.md). -/
theorem test_deposits : (depositElem false 2 rne 0 (-23) (.fin false 3 (-1))).1 = 12582912 ∧ (depositElem false 2 rne 0 (-23) (.fin true 1 (-2))).1 = -2097152
    ∧ (depositElem false 2 rne 0 (-23) (.fin false 1 (-30))).1 = 0 ∧ (depositElem false 2 rne 0 (-23) (.fin false 100 0)) = (536870911, true, false) := by decide +kernel
theorem test_next_anchor : (nextAnchorGo (-23) 5 2 0 [0, 0, 1, 3]).1 = -23 ∧ (nextAnchorGo (-23) 37 2 0 (List.replicate 31 0 ++ [4])).1 = -20 := by decide +kernel
/-- A packet's header comes back from its bytes (R300). -/
theorem test_packet : parsePacket (packetBytes { pkt0 with gen := 255, slot := 0x7FFFF, tick := 0xABCDEF, addr := 0xFFFFFFFFFFF }) =
    { pkt0 with gen := 255, slot := 0x7FFFF, tick := 0xABCDEF, addr := 0xFFFFFFFFFFF } := by decide +kernel

/-! ### Operands out of range -/

theorem ill_host : Instr.wellFormed (.identify 4 0) = false := by decide
theorem ill_seq : Instr.wellFormed (.identify 3 (2 ^ 32)) = false := by decide
theorem ill_qpn : Instr.wellFormed (.roceAckTimeout (2 ^ 24)) = false := by decide
theorem ill_tile : Instr.wellFormed (.fireBody 1024) = false := by decide
theorem ill_part : Instr.wellFormed (.tickRecord 16) = false := by decide
theorem ill_port : Instr.wellFormed (.portSilent 16) = false := by decide
theorem ill_eth : Instr.wellFormed (.ethLinkUp 4) = false := by decide
theorem ill_cvu : Instr.wellFormed (.cvuStatusRead 48) = false := by decide
theorem ill_addr : Instr.wellFormed (.hostRdmaRead { qpn := 0 } (2 ^ 44) 8) = false := by decide
theorem ill_unaligned : Instr.wellFormed (.registerWrite 4 0) = false := by decide
theorem ill_window : Instr.wellFormed (.accumulatorWindowRead 0 0x7FFFF8 9) = false := by decide
theorem ill_test : Instr.wellFormed (.targetedSelfTest 10 0) = false := by decide
theorem ill_temp : Instr.wellFormed (.readTemperature1 128) = false := by decide
theorem ill_domain : Instr.wellFormed (.resetComplete 9 0) = false ∧ Instr.wellFormed (.resetComplete 2 16) = false := by decide
theorem ill_ins : Instr.wellFormed (.fadd 0 { ins with dst := 512 }) = false := by decide
theorem ill_packet : Instr.wellFormed (.write 0 { pkt0 with length := 5 }) = false ∧ Instr.wellFormed (.write 32 pkt0) = false := by decide
theorem ill_symbol : Instr.wellFormed (.upwardTick 0 { symOf 1 0 with epoch := 65536 }) = false := by decide +kernel
theorem ill_slot : Instr.wellFormed (.drnAnchorWrite 0 4096 0) = false ∧ Instr.wellFormed (.layerClose 0 4096) = false := by decide
theorem ill_tally : Instr.wellFormed (.rduTallyWrite 0 64 0 0) = false ∧ Instr.wellFormed (.rduTallyWrite 0 0 2 0) = false := by decide
theorem ill_cell : Instr.wellFormed (.cellFire 0 128 0) = false ∧ Instr.wellFormed (.blockPartial 0 4 0) = false := by decide
theorem ill_bank : Instr.wellFormed (.bankGrant 0 32 .none) = false := by decide
theorem ill_actor : Instr.wellFormed (.firingComplete 0 2048) = false := by decide
theorem ill_tree : Instr.wellFormed (.voteWaitExpiry 16) = false ∧ Instr.wellFormed (.reductionTreeComplete 0 256) = false := by decide
theorem ill_flit : Instr.wellFormed (.flitReceive 0 .clean []) = false ∧ Instr.wellFormed (.retryRequest 0 4096) = false := by decide
theorem ill_lane : Instr.wellFormed (.laneFault 0 4) = false := by decide
theorem ill_source : Instr.wellFormed (.fsRequestIssue (2 ^ 41)) = false ∧ Instr.wellFormed (.fabricRequestIssue (2 ^ 16)) = false := by decide
theorem ill_owner : Instr.wellFormed (.catchUpUnit 0 2) = false := by decide
theorem ill_monitor : Instr.wellFormed (.monitorWindow 5 none) = false := by decide
theorem ill_reply : Instr.wellFormed (.meshReplyArrival { reply0 0 with status := 16 }) = false ∧ Instr.wellFormed (.meshRequestArrival (meshR false)) = false := by decide
theorem ill_boot : Instr.wellFormed (.bootComplete [(32, 0)] [] 0) = false ∧ Instr.wellFormed (.bootComplete [] [{ chan := 384, ok := true, spares := 0 }] 0) = false := by decide
theorem well_formed : Instr.wellFormed (.write 31 pkt0) = true ∧ Instr.wellFormed (.fadd 1023 ins) = true ∧ Instr.wellFormed (.cellFire 0 127 127) = true := by decide

end Sys2Proof.Tests
end

section
/-! SUPPORT. The places of the registers with fields that a read clears (R12, R14), what a clearing read leaves, and the writes of the
control window's own rows. -/

namespace Sys2Proof.Machine

/-! ### Places -/

/-- An offset inside a block lies in that block, at its own place. -/
theorem blockOf_inside {base size n q r : Nat} (hq : q < n) (hr : r < size) :
    blockOf (base + size * q + r) base size n = some (q, r) := by
  have hlt : size * q + r < size * n :=
    calc size * q + r < size * (q + 1) := by rw [Nat.mul_succ]; omega
      _ ≤ size * n := Nat.mul_le_mul_left _ hq
  have hsub : base + size * q + r - base = size * q + r := by omega
  rw [blockOf, if_pos (by omega), hsub, Nat.mul_add_div (by omega), Nat.div_eq_of_lt hr, Nat.mul_add_mod, Nat.mod_eq_of_lt hr, Nat.add_zero]

theorem blockOf_outside {o base size n : Nat} (h : o < base ∨ base + size * n ≤ o) : blockOf o base size n = none :=
  if_neg (by omega)

/-- The offset of a register of an array names that register. -/
theorem oneOf_inside {base step n i : Nat} (hs : 0 < step) (hi : i < n) : oneOf (base + step * i) base step n = some i := by
  have hlt : step * i < step * n := Nat.mul_lt_mul_of_pos_left hi hs
  have hsub : base + step * i - base = step * i := by omega
  rw [oneOf, hsub, if_pos ⟨by omega, by omega, Nat.mul_mod_right _ _⟩, Nat.mul_div_cancel_left _ hs]

theorem oneOf_outside {o base step n : Nat} (h : o < base ∨ base + step * n ≤ o) : oneOf o base step n = none :=
  if_neg (by omega)

/-! ### The fields that a read clears, by register

The offset is none of the registers that stand alone, nor in a block before its own. -/

/-- SCH_SPEC and SCH_SPEC2 clear whole. -/
theorem ctlRc_schSpec {q r : Nat} (hq : q < 16) (hr : r = 0x30 ∨ r = 0x38) : ctlRc (0x20000 + 0x100 * q + r) = 0xFFFFFFFFFFFFFFFF := by
  unfold ctlRc
  split
  iterate 5 omega
  rw [blockOf_inside hq (by omega)]
  rcases hr with rfl | rfl <;> rfl

theorem ctlRc_fsChan {c : Nat} (hc : c < 384) : ctlRc (0x31000 + 8 * c) = 0xFFFFFFFF000000 := by
  unfold ctlRc
  split
  iterate 5 omega
  rw [blockOf_outside (by omega), oneOf_inside (by omega) hc]

theorem ctlRc_lnkErr {p : Nat} (hp : p < 16) : ctlRc (0x40000 + 0x100 * p + 0x10) = 0xFFFFFFFFFFFFFF := by
  unfold ctlRc
  split
  iterate 5 omega
  rw [blockOf_outside (by omega), oneOf_outside (by omega), blockOf_inside hp (by omega)]
  rfl

theorem ctlRc_lnkLane {p l : Nat} (hp : p < 16) (hl : l < 4) : ctlRc (0x40000 + 0x100 * p + (0x18 + 8 * l)) = 0xFFFFFFFF := by
  unfold ctlRc
  split
  iterate 5 omega
  rw [blockOf_outside (by omega), oneOf_outside (by omega), blockOf_inside hp (by omega)]
  simp only [oneOf_inside (by decide : 0 < 8) hl]
  rw [if_neg (by omega)]
  rfl

theorem ctlRc_lnkBucket {q : Nat} (hq : q < 16) : ctlRc (0x42000 + 0x20 * q) = 0xFFFFFFFFFFFF0000 := by
  unfold ctlRc
  split
  iterate 5 omega
  rw [blockOf_outside (by omega), oneOf_outside (by omega), blockOf_outside (by omega), oneOf_inside (by omega) hq]

theorem ctlRc_ethErr {e : Nat} (he : e < 4) : ctlRc (0x50000 + 0x100 * e + 8) = 0xFFFFFFFFFFFFFFFF := by
  unfold ctlRc
  split
  iterate 5 omega
  rw [blockOf_outside (by omega), oneOf_outside (by omega), blockOf_outside (by omega), oneOf_outside (by omega),
    blockOf_inside he (by omega)]
  rfl

theorem ctlRc_cvuStatus {u : Nat} (hu : u < 48) : ctlRc (0x60000 + 0x80 * u + 0x40) = 0xFFFFFFFF := by
  unfold ctlRc
  split
  iterate 5 omega
  rw [blockOf_outside (by omega), oneOf_outside (by omega), blockOf_outside (by omega), oneOf_outside (by omega),
    blockOf_outside (by omega), blockOf_inside hu (by omega)]
  rfl

/-- Of the update engines' registers, UPD_JOIN clears MISMATCHES and UPD_JOURNAL clears DUPLICATES (R449, R450). -/
theorem ctlRc_updReg {q r : Nat} (hq : q < 16) (hr : r < 0x100) : ctlRc (0x70000 + 0x100 * q + r) =
    if r = 0x40 then 0xFFFE000000000000 else if r = 0x60 then 0xFFFF000000000000 else 0 := by
  unfold ctlRc
  split
  iterate 5 omega
  rw [blockOf_outside (by omega), oneOf_outside (by omega), blockOf_outside (by omega), oneOf_outside (by omega),
    blockOf_outside (by omega), blockOf_outside (by omega), blockOf_inside hq hr]

/-- A control-window register's RC fields are those of its offset. -/
theorem rcMask_ctl {o : Nat} (ho : o < 0x100000000) : rcMask (ctl o) = ctlRc o := by
  have h : isCtlAddr (ctl o) = true := decide_eq_true (by unfold ctl; omega)
  rw [rcMask, if_pos h]
  simp [ctl]

/-- A tile register's RC fields are those of its tile-window offset. -/
theorem rcMask_tileReg {t o : Nat} (ht : t < 1024) (ho : o < 0x800000) : rcMask (tileReg t o) = tileRc o := by
  have h : isCtlAddr (tileReg t o) = false := decide_eq_false (by unfold tileReg tileBase; omega)
  have e : offOf (tileReg t o) = o := by unfold offOf tileReg tileBase; omega
  rw [rcMask, h, e]
  rfl

/-! ### Clearing reads -/

/-- A clear takes the masked bits from its own register and leaves the others. -/
theorem regClear_own (s : State) (a m b : Nat) :
    regGet (regClear s a m) b = if a = b then regGet s a - (regGet s a &&& m) else regGet s b := by
  unfold regClear
  split
  next h =>
    rw [h]
    split
    next e => rw [e]; rfl
    · rfl
  · have hlt : regGet s a - (regGet s a &&& m) < 2 ^ 64 := Nat.lt_of_le_of_lt (Nat.sub_le _ _) (BitVec.isLt _)
    rw [regPut_own, without, Nat.mod_eq_of_lt hlt]

/-- A clear changes the stored registers alone. -/
theorem regClear_frame (s : State) (a m : Nat) : regClear s a m = { s with regs := (regClear s a m).regs } := by
  unfold regClear
  split <;> rfl

theorem word_mod (v : Nat) : word (v % 2 ^ 64) = word v := by
  simp [word, ← BitVec.toNat_inj]

/-- What a read of a register with RC fields m leaves: its value goes out, those fields are cleared, nothing else changes (R12). -/
def ReadAndCleared (a m : Nat) (s s' : State) : Prop :=
  s'.out = .register a (word (regView s a)) :: s.out ∧ regGet s' a = regGet s a - (regGet s a &&& m)
    ∧ SameRegistersBut [a] s s' ∧ s' = { s with regs := s'.regs, out := s'.out }

/-- A row's read of a register that the map has clears that register's own RC fields. -/
theorem readRow_cleared (s : State) (a : Nat) : ReadAndCleared a (rcMask a) s (readRow s true a) := by
  have hrow : readRow s true a = emit (regClear s a (rcMask a)) (.register a (word (regView s a))) := by
    simp only [readRow, if_true, regRead, word_mod]
  rw [hrow]
  refine ⟨?_, ?_, fun b hb => ?_, ?_⟩
  · rw [emit_own, regClear_frame]
  · exact (regClear_own s a _ a).trans (if_pos rfl)
  · exact (regClear_own s a _ b).trans (if_neg (by simpa [eq_comm] using hb))
  · rw [regClear_frame]
    rfl

/-- A row that reads the register at an offset of the control window. -/
theorem readCtlRow_completes {c : Instr} {s : State} {there : Bool} {o o' m : Nat} (hc : exec c s = .next (readRow s there (ctl o')))
    (ht : there = true) (ho : o' = o) (hlt : o < 0x100000000) (hm : ctlRc o' = m) : Completes c s (ReadAndCleared (ctl o) m s) := by
  subst ht ho hm
  exact ⟨_, hc, rcMask_ctl hlt ▸ readRow_cleared s _⟩

/-- A row that reads a tile register. -/
theorem readTileRow_completes {c : Instr} {s : State} {t o m : Nat} (hc : exec c s = .next (readRow s (decide (t < 1024)) (tileReg t o)))
    (ht : t < 1024) (ho : o < 0x800000) (hm : tileRc o = m) : Completes c s (ReadAndCleared (tileReg t o) m s) := by
  subst hm
  rw [decide_eq_true ht] at hc
  exact ⟨_, hc, rcMask_tileReg ht ho ▸ readRow_cleared s _⟩

/-! ### Writes -/

theorem field_eq (v lo n : Nat) : field v lo n = v / 2 ^ lo % 2 ^ n := by rw [field, Nat.shiftRight_eq_div_pow]

/-- The upper half of a word. -/
theorem field_word_upper (v : Word) : field v.toNat 32 32 = v.toNat / 2 ^ 32 := by
  rw [field_eq, Nat.mod_eq_of_lt]
  omega

/-- A number with a field replaced: the bits below, the new field, the bits above. -/
theorem withField_eq (r lo n v : Nat) : withField r lo n v = r % 2 ^ lo + 2 ^ lo * (2 ^ n * (r / 2 ^ lo / 2 ^ n) + v % 2 ^ n) := by
  have hlow : 2 ^ lo * (r / 2 ^ lo) + r % 2 ^ lo = r := Nat.div_add_mod _ _
  have hfield : 2 ^ n * (r / 2 ^ lo / 2 ^ n) + field r lo n = r / 2 ^ lo := by rw [field_eq]; exact Nat.div_add_mod _ _
  have hsplit : r = r % 2 ^ lo + 2 ^ lo * (2 ^ n * (r / 2 ^ lo / 2 ^ n)) + field r lo n * 2 ^ lo := by
    rw [Nat.mul_comm (field r lo n), Nat.add_assoc, ← Nat.mul_add, hfield, Nat.add_comm, hlow]
  rw [withField, Nat.sub_eq_of_eq_add hsplit, Nat.mul_add, Nat.add_assoc, Nat.mul_comm (v % 2 ^ n)]

/-- A field just replaced reads as the value put there. -/
theorem field_withField (r lo n v : Nat) : field (withField r lo n v) lo n = v % 2 ^ n := by
  rw [field_eq, withField_eq, Nat.add_mul_div_left _ _ (Nat.two_pow_pos lo), Nat.div_eq_of_lt (Nat.mod_lt _ (Nat.two_pow_pos lo)),
    Nat.zero_add, Nat.mul_add_mod, Nat.mod_mod]

/-- A field inside the low w bits is read from those alone. -/
theorem field_mod (x : Nat) {lo n w : Nat} (h : lo + n ≤ w) : field (x % 2 ^ w) lo n = field x lo n := by
  refine Nat.eq_of_testBit_eq fun i => ?_
  by_cases hi : i < n
  · have hw : lo + i < w := by omega
    simp [field, Nat.testBit_mod_two_pow, Nat.testBit_shiftRight, hi, hw]
  · simp [field, Nat.testBit_mod_two_pow, hi]

/-- A stored register's field just set reads as set. -/
theorem regField_regSet (s : State) (a v : Nat) {lo n : Nat} (h : lo + n ≤ 64) : regField (regSet s a lo n v) a lo n = v % 2 ^ n := by
  rw [regField, regSet, regPut_own, if_pos rfl, field_mod _ h, field_withField]

/-- A field set leaves every other stored register. -/
theorem regSet_sameRegistersBut (s : State) (a lo n v : Nat) : SameRegistersBut [a] s (regSet s a lo n v) := fun b hb =>
  (regPut_own s a b _).trans (if_neg (by simpa [eq_comm] using hb))

/-- A period of 0 or from 1,250 on, where this module may set it, is kept as the pending one (R212, R235). -/
theorem periodWrite_kept {v : Word} {s : State} (hn : v.toNat / 2 ^ 32 = 0 ∨ 1250 ≤ v.toNat / 2 ^ 32)
    (hm : s.tick.locked = false ∨ s.tick.master = true) :
    periodWrite v s = { s with tick := { s.tick with pendingPeriod := v.toNat / 2 ^ 32 } } := by
  have hrange : ¬(1 ≤ v.toNat / 2 ^ 32 ∧ v.toNat / 2 ^ 32 < 1250) := by omega
  have hlock : (s.tick.locked && !s.tick.master) = false := by rcases hm with h | h <;> simp [h]
  simp only [periodWrite, field_word_upper, hlock, hrange, decide_false, Bool.or_self]
  rfl

theorem periodWrite_rejected {v : Word} {s : State}
    (h : (1 ≤ v.toNat / 2 ^ 32 ∧ v.toNat / 2 ^ 32 < 1250) ∨ (s.tick.locked = true ∧ s.tick.master = false)) :
    periodWrite v s = regFlag s (ctl 0x218) 2 := by
  rw [periodWrite, field_word_upper, if_pos]
  rcases h with h | ⟨hl, hm⟩
  · rw [decide_eq_true h, Bool.true_or]
  · simp [hl, hm]

theorem devIdWrite_taken {v : Word} {s : State} (h : ∀ x ∈ s.parts, x.2.state = .empty) :
    devIdWrite v s = { s with devId := v.toNat % 2 ^ 16, devIdValid := v.getLsbD 16 } := by
  rw [devIdWrite, if_pos (by simpa using h)]
  rfl

theorem devIdWrite_ignored {v : Word} {s : State} (h : ∃ x ∈ s.parts, x.2.state ≠ .empty) : devIdWrite v s = s :=
  if_neg (by simpa using h)

theorem tickRefWrite_stored {v : Word} {s : State} (h : v.getLsbD 2 = false) :
    tickRefWrite v s = { s with tick := { s.tick with
      refEnable := v.getLsbD 0
      refInUse := s.tick.refInUse && v.getLsbD 0
      edgeTicks := max 1 (v.toNat / 2 ^ 4 % 2 ^ 20) } } := by
  have hmax : ∀ n : Nat, (if n = 0 then 1 else n) = max 1 n := fun n => by split <;> omega
  have h2 : v.toNat.testBit 2 = false := h
  simp only [tickRefWrite, field_eq, hmax, h2]
  rfl

end Sys2Proof.Machine

namespace Sys2Proof

open Sys2Proof.Machine

/-- Settles O19: every row of the reads is a clearing read of its own register and mask;
every write falls into one of its register's cases. -/
theorem registerReadsAndControlWrites : Obligations.RegisterReadsAndControlWrites := by
  refine ⟨fun s t q p l e u c ht hq hp hl he hu hc => ?_, fun s v => ⟨?_, ?_, rfl, ?_, ?_, rfl, ?_⟩⟩
  · simp only [List.forall_mem_cons]
    refine ⟨?_, ?_, ?_, ?_, ?_, ?_, ?_, ?_, ?_, ?_, ?_, ?_, ?_, ?_, ?_, ?_, ?_, ?_, ?_, List.forall_mem_nil _⟩
    · exact readTileRow_completes rfl ht (by decide) rfl
    · exact readTileRow_completes rfl ht (by decide) rfl
    · exact readTileRow_completes rfl ht (by decide) rfl
    · exact readTileRow_completes rfl ht (by decide) rfl
    · exact readCtlRow_completes rfl rfl rfl (by decide) rfl
    · exact readCtlRow_completes rfl rfl rfl (by decide) rfl
    · exact readCtlRow_completes rfl (decide_eq_true hc) rfl (by omega) (ctlRc_fsChan hc)
    · exact readCtlRow_completes rfl (decide_eq_true hq) (by omega) (by omega) (ctlRc_schSpec hq (.inl rfl))
    · exact readCtlRow_completes rfl (decide_eq_true hq) (by omega) (by omega) (ctlRc_schSpec hq (.inr rfl))
    · exact readCtlRow_completes rfl (decide_eq_true hp) (by omega) (by omega) (ctlRc_lnkErr hp)
    · exact readCtlRow_completes rfl (decide_eq_true ⟨hp, hl⟩) (by omega) (by omega) (ctlRc_lnkLane hp hl)
    · exact readCtlRow_completes rfl rfl rfl (by decide) rfl
    · exact readCtlRow_completes rfl rfl rfl (by decide) rfl
    · exact readCtlRow_completes rfl (decide_eq_true he) (by omega) (by omega) (ctlRc_ethErr he)
    · exact readCtlRow_completes rfl (decide_eq_true hu) (by omega) (by omega) (ctlRc_cvuStatus hu)
    · exact readCtlRow_completes rfl (decide_eq_true hq) rfl (by omega) (ctlRc_lnkBucket hq)
    · exact readCtlRow_completes rfl (decide_eq_true hq) (by omega) (by omega) (ctlRc_updReg hq (by decide))
    · exact readCtlRow_completes rfl (decide_eq_true hq) (by omega) (by omega) (ctlRc_updReg hq (by decide))
    · exact readCtlRow_completes rfl rfl rfl (by decide) rfl
  · exact fun hn hm => congrArg Host.Outcome.next (periodWrite_kept hn hm)
  · exact fun h => ⟨_, congrArg Host.Outcome.next (periodWrite_rejected h),
      regField_regSet s _ 1 (by decide), regSet_sameRegistersBut s _ _ _ _, rfl⟩
  · exact fun h => congrArg Host.Outcome.next (devIdWrite_taken h)
  · exact fun h => congrArg Host.Outcome.next (devIdWrite_ignored h)
  · exact fun h => congrArg Host.Outcome.next (tickRefWrite_stored h)

end Sys2Proof
end

section
/-! SUPPORT. What an access of a store leaves: a count raised, a span written or read, a reply put on its way (R246, R248, R263, R264). -/

namespace Sys2Proof.Machine

variable {s : State}

/-! ### Counts -/

/-- A count raised reads as raised, holding at its maximum. -/
theorem regField_regBump (s : State) (a k : Nat) {lo n : Nat} (h : lo + n ≤ 64) :
    regField (regBump s a lo n k) a lo n = min (regField s a lo n + k) (2 ^ n - 1) := by
  have hlt : min (regField s a lo n + k) (2 ^ n - 1) < 2 ^ n := by
    have := Nat.two_pow_pos n
    omega
  rw [regBump, regField_regSet s a _ h, Nat.mod_eq_of_lt hlt]

/-- A count raised leaves every other stored register. -/
theorem regBump_sameRegistersBut (s : State) (a lo n k : Nat) : SameRegistersBut [a] s (regBump s a lo n k) :=
  regSet_sameRegistersBut s a lo n _

/-- A discarded request, token or reply of another abort epoch is counted, and nothing else changes (R226). -/
theorem dropStale_counts (s : State) :
    regField (dropStale s) (ctl 0x600) 32 16 = min (regField s (ctl 0x600) 32 16 + 1) (2 ^ 16 - 1)
      ∧ SameRegistersBut [ctl 0x600] s (dropStale s) ∧ dropStale s = { s with regs := (dropStale s).regs } :=
  ⟨regField_regBump s _ 1 (by decide), regBump_sameRegistersBut s _ _ _ _, rfl⟩

/-! ### Spans of memory -/

/-- Two strings written one after the other. -/
theorem writeBytes_append (m : List Host.Cell) (a : Nat) (x y : List Byte) :
    writeBytes m a (x ++ y) = writeBytes (writeBytes m a x) (a + x.length) y := by
  induction x generalizing m a with
  | nil => rfl
  | cons b x ih => rw [List.cons_append, writeBytes, ih, writeBytes, List.length_cons, Nat.add_assoc, Nat.add_comm 1]

/-- A state whose memory is the string written over that of another reads the string back and keeps the bytes outside it. -/
theorem written_span {u : State} {a : Nat} {bs : List Byte} (hwf : Memory.wf s.mem = true) (hu : u.mem = writeBytes s.mem a bs) :
    readBytes u.mem a bs.length = bs ∧ SameMemoryOutside a bs.length s u := by
  refine ⟨hu ▸ readBytes_writeBytes hwf a bs, fun c hc => ?_⟩
  rw [hu, readCells_writeBytes hwf, if_neg (by omega)]

/-- A line of a span begins below the span's end. -/
theorem line_below {a n l : Nat} (h : l ∈ linesOf a n) : 64 * l < a + n := by
  unfold linesOf at h
  split at h
  · cases h
  · obtain ⟨i, hi, rfl⟩ := List.mem_map.1 h
    have := List.mem_range.1 hi
    omega

/-- With no line poisoned and no fenced channel behind one, a span is clean. -/
theorem spanPoisoned_clean {a n : Nat} (hp : s.poison = []) (h : ∀ l ∈ linesOf a n, isFsAddr s (64 * l) = false ∨ isFenced s (64 * l) = false) :
    spanPoisoned s a n = false := by
  refine List.any_eq_false.2 fun l hl => ?_
  rcases h l hl with h | h <;> simp [linePoisoned, hp, h]

/-- No near-store line lies behind a far-store channel. -/
theorem spanPoisoned_near {a n : Nat} (hp : s.poison = []) (h : a + n ≤ 0x200000000) : spanPoisoned s a n = false := by
  refine spanPoisoned_clean hp fun l hl => .inl (decide_eq_false ?_)
  have := line_below hl
  unfold fsBase
  omega

/-! ### Spans of the far store -/

/-- No guard is open and no channel fenced. -/
def FarStoreOpen (s : State) : Prop := s.fs.guards = [] ∧ ∀ c, (chanAt s c).state ≠ 3

theorem FarStoreOpen.isFenced_false (h : FarStoreOpen s) (a : Nat) : isFenced s a = false := decide_eq_false (h.2 _)

/-- A plain span outside the tile windows lies in an open far store. -/
theorem farStoreOpen_of_plainSpan {a n : Nat} (h : PlainSpan s a n) (ha : fsBase ≤ a) : FarStoreOpen s := by
  rcases h with ⟨hlt, -, -⟩ | ⟨-, hg, hc⟩
  · unfold fsBase at ha
    omega
  · exact ⟨hg, hc⟩

/-- A unit used in the far cache changes the cache alone. -/
theorem fcUse_frame (s : State) (l : Nat) (write noalloc : Bool) :
    ∃ c, fcUse s l write noalloc = { s with fs := { s.fs with cache := c } } := by
  simp only [fcUse, modFs]
  split
  · exact ⟨s.fs.cache, rfl⟩
  · exact ⟨_, rfl⟩

theorem fcUseSpan_frame (s : State) (a n : Nat) (write noalloc : Bool) :
    ∃ c, fcUseSpan s a n write noalloc = { s with fs := { s.fs with cache := c } } := by
  unfold fcUseSpan
  split
  · exact ⟨s.fs.cache, rfl⟩
  · generalize countFrom _ _ = ls
    induction ls generalizing s with
    | nil => exact ⟨s.fs.cache, rfl⟩
    | cons l ls ih =>
      obtain ⟨c, hc⟩ := fcUse_frame s l write noalloc
      obtain ⟨c', hc'⟩ := ih (fcUse s l write noalloc)
      exact ⟨c', by rw [List.foldl_cons, hc', hc]⟩

/-- A write within one unit of an open far store lands. -/
theorem farWriteUnit_lands (h : FarStoreOpen s) (a : Nat) (bs : List Byte) :
    ∃ p us c, farWriteUnit s a bs = { s with mem := writeBytes s.mem a bs, poison := p, upsets := us, fs := { s.fs with cache := c } } := by
  have hg : unitGuarded s ((a - fsBase) / 256) = false := by rw [unitGuarded, h.1, List.any_nil]
  obtain ⟨c, hc⟩ := fcUse_frame (curePoison { s with mem := writeBytes s.mem a bs } a bs.length) ((a - fsBase) / 256) true false
  exact ⟨_, _, c, by rw [farWriteUnit, h.isFenced_false, hg]; exact hc⟩

/-- A write to an open far store lands, unit by unit. -/
theorem farWriteF_lands {fuel : Nat} (h : FarStoreOpen s) (a : Nat) (bs : List Byte) (hf : bs.length ≤ fuel) :
    ∃ p us c, farWriteF fuel s a bs = { s with mem := writeBytes s.mem a bs, poison := p, upsets := us, fs := { s.fs with cache := c } } := by
  induction fuel generalizing s a bs with
  | zero =>
    obtain rfl := List.length_eq_zero_iff.1 (Nat.le_zero.1 hf)
    exact ⟨s.poison, s.upsets, s.fs.cache, rfl⟩
  | succ fuel ih =>
    by_cases he : bs = []
    · subst he
      exact ⟨s.poison, s.upsets, s.fs.cache, rfl⟩
    · have hpos := List.length_pos_iff.2 he
      obtain ⟨p, us, c, h1⟩ := farWriteUnit_lands h a (bs.take (256 - a % 256))
      have hopen : FarStoreOpen (farWriteUnit s a (bs.take (256 - a % 256))) := by rw [h1]; exact h
      obtain ⟨p', us', c', h2⟩ := ih hopen (a + (256 - a % 256)) (bs.drop (256 - a % 256)) (by rw [List.length_drop]; omega)
      have hmem : writeBytes (writeBytes s.mem a (bs.take (256 - a % 256))) (a + (256 - a % 256)) (bs.drop (256 - a % 256))
          = writeBytes s.mem a bs := by
        by_cases hk : 256 - a % 256 ≤ bs.length
        · conv_rhs => rw [← List.take_append_drop (256 - a % 256) bs, writeBytes_append, List.length_take_of_le hk]
        · rw [List.drop_eq_nil_of_le (by omega), List.take_of_length_le (by omega), writeBytes]
      refine ⟨p', us', c', ?_⟩
      rw [farWriteF, if_neg (by simpa using he), h2, h1, hmem]

/-- With nothing poisoned a read of an open far store marks nothing. -/
theorem fsReadMark_clean (h : FarStoreOpen s) (hp : s.poison = []) (a n : Nat) : fsReadMark s a n = s :=
  List.foldl_fixed' (fun l => by simp [h.isFenced_false, hp]) _

/-- A read of an open far store with nothing poisoned: its bytes, clean, and only the far cache used. -/
theorem spanFetch_far (h : FarStoreOpen s) (hp : s.poison = []) {a : Nat} (ha : isTileAddr a = false) (n : Nat) (noalloc : Bool) :
    ∃ c, spanFetch s a n noalloc = (readBytes s.mem a n, false, { s with fs := { s.fs with cache := c } }) := by
  obtain ⟨c, hc⟩ := fcUseSpan_frame s a n false noalloc
  have hopen : FarStoreOpen { s with fs := { s.fs with cache := c } } := h
  have hmark := fsReadMark_clean hopen hp a n
  have hclean : spanPoisoned { s with fs := { s.fs with cache := c } } a n = false :=
    spanPoisoned_clean hp fun l _ => .inr (hopen.isFenced_false _)
  refine ⟨c, ?_⟩
  simp only [spanFetch, spanRead, ha, Bool.false_eq_true, if_false, hc, hmark, hclean]

/-! ### Replies -/

/-- A unit's reply is on its way. -/
theorem answers_meshAnswer {s1 : State} (h : s1.replies = s.replies) (src : Nat) (r : MeshReq) (st : Nat) (p : Bool) (d : List Byte) :
    Answers s (meshAnswer s1 src r st p d) src r st p d :=
  ⟨_, congrArg (· ++ _) h, rfl, rfl, rfl, rfl, rfl, rfl, rfl, rfl⟩

end Sys2Proof.Machine
end

section
/-! SUPPORT. BANK_GRANT: what the grant, the queue it leaves and the row served leave of the state (R21, R246, R248). -/

namespace Sys2Proof.Machine

/-! ### The queues -/

/-- Ports admitted change the queues alone. -/
theorem admitPorts_frame (x : Tile) : admitPorts x = { x with banks := (admitPorts x).banks } := by
  unfold admitPorts
  generalize x.banks.at 32 [] = l
  suffices h : ∀ y : Tile, l.foldl joinBank y = { y with banks := (l.foldl joinBank y).banks } by rw [h]
  induction l with
  | nil => exact fun y => rfl
  | cons r l ih => exact fun y => by rw [List.foldl_cons, ih]; rfl

/-- With no port at its limit no queue of a bank changes. -/
theorem admitPorts_none_waiting {x : Tile} (h : x.banks.at 32 [] = []) : admitPorts x = { x with banks := x.banks.put 32 [] } := by
  rw [admitPorts, h, List.foldl_nil]

/-! ### The grant -/

/-- A bank's grant in this cycle noted (R21). -/
def noteGrant (s : State) (t bank : Nat) : State := modTile s t (fun x => { x with granted := x.granted.put bank s.cycle })

/-- A request that leaves its bank's queue; its port has room again. -/
def leaveBank (s : State) (t bank : Nat) (b : BankReq) : State :=
  modTile s t (fun x => admitPorts { x with banks := x.banks.put bank ((x.banks.at bank []).erase b) })

/-- A bank with nothing waiting, or one that has served in this cycle, grants nothing. -/
theorem bankGrant_idle {s : State} {t bank : Nat} (h : (tileAt s t).banks.at bank [] = [] ∨ bankFree s t bank = false) (e : EccEvent) :
    bankGrant t bank e s = s := by
  unfold bankGrant
  rcases h with h | h
  · rw [h]; rfl
  · split
    · rfl
    · rw [h, Bool.not_false, Bool.or_true, if_pos rfl]

/-- A bank's grant goes to its oldest request. -/
theorem bankGrant_oldest {s : State} {t bank : Nat} {b : BankReq} (hb : oldestReq ((tileAt s t).banks.at bank []) = some b)
    (hfree : bankFree s t bank = true) (hlt : bank < 32) :
    bankGrant t bank .none s = serveBank (noteGrant s t bank) t bank b
      ∧ bankGrant t bank .corrected s = serveBank (nsUpset (noteGrant s t bank) (b.addr / 8) false) t bank b := by
  have hgo : (decide (32 ≤ bank) || !bankFree s t bank) = false := by
    rw [hfree, decide_eq_false (Nat.not_le.2 hlt)]; rfl
  constructor <;> simp only [bankGrant, hb, hgo, Bool.false_eq_true, if_false, noteGrant]

/-- A granted bank shows its grant; the other tiles and the partitions are as they were. -/
def GrantNoted (s u : State) (t bank : Nat) : Prop :=
  (tileAt u t).granted.find bank = some s.cycle ∧ (∀ x, x ≠ t → tileAt u x = tileAt s x) ∧ u.parts = s.parts

theorem tileAt_noteGrant (s : State) (t bank x : Nat) : tileAt (noteGrant s t bank) x =
    if t = x then { tileAt s t with granted := (tileAt s t).granted.put bank s.cycle } else tileAt s x := modTile_own _ _ _ _

/-- A tile's queues changed after the grant, in a state that has the grant's tiles, leave the grant noted. -/
theorem grantNoted_of_queues {s u : State} {t bank : Nat} (own : ∃ bs, tileAt u t = { tileAt (noteGrant s t bank) t with banks := bs })
    (others : ∀ x, x ≠ t → tileAt u x = tileAt s x) (hp : u.parts = s.parts) : GrantNoted s u t bank := by
  obtain ⟨bs, hbs⟩ := own
  refine ⟨?_, others, hp⟩
  rw [hbs, tileAt_noteGrant, if_pos rfl]
  exact Tab.find_put_same _ _ _

/-! ### The reply with a request's last part -/

/-- Whether a part of a waiting part's request still waits at the tile. -/
def partsLeft (x : Tile) (b : BankReq) : Bool := x.banks.any (fun k => k.2.any (fun y => sameReq y b))

/-- The reply to a granted part's request, with its last part. -/
def answerLast (s : State) (t : Nat) (b : BankReq) (poisoned : Bool) (data : List Byte) : State :=
  if partsLeft (tileAt s t) b then s else meshAnswer s t b.req stOk poisoned data

theorem answerLast_rest (s : State) (t : Nat) (b : BankReq) (p : Bool) (d : List Byte) :
    (answerLast s t b p d).mem = s.mem ∧ (answerLast s t b p d).parts = s.parts ∧ (answerLast s t b p d).regs = s.regs
      ∧ ∀ x, tileAt (answerLast s t b p d) x = tileAt s x := by
  unfold answerLast
  split <;> exact ⟨rfl, rfl, rfl, fun _ => rfl⟩

/-- While parts of the request wait no reply goes; with the last one it does. -/
theorem answerLast_answers {s s1 : State} (h : s1.replies = s.replies) (t : Nat) (b : BankReq) (p : Bool) (d : List Byte) :
    if partsLeft (tileAt (answerLast s1 t b p d) t) b then (answerLast s1 t b p d).replies = s.replies
    else Answers s (answerLast s1 t b p d) t b.req stOk p d := by
  rw [(answerLast_rest s1 t b p d).2.2.2]
  split
  next hl => rw [answerLast, if_pos hl, h]
  next hl =>
    rw [answerLast, if_neg hl]
    exact answers_meshAnswer h _ _ _ _ _

/-! ### The row served -/

/-- What a granted read has gathered of its request: its part's bytes at their place. -/
def gatheredData (m : List Host.Cell) (b : BankReq) : List Byte :=
  b.req.data.take (b.addr - b.req.addr) ++ readBytes m b.addr b.len ++ b.req.data.drop (b.addr - b.req.addr + b.len)

/-- The parts of a read that still wait, with what has been gathered. -/
def passGathered (x : Tile) (b : BankReq) (data : List Byte) : Tile :=
  { x with banks := x.banks.map (fun k => (k.1, k.2.map (fun y =>
      if sameReq y b then { y with req := { y.req with data := data }, poisoned := b.poisoned } else y))) }

theorem serveRow_write {b : BankReq} (h : b.req.isWrite = true) (s : State) (t : Nat) :
    serveRow s t b = answerLast (nsStore s b.addr (slice b.req.data (b.addr - b.req.addr) b.len)) t b false [] := by
  rw [serveRow, if_pos h]
  rfl

/-- With no stored error and nothing poisoned a near-store read gathers its bytes. -/
theorem serveRow_read {s : State} {b : BankReq} (h : b.req.isWrite = false) (hlow : b.addr + b.len ≤ 0x200000000) (hu : s.upsets = [])
    (hp : s.poison = []) (t : Nat) :
    serveRow s t b = answerLast (modTile s t (fun x => passGathered x b (gatheredData s.mem b))) t b b.poisoned (gatheredData s.mem b) := by
  have herr : nsErrors s b.addr b.len = s := by rw [nsErrors, hu, List.foldl_nil]
  rw [serveRow, if_neg (by rw [h]; exact Bool.false_ne_true)]
  simp only [nsFetch, herr, spanPoisoned_near hp hlow, Bool.or_false]
  rfl

/-! ### The grant served -/

/-- The state at a grant: the bank's grant noted, and at most a register and the monitors' counts changed by an error the row showed. -/
def AtGrant (s s1 : State) (t bank : Nat) : Prop := ∃ r m, s1 = { noteGrant s t bank with regs := r, mgt := m }

theorem atGrant_noteGrant (s : State) (t bank : Nat) : AtGrant s (noteGrant s t bank) t bank := ⟨s.regs, s.mgt, rfl⟩

/-- What the granted part leaves as it leaves its queue. -/
theorem leaveBank_rest {s s1 : State} {t bank : Nat} (h : AtGrant s s1 t bank) (b : BankReq) :
    (leaveBank s1 t bank b).mem = s.mem ∧ (leaveBank s1 t bank b).poison = s.poison ∧ (leaveBank s1 t bank b).upsets = s.upsets
      ∧ (leaveBank s1 t bank b).replies = s.replies ∧ (leaveBank s1 t bank b).parts = s.parts ∧ (leaveBank s1 t bank b).regs = s1.regs := by
  obtain ⟨r, m, rfl⟩ := h
  exact ⟨rfl, rfl, rfl, rfl, rfl, rfl⟩

/-- The tiles as the granted part leaves its queue. -/
theorem tileAt_leaveBank {s s1 : State} {t bank : Nat} (h : AtGrant s s1 t bank) (b : BankReq) (x : Nat) :
    tileAt (leaveBank s1 t bank b) x =
      if t = x then admitPorts { tileAt (noteGrant s t bank) t with
        banks := (tileAt s t).banks.put bank (((tileAt s t).banks.at bank []).erase b) }
      else tileAt s x := by
  obtain ⟨r, m, rfl⟩ := h
  have hnote : ∀ y, tileAt { noteGrant s t bank with regs := r, mgt := m } y = tileAt (noteGrant s t bank) y := fun _ => rfl
  rw [leaveBank, modTile_own]
  split
  · rw [hnote, tileAt_noteGrant, if_pos rfl]
  next hx => rw [hnote, tileAt_noteGrant, if_neg hx]

/-- A granted write lands, and its request's last part is answered. -/
theorem serveBank_write {s : State} {t bank : Nat} {b : BankReq} (hw : b.req.isWrite = true) (hwf : Memory.wf s.mem = true) (hlt : bank < 32) :
    let u := serveBank (noteGrant s t bank) t bank b
    readBytes u.mem b.addr b.len = slice b.req.data (b.addr - b.req.addr) b.len ∧ SameMemoryOutside b.addr b.len s u
      ∧ (if partsLeft (tileAt u t) b then u.replies = s.replies else Answers s u t b.req stOk false [])
      ∧ ((tileAt s t).banks.at 32 [] = [] → (tileAt u t).banks.at bank [] = ((tileAt s t).banks.at bank []).erase b)
      ∧ GrantNoted s u t bank ∧ u.regs = s.regs := by
  intro u
  have hat := atGrant_noteGrant s t bank
  have hu : u = answerLast (nsStore (leaveBank (noteGrant s t bank) t bank b) b.addr (slice b.req.data (b.addr - b.req.addr) b.len)) t b false [] :=
    serveRow_write hw _ t
  obtain ⟨hmem, hparts, hregs, htile⟩ := answerLast_rest
    (nsStore (leaveBank (noteGrant s t bank) t bank b) b.addr (slice b.req.data (b.addr - b.req.addr) b.len)) t b false []
  rw [← hu] at hmem hparts hregs htile
  have htile : ∀ x, tileAt u x = tileAt (leaveBank (noteGrant s t bank) t bank b) x := htile
  have hspan := written_span hwf (u := u) (a := b.addr) (bs := slice b.req.data (b.addr - b.req.addr) b.len) hmem
  rw [slice_length] at hspan
  refine ⟨hspan.1, hspan.2, ?_, fun hnone => ?_, grantNoted_of_queues ?_ (fun x hx => ?_) hparts, hregs⟩
  · rw [hu]
    exact answerLast_answers rfl t b false []
  · have h32 : ((tileAt s t).banks.put bank (((tileAt s t).banks.at bank []).erase b)).at 32 [] = [] := by
      rw [Tab.at_put_ne _ (Nat.ne_of_lt hlt), hnone]
    rw [htile, tileAt_leaveBank hat, if_pos rfl, admitPorts_none_waiting h32]
    exact (Tab.at_put_ne _ (Nat.ne_of_gt hlt) _ _).trans (Tab.at_put_same _ _ _ _)
  · rw [htile, tileAt_leaveBank hat, if_pos rfl, admitPorts_frame]
    exact ⟨_, rfl⟩
  · rw [htile, tileAt_leaveBank hat, if_neg (Ne.symm hx)]

/-- A granted read gathers its bytes, and its request's last part is answered with them. -/
theorem serveBank_read {s s1 : State} {t bank : Nat} {b : BankReq} (hat : AtGrant s s1 t bank) (hr : b.req.isWrite = false)
    (hlow : b.addr + b.len ≤ 0x200000000) (hup : s.upsets = []) (hp : s.poison = []) :
    let u := serveBank s1 t bank b
    (if partsLeft (tileAt u t) b then u.replies = s.replies else Answers s u t b.req stOk b.poisoned (gatheredData s.mem b))
      ∧ u.mem = s.mem ∧ GrantNoted s u t bank ∧ u.regs = s1.regs := by
  intro u
  obtain ⟨lmem, lpoison, lupsets, lreplies, lparts, lregs⟩ := leaveBank_rest hat b
  have hu : u = answerLast (modTile (leaveBank s1 t bank b) t (fun x => passGathered x b (gatheredData s.mem b))) t b b.poisoned
      (gatheredData s.mem b) := by
    rw [← lmem]
    exact serveRow_read hr hlow (lupsets.trans hup) (lpoison.trans hp) t
  obtain ⟨hmem, hparts, hregs, htile⟩ := answerLast_rest
    (modTile (leaveBank s1 t bank b) t (fun x => passGathered x b (gatheredData s.mem b))) t b b.poisoned (gatheredData s.mem b)
  rw [← hu] at hmem hparts hregs htile
  refine ⟨?_, hmem.trans lmem, grantNoted_of_queues ?_ (fun x hx => ?_) (hparts.trans lparts), hregs.trans lregs⟩
  · rw [hu]
    have hreplies : (modTile (leaveBank s1 t bank b) t (fun x => passGathered x b (gatheredData s.mem b))).replies = s.replies := lreplies
    exact answerLast_answers hreplies t b b.poisoned _
  · rw [htile, modTile_own, if_pos rfl, tileAt_leaveBank hat, if_pos rfl, admitPorts_frame]
    exact ⟨_, rfl⟩
  · rw [htile, modTile_own, if_neg (Ne.symm hx), tileAt_leaveBank hat, if_neg (Ne.symm hx)]

/-- A corrected error is counted for the near store of its word's tile (R248). -/
theorem nsUpset_corrected (s : State) (a : Nat) :
    let u := nsUpset s (a / 8) false
    regField u (tileReg (tileOf a) 0x780300) 0 16 = min (regField s (tileReg (tileOf a) 0x780300) 0 16 + 1) (2 ^ 16 - 1)
      ∧ SameRegistersBut [tileReg (tileOf a) 0x780300] s u ∧ u = { s with regs := u.regs, mgt := u.mgt } := by
  have ht : tileOf (8 * (a / 8)) = tileOf a := by unfold tileOf; omega
  have hu : nsUpset s (a / 8) false
      = modMon (regBump s (tileReg (tileOf a) 0x780300) 0 16 1) (fun m => { m with nsCe := m.nsCe + 1 }) := by
    rw [← ht]
    rfl
  rw [hu]
  exact ⟨regField_regBump s _ 1 (by decide), regBump_sameRegistersBut s _ _ _ _, rfl⟩

/-! ### The regulator and the request slots (R271 to R273) -/

theorem enterOne_none_waiting {s : State} {q : Nat} (h : (partAt s q).regWait = []) : enterOne s q = none := by
  simp only [enterOne, h]

/-- The bytes of a waiting request's next unit. -/
def nextUnitBytes (w : RegWait) : Nat := min w.bytes (256 - w.addr % 256)

/-- A partition once the next unit of its oldest waiting request has entered. -/
def unitEntered (p : Part) (w : RegWait) (rest : List RegWait) : Part :=
  { p with
    bucketTokens := p.bucketTokens - nextUnitBytes w
    regWait := if w.bytes - nextUnitBytes w = 0 then rest else { w with bytes := w.bytes - nextUnitBytes w, addr := w.addr + nextUnitBytes w } :: rest }

/-- The far store once that unit has entered: a descriptor's waits for its slot. -/
def unitWaiting (f : FarStore) (w : RegWait) : FarStore :=
  { f with waiting := f.waiting ++ (if dmaSource w.source then [{ source := w.source, addr := w.addr, bytes := nextUnitBytes w }] else []) }

theorem enterOne_unfunded {s : State} {q : Nat} {w : RegWait} {rest : List RegWait} (h : (partAt s q).regWait = w :: rest)
    (hb : (partAt s q).bucketTokens < nextUnitBytes w) : enterOne s q = none := by
  simp only [enterOne, h]
  exact if_pos hb

/-- A state once that unit has entered. -/
def entered (s : State) (q : Nat) (w : RegWait) (rest : List RegWait) : State :=
  modFs (modPart s q (fun p => unitEntered p w rest)) (fun f => unitWaiting f w)

theorem partAt_entered (s : State) (q : Nat) (w : RegWait) (rest : List RegWait) (r : Nat) :
    partAt (entered s q w rest) r = if q = r then unitEntered (partAt s q) w rest else partAt s r := by
  rw [entered, (modFs_reads _ _ 0 0 0 0 0 r 0 0).2.1, modPart_own]

/-- The oldest request is done with its last unit. -/
theorem unitEntered_regWait (p : Part) (w : RegWait) (rest : List RegWait) : (unitEntered p w rest).regWait =
    if w.bytes = nextUnitBytes w then rest else { w with bytes := w.bytes - nextUnitBytes w, addr := w.addr + nextUnitBytes w } :: rest := by
  have hle : nextUnitBytes w ≤ w.bytes := Nat.min_le_left _ _
  have hlast : w.bytes - nextUnitBytes w = 0 ↔ w.bytes = nextUnitBytes w := by omega
  exact if_congr hlast rfl rfl

/-- An engine's unit waits for no slot of its own. -/
theorem unitWaiting_engine {w : RegWait} (h : dmaSource w.source = false) (s : State) : modFs s (fun f => unitWaiting f w) = s := by
  simp [modFs, unitWaiting, h]

theorem enterOne_funded {s : State} {q : Nat} {w : RegWait} {rest : List RegWait} (h : (partAt s q).regWait = w :: rest)
    (hb : nextUnitBytes w ≤ (partAt s q).bucketTokens) :
    enterOne s q = some (entered s q w rest) := by
  have henter : enterOne s q = some (if dmaSource w.source then
      modFs (modPart s q (fun p => unitEntered p w rest)) (fun f => { f with
        waiting := f.waiting ++ [{ source := w.source, addr := w.addr, bytes := nextUnitBytes w }] })
      else modPart s q (fun p => unitEntered p w rest)) := by
    simp only [enterOne, h]
    exact if_neg (Nat.not_lt.2 hb)
  rw [henter]
  cases hd : dmaSource w.source with
  | true => simp only [entered, unitWaiting, hd, if_true]
  | false => rw [entered, unitWaiting_engine hd]; rfl

/-- No request of another module waits to be served. -/
theorem serveReady_none {s : State} {q : Nat} (h : ∀ o ∈ (partAt s q).regOps, o.served = none) (n : Nat) : serveReady n s q = s := by
  cases n with
  | zero => rfl
  | succ n =>
    have hfind : (partAt s q).regOps.find? (servedReady s q) = none :=
      List.find?_eq_none.2 fun o ho => by simp [servedReady, h o ho]
    rw [serveReady, hfind]

/-- No checkpoint is under way, so none of its objects is issued. -/
theorem issueObjects_none {s : State} {q : Nat} (h : (partAt s q).ckpt.copy = none) (n : Nat) : issueObjects n s q = s := by
  cases n with
  | zero => rfl
  | succ n => rw [issueObjects, h]

/-- Where no other module's request waits to be served and no checkpoint runs, the unit that enters is all that happens. -/
theorem regulatorAdmit_funded {s : State} {q : Nat} {w : RegWait} {rest : List RegWait} (h : (partAt s q).regWait = w :: rest)
    (hb : nextUnitBytes w ≤ (partAt s q).bucketTokens) (hops : ∀ o ∈ (partAt s q).regOps, o.served = none) (hc : (partAt s q).ckpt.copy = none) :
    regulatorAdmit q s = entered s q w rest := by
  have hpart : partAt (entered s q w rest) q
      = unitEntered (partAt s q) w rest := (partAt_entered s q w rest q).trans (if_pos rfl)
  simp only [regulatorAdmit, enterOne_funded h hb]
  rw [serveReady_none (by rw [hpart]; exact hops), issueObjects_none (by rw [hpart]; exact hc)]

theorem fsRequestIssue_none {s : State} {src : Nat} (h : ∀ w ∈ s.fs.waiting, w.source = src → slotFree s w.addr = false) :
    fsRequestIssue src s = s := by
  have hfind : s.fs.waiting.find? (fun w => w.source = src && slotFree s w.addr) = none :=
    List.find?_eq_none.2 fun w hw => by
      by_cases hs : w.source = src
      · simp [h w hw hs]
      · simp [hs]
  rw [fsRequestIssue, hfind]

/-- A bank that holds requests, and its full share of them, gives no slot. -/
theorem slotFree_bank_full {s : State} {a : Nat} (h : 4096 ≤ bankHeld s (Config.dramBank a)) : slotFree s a = false := by
  have hne : s.fs.issued.isEmpty = false := by
    cases hi : s.fs.issued with
    | nil => simp [bankHeld, hi] at h
    | cons x l => rfl
  rw [slotFree, hne, decide_eq_false (Nat.not_lt.2 h), Bool.or_false, Bool.and_false]

theorem slotFree_all_taken {s : State} (h : 65536 ≤ s.fs.issued.length) (a : Nat) : slotFree s a = false := by
  rw [slotFree, decide_eq_false (Nat.not_lt.2 h), Bool.false_and]

end Sys2Proof.Machine

namespace Sys2Proof

open Sys2Proof.Machine

/-- Settles O48: a grant goes to the bank's oldest part, whose row is served; a unit enters, and a request takes its slot, where the bucket and
the slots allow it. -/
theorem banksRegulatorsAndSlotsServe : Obligations.BanksRegulatorsAndSlotsServe := by
  refine ⟨fun t bank s hlt => ⟨fun hidle e => congrArg Host.Outcome.next (bankGrant_idle hidle e), fun b hb hfree hwf => ?_⟩,
    fun q s => ⟨fun hnone => ?_, fun w rest hw => ⟨fun hfew => ?_, fun hb hops hc => ?_⟩⟩,
    fun src s => ⟨fun w hw => ?_, fun hall => ?_, fun hfull => ?_⟩⟩
  · obtain ⟨hplain, hcorrected⟩ := bankGrant_oldest hb hfree hlt
    refine ⟨fun hw _ => ⟨_, congrArg Host.Outcome.next hplain, serveBank_write hw hwf hlt⟩,
      fun hr hlow hup hp => ⟨_, congrArg Host.Outcome.next hplain, serveBank_read (atGrant_noteGrant s t bank) hr hlow hup hp⟩,
      fun hr hlow hup hp => ⟨_, congrArg Host.Outcome.next hcorrected, ?_⟩⟩
    obtain ⟨hcount, hregs, hframe⟩ := nsUpset_corrected (noteGrant s t bank) b.addr
    obtain ⟨hans, hmem, hgrant, hown⟩ := serveBank_read (b := b) ⟨_, _, hframe⟩ hr hlow hup hp
    have hget : ∀ a, regGet (serveBank (nsUpset (noteGrant s t bank) (b.addr / 8) false) t bank b) a
        = regGet (nsUpset (noteGrant s t bank) (b.addr / 8) false) a := fun a => by rw [regGet, hown]; rfl
    refine ⟨?_, fun a ha => (hget a).trans (hregs a ha), hans, hmem, hgrant⟩
    rw [regField, hget]
    exact hcount
  · exact congrArg Host.Outcome.next (by rw [regulatorAdmit, enterOne_none_waiting hnone])
  · exact congrArg Host.Outcome.next (by rw [regulatorAdmit, enterOne_unfunded hw hfew])
  · refine ⟨_, congrArg Host.Outcome.next (regulatorAdmit_funded hw hb hops hc), ?_⟩
    refine ⟨?_, ?_, rfl, fun r hr => ?_, rfl⟩
    · rw [partAt_entered, if_pos rfl]; rfl
    · rw [partAt_entered, if_pos rfl]
      exact unitEntered_regWait _ _ _
    · rw [partAt_entered, if_neg (Ne.symm hr)]
  · exact congrArg Host.Outcome.next (by rw [fsRequestIssue, hw]; rfl)
  · exact congrArg Host.Outcome.next (fsRequestIssue_none fun w _ _ => slotFree_all_taken hall _)
  · exact congrArg Host.Outcome.next (fsRequestIssue_none fun w hw hs => slotFree_bank_full (hfull w hw hs))

end Sys2Proof
end

section
/-! SUPPORT. The packet layer: where a request arrives, what its target does with it, and what becomes of a reply (R26, R226, R232, R245, R489,
R490). -/

namespace Sys2Proof.Machine

/-! ### Requests to a tile -/

/-- A request of its partition's present abort epoch arrives at a present tile that serves its requester, and stays inside its window part. -/
structure ReachesTile (s : State) (r : MeshReq) : Prop where
  fresh : staleTraffic s r.part r.abortEpoch = false
  tile : isTileAddr r.addr = true
  present : tilePresent s (tileOf r.addr) = true
  serves : tileGone s (tileOf r.addr) r.requester = false
  inside : within r.addr r.len (tileBase (tileOf r.addr)) (partEnd (windowPart (offOf r.addr))) = true

theorem meshRequest_stale {s : State} {r : MeshReq} (h : staleTraffic s r.part r.abortEpoch = true) : meshRequest r s = dropStale s := by
  simp only [meshRequest, h, if_true]

section
variable {s : State} {r : MeshReq}

theorem meshRequest_absent (hs : staleTraffic s r.part r.abortEpoch = false) (ha : isTileAddr r.addr = true)
    (hp : tilePresent s (tileOf r.addr) = false) : meshRequest r s = meshAnswer s (tileOf r.addr) r stAbsent false [] := by
  simp [meshRequest, hs, ha, hp]

theorem meshRequest_gone (hs : staleTraffic s r.part r.abortEpoch = false) (ha : isTileAddr r.addr = true)
    (hp : tilePresent s (tileOf r.addr) = true) (hg : tileGone s (tileOf r.addr) r.requester = true) :
    meshRequest r s = meshAnswer s (tileOf r.addr) r stTargetReset false [] := by
  simp [meshRequest, hs, ha, hp, hg]

theorem meshRequest_outside (hs : staleTraffic s r.part r.abortEpoch = false) (ha : isTileAddr r.addr = true)
    (hp : tilePresent s (tileOf r.addr) = true) (hg : tileGone s (tileOf r.addr) r.requester = false)
    (ho : within r.addr r.len (tileBase (tileOf r.addr)) (partEnd (windowPart (offOf r.addr))) = false ∨ windowPart (offOf r.addr) = 4) :
    meshRequest r s = meshAnswer s (tileOf r.addr) r stBadLength false [] := by
  rcases ho with ho | ho <;> simp [meshRequest, hs, ha, hp, hg, ho]

/-- A request as its parts carry it: a read gathers its bytes into zeros. -/
def gathering (r : MeshReq) : MeshReq := if r.isWrite then r else { r with data := List.replicate r.len 0 }

theorem gathering_keeps (r : MeshReq) : (gathering r).tag = r.tag ∧ (gathering r).requester = r.requester ∧ (gathering r).addr = r.addr
    ∧ (gathering r).isWrite = r.isWrite := by
  unfold gathering
  split <;> exact ⟨rfl, rfl, rfl, rfl⟩

/-- The part of a request in line l, as it joins a bank. -/
def linePart (r : MeshReq) (age l : Nat) : BankReq :=
  { port := meshPort, addr := max (64 * l) r.addr, len := min (64 * l + 64) (r.addr + r.len) - max (64 * l) r.addr, req := gathering r, age := age }

/-- The parts of a request in some lines joining tile t's banks. -/
def joinLines (s : State) (t : Nat) (r : MeshReq) (ls : List Nat) : State :=
  ls.foldl (fun s l => modTile s t (fun x => joinBank x (linePart r s.cycle l))) s

theorem meshRequest_near (h : ReachesTile s r) (hw : windowPart (offOf r.addr) = 0) (hl : 0 < r.len) :
    meshRequest r s = joinLines s (tileOf r.addr) r (linesOf r.addr r.len) := by
  have hin := h.inside
  rw [hw] at hin
  simp [meshRequest, h.fresh, h.tile, h.present, h.serves, hw, hin, Nat.ne_of_gt hl, joinLines, linePart, gathering]

theorem meshRequest_tile_write (h : ReachesTile s r) (h1 : 1 ≤ windowPart (offOf r.addr)) (h2 : windowPart (offOf r.addr) ≤ 2)
    (hw : r.isWrite = true) (hd : r.data.length = r.len) :
    meshRequest r s = meshAnswer (spanWrite s r.addr r.data) (tileOf r.addr) r stOk false [] := by
  have hslice : slice r.data 0 r.len = r.data := hd ▸ slice_whole r.data
  have hno : ¬ 4 ≤ windowPart (offOf r.addr) := by omega
  have hne : windowPart (offOf r.addr) ≠ 0 := by omega
  simp [meshRequest, h.fresh, h.tile, h.present, h.serves, h.inside, hno, hne, hw, hslice]

theorem meshRequest_tile_read (h : ReachesTile s r) (h1 : 1 ≤ windowPart (offOf r.addr)) (h2 : windowPart (offOf r.addr) ≤ 2)
    (hw : r.isWrite = false) : meshRequest r s = meshAnswer (spanFetch s r.addr r.len false).2.2 (tileOf r.addr) r stOk
      (spanFetch s r.addr r.len false).2.1 (spanFetch s r.addr r.len false).1 := by
  have hno : ¬ 4 ≤ windowPart (offOf r.addr) := by omega
  have hne : windowPart (offOf r.addr) ≠ 0 := by omega
  simp [meshRequest, h.fresh, h.tile, h.present, h.serves, h.inside, hno, hne, hw]

end

/-! ### Parts at the banks -/

/-- A request joins the end of one queue. -/
theorem joinBank_appends (x : Tile) (r : BankReq) : ∃ k, joinBank x r = { x with banks := x.banks.put k (x.banks.at k [] ++ [r]) } := ⟨_, rfl⟩

/-- A request that joins keeps those that wait. -/
theorem joinBank_keeps {x : Tile} {k : Nat} {y : BankReq} (h : y ∈ x.banks.at k []) (r : BankReq) : y ∈ (joinBank x r).banks.at k [] := by
  obtain ⟨j, hj⟩ := joinBank_appends x r
  rw [hj]
  by_cases hk : j = k
  · subst hk
    rw [Tab.at_put_same]
    exact List.mem_append_left _ h
  · rwa [Tab.at_put_ne _ hk]

/-- A request that joins waits somewhere. -/
theorem joinBank_joins (x : Tile) (r : BankReq) : ∃ k, r ∈ (joinBank x r).banks.at k [] := by
  obtain ⟨k, hk⟩ := joinBank_appends x r
  exact ⟨k, by rw [hk, Tab.at_put_same]; exact List.mem_append_right _ (List.mem_singleton_self r)⟩

theorem joinLines_cons (s : State) (t : Nat) (r : MeshReq) (l : Nat) (ls : List Nat) :
    joinLines s t r (l :: ls) = joinLines (modTile s t (fun x => joinBank x (linePart r s.cycle l))) t r ls := rfl

/-- Parts that join change the tile's queues alone. -/
theorem joinLines_frame (s : State) (t : Nat) (r : MeshReq) (ls : List Nat) :
    joinLines s t r ls = { s with tiles := (joinLines s t r ls).tiles } ∧ ∀ x, x ≠ t → tileAt (joinLines s t r ls) x = tileAt s x := by
  induction ls generalizing s with
  | nil => exact ⟨rfl, fun _ _ => rfl⟩
  | cons l ls ih =>
    obtain ⟨hframe, hothers⟩ := ih (modTile s t (fun x => joinBank x (linePart r s.cycle l)))
    refine ⟨?_, fun x hx => ?_⟩
    · rw [joinLines_cons, hframe]
      rfl
    · rw [joinLines_cons, hothers x hx, modTile_own, if_neg (Ne.symm hx)]

theorem joinLines_keeps {s : State} {t k : Nat} {y : BankReq} (h : y ∈ (tileAt s t).banks.at k []) (r : MeshReq) (ls : List Nat) :
    y ∈ (tileAt (joinLines s t r ls) t).banks.at k [] := by
  induction ls generalizing s with
  | nil => exact h
  | cons l ls ih =>
    rw [joinLines_cons]
    refine ih ?_
    rw [modTile_own, if_pos rfl]
    exact joinBank_keeps h _

/-- Each line's part waits at the tile. -/
theorem joinLines_joins {s : State} {l : Nat} {ls : List Nat} (h : l ∈ ls) (t : Nat) (r : MeshReq) :
    ∃ k, linePart r s.cycle l ∈ (tileAt (joinLines s t r ls) t).banks.at k [] := by
  induction ls generalizing s with
  | nil => cases h
  | cons l' ls ih =>
    rw [joinLines_cons]
    rcases List.mem_cons.1 h with rfl | h
    · obtain ⟨k, hk⟩ := joinBank_joins (tileAt s t) (linePart r s.cycle l)
      refine ⟨k, joinLines_keeps ?_ r ls⟩
      rwa [modTile_own, if_pos rfl]
    · exact ih h

/-! ### Reads and writes of a tile's other windows -/

/-- With no stored error a read of the accumulator window or the till gives its bytes and changes nothing. -/
theorem spanFetch_window {s : State} {a : Nat} (ha : isTileAddr a = true) (h1 : 1 ≤ windowPart (offOf a)) (h2 : windowPart (offOf a) ≤ 2)
    (hu : s.upsets = []) (n : Nat) (noalloc : Bool) : spanFetch s a n noalloc = (spanRead s a n, false, s) := by
  have hcase : windowPart (offOf a) = 1 ∨ windowPart (offOf a) = 2 := by omega
  rcases hcase with hw | hw
  · simp only [spanFetch, ha, hw, if_true]
  · have htouch : tillTouch s a n 0 = (false, s) := by rw [tillTouch, hu, List.foldl_nil]
    simp only [spanFetch, ha, hw, if_true, htouch]

theorem spanWrite_till {s : State} {a : Nat} (ha : isTileAddr a = true) (hw : windowPart (offOf a) = 2) (bs : List Byte) :
    spanWrite s a bs = nsStore s a bs := by
  simp only [spanWrite, ha, hw, if_true]

theorem spanWrite_accumulators {s : State} {a : Nat} (ha : isTileAddr a = true) (hw : windowPart (offOf a) = 1) (bs : List Byte) :
    spanWrite s a bs = modDrain s (tileOf a) (fun d => accWrite d (windowWide s (tileOf a)) (offOf a - 0x600000) bs) := by
  simp only [spanWrite, ha, hw, if_true]

theorem spanWrite_far {s : State} {a : Nat} (ha : isTileAddr a = false) (bs : List Byte) : spanWrite s a bs = farWriteF bs.length s a bs := by
  simp only [spanWrite, ha, Bool.false_eq_true, if_false]

theorem tileAt_meshAnswer (s : State) (src : Nat) (r : MeshReq) (st : Nat) (p : Bool) (d : List Byte) (x : Nat) :
    tileAt (meshAnswer s src r st p d) x = tileAt s x := rfl

/-! ### What a tile does with a request -/

section
variable {s : State} {r : MeshReq}

/-- A near-store request waits at its banks, one part a line (R246). -/
theorem meshRequest_near_waits (h : ReachesTile s r) (hw : windowPart (offOf r.addr) = 0) (hl : 0 < r.len) :
    let u := meshRequest r s
    (∀ l ∈ linesOf r.addr r.len, ∃ k, ∃ y ∈ (tileAt u (tileOf r.addr)).banks.at k [], y.addr = max (64 * l) r.addr ∧ y.port = meshPort
        ∧ y.age = s.cycle ∧ y.req.tag = r.tag ∧ y.req.requester = r.requester ∧ y.req.addr = r.addr ∧ y.req.isWrite = r.isWrite)
      ∧ (∀ x, x ≠ tileOf r.addr → tileAt u x = tileAt s x) ∧ u = { s with tiles := u.tiles } := by
  intro u
  have hu : u = joinLines s (tileOf r.addr) r (linesOf r.addr r.len) := meshRequest_near h hw hl
  obtain ⟨hframe, hothers⟩ := joinLines_frame s (tileOf r.addr) r (linesOf r.addr r.len)
  rw [hu]
  refine ⟨fun l hl => ?_, hothers, hframe⟩
  obtain ⟨k, hk⟩ := joinLines_joins (s := s) hl (tileOf r.addr) r
  exact ⟨k, _, hk, rfl, rfl, rfl, gathering_keeps r⟩

theorem meshRequest_window_read (h : ReachesTile s r) (h1 : 1 ≤ windowPart (offOf r.addr)) (h2 : windowPart (offOf r.addr) ≤ 2)
    (hr : r.isWrite = false) (hu : s.upsets = []) :
    meshRequest r s = meshAnswer s (tileOf r.addr) r stOk false (spanRead s r.addr r.len) := by
  rw [meshRequest_tile_read h h1 h2 hr, spanFetch_window h.tile h1 h2 hu]

theorem meshRequest_till_write (h : ReachesTile s r) (hw : windowPart (offOf r.addr) = 2) (hwr : r.isWrite = true)
    (hd : r.data.length = r.len) : meshRequest r s = meshAnswer (nsStore s r.addr r.data) (tileOf r.addr) r stOk false [] := by
  rw [meshRequest_tile_write h (by omega) (by omega) hwr hd, spanWrite_till h.tile hw]

theorem meshRequest_accumulators_write (h : ReachesTile s r) (hw : windowPart (offOf r.addr) = 1) (hwr : r.isWrite = true)
    (hd : r.data.length = r.len) : meshRequest r s = meshAnswer (modDrain s (tileOf r.addr) (fun d =>
      accWrite d (windowWide s (tileOf r.addr)) (offOf r.addr - 0x600000) r.data)) (tileOf r.addr) r stOk false [] := by
  rw [meshRequest_tile_write h (by omega) (by omega) hwr hd, spanWrite_accumulators h.tile hw]

/-- A write of the till lands and is answered. -/
theorem meshRequest_till_lands (h : ReachesTile s r) (hw : windowPart (offOf r.addr) = 2) (hwr : r.isWrite = true)
    (hd : r.data.length = r.len) (hwf : Memory.wf s.mem = true) :
    let u := meshRequest r s
    Answers s u (tileOf r.addr) r stOk false [] ∧ readBytes u.mem r.addr r.len = r.data ∧ SameMemoryOutside r.addr r.len s u
      ∧ u.tiles = s.tiles ∧ u.regs = s.regs := by
  intro u
  have hu : u = meshAnswer (nsStore s r.addr r.data) (tileOf r.addr) r stOk false [] := meshRequest_till_write h hw hwr hd
  obtain ⟨hread, houtside⟩ := written_span hwf (u := u) (a := r.addr) (bs := r.data) (hu ▸ rfl)
  rw [hd] at hread houtside
  exact ⟨hu ▸ answers_meshAnswer rfl _ _ _ _ _, hread, houtside, hu ▸ rfl, hu ▸ rfl⟩

/-- A write of the accumulator window changes its tile's drain alone and is answered. -/
theorem meshRequest_accumulators_change (h : ReachesTile s r) (hw : windowPart (offOf r.addr) = 1) (hwr : r.isWrite = true)
    (hd : r.data.length = r.len) :
    let u := meshRequest r s
    Answers s u (tileOf r.addr) r stOk false []
      ∧ (tileAt u (tileOf r.addr)).drain
        = accWrite (tileAt s (tileOf r.addr)).drain (windowWide s (tileOf r.addr)) (offOf r.addr - 0x600000) r.data
      ∧ (∀ x, x ≠ tileOf r.addr → tileAt u x = tileAt s x) ∧ u = { s with tiles := u.tiles, replies := u.replies } := by
  intro u
  have hu : u = meshAnswer (modDrain s (tileOf r.addr) (fun d => accWrite d (windowWide s (tileOf r.addr)) (offOf r.addr - 0x600000) r.data))
      (tileOf r.addr) r stOk false [] := meshRequest_accumulators_write h hw hwr hd
  rw [hu]
  refine ⟨answers_meshAnswer rfl _ _ _ _ _, ?_, fun x hx => ?_, rfl⟩
  · rw [tileAt_meshAnswer, modDrain_own, if_pos rfl]
  · rw [tileAt_meshAnswer, modDrain_own, if_neg (Ne.symm hx)]

end

/-! ### Requests to the far store -/

/-- A request of its partition's present abort epoch arrives inside the far store, which is not being reset. -/
structure ReachesFarStore (s : State) (r : MeshReq) : Prop where
  fresh : staleTraffic s r.part r.abortEpoch = false
  far : isTileAddr r.addr = false
  inside : within r.addr r.len fsBase (fsCapacity s) = true
  serves : s.fs.resetting = false

section
variable {s : State} {r : MeshReq}

theorem meshRequest_far_outside (hs : staleTraffic s r.part r.abortEpoch = false) (ha : isTileAddr r.addr = false)
    (ho : within r.addr r.len fsBase (fsCapacity s) = false) : meshRequest r s = meshAnswer s farUnit r stBadLength false [] := by
  simp [meshRequest, hs, ha, ho]

theorem meshRequest_far_resetting (hs : staleTraffic s r.part r.abortEpoch = false) (ha : isTileAddr r.addr = false)
    (ho : within r.addr r.len fsBase (fsCapacity s) = true) (hr : s.fs.resetting = true) :
    meshRequest r s = meshAnswer s farUnit r stTargetReset false [] := by
  simp [meshRequest, hs, ha, ho, hr]

theorem meshRequest_far_write (h : ReachesFarStore s r) (hw : r.isWrite = true) (hd : r.data.length = r.len) :
    meshRequest r s = meshAnswer (farWriteF r.data.length s r.addr r.data) farUnit r stOk false [] := by
  have hslice : slice r.data 0 r.len = r.data := hd ▸ slice_whole r.data
  simp [meshRequest, h.fresh, h.far, h.inside, h.serves, hw, hslice, spanWrite_far h.far]

theorem meshRequest_far_read (h : ReachesFarStore s r) (hw : r.isWrite = false) :
    meshRequest r s = meshAnswer (spanFetch s r.addr r.len false).2.2 farUnit r stOk
      (spanFetch s r.addr r.len false).2.1 (spanFetch s r.addr r.len false).1 := by
  simp [meshRequest, h.fresh, h.far, h.inside, h.serves, hw]

/-- The far store that a request reaches along a plain span is open. -/
theorem ReachesFarStore.isOpen (h : ReachesFarStore s r) (hplain : PlainSpan s r.addr r.len) : FarStoreOpen s :=
  farStoreOpen_of_plainSpan hplain (of_decide_eq_true h.inside).1

/-- A write of an open far store lands and is answered. -/
theorem meshRequest_far_lands (h : ReachesFarStore s r) (hopen : FarStoreOpen s) (hwr : r.isWrite = true) (hd : r.data.length = r.len)
    (hwf : Memory.wf s.mem = true) :
    let u := meshRequest r s
    readBytes u.mem r.addr r.len = r.data ∧ SameMemoryOutside r.addr r.len s u ∧ Answers s u farUnit r stOk false [] ∧ u.tiles = s.tiles := by
  intro u
  have hu : u = meshAnswer (farWriteF r.data.length s r.addr r.data) farUnit r stOk false [] := meshRequest_far_write h hwr hd
  obtain ⟨p, us, c, hland⟩ := farWriteF_lands hopen r.addr r.data (Nat.le_refl _)
  rw [hland] at hu
  obtain ⟨hread, houtside⟩ := written_span hwf (u := u) (a := r.addr) (bs := r.data) (hu ▸ rfl)
  rw [hd] at hread houtside
  exact ⟨hread, houtside, hu ▸ answers_meshAnswer rfl _ _ _ _ _, hu ▸ rfl⟩

/-- A read of an open far store with nothing poisoned is answered with its bytes. -/
theorem meshRequest_far_reads (h : ReachesFarStore s r) (hopen : FarStoreOpen s) (hr : r.isWrite = false) (hp : s.poison = []) :
    let u := meshRequest r s
    Answers s u farUnit r stOk false (readBytes s.mem r.addr r.len) ∧ u.mem = s.mem ∧ u.tiles = s.tiles := by
  intro u
  have hu : u = _ := meshRequest_far_read h hr
  obtain ⟨c, hc⟩ := spanFetch_far hopen hp h.far r.len false
  rw [hc] at hu
  rw [hu]
  exact ⟨answers_meshAnswer rfl _ _ _ _ _, rfl, rfl⟩

end

/-! ### Replies -/

section
variable {s : State} {r : MeshReply} {x : (Nat × MeshReply) × List (Nat × MeshReply)}

theorem meshReply_none (h : takeOldest samePath (fun x => decide (x.2 = r)) s.replies = none) : meshReply r s = s := by
  rw [meshReply, h]

/-- The oldest reply of its path that carries its requester's present reset epoch is delivered where its abort epoch is the present one. -/
theorem meshReply_present (h : takeOldest samePath (fun x => decide (x.2 = r)) s.replies = some x) (he : r.epoch = requesterEpoch s r.requester) :
    meshReply r s = if staleTraffic s r.part r.abortEpoch then dropStale { s with replies := x.2 }
      else { s with replies := x.2, delivered := r :: s.delivered } := by
  simp only [meshReply, h, he, ne_eq, not_true_eq_false, if_false]

/-- One of an older reset epoch is counted by its tile, or logged for its engine (R489). -/
theorem meshReply_older (h : takeOldest samePath (fun x => decide (x.2 = r)) s.replies = some x) (he : r.epoch ≠ requesterEpoch s r.requester) :
    meshReply r s = if r.requester < 1024 then regBump { s with replies := x.2 } (tileReg r.requester 0x780100) 16 16 1
      else logWith { s with replies := x.2 } (Config.logCode 5) 0 0 (r.requester - 1024) 0xFF [r.epoch, r.tag] := by
  simp only [meshReply, h]
  exact if_pos he

end

end Sys2Proof.Machine

namespace Sys2Proof

open Sys2Proof.Machine

/-- Settles O49: a request falls into one of the cases of its address and target, a reply into one of the cases of its epochs. -/
theorem packetLayerAnswers : Obligations.PacketLayerAnswers := by
  refine ⟨fun r s hs => ⟨_, congrArg Host.Outcome.next (meshRequest_stale hs), dropStale_counts s⟩,
    fun r s hs ha => ⟨fun hp => ?_, fun hp hg => ?_, fun hp hg ho => ?_, fun hp hg hi => ?_⟩,
    fun r s hs ha => ⟨fun ho => ?_, fun ho hr => ?_, fun hi hr hplain hpoison hwf => ?_⟩,
    fun r s => ⟨fun hnone => congrArg Host.Outcome.next (meshReply_none hnone), fun x hx => ⟨fun he hs => ?_, fun he hs => ?_,
      fun he hlt => ?_, fun he hge => ?_⟩⟩⟩
  · exact ⟨_, congrArg Host.Outcome.next (meshRequest_absent hs ha hp), answers_meshAnswer rfl _ _ _ _ _, rfl⟩
  · exact ⟨_, congrArg Host.Outcome.next (meshRequest_gone hs ha hp hg), answers_meshAnswer rfl _ _ _ _ _, rfl⟩
  · exact ⟨_, congrArg Host.Outcome.next (meshRequest_outside hs ha hp hg ho), answers_meshAnswer rfl _ _ _ _ _, rfl⟩
  · have h : ReachesTile s r := ⟨hs, ha, hp, hg, hi⟩
    exact ⟨fun hw hl => ⟨_, rfl, meshRequest_near_waits h hw hl⟩,
      fun h1 h2 hr hu => ⟨_, congrArg Host.Outcome.next (meshRequest_window_read h h1 h2 hr hu), answers_meshAnswer rfl _ _ _ _ _, rfl⟩,
      fun hw hwr hd hwf => ⟨_, rfl, meshRequest_till_lands h hw hwr hd hwf⟩,
      fun hw hwr hd => ⟨_, rfl, meshRequest_accumulators_change h hw hwr hd⟩⟩
  · exact ⟨_, congrArg Host.Outcome.next (meshRequest_far_outside hs ha ho), answers_meshAnswer rfl _ _ _ _ _, rfl⟩
  · exact ⟨_, congrArg Host.Outcome.next (meshRequest_far_resetting hs ha ho hr), answers_meshAnswer rfl _ _ _ _ _, rfl⟩
  · have h : ReachesFarStore s r := ⟨hs, ha, hi, hr⟩
    exact ⟨fun hwr hd => ⟨_, rfl, meshRequest_far_lands h (h.isOpen hplain) hwr hd hwf⟩,
      fun hrd => ⟨_, rfl, meshRequest_far_reads h (h.isOpen hplain) hrd hpoison⟩⟩
  · exact congrArg Host.Outcome.next ((meshReply_present hx he).trans (if_neg (by simp [hs])))
  · exact ⟨_, congrArg Host.Outcome.next ((meshReply_present hx he).trans (if_pos hs)), dropStale_counts { s with replies := x.2 }⟩
  · exact ⟨_, congrArg Host.Outcome.next ((meshReply_older hx he).trans (if_pos hlt)),
      regField_regBump { s with replies := x.2 } _ 1 (by decide), regBump_sameRegistersBut { s with replies := x.2 } _ _ _ _, rfl⟩
  · exact ⟨_, congrArg Host.Outcome.next ((meshReply_older hx he).trans (if_neg (Nat.not_lt.2 hge))), Nat.lt_succ_self _, rfl, rfl, rfl⟩

end Sys2Proof
end

section
/-! SUPPORT. The stream order of a weight set (R87): the place of a segment's cell among the 4,096, and the way back. -/

namespace Sys2Proof.Machine

/-- The number of cells before diagonal d, while the diagonals still grow. -/
def cellsBefore (d : Nat) : Nat := d * (d + 1) / 2

/-- The place in a segment's stream of the cell at local row r and column n (R87). -/
def streamPlace (r n : Nat) : Nat :=
  if r + n ≤ 31 then cellsBefore (r + n) + r
  else if r + n ≤ 127 then 528 + 32 * (r + n - 32) + r
  else 3600 + (r + n - 128) * (191 - (r + n)) / 2 + r - (r + n - 127)

theorem weightOffset_eq (k n : Nat) : weightOffset k n = 8192 * (k / 32) + 2 * streamPlace (k % 32) n := rfl

theorem cellsBefore_succ (d : Nat) : cellsBefore (d + 1) = cellsBefore d + (d + 1) := by
  rw [cellsBefore, cellsBefore, show (d + 1) * (d + 1 + 1) = d * (d + 1) + (d + 1) * 2 by ring, Nat.add_mul_div_right _ _ (by decide)]

theorem cellsBefore_mono {c d : Nat} (h : c ≤ d) : cellsBefore c ≤ cellsBefore d :=
  Nat.div_le_div_right (Nat.mul_le_mul h (Nat.succ_le_succ h))

/-- No more than 496 cells stand before a diagonal of the first 32. -/
theorem cellsBefore_le {d : Nat} (h : d ≤ 31) : cellsBefore d ≤ 496 := cellsBefore_mono h

/-- The mirrored diagonals' closed form, from the end of the stream (R87). -/
theorem place_late {r n : Nat} (hr : r < 32) (hn : n < 128) (h : 128 ≤ r + n) :
    streamPlace r n + (cellsBefore (158 - (r + n)) + (31 - r)) = 4095 := by
  have sum : ∀ m, m ≤ 30 → (30 - m) * (33 + m) / 2 + cellsBefore m + m = 495 := by decide
  have hm := sum (158 - (r + n)) (by omega)
  rw [show 30 - (158 - (r + n)) = r + n - 128 by omega, show 33 + (158 - (r + n)) = 191 - (r + n) by omega] at hm
  rw [streamPlace, if_neg (by omega), if_neg (by omega)]
  omega

theorem place_lt {r n : Nat} (hr : r < 32) (hn : n < 128) : streamPlace r n < 4096 := by
  by_cases h : r + n ≤ 127
  · have hle := fun h' : r + n ≤ 31 => cellsBefore_le h'
    unfold streamPlace
    split <;> omega
  · have := place_late hr hn (by omega)
    omega

/-- A place before the last mirrored diagonals is on one of the first 128. -/
theorem place_early {r n : Nat} (hr : r < 32) (hn : n < 128) : streamPlace r n < 3600 ↔ r + n ≤ 127 := by
  by_cases h : r + n ≤ 127
  · have hle := fun h' : r + n ≤ 31 => cellsBefore_le h'
    unfold streamPlace
    split <;> omega
  · have hlate := place_late hr hn (by omega)
    have hle : cellsBefore (158 - (r + n)) ≤ 465 := cellsBefore_mono (d := 30) (by omega)
    omega

/-- The diagonals begun by place i are those up to the one it lies on. -/
theorem diagonals_begun {d i : Nat} (hd : d ≤ 31) (h1 : cellsBefore d ≤ i) (h2 : i < cellsBefore (d + 1)) :
    ((List.range 32).filter (fun c => c * (c + 1) / 2 ≤ i)).length = d + 1 := by
  have begun : ∀ c, cellsBefore c ≤ i ↔ c ≤ d := fun c =>
    ⟨fun hc => by_contra fun hn => absurd (cellsBefore_mono (c := d + 1) (Nat.lt_of_not_le hn)) (by omega), fun hc => Nat.le_trans (cellsBefore_mono hc) h1⟩
  have count : ∀ d ≤ 31, ((List.range 32).filter (fun c => c ≤ d)).length = d + 1 := by decide
  rw [← count d hd]
  congr 2
  funext c
  exact decide_eq_decide.2 (begun c)

/-- The stream's first half leads back to the cell. -/
theorem streamLow_place {r n : Nat} (hr : r < 32) (h : r + n ≤ 127) : streamLow (streamPlace r n) = (r, n) := by
  by_cases hlow : r + n ≤ 31
  · have hp : streamPlace r n = cellsBefore (r + n) + r := if_pos hlow
    have hle := cellsBefore_le hlow
    have hd := diagonals_begun (d := r + n) (i := streamPlace r n) hlow (by omega) (by rw [cellsBefore_succ]; omega)
    rw [streamLow, if_pos (by omega)]
    have hrow : streamPlace r n - (r + n) * (r + n + 1) / 2 = r := by rw [hp, cellsBefore, Nat.add_sub_cancel_left]
    simp only [hd, Nat.add_sub_cancel, hrow, Nat.add_sub_cancel_left]
  · have hp : streamPlace r n = 528 + 32 * (r + n - 32) + r := by rw [streamPlace, if_neg hlow, if_pos h]
    rw [streamLow, if_neg (by omega)]
    simp only [hp]
    rw [Prod.mk.injEq]
    omega

/-- The mirror of a cell's place is the mirrored cell's. -/
theorem place_mirror {r n : Nat} (hr : r < 32) (hn : n < 128) (h : 128 ≤ r + n) :
    4095 - streamPlace r n = streamPlace (31 - r) (127 - n) := by
  have hlate := place_late hr hn h
  have hmirror : streamPlace (31 - r) (127 - n) = cellsBefore (158 - (r + n)) + (31 - r) := by
    rw [streamPlace, show 31 - r + (127 - n) = 158 - (r + n) by omega, if_pos (by omega)]
  omega

/-- The stream's order leads back to the cell. -/
theorem streamCell_place {r n : Nat} (hr : r < 32) (hn : n < 128) : streamCell (streamPlace r n) = (r, n) := by
  by_cases h : r + n ≤ 127
  · rw [streamCell, if_pos ((place_early hr hn).2 h), streamLow_place hr h]
  · rw [streamCell, if_neg (by rw [place_early hr hn]; exact h), place_mirror hr hn (by omega), streamLow_place (by omega) (by omega),
      Prod.mk.injEq]
    omega

/-- The place of each of a segment's 4,096 cells, as a map between finite types. -/
def placeOf (c : Fin 32 × Fin 128) : Fin 4096 := ⟨streamPlace c.1 c.2, place_lt c.1.2 c.2.2⟩

/-- As many cells as places, and no two cells at one place: every place has its cell. -/
theorem placeOf_surjective : Function.Surjective placeOf := by
  have inj : Function.Injective placeOf := fun c d h => by
    have hplace : streamPlace c.1 c.2 = streamPlace d.1 d.2 := congrArg Fin.val h
    have hcell := congrArg streamCell hplace
    rw [streamCell_place c.1.2 c.2.2, streamCell_place d.1.2 d.2.2, Prod.mk.injEq] at hcell
    exact Prod.ext (Fin.ext hcell.1) (Fin.ext hcell.2)
  exact ((Fintype.bijective_iff_injective_and_card placeOf).2 ⟨inj, by simp⟩).2

/-- Every place of the stream is some cell's. -/
theorem place_onto {i : Nat} (h : i < 4096) : ∃ r n, r < 32 ∧ n < 128 ∧ streamPlace r n = i := by
  obtain ⟨c, hc⟩ := placeOf_surjective ⟨i, h⟩
  exact ⟨c.1, c.2, c.1.2, c.2.2, congrArg Fin.val hc⟩

end Sys2Proof.Machine

namespace Sys2Proof

open Sys2Proof.Machine

/-- Settles O46: each cell's place leads back to it, so places are one to one, and 4,096 cells fill 4,096 places. -/
theorem weightStreamOrderIsOneToOne : Obligations.WeightStreamOrderIsOneToOne := by
  refine ⟨fun k n hk hn => ?_, fun i hi => ?_⟩
  · have hr : k % 32 < 32 := Nat.mod_lt _ (by decide)
    have hlt := place_lt hr hn
    have hplace : weightOffset k n % 8192 / 2 = streamPlace (k % 32) n := by rw [weightOffset_eq]; omega
    rw [hplace, streamCell_place hr hn, weightOffset_eq]
    refine ⟨?_, ?_, ?_, rfl⟩ <;> omega
  · obtain ⟨r, n, hr, hn, rfl⟩ := place_onto hi
    rw [streamCell_place hr hn]
    refine ⟨hr, hn, ?_⟩
    rw [weightOffset_eq, Nat.div_eq_of_lt hr, Nat.mod_eq_of_lt hr, Nat.mul_zero, Nat.zero_add]

end Sys2Proof
end

section
/-! SUPPORT. What a unit's turn at the banks leaves: the older requests are served, and only the tile's queues, replies, memory and the error
counts change (R246, R248). -/

namespace Sys2Proof.Machine

/-- A fold whose every step keeps a reflexive, transitive relation keeps it. -/
theorem foldl_related {α : Type} {R : State → State → Prop} {op : State → α → State} (refl : ∀ s, R s s)
    (trans : ∀ {a b c}, R a b → R b c → R a c) (step : ∀ s x, R s (op s x)) (l : List α) (s : State) : R s (l.foldl op s) := by
  induction l generalizing s with
  | nil => exact refl s
  | cons x l ih => exact trans (step s x) (ih (op s x))

theorem queueTest_frame (s : State) (kind idx : Nat) (afterPurge : Bool) (part : Nat) : ∃ m, queueTest s kind idx afterPurge part = { s with mgt := m } := by
  unfold queueTest
  split
  · exact ⟨s.mgt, rfl⟩
  · exact ⟨_, rfl⟩

/-- An entry in the error log, with its test, changes the management state alone. -/
theorem logError_frame (s : State) (code index testIdx part : Nat) (afterPurge : Bool) (d : List Nat) :
    ∃ m, logError s code index testIdx part afterPurge d = { s with mgt := m } := by
  unfold logError
  obtain ⟨m, hm⟩ := queueTest_frame (trace (logWith s code (testOfCode code) _ index part d) 0 3 code) (testOfCode code) testIdx afterPurge part
  exact ⟨m, hm⟩

/-- The place of a tile's scheduler error register. -/
theorem schedReg_ne {x t o : Nat} (ho : o < 0x800000) (h : o ≠ 0x780200) : tileReg x 0x780200 ≠ tileReg t o := by
  unfold tileReg tileBase
  omega

/-- A state after a turn at tile t's banks: that tile's queues apart, every tile and partition is as it was, and so is each tile's
scheduler error register. -/
structure BankTurnLeaves (t : Nat) (s u : State) : Prop where
  own : ∃ b, tileAt u t = { tileAt s t with banks := b }
  others : ∀ x, x ≠ t → tileAt u x = tileAt s x
  parts : u.parts = s.parts
  schedErr : ∀ x, regGet u (tileReg x 0x780200) = regGet s (tileReg x 0x780200)
  wf : Memory.wf s.mem = true → Memory.wf u.mem = true

namespace BankTurnLeaves

variable {t : Nat} {s u v : State}

theorem of_fields (htiles : u.tiles = s.tiles) (hparts : u.parts = s.parts)
    (herr : ∀ x, regGet u (tileReg x 0x780200) = regGet s (tileReg x 0x780200)) (hwf : Memory.wf s.mem = true → Memory.wf u.mem = true) :
    BankTurnLeaves t s u :=
  have htile : ∀ x, tileAt u x = tileAt s x := fun x => by rw [tileAt, htiles, tileAt]
  ⟨⟨(tileAt s t).banks, htile t⟩, fun x _ => htile x, hparts, herr, hwf⟩

theorem refl (s : State) : BankTurnLeaves t s s := of_fields rfl rfl (fun _ => rfl) id

theorem trans (h : BankTurnLeaves t s u) (g : BankTurnLeaves t u v) : BankTurnLeaves t s v := by
  obtain ⟨b, hb⟩ := h.own
  obtain ⟨c, hc⟩ := g.own
  exact ⟨⟨c, by rw [hc, hb]⟩, fun x hx => (g.others x hx).trans (h.others x hx), g.parts.trans h.parts,
    fun x => (g.schedErr x).trans (h.schedErr x), fun hwf => g.wf (h.wf hwf)⟩

/-- A change of the tile's queues alone. -/
theorem of_queues {f : Tile → Tile} (h : ∀ x, ∃ b, f x = { x with banks := b }) (s : State) : BankTurnLeaves t s (modTile s t f) := by
  obtain ⟨b, hb⟩ := h (tileAt s t)
  exact ⟨⟨b, by rw [modTile_own, if_pos rfl, hb]⟩, fun x hx => by rw [modTile_own, if_neg (Ne.symm hx)], rfl, fun _ => rfl, id⟩

theorem of_regSet {o : Nat} (ho : o < 0x800000) (h : o ≠ 0x780200) (s : State) (x lo n v : Nat) :
    BankTurnLeaves t s (regSet s (tileReg x o) lo n v) :=
  of_fields rfl rfl (fun _ => regSet_sameRegistersBut s _ lo n v _ (by simpa using schedReg_ne ho h)) id

theorem of_poisonLine (s : State) (l : Nat) : BankTurnLeaves t s (poisonLine s l) := of_fields rfl rfl (fun _ => rfl) id

theorem of_logError (s : State) (code index testIdx part : Nat) (afterPurge : Bool) (d : List Nat) :
    BankTurnLeaves t s (logError s code index testIdx part afterPurge d) := by
  obtain ⟨m, hm⟩ := logError_frame s code index testIdx part afterPurge d
  rw [hm]
  exact of_fields rfl rfl (fun _ => rfl) id

end BankTurnLeaves

/-- An error that an access shows is counted, held and logged. -/
theorem nsUpset_leaves (t : Nat) (s : State) (w : Nat) (double : Bool) : BankTurnLeaves t s (nsUpset s w double) := by
  have count : ∀ lo, BankTurnLeaves t s (regBump s (tileReg (tileOf (8 * w)) 0x780300) lo 16 1) := fun lo =>
    .of_regSet (by decide) (by decide) s _ _ _ _
  unfold nsUpset
  cases double with
  | false => exact .trans (count 0) (.of_fields rfl rfl (fun _ => rfl) id)
  | true =>
    simp only [Bool.not_true, Bool.false_eq_true, if_false]
    refine .trans ?_ (.of_logError _ _ _ _ _ _ _)
    have marked := (count 16).trans (.of_poisonLine _ (8 * w / 64))
    split
    · exact marked
    · exact marked.trans (.trans (.of_regSet (by decide) (by decide) _ _ _ _ _) (.trans (.of_regSet (by decide) (by decide) _ _ _ _ _)
        (.of_regSet (by decide) (by decide) _ _ _ _ _)))

theorem nsErrors_leaves (t : Nat) (s : State) (a n : Nat) : BankTurnLeaves t s (nsErrors s a n) := by
  refine foldl_related .refl .trans (fun s x => ?_) s.upsets s
  split
  · exact nsUpset_leaves t s x.1 x.2
  · exact .refl s

theorem answerLast_leaves (s : State) (t : Nat) (b : BankReq) (p : Bool) (d : List Byte) : BankTurnLeaves t s (answerLast s t b p d) := by
  unfold answerLast
  split
  · exact .refl s
  · exact .of_fields rfl rfl (fun _ => rfl) id

theorem serveRow_leaves (s : State) (t : Nat) (b : BankReq) : BankTurnLeaves t s (serveRow s t b) := by
  by_cases h : b.req.isWrite = true
  · rw [serveRow_write h]
    refine .trans ?_ (answerLast_leaves _ t b false [])
    exact .of_fields rfl rfl (fun _ => rfl) (fun hwf => wf_writeBytes hwf _ _)
  · rw [serveRow, if_neg h]
    refine .trans (nsErrors_leaves t s b.addr b.len) (.trans ?_ (answerLast_leaves _ t b _ _))
    exact .of_queues (fun x => ⟨_, rfl⟩) _

theorem serveBank_leaves (s : State) (t bank : Nat) (b : BankReq) : BankTurnLeaves t s (serveBank s t bank b) := by
  unfold serveBank
  refine .trans ?_ (serveRow_leaves _ t b)
  refine .of_queues (fun x => ?_) s
  exact ⟨_, admitPorts_frame { x with banks := x.banks.put bank ((x.banks.at bank []).erase b) }⟩

theorem serveOlder_leaves (n : Nat) (s : State) (t bank : Nat) : BankTurnLeaves t s (serveOlder n s t bank) := by
  induction n generalizing s with
  | zero => exact .refl s
  | succ n ih =>
    unfold serveOlder
    split
    · exact .refl s
    · split
      · exact .trans (serveBank_leaves s t bank _) (ih _)
      · exact .refl s

theorem bankTurn_leaves (s : State) (a n : Nat) : BankTurnLeaves (tileOf a) s (bankTurn s a n) := by
  unfold bankTurn
  split
  · exact .refl s
  · exact foldl_related .refl .trans (fun s l => serveOlder_leaves 64 s _ _) _ s

end Sys2Proof.Machine
end

section
/-! SUPPORT. A fault's abort leaves a tile that has stopped as it stopped (R99, R176, R225). -/

namespace Sys2Proof.Machine

/-- A stopped array of tile t stays stopped and empty, a stopped engine stays stopped, and the scheduler error register stays. -/
structure KeepsStop (t : Nat) (s u : State) : Prop where
  array : (tileAt s t).arr.faultStop = true → (tileAt u t).arr.faultStop = true
  cells : (tileAt s t).arr.cells = [] → (tileAt u t).arr.cells = []
  engine : (tileAt s t).vec.stopped = true → (tileAt u t).vec.stopped = true
  schedErr : regGet u (tileReg t 0x780200) = regGet s (tileReg t 0x780200)

namespace KeepsStop

variable {t : Nat} {s u v : State}

theorem refl (s : State) : KeepsStop t s s := ⟨id, id, id, rfl⟩

theorem trans (h : KeepsStop t s u) (g : KeepsStop t u v) : KeepsStop t s v :=
  ⟨g.array ∘ h.array, g.cells ∘ h.cells, g.engine ∘ h.engine, g.schedErr.trans h.schedErr⟩

/-- What changes neither a tile's array nor its engine, and no scheduler error register. -/
theorem of_units (harr : (tileAt u t).arr = (tileAt s t).arr) (hvec : (tileAt u t).vec = (tileAt s t).vec)
    (herr : regGet u (tileReg t 0x780200) = regGet s (tileReg t 0x780200)) : KeepsStop t s u :=
  ⟨fun h => by rw [harr, h], fun h => by rw [harr, h], fun h => by rw [hvec, h], herr⟩

theorem of_tiles (htiles : u.tiles = s.tiles) (hregs : u.regs = s.regs) : KeepsStop t s u :=
  of_units (by rw [tileAt, htiles, tileAt]) (by rw [tileAt, htiles, tileAt]) (by rw [regGet, hregs, regGet])

theorem of_modPart (s : State) (q : Nat) (f : Part → Part) : KeepsStop t s (modPart s q f) := of_tiles rfl rfl

theorem foldl {α : Type} {op : State → α → State} (step : ∀ s x, KeepsStop t s (op s x)) (l : List α) (s : State) :
    KeepsStop t s (l.foldl op s) := foldl_related refl trans step l s

theorem of_bankTurn {x : Nat} (h : BankTurnLeaves x s u) : KeepsStop t s u := by
  by_cases ht : t = x
  · subst ht
    obtain ⟨b, hb⟩ := h.own
    exact of_units (by rw [hb]) (by rw [hb]) (h.schedErr t)
  · exact of_units (by rw [h.others t ht]) (by rw [h.others t ht]) (h.schedErr t)

/-- What changes neither the array nor the engine of whatever tile. -/
theorem of_modTile {f : Tile → Tile} (s : State) (x : Nat) (harr : ∀ y, (f y).arr = y.arr) (hvec : ∀ y, (f y).vec = y.vec) :
    KeepsStop t s (modTile s x f) := by
  refine of_units ?_ ?_ rfl
  all_goals
    rw [modTile_own]
    split
    next h => simp only [harr, hvec, h]
    · rfl

theorem of_modDrain (s : State) (x : Nat) (f : Drain → Drain) : KeepsStop t s (modDrain s x f) :=
  of_modTile s x (fun _ => rfl) (fun _ => rfl)

/-- What changes neither the stop nor the cells of whatever tile's array. -/
theorem of_modArr {f : Arr → Arr} (s : State) (x : Nat) (hstop : ∀ a, (f a).faultStop = a.faultStop) (hcells : ∀ a, (f a).cells = a.cells) :
    KeepsStop t s (modArr s x f) := by
  refine ⟨fun h => ?_, fun h => ?_, fun h => ?_, rfl⟩
  all_goals
    rw [modArr_own]
    split
    next e => simpa only [hstop, hcells, e] using h
    · exact h

end KeepsStop

variable {t : Nat}

/-! ### Far-store writes -/

theorem ctlReg_ne (x : Nat) : tileReg x 0x780200 ≠ ctl 0x410 := by
  unfold tileReg tileBase ctl
  omega

theorem fsFirstErr_keepsStop (s : State) (a kind : Nat) : KeepsStop t s (fsFirstErr s a kind) := by
  have set_ := fun s' lo n v => regSet_sameRegistersBut s' (ctl 0x410) lo n v (tileReg t 0x780200) (by simpa using ctlReg_ne t)
  simp only [fsFirstErr]
  split
  · exact .refl s
  · exact .of_units rfl rfl ((set_ _ 48 1 1).trans ((set_ _ 49 3 kind).trans (set_ s 0 44 _)))

theorem farWriteUnit_keepsStop (s : State) (a : Nat) (bs : List Byte) : KeepsStop t s (farWriteUnit s a bs) := by
  simp only [farWriteUnit]
  split
  · exact fsFirstErr_keepsStop s a 3
  · split <;> exact .of_tiles rfl rfl

theorem farWriteF_keepsStop (n : Nat) (s : State) (a : Nat) (bs : List Byte) : KeepsStop t s (farWriteF n s a bs) := by
  induction n generalizing s a bs with
  | zero => exact .refl s
  | succ n ih =>
    unfold farWriteF
    split
    · exact .refl s
    · exact .trans (farWriteUnit_keepsStop s a _) (ih _ _ _)

theorem freeGuards_keepsStop (s : State) (gone : Guard → Bool) : KeepsStop t s (freeGuards s gone) := by
  unfold freeGuards
  refine .trans (.of_tiles (u := modFs s _) rfl rfl) (.foldl (fun s w => ?_) _ _)
  exact farWriteUnit_keepsStop s w.1 w.2

theorem spanWrite_keepsStop (s : State) (a : Nat) (bs : List Byte) : KeepsStop t s (spanWrite s a bs) := by
  unfold spanWrite
  split
  · split
    · exact .of_modDrain s _ _
    · exact .trans (.of_bankTurn (bankTurn_leaves s a bs.length)) (.of_tiles rfl rfl)
    · exact .of_tiles rfl rfl
    · exact .refl s
  · exact farWriteF_keepsStop _ s a bs

theorem rebuildNarrow_keepsStop (s : State) (q : Nat) : KeepsStop t s (rebuildNarrow s q) := by
  refine .trans (.of_tiles (u := modSettle s q _) rfl rfl) (.foldl (fun s i => ?_) _ _)
  split
  · unfold writeNarrow
    split
    · exact .refl s
    · exact .foldl (fun s n => spanWrite_keepsStop s _ _) _ s
  · exact .refl s

/-! ### The fabric's part -/

theorem flood_keepsStop (s : State) (q : Nat) (c : CtlSlot) : KeepsStop t s (flood s q c) := by
  simp only [flood]
  split
  · exact .refl s
  · refine .foldl (fun s p => ?_) _ s
    unfold sendSymbol
    split
    · exact .refl s
    · split <;> exact .of_tiles rfl rfl

theorem releaseSlots_keepsStop (s : State) (q : Nat) (f : ReqSlot → Bool) : KeepsStop t s (releaseSlots s q f) := by
  refine .foldl (fun s x => ?_) _ s
  exact .of_tiles rfl rfl

theorem purgeFabric_keepsStop (s : State) (q a : Nat) : KeepsStop t s (purgeFabric s q a) := by
  unfold purgeFabric
  refine .trans ?_ (releaseSlots_keepsStop _ q _)
  exact .of_tiles rfl rfl

theorem purgeRequests_keepsStop (s : State) (q a : Nat) : KeepsStop t s (purgeRequests s q a) := .of_tiles rfl rfl

theorem purgeMessages_keepsStop (s : State) (q a : Nat) (wide : Bool) : KeepsStop t s (purgeMessages s q a wide) := .of_tiles rfl rfl

theorem cvAbandon_keepsStop (s : State) (q : Nat) : KeepsStop t s (cvAbandon s q) := by
  refine .foldl (fun s x => ?_) _ s
  exact .of_tiles rfl rfl

theorem setPartState_keepsStop (s : State) (q : Nat) (st : PartState) : KeepsStop t s (setPartState s q st) := by
  simp only [setPartState]
  split
  · exact .refl s
  · refine .trans (.of_tiles (u := trace (modPart s q (fun p => { p with state := st })) 0 2 (q * 16 + st.code)) rfl rfl) ?_
    unfold sendEvent
    refine .trans (.foldl (fun s h => ?_) (List.range 4) _) (.of_tiles rfl rfl)
    split <;> exact .of_tiles rfl rfl

theorem purgePart_keepsStop (s : State) (q a : Nat) (wide : Bool) : KeepsStop t s (purgePart s q a wide) := by
  have fabric := (cvAbandon_keepsStop (t := t) s q).trans (purgeFabric_keepsStop _ q a)
  unfold purgePart
  refine .trans ?_ (.of_modPart _ q _)
  refine .trans ?_ (.of_modPart _ q _)
  refine .trans ?_ (.of_modPart _ q _)
  refine .trans ?_ (rebuildNarrow_keepsStop _ q)
  refine .trans ?_ (freeGuards_keepsStop _ _)
  refine .trans ?_ (purgeMessages_keepsStop _ q a wide)
  exact fabric.trans (purgeRequests_keepsStop _ q a)

/-! ### The purge of the tiles -/

theorem finishCmd_keepsStop (s : State) (c : Cmd) (st r0 r1 detail bulk : Nat) : KeepsStop t s (finishCmd s c st r0 r1 detail bulk) := by
  simp only [finishCmd]
  split <;> exact .of_tiles rfl rfl

theorem endUnknown_keepsStop (n : Nat) (s : State) : KeepsStop t s (endUnknown n s) := by
  induction n generalizing s with
  | zero => exact .refl s
  | succ n ih =>
    unfold endUnknown
    split
    · exact .refl s
    · exact .trans (finishCmd_keepsStop s _ _ _ _ _ _) (ih _)

theorem endPurgedRun_keepsStop (s : State) (r : DmaRun) : KeepsStop t s (endPurgedRun s r) := by
  unfold endPurgedRun
  split
  · split
    · exact .trans (finishCmd_keepsStop s _ _ _ _ _ _) (endUnknown_keepsStop _ _)
    · exact .refl s
  · exact .refl s

theorem arrayStop_stopped (s : State) (x : Nat) :
    (tileAt (arrayStop s x) x).arr.faultStop = true ∧ (tileAt (arrayStop s x) x).arr.cells = [] := by
  unfold arrayStop
  rw [modArr_own, if_pos rfl]
  exact ⟨rfl, rfl⟩

theorem arrayStop_others (s : State) {x : Nat} (h : x ≠ t) : tileAt (arrayStop s x) t = tileAt s t := by
  unfold arrayStop
  rw [modArr_own, if_neg h, modDrain_own, if_neg h]

theorem arrayStop_vec (s : State) (x : Nat) : (tileAt (arrayStop s x) t).vec = (tileAt s t).vec := by
  by_cases h : x = t
  · subst h
    unfold arrayStop
    rw [modArr_own, if_pos rfl, modDrain_own, if_pos rfl]
  · rw [arrayStop_others s h]

/-- The array's fault stop, on whatever tile, leaves a stopped tile stopped. -/
theorem arrayStop_keepsStop (s : State) (x : Nat) : KeepsStop t s (arrayStop s x) := by
  by_cases h : x = t
  · subst h
    exact ⟨fun _ => (arrayStop_stopped s x).1, fun _ => (arrayStop_stopped s x).2, fun hv => by rw [arrayStop_vec, hv], rfl⟩
  · exact .of_units (by rw [arrayStop_others s h]) (arrayStop_vec s x) rfl

theorem engineStop_stopped (s : State) (x : Nat) : (tileAt (engineStop s x) x).vec.stopped = true := by
  rw [engineStop, modVec_own, if_pos rfl]

theorem engineStop_arr (s : State) (x : Nat) : (tileAt (engineStop s x) t).arr = (tileAt s t).arr := by
  rw [engineStop, modVec_own]
  split
  next h => rw [h]
  · rfl

theorem engineStop_keepsStop (s : State) (x : Nat) : KeepsStop t s (engineStop s x) := by
  by_cases h : x = t
  · subst h
    exact ⟨fun hf => by rw [engineStop_arr, hf], fun hc => by rw [engineStop_arr, hc], fun _ => engineStop_stopped s x, rfl⟩
  · exact .of_units (engineStop_arr s x) (by rw [engineStop, modVec_own, if_neg h]) rfl

/-- The purge of whatever tile leaves a stopped tile stopped. -/
theorem purgeTile_keepsStop (a : Nat) (s : State) (x : Nat) : KeepsStop t s (purgeTile a s x) := by
  simp only [purgeTile]
  refine .trans ((arrayStop_keepsStop s x).trans (engineStop_keepsStop _ x)) (.trans ?_ (.foldl (fun s r => endPurgedRun_keepsStop s r) _ _))
  generalize engineStop (arrayStop s x) x = u
  refine .trans ?_ (.of_modTile _ x (fun _ => rfl) (fun _ => rfl))
  refine .trans ?_ (.of_modDrain _ x _)
  exact .of_modArr u x (fun _ => rfl) (fun _ => rfl)

theorem broadcastPurge_keepsStop (s : State) (q : Nat) : KeepsStop t s (broadcastPurge s q) := by
  unfold broadcastPurge
  exact .trans (.foldl (fun s x => purgeTile_keepsStop _ s x) _ s) (.of_tiles rfl rfl)

/-! ### The abort -/

theorem beginPurge_keepsStop (s : State) (q a : Nat) (faulted wide : Bool) : KeepsStop t s (beginPurge s q a faulted wide) := by
  simp only [beginPurge]
  have sent : ∀ u, KeepsStop t u (if u.mgt.running then broadcastPurge u q else u) := fun u => by
    split
    · exact broadcastPurge_keepsStop u q
    · exact .refl u
  have purged : ∀ f, KeepsStop t s (purgePart (modPart s q f) q a wide) := fun f => (KeepsStop.of_modPart s q f).trans (purgePart_keepsStop _ q a wide)
  split
  · exact ((purged _).trans (sent _)).trans (setPartState_keepsStop _ q _)
  · exact (purged _).trans (sent _)

theorem raiseVote_keepsStop (s : State) (q i : Nat) : KeepsStop t s (raiseVote s q i) := by
  unfold raiseVote
  split
  · exact .refl s
  · exact .of_tiles rfl rfl

theorem trace_keepsStop (s : State) (unit ev arg : Nat) : KeepsStop t s (trace s unit ev arg) := .of_tiles rfl rfl

theorem doAbort_keepsStop (s : State) (q cause a : Nat) (faulted wide : Bool) : KeepsStop t s (doAbort s q cause a faulted wide) := by
  unfold doAbort
  refine .trans ?_ (beginPurge_keepsStop _ q a faulted wide)
  refine .trans ?_ (trace_keepsStop _ _ _ _)
  refine .trans ?_ (.of_modPart _ q _)
  split
  · exact flood_keepsStop s q _
  · exact .trans (flood_keepsStop s q _) (raiseVote_keepsStop _ q _)

theorem extendAbort_keepsStop (s : State) (q a : Nat) : KeepsStop t s (extendAbort s q a) := by
  unfold extendAbort
  refine .trans ?_ (purgeMessages_keepsStop _ q a false)
  refine .trans ?_ (purgeFabric_keepsStop _ q a)
  exact .of_modPart s q _

theorem stepAbort_keepsStop (s : State) (q cause a : Nat) (faulted wide : Bool) : KeepsStop t s (stepAbort s q cause a faulted wide) := by
  have again : KeepsStop t s (if a < abortTickOf (partAt s q) then extendAbort s q a else s) := by
    split
    · exact extendAbort_keepsStop s q a
    · exact .refl s
  have aborts : KeepsStop t s (if (partAt s q).purge.isSome then
      modPart (if a < abortTickOf (partAt s q) then extendAbort s q a else s) q
        (fun x => { x with purge := x.purge.map (fun y => { y with faulted := y.faulted || faulted }) })
      else doAbort s q cause a faulted wide) := by
    split
    · exact again.trans (.of_modPart _ q _)
    · exact doAbort_keepsStop s q cause a faulted wide
  simp only [stepAbort]
  split
  · exact aborts
  · exact aborts
  · exact aborts
  · exact .refl s

/-- A tile's fault aborts its partition's step and leaves a stopped tile stopped. -/
theorem tileFault_keepsStop (s : State) (x : Nat) : KeepsStop t s (tileFault s x) := by
  unfold tileFault
  split
  · exact stepAbort_keepsStop s _ _ _ _ _
  · exact .refl s

/-- A fault stop of the array leaves it stopped and without cells (R99). -/
theorem arrayFault_stops (s : State) (t flag row col seg code : Nat) :
    (tileAt (arrayFault s t flag row col seg code) t).arr.faultStop = true ∧ (tileAt (arrayFault s t flag row col seg code) t).arr.cells = [] := by
  unfold arrayFault
  generalize logError _ _ _ _ _ _ _ = u
  have kept := (KeepsStop.of_modDrain (t := t) (arrayStop u t) t _).trans (tileFault_keepsStop (queueInvalid (arrayStop u t) t) t)
  exact ⟨kept.array (arrayStop_stopped u t).1, kept.cells (arrayStop_stopped u t).2⟩

end Sys2Proof.Machine
end

section
/-! SUPPORT. CELL_FIRE: what a cell takes, what it makes of it, and which cells stay (R73 to R75). -/

namespace Sys2Proof.Machine

/-! ### Cells by place -/

theorem cellAt_modCell_same (a : Arr) (k n : Nat) (f : Cell → Cell) : cellAt (modCell a k n f) k n = f (cellAt a k n) := by
  rw [cellAt, modCell, Tab.at_put_same]

theorem cellAt_modCell_ne (a : Arr) {k n k' n' : Nat} (f : Cell → Cell) (h : 128 * k + n ≠ 128 * k' + n') :
    cellAt (modCell a k n f) k' n' = cellAt a k' n' := by
  rw [cellAt, modCell, Tab.at_put_ne _ h, cellAt]

theorem laneIn_modCell (a : Arr) (k n : Nat) (f : Cell → Cell) : (modCell a k n f).laneIn = a.laneIn := rfl

/-- A swap wave's end notes the set that is active; the cells and the lanes stay. -/
theorem waveDone_keeps (a : Arr) (k n : Nat) (swap : Bool) : (waveDone a k n swap).cells = a.cells ∧ (waveDone a k n swap).laneIn = a.laneIn := by
  unfold waveDone
  split <;> exact ⟨rfl, rfl⟩

/-! ### Inputs taken -/

section
variable {a : Arr} {k n : Nat} (e : LaneEl)

/-- The array with the lane element off its lane, or off the west neighbour's output. -/
def takeWest (a : Arr) (k n : Nat) : Arr :=
  if n = 0 then { a with laneIn := a.laneIn.put k ((a.laneIn.at k []).drop 1) }
  else modCell a k (n - 1) (fun c => { c with east := c.east.drop 1 })

/-- The array with the north neighbour's output taken, where there is one in the segment. -/
def takeNorth (a : Arr) (k n : Nat) : Arr :=
  if k % 32 = 0 then a else modCell a (k - 1) n (fun c => { c with south := c.south.drop 1 })

theorem takeInputs_eq (a : Arr) (k n : Nat) (e : LaneEl) : takeInputs a k n e =
    if n = 127 then takeNorth (takeWest a k n) k n else modCell (takeNorth (takeWest a k n) k n) k n (fun c => { c with east := c.east ++ [e] }) := rfl

theorem cellAt_takeWest {k' n' : Nat} (h : n ≠ 0 → 128 * k + (n - 1) ≠ 128 * k' + n') : cellAt (takeWest a k n) k' n' = cellAt a k' n' := by
  unfold takeWest
  split
  · rfl
  next h0 => exact cellAt_modCell_ne _ _ (h h0)

theorem cellAt_takeNorth {k' n' : Nat} (h : k % 32 ≠ 0 → 128 * (k - 1) + n ≠ 128 * k' + n') : cellAt (takeNorth a k n) k' n' = cellAt a k' n' := by
  unfold takeNorth
  split
  · rfl
  next h0 => exact cellAt_modCell_ne _ _ (h h0)

theorem laneIn_takeNorth : (takeNorth a k n).laneIn = a.laneIn := by
  unfold takeNorth
  split <;> rfl

/-- The firing cell once its inputs are taken: its element stands at its east output, but for the last column's. -/
theorem cellAt_takeInputs_same (hn : n < 128) :
    cellAt (takeInputs a k n e) k n = { cellAt a k n with east := if n = 127 then (cellAt a k n).east else (cellAt a k n).east ++ [e] } := by
  have kept : cellAt (takeNorth (takeWest a k n) k n) k n = cellAt a k n := by
    rw [cellAt_takeNorth (by omega), cellAt_takeWest (by omega)]
  rw [takeInputs_eq]
  split
  · rw [kept]
  · rw [cellAt_modCell_same, kept]

/-- Another cell, once the inputs are taken, is as the takings leave it. -/
theorem cellAt_takeInputs_ne {k' n' : Nat} (h : 128 * k + n ≠ 128 * k' + n') :
    cellAt (takeInputs a k n e) k' n' = cellAt (takeNorth (takeWest a k n) k n) k' n' := by
  rw [takeInputs_eq]
  split
  · rfl
  · exact cellAt_modCell_ne _ _ h

theorem laneIn_takeInputs : (takeInputs a k n e).laneIn = (takeWest a k n).laneIn := by
  rw [takeInputs_eq]
  split
  · exact laneIn_takeNorth
  · rw [laneIn_modCell, laneIn_takeNorth]

/-! ### What a cell makes of an element -/

/-- The partial sum that a cell's north input brings: none for a swap, or at a segment's top row. -/
def northSum (x : Option ColEl) : Int :=
  match x with
  | some (.psum v _) => v.toInt
  | _ => 0

theorem cellOut_east (c : Cell) (e : LaneEl) (x : Option ColEl) : (cellOut c e x).east = c.east := by
  unfold cellOut
  split <;> rfl

/-- On a digit a cell sends its sum south and keeps its weights (R73). -/
theorem cellOut_digit {e : LaneEl} (h : e.swap = false) (c : Cell) (x : Option ColEl) :
    cellOut c e x = { c with south := c.south ++ [.psum (BitVec.ofInt 25 (northSum x + c.active.toInt * laneDigit e))
      (parOf 25 (BitVec.ofInt 25 (northSum x + c.active.toInt * laneDigit e)).toNat)] } := by
  unfold cellOut
  rw [if_neg (by rw [h]; decide)]
  rfl

/-- On a swap a cell exchanges its weights (R74). -/
theorem cellOut_swap {e : LaneEl} (h : e.swap = true) (c : Cell) (x : Option ColEl) :
    (cellOut c e x).south = c.south ++ [.swapTok] ∧ (cellOut c e x).active = c.shadow ∧ (cellOut c e x).shadow = c.active
      ∧ (cellOut c e x).full = false := by
  unfold cellOut
  rw [if_pos h]
  exact ⟨rfl, rfl, rfl, rfl⟩

/-! ### The firing -/

/-- The array once cell (k, n) has fired on an element. -/
def fired (a : Arr) (k n : Nat) (e : LaneEl) : Arr :=
  waveDone (modCell (takeInputs a k n e) k n (fun c => cellOut c e (northIn a k n).head?)) k n e.swap

theorem cellAt_fired_same (hn : n < 128) : cellAt (fired a k n e) k n =
    cellOut { cellAt a k n with east := if n = 127 then (cellAt a k n).east else (cellAt a k n).east ++ [e] } e (northIn a k n).head? := by
  rw [cellAt, fired, (waveDone_keeps _ k n e.swap).1, ← cellAt, cellAt_modCell_same, cellAt_takeInputs_same e hn]

theorem cellAt_fired_ne {k' n' : Nat} (h : 128 * k + n ≠ 128 * k' + n') :
    cellAt (fired a k n e) k' n' = cellAt (takeNorth (takeWest a k n) k n) k' n' := by
  rw [cellAt, fired, (waveDone_keeps _ k n e.swap).1, ← cellAt, cellAt_modCell_ne _ _ h, cellAt_takeInputs_ne e h]

theorem laneIn_fired : (fired a k n e).laneIn = (takeWest a k n).laneIn := by
  rw [fired, (waveDone_keeps _ k n e.swap).2, laneIn_modCell, laneIn_takeInputs]

/-- The element has left the west input. -/
theorem westIn_fired (hn : n < 128) : westIn (fired a k n e) k n = (westIn a k n).drop 1 := by
  by_cases h : n = 0
  · rw [westIn, westIn, if_pos h, if_pos h, laneIn_fired, takeWest, if_pos h, Tab.at_put_same]
  · rw [westIn, westIn, if_neg h, if_neg h, cellAt_fired_ne e (by omega), cellAt_takeNorth (by omega), takeWest, if_neg h, cellAt_modCell_same]

/-- The partial sum or swap has left the north input. -/
theorem northIn_fired (hn : n < 128) : northIn (fired a k n e) k n = (northIn a k n).drop 1 := by
  by_cases h : k % 32 = 0
  · rw [northIn, northIn, if_pos h, if_pos h, List.drop_nil]
  · rw [northIn, northIn, if_neg h, if_neg h, cellAt_fired_ne e (by omega), takeNorth, if_neg h, cellAt_modCell_same,
      cellAt_takeWest (by omega)]

end

/-! ### The command -/

section
variable {s : State} {t k n : Nat} {e : LaneEl} {rest : List LaneEl}

/-- A ready cell whose inputs have good parity fires. -/
theorem cellFire_fires (hf : (tileAt s t).arr.faultStop = false) (hw : westIn (tileAt s t).arr k n = e :: rest)
    (hr : cellReady (tileAt s t).arr k n e = true) (he : e.par = (laneEl e.digit e.sign e.swap).par)
    (hp : psumBad (northIn (tileAt s t).arr k n).head? = false)
    (hc : e.swap = true ∨ (cellAt (tileAt s t).arr k n).activePar = parOf 16 (cellAt (tileAt s t).arr k n).active.toNat) :
    cellFire t k n s = modArr s t (fun a => fired a k n e) := by
  have weight : (!e.swap && ((cellAt (tileAt s t).arr k n).activePar != parOf 16 (cellAt (tileAt s t).arr k n).active.toNat)) = false := by
    rcases hc with h | h <;> simp [h]
  simp only [cellFire, hw, hf, hr, hp, weight, bne_iff_ne, ne_eq, he, not_true_eq_false, Bool.not_true, Bool.or_self, Bool.false_eq_true, if_false]
  rfl

/-- An element of bad parity stops the array. -/
theorem cellFire_parity (hf : (tileAt s t).arr.faultStop = false) (hw : westIn (tileAt s t).arr k n = e :: rest)
    (hr : cellReady (tileAt s t).arr k n e = true) (he : e.par ≠ (laneEl e.digit e.sign e.swap).par) :
    cellFire t k n s = arrayFault s t 1 k n (k / 32) 1 := by
  simp [cellFire, hw, hf, hr, he]

end

end Sys2Proof.Machine

namespace Sys2Proof

open Sys2Proof.Machine

/-- Settles O38: a firing's west and north inputs lose their heads, the cell itself becomes what `cellOut` makes of it, and a parity error is
the array's fault stop. -/
theorem cellsMultiplyAddAndSwap : Obligations.CellsMultiplyAddAndSwap := by
  intro t k n e rest s hk hn a c north hf hw hr
  refine ⟨fun he hp hc => ⟨_, congrArg Host.Outcome.next (cellFire_fires hf hw hr he hp hc), ?_⟩,
    fun he => ⟨_, congrArg Host.Outcome.next (cellFire_parity hf hw hr he), arrayFault_stops s t 1 k n (k / 32) 1⟩⟩
  have harr : (tileAt (modArr s t (fun a => fired a k n e)) t).arr = fired a k n e := by rw [modArr_own, if_pos rfl]
  have hcell := cellAt_fired_same (a := a) (k := k) e hn
  dsimp only
  rw [harr, hcell]
  refine ⟨?_, northIn_fired e hn, ?_, fun h => ?_, fun h => ?_, fun x hx => ?_, ?_, rfl⟩
  · rw [westIn_fired e hn, hw]
    rfl
  · rw [cellOut_east]
  · rw [cellOut_digit h]
    exact ⟨_, rfl, rfl, rfl, rfl⟩
  · exact cellOut_swap h _ _
  · rw [modArr_own, if_neg (Ne.symm hx)]
  · rw [modArr_own, if_pos rfl]

end Sys2Proof
end

section
/-! SUPPORT. FIRING_COMPLETE and TOKEN_ARRIVAL: what the scheduler's notes leave, what a completed firing changes, and a token's fields
(R95, R205, R206, R208, R220, R226). -/

namespace Sys2Proof.Machine

/-! ### The scheduler's notes -/

/-- A state with tile t's queue of ready firings, its finish cycle and its log of firings noted anew. -/
structure SchedNoted (t : Nat) (s u : State) : Prop where
  own : ∃ rd o fn lg, tileAt u t =
    { tileAt s t with sched := { (tileAt s t).sched with ready := rd, order := o, finish := fn, log := lg } }
  others : ∀ x, x ≠ t → tileAt u x = tileAt s x
  rest : u = { s with tiles := u.tiles }

namespace SchedNoted

variable {t : Nat} {s u v : State}

theorem refl (s : State) : SchedNoted t s s := ⟨⟨_, _, _, _, rfl⟩, fun _ _ => rfl, rfl⟩

theorem trans (h : SchedNoted t s u) (g : SchedNoted t u v) : SchedNoted t s v := by
  obtain ⟨rd, o, fn, lg, hown⟩ := h.own
  obtain ⟨rd', o', fn', lg', gown⟩ := g.own
  refine ⟨⟨rd', o', fn', lg', by rw [gown, hown]⟩, fun x hx => (g.others x hx).trans (h.others x hx), ?_⟩
  rw [g.rest, h.rest]

theorem of_modSched {f : Sched → Sched} (h : ∀ c, ∃ rd o fn lg, f c = { c with ready := rd, order := o, finish := fn, log := lg }) (s : State) :
    SchedNoted t s (modSched s t f) := by
  obtain ⟨rd, o, fn, lg, hf⟩ := h (tileAt s t).sched
  exact ⟨⟨rd, o, fn, lg, by rw [modSched_own, if_pos rfl, hf]⟩, fun x hx => by rw [modSched_own, if_neg (Ne.symm hx)], rfl⟩

theorem ctxOf_eq (h : SchedNoted t s u) (a : Nat) : ctxOf u t a = ctxOf s t a := by
  obtain ⟨_, _, _, _, hown⟩ := h.own
  rw [ctxOf, hown, ctxOf]

theorem arr_eq (h : SchedNoted t s u) : (tileAt u t).arr = (tileAt s t).arr := by
  obtain ⟨_, _, _, _, hown⟩ := h.own
  rw [hown]

end SchedNoted

/-- Actors that have become ready are noted in their queue. -/
theorem refresh_noted (s : State) (t : Nat) : SchedNoted t s (refresh s t) := by
  unfold refresh
  split
  · exact .refl s
  · split
    · exact .refl s
    · refine foldl_related .refl .trans (fun s x => ?_) _ s
      split
      · exact .of_modSched (fun c => ⟨_, _, c.finish, c.log, rfl⟩) s
      · exact .refl s

theorem noteFinish_noted (old s : State) (t : Nat) : SchedNoted t s (noteFinish old s t) := by
  simp only [noteFinish]
  split
  · exact .refl s
  · split
    · exact .of_modSched (fun c => ⟨c.ready, c.order, _, c.log, rfl⟩) s
    · exact .refl s

theorem logFiring_noted (s : State) (q t : Nat) (r : ActorRec) (f : Firing) : SchedNoted t s (logFiring s q t r f) := by
  unfold logFiring
  split
  · exact .of_modSched (fun c => ⟨c.ready, c.order, c.finish, _, rfl⟩) s
  · exact .refl s

/-! ### Contexts -/

theorem ctxOf_modActor (s : State) (t a b : Nat) (f : ActorSt → ActorSt) :
    ctxOf (modActor s t a f) t b = if a = b then f (ctxOf s t a) else ctxOf s t b := by
  rw [ctxOf, modActor, modSched_own, if_pos rfl]
  split
  next h => rw [h, Tab.at_put_same, ctxOf]
  next h => rw [Tab.at_put_ne _ h, ctxOf]

theorem running_modActor (s : State) (t a : Nat) (f : ActorSt → ActorSt) :
    (tileAt (modActor s t a f) t).sched.running = (tileAt s t).sched.running := by
  rw [modActor, modSched_own, if_pos rfl]

theorem tileAt_modActor_ne (s : State) {t x : Nat} (h : x ≠ t) (a : Nat) (f : ActorSt → ActorSt) : tileAt (modActor s t a f) x = tileAt s x := by
  rw [modActor, modSched_own, if_neg (Ne.symm h)]

theorem arr_modActor (s : State) (t a : Nat) (f : ActorSt → ActorSt) : (tileAt (modActor s t a f) t).arr = (tileAt s t).arr := by
  rw [modActor, modSched_own, if_pos rfl]

theorem waitingPlan_congr {s u : State} {t : Nat} (h : (tileAt u t).arr = (tileAt s t).arr) : waitingPlan u t = waitingPlan s t := by
  rw [waitingPlan, h, waitingPlan]

/-! ### A firing's end -/

/-- With no guard open a firing's tokens reach none. -/
theorem guardTokens_none {s : State} (h : s.fs.guards = []) (t a : Nat) : guardTokens s t a = s := by
  have hfs : { s.fs with guards := [] } = s.fs := by rw [← h]
  simp only [guardTokens, freeGuards, modFs, h, List.map_nil, List.filter_nil, List.flatMap_nil, List.foldl_nil, hfs]

theorem mem_insertNat (l : List Nat) (x : Nat) : x ∈ insertNat l x := by
  induction l with
  | nil => exact List.mem_singleton_self x
  | cons y l ih =>
    unfold insertNat
    split
    next h => exact h ▸ List.mem_cons_self
    · split
      · exact List.mem_cons_self
      · exact List.mem_cons_of_mem _ ih

/-- A close with no plan that waits for its window is kept (R95). -/
theorem gateClose_kept {s : State} {t : Nat} (h : waitingPlan s t = none) (slot : Nat) :
    gateClose s t slot = modArr s t (fun a => { a with keptClose := insertNat a.keptClose slot }) := by
  rw [gateClose, h]

/-- What a firing's end leaves but for tokens, counts and the actor's own context: the running firings, the memory, the registers, the other
tiles; and a GATE_CLOSE is kept. -/
structure FiringEnds (s u : State) (t : Nat) (r : ActorRec) : Prop where
  ctx : ∀ b, ctxOf u t b = ctxOf s t b
  running : (tileAt u t).sched.running = (tileAt s t).sched.running
  others : ∀ x, x ≠ t → tileAt u x = tileAt s x
  tokens : u.tokens = s.tokens
  mem : u.mem = s.mem
  regs : u.regs = s.regs
  close : r.gateClose = true → r.layerSlot ∈ (tileAt u t).arr.keptClose

/-- A GATE_CLOSE's close, with no plan that waits. -/
theorem closeSlot_ends {s : State} {t : Nat} {r : ActorRec} (h : r.gateClose = false ∨ waitingPlan s t = none) :
    FiringEnds s (if r.gateClose then gateClose s t r.layerSlot else s) t r := by
  split
  next hc =>
    have hw := h.resolve_left (by rw [hc]; decide)
    rw [gateClose_kept hw]
    refine ⟨fun b => ?_, ?_, fun x hx => ?_, rfl, rfl, rfl, fun _ => ?_⟩
    · rw [ctxOf, modArr_own, if_pos rfl, ctxOf]
    · rw [modArr_own, if_pos rfl]
    · rw [modArr_own, if_neg (Ne.symm hx)]
    · rw [modArr_own, if_pos rfl]
      exact mem_insertNat _ _
  next hc => exact ⟨fun _ => rfl, rfl, fun _ _ => rfl, rfl, rfl, rfl, fun h' => absurd h' hc⟩

theorem FiringEnds.noted {s u v : State} {t : Nat} {r : ActorRec} (h : FiringEnds s u t r) (g : SchedNoted t u v) : FiringEnds s v t r := by
  have harr := g.arr_eq
  obtain ⟨_, _, _, _, hown⟩ := g.own
  refine ⟨fun b => (g.ctxOf_eq b).trans (h.ctx b), by rw [hown]; exact h.running, fun x hx => (g.others x hx).trans (h.others x hx), ?_, ?_, ?_,
    fun hc => harr ▸ h.close hc⟩
  · rw [g.rest]; exact h.tokens
  · rw [g.rest]; exact h.mem
  · rw [g.rest]; exact h.regs

theorem FiringEnds.after_noted {s u v : State} {t : Nat} {r : ActorRec} (g : SchedNoted t s u) (h : FiringEnds u v t r) : FiringEnds s v t r := by
  obtain ⟨_, _, _, _, hown⟩ := g.own
  refine ⟨fun b => (h.ctx b).trans (g.ctxOf_eq b), h.running.trans (by rw [hown]), fun x hx => (h.others x hx).trans (g.others x hx),
    h.tokens.trans ?_, h.mem.trans ?_, h.regs.trans ?_, h.close⟩
  all_goals rw [g.rest]

/-- A confirmed firing's completion: its actor counts it, its tokens are on the mesh (R208). -/
theorem settleFiring_ends {s : State} {t : Nat} {r : ActorRec} (hg : s.fs.guards = []) (hc : r.gateClose = false ∨ waitingPlan s t = none)
    (q : Nat) (f : Firing) (tokens : List (BitVec 128)) :
    FiringEnds (modActor (sendTokens s t tokens) t f.actor (fun c => { c with completed := c.completed + 1 })) (settleFiring s q t r f tokens) t r := by
  have hguards : guardTokens (sendTokens s t tokens) t f.actor = sendTokens s t tokens :=
    guardTokens_none (s := sendTokens s t tokens) hg t f.actor
  simp only [settleFiring, hguards]
  generalize hs3 : modActor (sendTokens s t tokens) t f.actor (fun c => { c with completed := c.completed + 1 }) = s3
  have harr : (tileAt s3 t).arr = (tileAt s t).arr := by rw [← hs3, arr_modActor]; rfl
  have logged := logFiring_noted s3 q t r f
  have hplan : waitingPlan (triggerBuckets (logFiring s3 q t r f) q t f) t = waitingPlan s t := waitingPlan_congr (logged.arr_eq.trans harr)
  have closed := closeSlot_ends (s := triggerBuckets (logFiring s3 q t r f) q t f) (t := t) (r := r) (by rw [hplan]; exact hc)
  have bucketed : FiringEnds (logFiring s3 q t r f) _ t r := ⟨closed.ctx, closed.running, closed.others, closed.tokens, closed.mem, closed.regs, closed.close⟩
  exact ((FiringEnds.after_noted logged bucketed).noted (noteFinish_noted s _ t)).noted (refresh_noted _ t)

/-! ### FIRING_COMPLETE -/

section
variable {s : State} {t a q : Nat} {r : ActorRec} {f : Firing}

/-- An actor's firing whose work is done. -/
def doneOf (a : Nat) (f : Firing) : Bool := f.actor = a && f.finished

/-- The state with the actor's oldest finished firing off the running ones. -/
def offRunning (s : State) (t a : Nat) : State := modSched s t (fun c => { c with running := removeFirst (doneOf a) c.running })

theorem firingComplete_none (h : (tileAt s t).sched.running.find? (doneOf a) = none) : firingComplete t a s = s := by
  simp only [firingComplete]
  split
  next hf => cases h.symm.trans hf
  · rfl

theorem firingComplete_some (hq : partOfTile s t = some q) (hr : actorRec s t a = some r)
    (hf : (tileAt s t).sched.running.find? (doneOf a) = some f) :
    firingComplete t a s =
      if f.rerun then
        (if r.gateClose then gateClose (guardTokens (offRunning s t a) t a) t r.layerSlot else guardTokens (offRunning s t a) t a)
      else if f.spec then modSched (offRunning s t a) t (fun c => { c with
        hold := c.hold ++ (firingTokens s q t r f).map (fun k => (a, k))
        specDone := c.specDone ++ [f] })
      else settleFiring (offRunning s t a) q t r f (firingTokens s q t r f) := by
  have hf' : (tileAt s t).sched.running.find? (fun f => decide (f.actor = a) && f.finished) = some f := hf
  simp only [firingComplete, hq, hr, hf']
  rfl

theorem tileAt_offRunning (s : State) (t a : Nat) : tileAt (offRunning s t a) t =
    { tileAt s t with sched := { (tileAt s t).sched with running := removeFirst (doneOf a) (tileAt s t).sched.running } } := by
  rw [offRunning, modSched_own, if_pos rfl]

theorem ctxOf_offRunning (s : State) (t a b : Nat) : ctxOf (offRunning s t a) t b = ctxOf s t b := by
  rw [ctxOf, tileAt_offRunning, ctxOf]

theorem tileAt_offRunning_ne {x : Nat} (h : x ≠ t) : tileAt (offRunning s t a) x = tileAt s x := by
  rw [offRunning, modSched_own, if_neg (Ne.symm h)]

theorem waitingPlan_offRunning (s : State) (t a : Nat) : waitingPlan (offRunning s t a) t = waitingPlan s t :=
  waitingPlan_congr (by rw [tileAt_offRunning])

/-- The firing found is the actor's. -/
theorem actor_of_found (h : (tileAt s t).sched.running.find? (doneOf a) = some f) : f.actor = a := by
  have := List.find?_some h
  simp only [doneOf, Bool.and_eq_true, decide_eq_true_eq] at this
  exact this.1

end

/-! ### Tokens -/

/-- A token's fields in its 128 bits (R205). -/
theorem tokenBits_toNat {a slot t tick epoch : Nat} (taken : Bool) (ha : a < 2 ^ 11) (hs : slot < 8) (ht : t < 1024) (hk : tick < 2 ^ 24)
    (he : epoch < 2 ^ 16) : (tokenBits a slot taken t tick epoch).toNat
      = a + slot * 2 ^ 11 + b2n taken * 2 ^ 14 + t * 2 ^ 16 + tick * 2 ^ 32 + epoch * 2 ^ 64 := by
  have hb : b2n taken ≤ 1 := by cases taken <;> decide
  rw [tokenBits, BitVec.toNat_ofNat]
  omega

theorem tokenBits_fields {a slot t tick epoch : Nat} (taken : Bool) (ha : a < 2 ^ 11) (hs : slot < 8) (ht : t < 1024) (hk : tick < 2 ^ 24)
    (he : epoch < 2 ^ 16) :
    let v := (tokenBits a slot taken t tick epoch).toNat
    field v 0 11 = a ∧ field v 11 3 = slot ∧ v.testBit 14 = taken ∧ tokenTile (tokenBits a slot taken t tick epoch) = t ∧ field v 64 16 = epoch := by
  have hb : b2n taken ≤ 1 := by cases taken <;> decide
  have bit : decide (b2n taken = 1) = taken := by cases taken <;> rfl
  simp only [tokenTile, field_eq, tokenBits_toNat taken ha hs ht hk he, Nat.testBit_eq_decide_div_mod_eq]
  refine ⟨by omega, by omega, ?_, by omega, by omega⟩
  refine Eq.trans (decide_eq_decide.2 ?_) bit
  omega

section
variable {s : State} {tok : BitVec 128} {x : (Nat × BitVec 128) × List (Nat × BitVec 128)}

theorem tokenArrival_none (h : takeOldest sameRoute (fun x => decide (x.2 = tok)) s.tokens = none) : tokenArrival tok s = s := by
  simp only [tokenArrival, h]

theorem tokenArrival_nowhere (h : takeOldest sameRoute (fun x => decide (x.2 = tok)) s.tokens = some x) (hq : partOfTile s (tokenTile tok) = none) :
    tokenArrival tok s = { s with tokens := x.2 } := by
  simp only [tokenArrival, h, hq]

theorem tokenArrival_some {q : Nat} (h : takeOldest sameRoute (fun x => decide (x.2 = tok)) s.tokens = some x)
    (hq : partOfTile s (tokenTile tok) = some q) : tokenArrival tok s =
      if field tok.toNat 64 16 ≠ (partAt s q).abortEpoch then dropStale { s with tokens := x.2 }
      else acceptToken (guardReached { s with tokens := x.2 } x.1.1 (tokenTile tok) (field tok.toNat 0 11)) (tokenTile tok)
        (field tok.toNat 0 11) (field tok.toNat 11 3) (tok.toNat.testBit 14) := by
  simp only [tokenArrival, h, hq]

end

/-! ### A token at its scoreboard -/

section
variable {s : State} {t a slot q : Nat} {r : ActorRec}

/-- A token that counts: its slot one up, its TAKEN bit kept on slot 0 (R206). -/
def countToken (slot : Nat) (taken : Bool) (c : ActorSt) : ActorSt :=
  { c with
    counts := c.counts.set slot (c.counts.getD slot 0 + 1)
    takens := if slot = 0 then c.takens ++ [taken] else c.takens }

/-- What makes a token one that its actor may not take (R206). -/
def Untakable (s : State) (q t a slot : Nat) (r : ActorRec) : Prop :=
  r.slots ≤ slot ∨ r.firings ≤ (ctxOf s t a).fired ∨ 65535 ≤ (ctxOf s t a).counts.getD slot 0 ∨ (r.remote = false ∧ isFed s q t a slot = false)

theorem acceptToken_counts (hq : partOfTile s t = some q) (hr : actorRec s t a = some r) (hs : slot < r.slots) (hf : (ctxOf s t a).fired < r.firings)
    (hc : (ctxOf s t a).counts.getD slot 0 < 65535) (hfed : r.remote = true ∨ isFed s q t a slot = true) (hspec : (ctxOf s t a).specOpen = false)
    (taken : Bool) : acceptToken s t a slot taken = refresh (modActor s t a (countToken slot taken)) t := by
  have fed : (!r.remote && !isFed s q t a slot) = false := by rcases hfed with h | h <;> simp [h]
  have checked : ∀ f, (f (ctxOf s t a)).specOpen = false → checkSpec (modActor s t a f) q t a r = modActor s t a f := fun f h => by
    simp only [checkSpec, ctxOf_modActor, if_pos, h, Bool.not_false, Bool.true_or]
  simp only [acceptToken, hq, hr, fed, Nat.not_le.2 hs, Nat.not_le.2 hf, Nat.not_le.2 hc, decide_false, Bool.or_self, Bool.false_eq_true, if_false]
  rw [checked _ hspec]
  rfl

theorem acceptToken_extra (hq : partOfTile s t = some q) (hr : actorRec s t a = some r) (h : Untakable s q t a slot r) (taken : Bool) :
    acceptToken s t a slot taken = extraToken s t := by
  simp only [acceptToken, hq, hr]
  refine if_pos ?_
  simp only [Bool.or_eq_true, decide_eq_true_eq, Bool.and_eq_true, Bool.not_eq_true']
  unfold Untakable at h
  tauto

/-- A token that an actor may not take stops its tile with EXTRA_TOKEN (R206). -/
theorem extraToken_stops (s : State) (t : Nat) :
    (regGet (extraToken s t) (tileReg t 0x780200)).testBit 14 = true ∧ (tileAt (extraToken s t) t).arr.faultStop = true
      ∧ (tileAt (extraToken s t) t).vec.stopped = true := by
  have flag : field (regGet (regFlag s (tileReg t 0x780200) 14) (tileReg t 0x780200)) 14 1 = 1 := regField_regSet s _ 1 (by decide)
  unfold extraToken
  obtain ⟨m, hm⟩ := logError_frame (regFlag s (tileReg t 0x780200) 14) 5 t t (partNum s t) true [1]
  rw [hm]
  have hreg : regGet { regFlag s (tileReg t 0x780200) 14 with mgt := m } (tileReg t 0x780200)
      = regGet (regFlag s (tileReg t 0x780200) 14) (tileReg t 0x780200) := rfl
  generalize { regFlag s (tileReg t 0x780200) 14 with mgt := m } = u at hreg ⊢
  have queue := KeepsStop.of_modDrain (t := t) (arrayStop u t) t
    (fun d => { d with queue := d.queue.map (fun e => { e with hdr := e.hdr ||| BitVec.ofNat 96 (2 ^ 27) }) })
  have engine := engineStop_keepsStop (t := t) (queueInvalid (arrayStop u t) t) t
  have abort := tileFault_keepsStop (t := t) (engineStop (queueInvalid (arrayStop u t) t) t) t
  refine ⟨?_, abort.array (engine.array (queue.array (arrayStop_stopped u t).1)), abort.engine (engineStop_stopped _ t)⟩
  have err := ((arrayStop_keepsStop (t := t) u t).trans queue).trans (engine.trans abort)
  rw [err.schedErr, hreg, Nat.testBit_eq_decide_div_mod_eq]
  rw [field_eq] at flag
  exact decide_eq_true flag

end

end Sys2Proof.Machine

namespace Sys2Proof

open Sys2Proof.Machine

section
variable {s : State} {t a q : Nat} {r : ActorRec} {f : Firing}

theorem confirmedFiring_completes (hq : partOfTile s t = some q) (hr : actorRec s t a = some r)
    (hf : (tileAt s t).sched.running.find? (doneOf a) = some f) (hg : s.fs.guards = []) (hrun : f.rerun = false) (hspec : f.spec = false)
    (hc : r.gateClose = false ∨ waitingPlan s t = none) :
    Completes (.firingComplete t a) s (fun u =>
      u.tokens = s.tokens ++ (firingTokens s q t r f).map (fun k => (t, k))
      ∧ (ctxOf u t a).completed = (ctxOf s t a).completed + 1 ∧ (tileAt u t).sched.running = removeFirst (doneOf a) (tileAt s t).sched.running
      ∧ (r.gateClose = true → r.layerSlot ∈ (tileAt u t).arr.keptClose)
      ∧ (∀ b, b ≠ a → ctxOf u t b = ctxOf s t b) ∧ (∀ x, x ≠ t → tileAt u x = tileAt s x) ∧ u.mem = s.mem ∧ u.regs = s.regs) := by
  have ends := settleFiring_ends (s := offRunning s t a) (t := t) (r := r) hg (by rwa [waitingPlan_offRunning]) q f (firingTokens s q t r f)
  rw [actor_of_found hf] at ends
  have hctx : ∀ b, ctxOf (sendTokens (offRunning s t a) t (firingTokens s q t r f)) t b = ctxOf s t b := ctxOf_offRunning s t a
  have hexec : exec (.firingComplete t a) s = .next (settleFiring (offRunning s t a) q t r f (firingTokens s q t r f)) := by
    refine congrArg Host.Outcome.next ((firingComplete_some hq hr hf).trans ?_)
    rw [if_neg (by rw [hrun]; decide), if_neg (by rw [hspec]; decide)]
  refine ⟨_, hexec, ends.tokens, ?_, ends.running.trans ?_, ends.close, fun b hb => ?_, fun x hx => ?_, ends.mem, ends.regs⟩
  · rw [ends.ctx, ctxOf_modActor, if_pos rfl, hctx]
  · rw [running_modActor]
    exact congrArg (fun x => x.sched.running) (tileAt_offRunning s t a)
  · rw [ends.ctx, ctxOf_modActor, if_neg (Ne.symm hb), hctx]
  · rw [ends.others x hx, tileAt_modActor_ne _ hx]
    exact tileAt_offRunning_ne hx

theorem speculativeFiring_completes (hq : partOfTile s t = some q) (hr : actorRec s t a = some r)
    (hf : (tileAt s t).sched.running.find? (doneOf a) = some f) (hrun : f.rerun = false) (hspec : f.spec = true) :
    Completes (.firingComplete t a) s (fun u =>
      u.tokens = s.tokens ∧ (tileAt u t).sched.running = removeFirst (doneOf a) (tileAt s t).sched.running
      ∧ (tileAt u t).sched.hold = (tileAt s t).sched.hold ++ (firingTokens s q t r f).map (fun k => (a, k))
      ∧ (∀ b, ctxOf u t b = ctxOf s t b) ∧ (∀ x, x ≠ t → tileAt u x = tileAt s x) ∧ u = { s with tiles := u.tiles }) := by
  refine ⟨_, congrArg Host.Outcome.next ((firingComplete_some hq hr hf).trans ((if_neg (by rw [hrun]; decide)).trans (if_pos hspec))),
    rfl, ?_, ?_, fun b => ?_, fun x hx => ?_, rfl⟩
  · rw [modSched_own, if_pos rfl, tileAt_offRunning]
  · rw [modSched_own, if_pos rfl, tileAt_offRunning]
  · rw [ctxOf, modSched_own, if_pos rfl]
    exact ctxOf_offRunning s t a b
  · rw [modSched_own, if_neg (Ne.symm hx), tileAt_offRunning_ne hx]

theorem repeatedFiring_completes (hq : partOfTile s t = some q) (hr : actorRec s t a = some r)
    (hf : (tileAt s t).sched.running.find? (doneOf a) = some f) (hg : s.fs.guards = []) (hrun : f.rerun = true)
    (hc : r.gateClose = false ∨ waitingPlan s t = none) :
    Completes (.firingComplete t a) s (fun u =>
      u.tokens = s.tokens ∧ (tileAt u t).sched.running = removeFirst (doneOf a) (tileAt s t).sched.running
      ∧ (∀ b, ctxOf u t b = ctxOf s t b) ∧ (∀ x, x ≠ t → tileAt u x = tileAt s x) ∧ u.mem = s.mem ∧ u.regs = s.regs) := by
  have ends := closeSlot_ends (s := offRunning s t a) (t := t) (r := r) (by rwa [waitingPlan_offRunning])
  have hexec : exec (.firingComplete t a) s
      = .next (if r.gateClose then gateClose (offRunning s t a) t r.layerSlot else offRunning s t a) := by
    refine congrArg Host.Outcome.next ((firingComplete_some hq hr hf).trans ?_)
    rw [if_pos hrun, guardTokens_none (s := offRunning s t a) hg]
  refine ⟨_, hexec, ends.tokens, ends.running.trans ?_, fun b => (ends.ctx b).trans (ctxOf_offRunning s t a b),
    fun x hx => (ends.others x hx).trans (tileAt_offRunning_ne hx), ends.mem, ends.regs⟩
  rw [tileAt_offRunning]

end

/-- Settles O37: a finished firing is confirmed, speculative or run again; a token at its tile is stale, counted or one too many. -/
theorem tokensAreSentAndCounted : Obligations.TokensAreSentAndCounted := by
  refine ⟨fun t a s => ⟨fun h => congrArg Host.Outcome.next (firingComplete_none h), fun q f r hq hr hf hg => ⟨fun hrun hspec hc => ?_,
    fun hrun hspec => speculativeFiring_completes hq hr hf hrun hspec, fun hrun hc => repeatedFiring_completes hq hr hf hg hrun hc⟩⟩,
    fun s a slot t tick epoch taken ha hs ht hk he => ?_⟩
  · have tokens : (firingTokens s q t r f).map (fun k => (t, k)) = _ := List.map_map
    obtain ⟨u, hu, hsent, hrest⟩ := confirmedFiring_completes hq hr hf hg hrun hspec hc
    exact ⟨u, hu, hsent.trans (congrArg (s.tokens ++ ·) tokens), hrest⟩
  · obtain ⟨factor, fslot, ftaken, ftile, fepoch⟩ := tokenBits_fields taken ha hs ht hk he
    intro tok
    refine ⟨fun h => congrArg Host.Outcome.next (tokenArrival_none h), fun x hx => ⟨fun hq => ?_, fun q hq => ?_⟩⟩
    · exact congrArg Host.Outcome.next (tokenArrival_nowhere hx (ftile.symm ▸ hq))
    have arrives := tokenArrival_some hx (ftile.symm ▸ hq)
    rw [factor, fslot, ftaken, ftile, fepoch] at arrives
    refine ⟨fun hne => ?_, fun r heq hr hslot hfired hcount _ hfed hspec => ?_, fun r heq hr hbad => ?_⟩
    · exact ⟨_, congrArg Host.Outcome.next (arrives.trans (if_pos hne)), dropStale_counts { s with tokens := x.2 }⟩
    · have counts := acceptToken_counts (s := guardReached { s with tokens := x.2 } x.1.1 t a) hq hr hslot hfired hcount hfed hspec taken
      have noted := refresh_noted (modActor (guardReached { s with tokens := x.2 } x.1.1 t a) t a (countToken slot taken)) t
      have hctx : ∀ b, ctxOf (guardReached { s with tokens := x.2 } x.1.1 t a) t b = ctxOf s t b := fun _ => rfl
      refine ⟨_, congrArg Host.Outcome.next (arrives.trans ((if_neg (not_not_intro heq)).trans counts)), ?_, ?_, fun b hb => ?_, ?_, fun y hy => ?_, ?_⟩
      · rw [noted.ctxOf_eq, ctxOf_modActor, if_pos rfl, hctx]
        rfl
      · rw [noted.ctxOf_eq, ctxOf_modActor, if_pos rfl, hctx]
        rfl
      · rw [noted.ctxOf_eq, ctxOf_modActor, if_neg (Ne.symm hb), hctx]
      · rw [noted.rest]
        rfl
      · rw [noted.others y hy, tileAt_modActor_ne _ hy]
        rfl
      · rw [noted.rest]
        rfl
    · have extra := acceptToken_extra (s := guardReached { s with tokens := x.2 } x.1.1 t a) hq hr hbad taken
      exact ⟨_, congrArg Host.Outcome.next (arrives.trans ((if_neg (not_not_intro heq)).trans extra)), extraToken_stops _ t⟩

end Sys2Proof
end

section
/-! SUPPORT. BLOCK_PARTIAL: a port's move on a tag and on a swap (R78, R89, R107). -/

namespace Sys2Proof.Machine

/-! ### The block partial -/

theorem formPartial_nonfinite (tag : Nat) (w : BitVec 8) (ds : List (BitVec 25)) :
    (formPartial tag w ds).nonfinite = true ↔ tag.testBit 12 = true ∨ tag % 256 = 255 ∨ w.toNat = 255 := by
  simp only [formPartial, tagNf, Bool.or_eq_true, decide_eq_true_eq, or_assoc]

theorem formPartial_p (tag : Nat) (w : BitVec 8) (ds : List (BitVec 25)) : (formPartial tag w ds).p =
    if (formPartial tag w ds).nonfinite then 0 else (withPos ds).foldl (fun a x => a + x.2.toInt * 16 ^ x.1) 0 := rfl

/-! ### The port's moves -/

section
variable {a : Arr} {b n tag : Nat} {rest : List Nat}

/-- With nothing at the column's foot the digit stage takes nothing. -/
theorem takeFoot_nothing (h : (cellAt a (32 * b + 31) n).south = []) : takeFoot a b n = a := by
  simp only [takeFoot, h]

/-- A tag whose digits are complete gives its partial to a combine buffer that has room. -/
theorem portMove_partial (ht : a.tags.at (128 * b + n) [] = tag :: rest) (hs : tag ≠ swapMark)
    (hc : (a.combine.at (128 * b + n) []).length < 16) (hd : field tag 8 4 ≤ (a.forming.at (128 * b + n) []).length) :
    portMove a b n = some (pushPartial a (128 * b + n) tag (a.forming.at (128 * b + n) [])) := by
  have room : ¬combineDepth ≤ (a.combine.at (128 * b + n) []).length := Nat.not_le.2 hc
  simp only [portMove, ht, hs, room, hd, if_true, if_false]

/-- The port once a swap has come and its shadow exponent is installed. -/
def installed (a : Arr) (key : Nat) (e : BitVec 8) (rest : List Nat) : Arr :=
  { dropDigit a key with
    expActive := a.expActive.put key e
    expShadow := a.expShadow.drop key
    tags := a.tags.put key rest }

theorem portMove_swap {st : List ColEl} {e : BitVec 8} (ht : a.tags.at (128 * b + n) [] = swapMark :: rest)
    (hd : a.digitStage.at (128 * b + n) [] = .swapTok :: st) (he : a.expShadow.find (128 * b + n) = some e) :
    portMove a b n = some (installed a (128 * b + n) e rest) := by
  simp only [portMove, ht, hd, he, if_true, List.head?_cons]
  rfl

theorem portMove_none (ht : a.tags.at (128 * b + n) [] = []) : portMove a b n = none := by
  simp only [portMove, ht]

/-- The port stops with the partial formed. -/
theorem portRun_partial {a2 : Arr} (hs : (cellAt a (32 * b + 31) n).south = []) (hm : portMove a b n = some a2)
    (hgrown : (a.combine.at (128 * b + n) []).length < (a2.combine.at (128 * b + n) []).length) (fuel : Nat) : portRun (fuel + 1) a b n = a2 := by
  simp only [portRun, takeFoot_nothing hs, hm, hgrown, if_true]

/-- A move that forms no partial is followed by the next. -/
theorem portRun_next {a2 : Arr} (hs : (cellAt a (32 * b + 31) n).south = []) (hm : portMove a b n = some a2)
    (hsame : a2.combine = a.combine) (fuel : Nat) : portRun (fuel + 1) a b n = portRun fuel a2 b n := by
  simp only [portRun, takeFoot_nothing hs, hm, hsame, Nat.lt_irrefl, if_false]

theorem portRun_waits (hs : (cellAt a (32 * b + 31) n).south = []) (hm : portMove a b n = none) (fuel : Nat) : portRun (fuel + 1) a b n = a := by
  simp only [portRun, takeFoot_nothing hs, hm]

end

/-! ### The command -/

section
variable {s : State} {t b n tag : Nat} {rest : List Nat}

theorem blockPartial_partial (hf : (tileAt s t).arr.faultStop = false) (hs : (cellAt (tileAt s t).arr (32 * b + 31) n).south = [])
    (ht : (tileAt s t).arr.tags.at (128 * b + n) [] = tag :: rest) (hm : tag ≠ swapMark)
    (hc : ((tileAt s t).arr.combine.at (128 * b + n) []).length < 16)
    (hd : field tag 8 4 ≤ ((tileAt s t).arr.forming.at (128 * b + n) []).length) :
    blockPartial t b n s = modTile s t (fun x =>
      { x with arr := pushPartial (tileAt s t).arr (128 * b + n) tag ((tileAt s t).arr.forming.at (128 * b + n) []) }) := by
  have run := portRun_partial hs (portMove_partial ht hm hc hd) (by rw [pushPartial, Tab.at_put_same, List.length_append]; exact Nat.lt_succ_self _) 15
  rw [blockPartial, if_neg (by rw [hf]; decide), ← run]
  rfl

theorem blockPartial_swap {e : BitVec 8} (hf : (tileAt s t).arr.faultStop = false) (hs : (cellAt (tileAt s t).arr (32 * b + 31) n).south = [])
    (ht : (tileAt s t).arr.tags.at (128 * b + n) [] = [swapMark]) (hd : (tileAt s t).arr.digitStage.at (128 * b + n) [] = [.swapTok])
    (he : (tileAt s t).arr.expShadow.find (128 * b + n) = some e) :
    blockPartial t b n s = modTile s t (fun x => { x with arr := installed (tileAt s t).arr (128 * b + n) e [] }) := by
  have first := portRun_next hs (portMove_swap ht hd he) rfl 15
  have second := portRun_waits (a := installed (tileAt s t).arr (128 * b + n) e []) hs (portMove_none (Tab.at_put_same _ _ _ _)) 14
  rw [blockPartial, if_neg (by rw [hf]; decide), ← second, ← first]
  rfl

end

end Sys2Proof.Machine

namespace Sys2Proof

open Sys2Proof.Machine

section
variable {s : State} {t b n tag : Nat} {rest : List Nat}

/-- A tag's block partial joins its combine buffer; the port is free for the next tag. -/
theorem blockPartial_forms (hf : (tileAt s t).arr.faultStop = false) (hs : (cellAt (tileAt s t).arr (32 * b + 31) n).south = [])
    (ht : (tileAt s t).arr.tags.at (128 * b + n) [] = tag :: rest) (hm : tag ≠ swapMark)
    (hc : ((tileAt s t).arr.combine.at (128 * b + n) []).length < 16)
    (hd : field tag 8 4 ≤ ((tileAt s t).arr.forming.at (128 * b + n) []).length) :
    let a := (tileAt s t).arr
    Completes (.blockPartial t b n) s (fun u =>
      let c := (tileAt u t).arr
      let w := a.expActive.at (128 * b + n) 0
      let nf := tag.testBit 12 = true ∨ tag % 256 = 255 ∨ w.toNat = 255
      (∃ p, c.combine.at (128 * b + n) [] = a.combine.at (128 * b + n) [] ++ [p] ∧ p.e = (tag % 256 : Nat) + (w.toNat : Int) - 254
        ∧ (nf → p.nonfinite = true ∧ p.p = 0)
        ∧ (¬nf → p.nonfinite = false ∧ p.p = (withPos (a.forming.at (128 * b + n) [])).foldl (fun x y => x + y.2.toInt * 16 ^ y.1) 0))
      ∧ c.tags.at (128 * b + n) [] = rest ∧ c.forming.at (128 * b + n) [] = [] ∧ c.cells = a.cells ∧ (tileAt u t).drain = (tileAt s t).drain
      ∧ (∀ x, x ≠ t → tileAt u x = tileAt s x) ∧ u = { s with tiles := u.tiles }) := by
  intro a
  refine ⟨_, congrArg Host.Outcome.next (blockPartial_partial hf hs ht hm hc hd), ?_⟩
  dsimp only
  rw [modTile_own, if_pos rfl]
  refine ⟨⟨_, Tab.at_put_same _ _ _ _, rfl, fun hnf => ?_, fun hnf => ?_⟩, ?_, ?_, rfl, rfl, fun x hx => by rw [modTile_own, if_neg (Ne.symm hx)], rfl⟩
  · have hnf := (formPartial_nonfinite tag _ (a.forming.at (128 * b + n) [])).2 hnf
    exact ⟨hnf, by rw [formPartial_p, if_pos hnf]⟩
  · have hnf := mt (formPartial_nonfinite tag _ (a.forming.at (128 * b + n) [])).1 hnf
    exact ⟨by simpa using hnf, by rw [formPartial_p, if_neg hnf]⟩
  · rw [pushPartial, Tab.at_put_same, ht, List.drop_one, List.tail_cons]
  · rw [pushPartial, Tab.at, Tab.find_drop, if_pos rfl, Option.getD_none]

/-- A swap installs the shadow exponent. -/
theorem blockPartial_installs {e : BitVec 8} (hf : (tileAt s t).arr.faultStop = false) (hs : (cellAt (tileAt s t).arr (32 * b + 31) n).south = [])
    (ht : (tileAt s t).arr.tags.at (128 * b + n) [] = [swapMark]) (hd : (tileAt s t).arr.digitStage.at (128 * b + n) [] = [.swapTok])
    (he : (tileAt s t).arr.expShadow.find (128 * b + n) = some e) :
    let a := (tileAt s t).arr
    Completes (.blockPartial t b n) s (fun u =>
      let c := (tileAt u t).arr
      c.expActive.at (128 * b + n) 0 = e ∧ c.expShadow.find (128 * b + n) = none ∧ c.tags.at (128 * b + n) [] = []
      ∧ c.digitStage.at (128 * b + n) [] = [] ∧ c.combine = a.combine ∧ (∀ x, x ≠ t → tileAt u x = tileAt s x) ∧ u = { s with tiles := u.tiles }) := by
  intro a
  refine ⟨_, congrArg Host.Outcome.next (blockPartial_swap hf hs ht hd he), ?_⟩
  dsimp only
  rw [modTile_own, if_pos rfl]
  refine ⟨Tab.at_put_same _ _ _ _, ?_, Tab.at_put_same _ _ _ _, ?_, rfl, fun x hx => by rw [modTile_own, if_neg (Ne.symm hx)], rfl⟩
  · rw [installed, Tab.find_drop, if_pos rfl]
  · rw [installed, dropDigit, Tab.at_put_same, hd, List.drop_one, List.tail_cons]

end

end Sys2Proof
end

section
/-! SUPPORT. DRAIN_ACCUMULATE: what one column's entry takes, what it leaves, and the row entered column by column (R92, R94, R104 to R108, R123). -/

namespace Sys2Proof.Machine

/-! ### Tables set by a fold, and folds that do nothing -/

/-- A fold that sets entries of distinct keys from their own values: each named entry is set once, the others stay. -/
theorem Tab.at_foldl_put {α β : Type} (key : β → Nat) (g : β → α → α) (d : α) {l : List β} (hl : (l.map key).Nodup) (c : Tab α) (k : Nat) :
    (∀ b ∈ l, key b = k → (l.foldl (fun c b => c.put (key b) (g b (c.at (key b) d))) c).at k d = g b (c.at k d))
      ∧ ((∀ b ∈ l, key b ≠ k) → (l.foldl (fun c b => c.put (key b) (g b (c.at (key b) d))) c).at k d = c.at k d) := by
  induction l generalizing c with
  | nil => exact ⟨fun b hb => absurd hb List.not_mem_nil, fun _ => rfl⟩
  | cons y l ih =>
    obtain ⟨hy, hl⟩ := List.nodup_cons.1 hl
    obtain ⟨hit, miss⟩ := ih hl (c.put (key y) (g y (c.at (key y) d)))
    refine ⟨fun b hb hk => ?_, fun h => ?_⟩
    · rw [List.foldl_cons]
      rcases List.mem_cons.1 hb with rfl | hb
      · rw [miss (fun z hz e => hy (List.mem_map.2 ⟨z, hz, e.trans hk.symm⟩)), ← hk, Tab.at_put_same]
      · have hne : key y ≠ k := fun e => hy (List.mem_map.2 ⟨b, hb, hk.trans e.symm⟩)
        rw [hit b hb hk, Tab.at_put_ne _ hne]
    · rw [List.foldl_cons, miss (fun b hb => h b (List.mem_cons_of_mem _ hb)), Tab.at_put_ne _ (h y List.mem_cons_self)]

theorem foldl_idle {α : Type} {op : State → α → State} {s : State} {l : List α} (h : ∀ x ∈ l, op s x = s) : l.foldl op s = s := by
  induction l with
  | nil => rfl
  | cons x l ih => rw [List.foldl_cons, h x List.mem_cons_self, ih (fun y hy => h y (List.mem_cons_of_mem _ hy))]

/-! ### The combine buffers of a column -/

/-- A column's four combine buffers hold the next element row. -/
def ReadyCol (a : Arr) (n : Nat) : Prop := ∀ b, b < 4 → a.combine.at (128 * b + n) [] ≠ []

theorem colParts_full {a : Arr} {n : Nat} : (colParts a n).length = 4 ↔ ReadyCol a n := by
  have h := List.filterMap_length_eq_length (f := fun b => (a.combine.at (128 * b + n) []).head?) (l := List.range 4)
  rw [List.length_range] at h
  rw [colParts, h]
  simp only [List.mem_range, List.isSome_head?]
  rfl

theorem colParts_short {a : Arr} {n : Nat} (h : ¬ReadyCol a n) : (colParts a n).length < 4 := by
  have hle : (colParts a n).length ≤ 4 := List.length_filterMap_le _ (List.range 4)
  have := mt colParts_full.1 h
  omega

theorem colParts_congr {a c : Arr} {n : Nat} (h : ∀ b, b < 4 → c.combine.at (128 * b + n) [] = a.combine.at (128 * b + n) []) :
    colParts c n = colParts a n :=
  List.filterMap_congr fun b hb => by rw [h b (List.mem_range.1 hb)]

/-- The column's buffers give up their heads; another column's stay. -/
theorem combine_popCol (a : Arr) {n n' b : Nat} (hn : n < 128) (hn' : n' < 128) (hb : b < 4) :
    (popCol a n).combine.at (128 * b + n') [] =
      if n' = n then (a.combine.at (128 * b + n') []).drop 1 else a.combine.at (128 * b + n') [] := by
  have keys : ((List.range 4).map (fun b => 128 * b + n)).Nodup := by
    refine (List.nodup_range).map (fun x y h => ?_)
    omega
  have fold := Tab.at_foldl_put (fun b => 128 * b + n) (fun _ (x : List Partial) => x.drop 1) [] keys a.combine (128 * b + n')
  split
  next h => exact fold.1 b (List.mem_range.2 hb) (by rw [h])
  next h => exact fold.2 (fun c hc => by have := List.mem_range.1 hc; omega)

/-! ### The flags of an entry -/

/-- A partition but for its report of a first non-finite layer. -/
def SameButReport (p p' : Part) : Prop := ∃ f r, p' = { p with ctx := { p.ctx with firstNf := f, nfReport := r } }

theorem SameButReport.refl (p : Part) : SameButReport p p := ⟨p.ctx.firstNf, p.ctx.nfReport, rfl⟩

theorem SameButReport.trans {p p' p'' : Part} (h : SameButReport p p') (g : SameButReport p' p'') : SameButReport p p'' := by
  obtain ⟨f, r, rfl⟩ := h
  obtain ⟨f', r', rfl⟩ := g
  exact ⟨f', r', rfl⟩

/-- A state after an entry's flags: tile t's flags of its layers, status registers and the partitions' reports of a non-finite layer apart,
all is as it was. -/
structure FlagsRaised (t : Nat) (s u : State) : Prop where
  own : ∃ o nf, tileAt u t = { tileAt s t with drain := { (tileAt s t).drain with ovf := o, nfSeen := nf } }
  others : ∀ x, x ≠ t → tileAt u x = tileAt s x
  parts : ∀ p, SameButReport (partAt s p) (partAt u p)
  mem : u.mem = s.mem

namespace FlagsRaised

variable {t : Nat} {s u v : State}

theorem refl (s : State) : FlagsRaised t s s := ⟨⟨_, _, rfl⟩, fun _ _ => rfl, fun _ => .refl _, rfl⟩

theorem trans (h : FlagsRaised t s u) (g : FlagsRaised t u v) : FlagsRaised t s v := by
  obtain ⟨o, nf, hown⟩ := h.own
  obtain ⟨o', nf', gown⟩ := g.own
  exact ⟨⟨o', nf', by rw [gown, hown]⟩, fun x hx => (g.others x hx).trans (h.others x hx), fun p => (h.parts p).trans (g.parts p), g.mem.trans h.mem⟩

theorem of_regFlag (s : State) (a i : Nat) : FlagsRaised t s (regFlag s a i) := ⟨⟨_, _, rfl⟩, fun _ _ => rfl, fun _ => .refl _, rfl⟩

theorem of_modDrain {f : Drain → Drain} (h : ∀ d, ∃ o nf, f d = { d with ovf := o, nfSeen := nf }) (s : State) : FlagsRaised t s (modDrain s t f) := by
  obtain ⟨o, nf, hf⟩ := h (tileAt s t).drain
  exact ⟨⟨o, nf, by rw [modDrain_own, if_pos rfl, hf]⟩, fun x hx => by rw [modDrain_own, if_neg (Ne.symm hx)], fun _ => .refl _, rfl⟩

theorem of_modCtx {f : StepCtx → StepCtx} (h : ∀ c, ∃ n r, f c = { c with firstNf := n, nfReport := r }) (s : State) (q : Nat) :
    FlagsRaised t s (modCtx s q f) := by
  refine ⟨⟨_, _, rfl⟩, fun _ _ => rfl, fun p => ?_, rfl⟩
  obtain ⟨n, r, hf⟩ := h (partAt s q).ctx
  rw [modCtx_own]
  split
  next e => exact ⟨n, r, by rw [← e, hf]⟩
  · exact .refl _

end FlagsRaised

theorem raiseOverdraft_flags (s : State) (t slot : Nat) : FlagsRaised t s (raiseOverdraft s t slot) := by
  unfold raiseOverdraft
  refine .trans (.of_modDrain (fun d => ⟨insertNat d.ovf slot, d.nfSeen, rfl⟩) s) (.trans (.of_regFlag _ (tileReg t 0x780600) 0) ?_)
  exact ⟨⟨_, _, rfl⟩, fun _ _ => rfl, fun _ => .refl _, rfl⟩

theorem reportNonfinite_flags (s : State) (q t slot : Nat) : FlagsRaised t s (reportNonfinite s q t slot) := by
  simp only [reportNonfinite]
  split
  · exact .refl s
  · refine .trans (.of_modDrain (fun d => ⟨d.ovf, insertNat d.nfSeen slot, rfl⟩) s) (.of_modCtx (fun c => ?_) _ q)
    split
    · exact ⟨_, _, rfl⟩
    · exact ⟨c.firstNf, c.nfReport, rfl⟩

theorem drainFlags_flags (s : State) (q t slot : Nat) (over_ long nf : Bool) : FlagsRaised t s (drainFlags s q t slot over_ long nf) := by
  have overdraft : FlagsRaised t s (if over_ then raiseOverdraft s t slot else s) := by
    split
    · exact raiseOverdraft_flags s t slot
    · exact .refl s
  have longSum : ∀ u, FlagsRaised t u (if long then regFlag u (tileReg t 0x780600) 1 else u) := fun u => by
    split
    · exact .of_regFlag u _ 1
    · exact .refl u
  have report : ∀ u, FlagsRaised t u (if nf then reportNonfinite (regFlag u (tileReg t 0x780600) 2) q t slot else u) := fun u => by
    split
    · exact .trans (.of_regFlag u (tileReg t 0x780600) 2) (reportNonfinite_flags _ q t slot)
    · exact .refl u
  exact (overdraft.trans (longSum _)).trans (report _)

/-! ### The row's block count -/

/-- The row's count as it stands while columns enter: before the first entry it is b0 with no entry late; after it b0 + k with that entry late
for every column still to come. -/
def CountStands (d : Drain) (m b0 k i : Nat) (entered : Prop) : Prop :=
  (¬entered → d.blocks.at m 0 = b0 ∧ d.late.at m [] = [])
    ∧ (entered → d.blocks.at m 0 = b0 + k ∧ ∀ n, i ≤ n → n < 128 → ∃ cols, d.late.at m [] = [(k, cols)] ∧ n ∈ cols)

section
variable {d : Drain} {m b0 k i : Nat} {entered : Prop}

/-- A column still to come counts from b0 (R108). -/
theorem countFor_stands (h : CountStands d m b0 k i entered) (hi : i < 128) : countFor d m i = b0 := by
  by_cases he : entered
  · obtain ⟨hb, hl⟩ := h.2 he
    obtain ⟨cols, hcols, hmem⟩ := hl i (Nat.le_refl i) hi
    simp [countFor, hb, hcols, hmem]
  · obtain ⟨hb, hl⟩ := h.1 he
    simp [countFor, hb, hl]

theorem CountStands.skip (h : CountStands d m b0 k i entered) : CountStands d m b0 k (i + 1) entered :=
  ⟨h.1, fun he => ⟨(h.2 he).1, fun n hn => (h.2 he).2 n (Nat.le_of_succ_le hn)⟩⟩

theorem makeLate_one {cols : List Nat} {n : Nat} (h : n ∈ cols) :
    makeLate n [(k, cols)] = if (cols.filter (· ≠ n)).isEmpty then [] else [(k, cols.filter (· ≠ n))] := by
  have hc : cols.contains n = true := List.contains_iff_mem.2 h
  simp only [makeLate, hc, if_true]

/-- The column's own entry: the first raises the count by k, the others take it off what is late. -/
theorem CountStands.enter (h : CountStands d m b0 k i entered) (hi : i < 128) (hk : b0 + k < 2 ^ 40) :
    CountStands (noteEntry d m i k) m b0 k (i + 1) True := by
  refine ⟨fun ht => absurd trivial ht, fun _ => ?_⟩
  by_cases he : entered
  · obtain ⟨hb, hl⟩ := h.2 he
    obtain ⟨cols, hcols, hmem⟩ := hl i (Nat.le_refl i) hi
    have hc : cols.contains i = true := List.contains_iff_mem.2 hmem
    have hany : (d.late.at m []).any (fun e => e.2.contains i) = true := by rw [hcols, List.any_cons, hc, Bool.true_or]
    simp only [noteEntry, hany, if_true]
    refine ⟨hb, fun n hn hlt => ?_⟩
    obtain ⟨cols', hcols', hmem'⟩ := hl n (Nat.le_of_succ_le hn) hlt
    obtain ⟨-, rfl⟩ : k = k ∧ cols' = cols := by simpa [hcols] using hcols'.symm
    have hkept : n ∈ cols'.filter (· ≠ i) := List.mem_filter.2 ⟨hmem', by simpa using Nat.ne_of_gt hn⟩
    refine ⟨cols'.filter (· ≠ i), ?_, hkept⟩
    rw [Tab.at_put_same, hcols, makeLate_one hmem, if_neg (by rw [List.isEmpty_iff]; exact List.ne_nil_of_mem hkept)]
  · obtain ⟨hb, hl⟩ := h.1 he
    have hany : (d.late.at m []).any (fun e => e.2.contains i) = false := by rw [hl, List.any_nil]
    simp only [noteEntry, hany, Bool.false_eq_true, if_false]
    refine ⟨by rw [Tab.at_put_same, hb]; omega, fun n hn hlt => ⟨(List.range 128).filter (· ≠ i), ?_, ?_⟩⟩
    · rw [Tab.at_put_same, hl, List.nil_append]
    · exact List.mem_filter.2 ⟨List.mem_range.2 hlt, by simpa using Nat.ne_of_gt hn⟩

end

theorem noteEntry_accs (d : Drain) (m n k : Nat) : (noteEntry d m n k).accs = d.accs ∧ (noteEntry d m n k).queue = d.queue := by
  simp only [noteEntry]
  split <;> exact ⟨rfl, rfl⟩

end Sys2Proof.Machine
end

section
/-! SUPPORT. DRAIN_ACCUMULATE over the 128 columns of an element row, and the obligation (R92, R94, R104 to R108). -/

namespace Sys2Proof.Machine

/-! ### A plan one row on at a column -/

/-- A plan with column n one row on. -/
def Plan.enter (n : Nat) (y : Plan) : Plan := { y with entered := setNth y.entered n (y.entered.getD n 0 + 1) }

theorem find_mapPlan {l : List Plan} {y : Plan} {id n : Nat} (h : l.find? (fun z => z.id = id) = some y) :
    (l.map (fun z => if z.id = id then z.enter n else z)).find? (fun z => z.id = id) = some (y.enter n) := by
  have hid : y.id = id := by simpa using List.find?_some h
  have same : (fun z : Plan => decide (z.id = id)) ∘ (fun z => if z.id = id then z.enter n else z) = fun z => decide (z.id = id) := by
    funext z
    dsimp only [Function.comp]
    split
    next e => simp only [Plan.enter, e]
    · rfl
  rw [List.find?_map, same, h, Option.map_some, if_pos hid]

theorem getD_setNth_ne (l : List Nat) {n n' : Nat} (h : n' ≠ n) (v : Nat) : (setNth l n v).getD n' 0 = l.getD n' 0 := by
  simp only [setNth, List.getD_eq_getElem?_getD, List.getElem?_set_ne (Ne.symm h)]

/-- A plan whose first column has entered no more than r + 1 rows has entered no set whose rows end past them. -/
theorem drainSet_lt {y : Plan} {r c : Nat} (h : y.entered.head?.getD 0 ≤ r + 1) (hr : 0 < y.rows) (hlt : r + 1 < c * y.rows) : y.drainSet < c := by
  have low : ∀ (l : List Nat) (v : Nat), l.foldl min v ≤ v := fun l => by
    induction l with
    | nil => exact fun v => Nat.le_refl v
    | cons z l ih => exact fun v => (ih _).trans (Nat.min_le_left v z)
  rw [Plan.drainSet, if_neg (by omega), Nat.div_lt_iff_lt_mul hr]
  exact ((low _ _).trans h).trans_lt hlt

/-! ### Partitions but for their report -/

section
variable {p p' : Part} (h : SameButReport p p')
include h

theorem SameButReport.anchor (slot : Nat) : latchedAnchor p' slot = latchedAnchor p slot := by
  obtain ⟨_, _, rfl⟩ := h
  rfl

theorem SameButReport.rung (slot : Nat) : rungOf p' slot = rungOf p slot := by
  obtain ⟨_, _, rfl⟩ := h
  rfl

theorem SameButReport.layer (slot : Nat) : layerOf p' slot = layerOf p slot := by
  obtain ⟨_, _, rfl⟩ := h
  rfl

end

theorem partOfTile_report {s u : State} (h : ∀ p, SameButReport (partAt s p) (partAt u p)) (t : Nat) : partOfTile u t = partOfTile s t := by
  unfold partOfTile
  congr 1
  funext p
  obtain ⟨_, _, e⟩ := h p
  rw [e]
  rfl

theorem planContinues_report {s u : State} (h : ∀ p, SameButReport (partAt s p) (partAt u p)) (t : Nat) (x : Plan) :
    planContinues u t x = planContinues s t x := by
  simp only [planContinues, partNum, partOfTile_report h, layerContinues, (h _).layer]

/-! ### A row's counts -/

/-- A row's counts rest on the block counts and the late entries alone. -/
theorem CountStands.of_counts {d e : Drain} {m b0 k i : Nat} {entered : Prop} (hb : e.blocks = d.blocks) (hl : e.late = d.late)
    (h : CountStands d m b0 k i entered) : CountStands e m b0 k i entered := by
  rwa [CountStands, hb, hl]

theorem noteEntry_counts (d : Drain) (accs : Tab Acc) (m n k : Nat) :
    (noteEntry { d with accs := accs } m n k).blocks = (noteEntry d m n k).blocks ∧ (noteEntry { d with accs := accs } m n k).late = (noteEntry d m n k).late := by
  simp only [noteEntry]
  split <;> exact ⟨rfl, rfl⟩

/-! ### One column -/

/-- A column that has not its whole row waits. -/
theorem drainColumn_waits {s : State} {t n : Nat} (h : ¬ReadyCol (tileAt s t).arr n) : drainColumn t s n = s := by
  unfold drainColumn
  split
  · exact if_pos (colParts_short h)
  · rfl

section
variable {u : State} {t q n r m : Nat} {y : Plan}

/-- A column entered, as a state: its buffers' heads taken, its accumulator and count changed, the flags raised. -/
def columnIn (u : State) (q t n m : Nat) (y : Plan) : State :=
  enterColumn (modArr u t (fun a => popCol a n)) q t y.layerSlot m n (colParts (tileAt u t).arr n)

/-- The accumulator that column n enters, after the entry. -/
def enteredAcc (u : State) (q t n m : Nat) (y : Plan) : Acc :=
  enterCol (latchedAnchor (partAt u q) y.layerSlot).anchor
    (guardBits (rungOf (partAt u q) y.layerSlot).2 ((layerOf (partAt u q) y.layerSlot).getD {}).headroom)
    (countFor (tileAt u t).drain m n) ((colParts (tileAt u t).arr n).filter Partial.counts).length (colParts (tileAt u t).arr n)
    (accAt (tileAt u t).drain (128 * m + n))

/-- The accumulators' side of the tile with column n entered, its flags apart. -/
def enteredDrain (u : State) (q t n m : Nat) (y : Plan) : Drain :=
  noteEntry { (tileAt u t).drain with accs := (tileAt u t).drain.accs.put (128 * m + n) (enteredAcc u q t n m y) } m n
    ((colParts (tileAt u t).arr n).filter Partial.counts).length

theorem columnIn_flags : FlagsRaised t (modDrain (modArr u t (fun a => popCol a n)) t (fun _ => enteredDrain u q t n m y)) (columnIn u q t n m y) := by
  have drainKept : (tileAt (modArr u t (fun a => popCol a n)) t).drain = (tileAt u t).drain := by rw [modArr_own, if_pos rfl]
  have entry : modDrain (modArr u t (fun a => popCol a n)) t (fun _ => enteredDrain u q t n m y)
      = modDrain (modArr u t (fun a => popCol a n)) t (fun d =>
          noteEntry { d with accs := d.accs.put (128 * m + n) (enteredAcc u q t n m y) } m n
            ((colParts (tileAt u t).arr n).filter Partial.counts).length) := by
    simp only [modDrain, modTile, ← drainKept, enteredDrain]
  rw [entry]
  have hd := drainKept
  simp only [columnIn, enterColumn, hd]
  exact drainFlags_flags _ q t _ _ _ _

/-- A column entered leaves the other tiles, the partitions but for their report, and memory. -/
structure ColumnIn (t q n m : Nat) (y : Plan) (u w : State) : Prop where
  own : ∃ o nf, tileAt w t = { tileAt u t with
    arr := { popCol (tileAt u t).arr n with plans := (tileAt u t).arr.plans.map (fun z => if z.id = y.id then z.enter n else z) }
    drain := { enteredDrain u q t n m y with ovf := o, nfSeen := nf } }
  others : ∀ x, x ≠ t → tileAt w x = tileAt u x
  parts : ∀ p, SameButReport (partAt u p) (partAt w p)
  mem : w.mem = u.mem

theorem columnIn_stepped : ColumnIn t q n m y u (modPlan (columnIn u q t n m y) t y.id (Plan.enter n)) := by
  obtain ⟨⟨o, nf, hown⟩, hothers, hparts, hmem⟩ := columnIn_flags (u := u) (t := t) (q := q) (n := n) (m := m) (y := y)
  refine ⟨⟨o, nf, ?_⟩, fun x hx => ?_, hparts, hmem⟩
  · rw [modPlan, modArr_own, if_pos rfl, hown, modDrain_own, if_pos rfl, modArr_own, if_pos rfl]
    rfl
  · rw [modPlan, modArr_own, if_neg (Ne.symm hx), hothers x hx, modDrain_own, if_neg (Ne.symm hx), modArr_own, if_neg (Ne.symm hx)]

namespace ColumnIn

variable {w : State}

theorem conf (h : ColumnIn t q n m y u w) : (tileAt w t).conf = (tileAt u t).conf := by
  obtain ⟨o, nf, hown⟩ := h.own
  rw [hown]

theorem plans (h : ColumnIn t q n m y u w) :
    (tileAt w t).arr.plans = (tileAt u t).arr.plans.map (fun z => if z.id = y.id then z.enter n else z) := by
  obtain ⟨o, nf, hown⟩ := h.own
  rw [hown]

theorem queue (h : ColumnIn t q n m y u w) : (tileAt w t).drain.queue = (tileAt u t).drain.queue := by
  obtain ⟨o, nf, hown⟩ := h.own
  rw [hown]
  exact (noteEntry_accs _ m n _).2

/-- The column's accumulator is the one entered; another stays. -/
theorem accs (h : ColumnIn t q n m y u w) (j : Nat) :
    accAt (tileAt w t).drain j = if 128 * m + n = j then enteredAcc u q t n m y else accAt (tileAt u t).drain j := by
  obtain ⟨o, nf, hown⟩ := h.own
  rw [hown]
  dsimp only [accAt, enteredDrain]
  rw [(noteEntry_accs _ m n _).1]
  split
  next e => rw [← e, Tab.at_put_same]
  next e => rw [Tab.at_put_ne _ e]

/-- The column's buffers give up their heads; another column's stay. -/
theorem heads (h : ColumnIn t q n m y u w) (hn : n < 128) {n' b : Nat} (hn' : n' < 128) (hb : b < 4) :
    (tileAt w t).arr.combine.at (128 * b + n') [] =
      if n' = n then ((tileAt u t).arr.combine.at (128 * b + n') []).drop 1 else (tileAt u t).arr.combine.at (128 * b + n') [] := by
  obtain ⟨o, nf, hown⟩ := h.own
  rw [hown]
  exact combine_popCol _ hn hn' hb

theorem counts (h : ColumnIn t q n m y u w) :
    let k := ((colParts (tileAt u t).arr n).filter Partial.counts).length
    (tileAt w t).drain.blocks = (noteEntry (tileAt u t).drain m n k).blocks ∧ (tileAt w t).drain.late = (noteEntry (tileAt u t).drain m n k).late := by
  obtain ⟨o, nf, hown⟩ := h.own
  rw [hown]
  exact noteEntry_counts (tileAt u t).drain _ m n _

end ColumnIn

/-- A column whose buffers hold the row, at row r of a plan whose set is cleared, enters it and is one row on; more rows are to come, so the plan
stays (R92, R94). -/
theorem drainColumn_enters (hq : partOfTile u t = some q) (hp : drainPlan u t n = some (y, r))
    (hy : (tileAt u t).arr.plans.find? (fun z => z.id = y.id) = some y) (hready : ReadyCol (tileAt u t).arr n) (hrows : 0 < y.rows)
    (hcleared : r / y.rows < y.cleared) (hmore : r + 1 < (feedRec u t y.feed).setCount * y.rows)
    (hhead : (y.enter n).entered.head?.getD 0 ≤ r + 1)
    (hm : m = accRow (feedRec u t y.feed).windowRows (planContinues u t y) (r / y.rows) (r % y.rows)) :
    ColumnIn t q n m y u (drainColumn t u n) := by
  have full := colParts_full.2 hready
  have one : max y.rows 1 = y.rows := Nat.max_eq_left hrows
  have isClear : clearSet u t y.id (r / y.rows) = u := by
    simp only [clearSet, hy, hcleared, decide_true, Bool.true_or, if_true]
  have cleared : Option.any (fun z : Plan => decide (r / y.rows < z.cleared)) (some y) = true := by
    simp only [Option.any_some, hcleared, decide_true]
  have stepped := columnIn_stepped (t := t) (q := q) (n := n) (m := m) (y := y) (u := u)
  obtain ⟨o, nf, hown⟩ := stepped.own
  have found : (tileAt (modPlan (columnIn u q t n m y) t y.id (Plan.enter n)) t).arr.plans.find? (fun z => z.id = y.id) = some (y.enter n) := by
    rw [hown]
    exact find_mapPlan hy
  have unfinished : enteredAll (modPlan (columnIn u q t n m y) t y.id (Plan.enter n)) t (y.enter n) = false := by
    have feed : feedRec (modPlan (columnIn u q t n m y) t y.id (Plan.enter n)) t (y.enter n).feed = feedRec u t y.feed := by
      simp only [feedRec, hown, Plan.enter]
    rw [enteredAll, feed, decide_eq_false (Nat.not_le.2 (drainSet_lt hhead hrows hmore))]
  have step : drainStep (columnIn u q t n m y) t n y = modPlan (columnIn u q t n m y) t y.id (Plan.enter n) := by
    unfold Plan.enter at found unfinished ⊢
    simp only [drainStep, found, unfinished, Bool.false_and, Bool.false_eq_true, if_false]
  have column : drainColumn t u n = drainStep (columnIn u q t n m y) t n y := by
    simp only [drainColumn, hq, hp, full, Nat.lt_irrefl, if_false, one, isClear, hy, cleared, Bool.not_true, Bool.false_eq_true, ← hm, columnIn]
  rw [column, step]
  exact stepped

end

end Sys2Proof.Machine
end

section
/-! SUPPORT. DRAIN_ACCUMULATE: the row entered column by column, and the obligation (R92, R94, R104 to R108, R123). -/

namespace Sys2Proof.Machine

/-! ### The plan as the columns move on -/

/-- Another column finds its next row where it was. -/
theorem drainPlan_enter {u w : State} {t n n' r id : Nat} {y : Plan} (hconf : (tileAt w t).conf = (tileAt u t).conf)
    (hplans : (tileAt w t).arr.plans = (tileAt u t).arr.plans.map (fun z => if z.id = id then z.enter n else z)) (hne : n' ≠ n) (hy : y.id = id)
    (h : drainPlan u t n' = some (y, r)) : drainPlan w t n' = some (y.enter n, r) := by
  have row : ∀ z : Plan, (if z.id = id then z.enter n else z).entered.getD n' 0 = z.entered.getD n' 0 := fun z => by
    split
    · exact getD_setNth_ne _ hne _
    · rfl
  have feed : ∀ i, feedRec w t i = feedRec u t i := fun i => by simp only [feedRec, hconf]
  have same : (fun z : Plan => z.opened && decide (z.entered.getD n' 0 < (feedRec w t z.feed).setCount * z.rows)) ∘
      (fun z => if z.id = id then z.enter n else z)
      = fun z => z.opened && decide (z.entered.getD n' 0 < (feedRec u t z.feed).setCount * z.rows) := by
    funext z
    dsimp only [Function.comp]
    rw [row, feed]
    split <;> rfl
  obtain ⟨z, hz, hzy⟩ := Option.map_eq_some_iff.1 h
  obtain ⟨rfl, hr⟩ := Prod.mk.inj hzy
  rw [drainPlan, hplans, List.find?_map, same, hz, Option.map_some, Option.map_some, row, hr, if_pos hy]

theorem drainPlan_row {u : State} {t n r : Nat} {y : Plan} (h : drainPlan u t n = some (y, r)) : y.entered.getD n 0 = r := by
  obtain ⟨z, -, hzy⟩ := Option.map_eq_some_iff.1 h
  obtain ⟨rfl, hr⟩ := Prod.mk.inj hzy
  exact hr

theorem head_eq_getD (l : List Nat) : l.head?.getD 0 = l.getD 0 0 := by
  cases l <;> rfl

/-- The first column stays at row r or the one after. -/
theorem enter_first {y : Plan} {n r : Nat} (h : y.entered.getD n 0 = r) (h0 : y.entered.getD 0 0 ≤ r + 1) : (y.enter n).entered.getD 0 0 ≤ r + 1 := by
  by_cases hn : 0 = n
  · subst hn
    rw [Plan.enter, h]
    cases y.entered with
    | nil => exact Nat.zero_le _
    | cons a l => exact Nat.le_refl _
  · rw [Plan.enter, getD_setNth_ne _ hn]
    exact h0

/-! ### The row -/

/-- Column n's accumulator with the row's block partials entered. -/
def rowAcc (s : State) (t q m k : Nat) (x : Plan) (n : Nat) : Acc :=
  enterCol (latchedAnchor (partAt s q) x.layerSlot).anchor
    (guardBits (rungOf (partAt s q) x.layerSlot).2 ((layerOf (partAt s q) x.layerSlot).getD {}).headroom)
    ((tileAt s t).drain.blocks.at m 0) k (colParts (tileAt s t).arr n) (accAt (tileAt s t).drain (128 * m + n))

/-- Column n has taken the row: its accumulator entered, its buffers' heads given up. -/
def ColTaken (s u : State) (t q m k : Nat) (x : Plan) (n : Nat) : Prop :=
  accAt (tileAt u t).drain (128 * m + n) = rowAcc s t q m k x n
    ∧ ∀ b, b < 4 → (tileAt u t).arr.combine.at (128 * b + n) [] = ((tileAt s t).arr.combine.at (128 * b + n) []).drop 1

/-- Column n is as it was. -/
def ColLeft (s u : State) (t m n : Nat) : Prop :=
  accAt (tileAt u t).drain (128 * m + n) = accAt (tileAt s t).drain (128 * m + n)
    ∧ ∀ b, b < 4 → (tileAt u t).arr.combine.at (128 * b + n) [] = (tileAt s t).arr.combine.at (128 * b + n) []

/-- The state with the first i columns served. -/
structure RowEntered (t q r k m : Nat) (x : Plan) (s : State) (i : Nat) (u : State) : Prop where
  conf : (tileAt u t).conf = (tileAt s t).conf
  others : ∀ z, z ≠ t → tileAt u z = tileAt s z
  parts : ∀ p, SameButReport (partAt s p) (partAt u p)
  mem : u.mem = s.mem
  queue : (tileAt u t).drain.queue = (tileAt s t).drain.queue
  plan : ∃ y, y = { x with entered := y.entered } ∧ (tileAt u t).arr.plans.find? (fun z => z.id = x.id) = some y ∧ y.entered.getD 0 0 ≤ r + 1
    ∧ ∀ n, i ≤ n → n < 128 → drainPlan u t n = some (y, r)
  taken : ∀ n, n < i → ReadyCol (tileAt s t).arr n → ColTaken s u t q m k x n
  left : ∀ n, n < 128 → ¬(n < i ∧ ReadyCol (tileAt s t).arr n) → ColLeft s u t m n
  outside : ∀ j, j < 128 * m ∨ 128 * m + 128 ≤ j → accAt (tileAt u t).drain j = accAt (tileAt s t).drain j
  count : CountStands (tileAt u t).drain m ((tileAt s t).drain.blocks.at m 0) k i (∃ n, n < i ∧ ReadyCol (tileAt s t).arr n)

/-- What holds of the row before its first column moves. -/
structure RowToEnter (t q r k m : Nat) (x : Plan) (s : State) : Prop where
  part : partOfTile s t = some q
  next : ∀ n, n < 128 → drainPlan s t n = some (x, r)
  found : (tileAt s t).arr.plans.find? (fun y => y.id = x.id) = some x
  rows : 0 < x.rows
  cleared : r / x.rows < x.cleared
  more : r + 1 < (feedRec s t x.feed).setCount * x.rows
  place : m = accRow (feedRec s t x.feed).windowRows (planContinues s t x) (r / x.rows) (r % x.rows)
  fresh : (tileAt s t).drain.late.at m [] = []
  bound : (tileAt s t).drain.blocks.at m 0 + k < 2 ^ 40
  counting : ∀ n, n < 128 → ReadyCol (tileAt s t).arr n → ((colParts (tileAt s t).arr n).filter Partial.counts).length = k

section
variable {t q r k m i : Nat} {x : Plan} {s u : State}

theorem RowEntered.start (h : RowToEnter t q r k m x s) : RowEntered t q r k m x s 0 s :=
  { conf := rfl
    others := fun _ _ => rfl
    parts := fun _ => .refl _
    mem := rfl
    queue := rfl
    plan := ⟨x, rfl, h.found, by rw [drainPlan_row (h.next 0 (by decide))]; exact Nat.le_succ r, fun n _ hn => h.next n hn⟩
    taken := fun n hn => absurd hn (Nat.not_lt_zero n)
    left := fun _ _ _ => ⟨rfl, fun _ _ => rfl⟩
    outside := fun _ _ => rfl
    count := ⟨fun _ => ⟨rfl, h.fresh⟩, fun ⟨n, hn, _⟩ => absurd hn (Nat.not_lt_zero n)⟩ }

theorem readyCol_congr {a c : Arr} {n : Nat} (h : ∀ b, b < 4 → c.combine.at (128 * b + n) [] = a.combine.at (128 * b + n) []) :
    ReadyCol c n ↔ ReadyCol a n :=
  forall_congr' fun b => forall_congr' fun hb => by rw [h b hb]

/-- A column that waits is served with nothing changed. -/
theorem RowEntered.wait (g : RowEntered t q r k m x s i u) (hr : ¬ReadyCol (tileAt s t).arr i) : RowEntered t q r k m x s (i + 1) u := by
  have ready : ∀ n, (n < i + 1 ∧ ReadyCol (tileAt s t).arr n) ↔ (n < i ∧ ReadyCol (tileAt s t).arr n) := fun n => by
    constructor
    · rintro ⟨hn, h⟩
      have : n ≠ i := fun e => hr (e ▸ h)
      exact ⟨by omega, h⟩
    · exact fun ⟨hn, h⟩ => ⟨Nat.lt_succ_of_lt hn, h⟩
  obtain ⟨y, hy, hfound, hfirst, htogo⟩ := g.plan
  refine { g with
    plan := ⟨y, hy, hfound, hfirst, fun n hn => htogo n (Nat.le_of_succ_le hn)⟩
    taken := fun n hn h => g.taken n ((ready n).1 ⟨hn, h⟩).1 h
    left := fun n hn h => g.left n hn (mt (ready n).2 h)
    count := ?_ }
  rw [show (∃ n, n < i + 1 ∧ ReadyCol (tileAt s t).arr n) ↔ _ from exists_congr ready]
  exact g.count.skip

/-- The next column that holds the row enters it at its plan's place, into the accumulator that the row's count before its entry gives. -/
theorem RowEntered.enters (h : RowToEnter t q r k m x s) (g : RowEntered t q r k m x s i u) (hi : i < 128) (hr : ReadyCol (tileAt s t).arr i) :
    ∃ y, y = { x with entered := y.entered } ∧ (tileAt u t).arr.plans.find? (fun z => z.id = x.id) = some y ∧ y.entered.getD 0 0 ≤ r + 1
      ∧ (∀ n, i ≤ n → n < 128 → drainPlan u t n = some (y, r)) ∧ ColumnIn t q i m y u (drainColumn t u i)
      ∧ ((colParts (tileAt u t).arr i).filter Partial.counts).length = k ∧ enteredAcc u q t i m y = rowAcc s t q m k x i := by
  obtain ⟨y, hy, hfound, hfirst, htogo⟩ := g.plan
  have hid : y.id = x.id := by rw [hy]
  have hrows : y.rows = x.rows := by rw [hy]
  have hclr : y.cleared = x.cleared := by rw [hy]
  have hslot : y.layerSlot = x.layerSlot := by rw [hy]
  have feed : feedRec u t y.feed = feedRec s t x.feed := by rw [hy]; simp only [feedRec, g.conf]
  have continues : planContinues u t y = planContinues s t x := by
    rw [planContinues_report g.parts, planContinues, planContinues, hslot]
  obtain ⟨hacc, hcomb⟩ := g.left i hi (fun e => Nat.lt_irrefl i e.1)
  have hparts : colParts (tileAt u t).arr i = colParts (tileAt s t).arr i := colParts_congr hcomb
  have counted : ((colParts (tileAt u t).arr i).filter Partial.counts).length = k := by rw [hparts, h.counting i hi hr]
  refine ⟨y, hy, hfound, hfirst, htogo, ?_, counted, ?_⟩
  · exact drainColumn_enters (m := m) ((partOfTile_report g.parts t).trans h.part) (htogo i (Nat.le_refl i) hi) (by rw [hid]; exact hfound)
      ((readyCol_congr hcomb).2 hr) (by rw [hrows]; exact h.rows) (by rw [hrows, hclr]; exact h.cleared) (by rw [feed, hrows]; exact h.more)
      (by rw [head_eq_getD]; exact enter_first (drainPlan_row (htogo i (Nat.le_refl i) hi)) hfirst)
      (by rw [feed, continues, hrows]; exact h.place)
  · rw [enteredAcc, rowAcc, counted, countFor_stands g.count hi, hparts, hacc, hslot, (g.parts q).anchor, (g.parts q).rung, (g.parts q).layer]

/-- A column that holds the row takes it. -/
theorem RowEntered.take (h : RowToEnter t q r k m x s) (g : RowEntered t q r k m x s i u) (hi : i < 128) (hr : ReadyCol (tileAt s t).arr i) :
    RowEntered t q r k m x s (i + 1) (drainColumn t u i) := by
  obtain ⟨y, hy, hfound, hfirst, htogo, entered, counted, newAcc⟩ := g.enters h hi hr
  have hid : y.id = x.id := by rw [hy]
  have kept : ∀ n, n < 128 → n ≠ i → ColLeft u (drainColumn t u i) t m n := fun n hn hne =>
    ⟨by rw [entered.accs, if_neg (by omega)], fun b hb => by rw [entered.heads hi hn hb, if_neg hne]⟩
  refine
    { conf := entered.conf.trans g.conf
      others := fun z hz => (entered.others z hz).trans (g.others z hz)
      parts := fun p => (g.parts p).trans (entered.parts p)
      mem := entered.mem.trans g.mem
      queue := entered.queue.trans g.queue
      plan := ⟨y.enter i, by rw [Plan.enter, hy], by rw [entered.plans, ← hid]; exact find_mapPlan (by rw [hid]; exact hfound),
        enter_first (drainPlan_row (htogo i (Nat.le_refl i) hi)) hfirst,
        fun n hn hlt => drainPlan_enter entered.conf entered.plans (by omega) rfl (htogo n (Nat.le_of_succ_le hn) hlt)⟩
      taken := fun n hn hready => ?_
      left := fun n hn hnot => ?_
      outside := fun j hj => by rw [entered.accs, if_neg (by omega)]; exact g.outside j hj
      count := ?_ }
  · rcases Nat.lt_succ_iff_lt_or_eq.1 hn with hlt | rfl
    · obtain ⟨ha, hc⟩ := kept n (by omega) (by omega)
      obtain ⟨ga, gc⟩ := g.taken n hlt hready
      exact ⟨ha.trans ga, fun b hb => (hc b hb).trans (gc b hb)⟩
    · have before := (g.left n hi (fun e => Nat.lt_irrefl n e.1)).2
      exact ⟨by rw [entered.accs, if_pos rfl, newAcc], fun b hb => by rw [entered.heads hi hi hb, if_pos rfl, before b hb]⟩
  · obtain ⟨ha, hc⟩ := kept n hn (fun e => hnot ⟨by omega, e ▸ hr⟩)
    obtain ⟨ga, gc⟩ := g.left n hn (fun e => hnot ⟨Nat.lt_succ_of_lt e.1, e.2⟩)
    exact ⟨ha.trans ga, fun b hb => (hc b hb).trans (gc b hb)⟩
  · rw [show (∃ n, n < i + 1 ∧ ReadyCol (tileAt s t).arr n) ↔ True from iff_true_intro ⟨i, Nat.lt_succ_self i, hr⟩]
    exact (g.count.enter hi h.bound).of_counts (by rw [entered.counts.1, counted]) (by rw [entered.counts.2, counted])

/-- The columns served in order. -/
theorem rowEntered_columns (h : RowToEnter t q r k m x s) : ∀ i, i ≤ 128 → RowEntered t q r k m x s i ((List.range i).foldl (drainColumn t) s) := by
  intro i
  induction i with
  | zero => exact fun _ => .start h
  | succ i ih =>
    intro hi
    have g := ih (Nat.le_of_succ_le hi)
    rw [List.range_succ, List.foldl_append, List.foldl_cons, List.foldl_nil]
    by_cases hr : ReadyCol (tileAt s t).arr i
    · exact g.take h hi hr
    · have same := (g.left i hi (fun e => Nat.lt_irrefl i e.1)).2
      rw [drainColumn_waits (mt (readyCol_congr same).1 hr)]
      exact g.wait hr

end

end Sys2Proof.Machine

namespace Sys2Proof

open Sys2Proof.Machine

/-- With no column ready DRAIN_ACCUMULATE changes nothing. -/
theorem drainAccumulate_idle {s : State} {t : Nat} (h : ∀ n, n < 128 → ¬ReadyCol (tileAt s t).arr n) : drainAccumulate t s = s := by
  rw [drainAccumulate, foldl_idle (fun n hn => drainColumn_waits (h n (List.mem_range.1 hn))), ite_self]

/-- Settles O40: a port's moves by its tag, and the drain by the state after its first i columns. -/
theorem blockPartialsEnterTheAccumulators : Obligations.BlockPartialsEnterTheAccumulators := by
  unfold Obligations.BlockPartialsEnterTheAccumulators
  constructor
  · intro t b n s tag rest _ _
    dsimp only
    intro hf hs ht
    refine ⟨fun hm hc hd => blockPartial_forms hf hs ht hm hc hd, fun e hswap hrest hd he => ?_⟩
    subst hswap hrest
    exact blockPartial_installs hf hs ht hd he
  · intro t q r k x s hq hf
    dsimp only
    refine ⟨fun hidle => congrArg Host.Outcome.next (drainAccumulate_idle hidle),
      fun hnext hfound _ hrows hcleared hmore hfresh hbound hcount hsome => ?_⟩
    have row := rowEntered_columns (m := accRow (feedRec s t x.feed).windowRows (planContinues s t x) (r / x.rows) (r % x.rows))
      ⟨hq, hnext, hfound, hrows, hcleared, hmore, rfl, hfresh, hbound, hcount⟩ 128 (Nat.le_refl 128)
    refine ⟨_, rfl, ?_⟩
    rw [drainAccumulate, if_neg (by rw [hf]; decide)]
    exact ⟨fun n hn hr => row.taken n hn hr, fun n hn hr => row.left n hn (fun e => hr e.2), (row.count.2 hsome).1, row.outside, row.queue, row.mem,
      row.others⟩

end Sys2Proof
end

section
/-! SUPPORT. Blocks fetched from plain spans, the notes of a conversion, and writes at places apart (R80, R87, R88, R106, R254, R395). -/

namespace Sys2Proof.Machine

/-! ### Plain spans -/

/-- A state with another far cache. -/
def withCache (s : State) (c : Tab (List CacheLine)) : State := { s with fs := { s.fs with cache := c } }

theorem plainSpan_withCache {s : State} {a n : Nat} (c : Tab (List CacheLine)) (h : PlainSpan s a n) : PlainSpan (withCache s c) a n := h

theorem linesOf_none (a : Nat) : linesOf a 0 = [] := if_pos rfl

/-- A near-store read by a unit at banks where nothing waits, with nothing poisoned and no stored error: its bytes alone. -/
theorem spanFetch_near {s : State} {a n : Nat} (htop : a + n ≤ 0x200000000) (hoff : offOf a + n ≤ 0x600000) (hbanks : (tileAt s (tileOf a)).banks = [])
    (hu : s.upsets = []) (hp : s.poison = []) (noalloc : Bool) : spanFetch s a n noalloc = (readBytes s.mem a n, false, s) := by
  by_cases hn : n = 0
  · subst hn
    have hturn : bankTurn s a 0 = s := if_pos (by rw [hbanks]; rfl)
    have htouch : nsTouch s a 0 = s := by rw [nsTouch, hturn, nsErrors, hu, List.foldl_nil]
    have hclean : spanPoisoned s a 0 = false := by rw [spanPoisoned, linesOf_none, List.any_nil]
    by_cases ha : isTileAddr a = true
    · by_cases hlow : offOf a < 0x600000
      · have hw : windowPart (offOf a) = 0 := if_pos hlow
        simp only [spanFetch, spanRead, ha, hw, if_true, htouch, hclean]
      · have hw : windowPart (offOf a) = 1 := by rw [show offOf a = 0x600000 by omega]; rfl
        simp only [spanFetch, spanRead, ha, hw, if_true]
        rfl
    · have hfar : isTileAddr a = false := by simpa using ha
      have hmark : fsReadMark s a 0 = s := by rw [fsReadMark, linesOf_none, List.foldl_nil]
      have huse : fcUseSpan s a 0 false noalloc = s := if_pos rfl
      simp only [spanFetch, spanRead, hfar, Bool.false_eq_true, if_false, huse, hmark, hclean]
  · have ha : isTileAddr a = true := decide_eq_true (by omega)
    have hw : windowPart (offOf a) = 0 := if_pos (by omega)
    have hturn : bankTurn s a n = s := if_pos (by rw [hbanks]; rfl)
    have htouch : nsTouch s a n = s := by rw [nsTouch, hturn, nsErrors, hu, List.foldl_nil]
    simp only [spanFetch, spanRead, ha, hw, if_true, htouch, spanPoisoned_near hp htop]

/-- A read of a plain span gives its bytes, clean, and at most uses the far cache. -/
theorem spanFetch_plain {s : State} {a n : Nat} (h : PlainSpan s a n) (hu : s.upsets = []) (hp : s.poison = []) (noalloc : Bool) :
    ∃ c, spanFetch s a n noalloc = (readBytes s.mem a n, false, withCache s c) := by
  by_cases ha : fsBase ≤ a
  · exact spanFetch_far (farStoreOpen_of_plainSpan h ha) hp (decide_eq_false (by unfold fsBase at ha; omega)) n noalloc
  · obtain ⟨htop, hoff, hbanks⟩ := h.resolve_right (fun e => ha e.1)
    exact ⟨s.fs.cache, spanFetch_near htop hoff hbanks hu hp noalloc⟩

/-! ### A descriptor's blocks -/

/-- Block i of a descriptor's planes as stored. -/
def storedBlk (s : State) (d : DescF) (i : Nat) : SrcBlk :=
  { fmt := d.fmt
    bytes := readBytes s.mem (localAddr d.src + i * blockStride d.fmt) (fieldBytes d.fmt)
    scale := if hasScale d.fmt then (readCells s.mem (localAddr d.srcScale + i)).toNat else 0 }

/-- The planes of a descriptor's block i are plain. -/
def PlainBlk (s : State) (d : DescF) (i : Nat) : Prop :=
  PlainSpan s (localAddr d.src + i * blockStride d.fmt) (fieldBytes d.fmt) ∧ (hasScale d.fmt = true → PlainSpan s (localAddr d.srcScale + i) 1)

theorem fetchBlock_plain {s : State} {d : DescF} {i : Nat} (h : PlainBlk s d i) (hu : s.upsets = []) (hp : s.poison = []) :
    ∃ c, fetchBlock s d i = (storedBlk s d i, withCache s c) := by
  obtain ⟨c, hc⟩ := spanFetch_plain h.1 hu hp d.noalloc
  by_cases hs : hasScale d.fmt = true
  · obtain ⟨c', hc'⟩ := spanFetch_plain (plainSpan_withCache c (h.2 hs)) hu hp d.noalloc
    refine ⟨c', ?_⟩
    simp only [fetchBlock, hc, hs, if_true, hc', Bool.or_false, storedBlk]
    rfl
  · refine ⟨c, ?_⟩
    simp only [fetchBlock, hc, hs, Bool.false_eq_true, if_false, Bool.or_false, storedBlk]
    rfl

/-- The blocks of an uncompressed source with plain planes, in order. -/
theorem sourceBlocks_plain {s : State} {d : DescF} (hcomp : d.srcComp = false) {n : Nat} (h : ∀ i, i < n → PlainBlk s d i) (hu : s.upsets = [])
    (hp : s.poison = []) : ∃ c, sourceBlocks s d 0 n = ((List.range n).map (storedBlk s d), true, withCache s c) := by
  have fold : ∀ (l : List Nat), (∀ i ∈ l, i < n) → ∀ (acc : List SrcBlk) (c : Tab (List CacheLine)),
      ∃ c', l.foldl (fun a i => ((fetchBlock a.2 d i).1 :: a.1, (fetchBlock a.2 d i).2)) (acc, withCache s c)
        = ((l.map (storedBlk s d)).reverse ++ acc, withCache s c') := by
    intro l
    induction l with
    | nil => exact fun _ acc c => ⟨c, rfl⟩
    | cons i l ih =>
      intro hl acc c
      obtain ⟨c1, h1⟩ : ∃ c1, fetchBlock (withCache s c) d i = (storedBlk s d i, withCache s c1) :=
        fetchBlock_plain (s := withCache s c) (h i (hl i List.mem_cons_self)) hu hp
      obtain ⟨c2, h2⟩ := ih (fun j hj => hl j (List.mem_cons_of_mem i hj)) (storedBlk s d i :: acc) c1
      exact ⟨c2, by rw [List.foldl_cons, h1, h2, List.map_cons, List.reverse_cons, List.append_assoc, List.singleton_append]⟩
  obtain ⟨c, hc⟩ := fold (List.range n) (fun i => List.mem_range.1) [] s.fs.cache
  have hc : (countFrom 0 n).foldl (fun a i => ((fetchBlock a.2 d i).1 :: a.1, (fetchBlock a.2 d i).2)) ([], s)
      = (((List.range n).map (storedBlk s d)).reverse, withCache s c) := by
    rw [show countFrom 0 n = List.range n by simp only [countFrom, Nat.zero_add, List.map_id'], ← List.append_nil (List.reverse _)]
    exact hc
  refine ⟨c, ?_⟩
  simp only [sourceBlocks, hcomp, Bool.false_eq_true, if_false, hc, List.reverse_reverse]

theorem withPos_map_range {α : Type} (f : Nat → α) (n : Nat) : withPos ((List.range n).map f) = (List.range n).map (fun i => (i, f i)) := by
  simp only [withPos, List.length_map, List.length_range]
  refine List.ext_getElem (by simp) fun i h1 h2 => by simp

/-! ### What a conversion notes -/

/-- A state after a conversion's overdraft and audit are noted: tile t's drain, status registers and the partitions' audits apart, all is as
it was. -/
structure ConvNoted (t : Nat) (s u : State) : Prop where
  own : ∃ d, tileAt u t = { tileAt s t with drain := d }
  others : ∀ x, x ≠ t → tileAt u x = tileAt s x
  parts : ∀ p, ∃ as, partAt u p = { partAt s p with ctx := { (partAt s p).ctx with audits := as } }
  mem : u.mem = s.mem

namespace ConvNoted

variable {t : Nat} {s u v : State}

theorem refl (s : State) : ConvNoted t s s := ⟨⟨_, rfl⟩, fun _ _ => rfl, fun _ => ⟨_, rfl⟩, rfl⟩

theorem trans (h : ConvNoted t s u) (g : ConvNoted t u v) : ConvNoted t s v := by
  obtain ⟨d, hown⟩ := h.own
  obtain ⟨d', gown⟩ := g.own
  refine ⟨⟨d', by rw [gown, hown]⟩, fun x hx => (g.others x hx).trans (h.others x hx), fun p => ?_, g.mem.trans h.mem⟩
  obtain ⟨as, hp⟩ := h.parts p
  obtain ⟨as', gp⟩ := g.parts p
  exact ⟨as', by rw [gp, hp]⟩

theorem keys (h : ConvNoted t s u) (q tag point : Nat) (idx : List Nat) : bitsAt (partAt u q) tag point idx = bitsAt (partAt s q) tag point idx := by
  obtain ⟨as, hp⟩ := h.parts q
  rw [hp]
  rfl

theorem keys_mem {m : List Host.Cell} (h : ConvNoted t { s with mem := m } u) (q tag point : Nat) (idx : List Nat) :
    bitsAt (partAt u q) tag point idx = bitsAt (partAt s q) tag point idx := h.keys q tag point idx

theorem dma (h : ConvNoted t s u) (x : Nat) : (tileAt u x).dma = (tileAt s x).dma := by
  by_cases hx : x = t
  · obtain ⟨d, hown⟩ := h.own
    rw [hx, hown]
  · rw [h.others x hx]

/-- What is noted does not rest on memory. -/
theorem withMem (h : ConvNoted t s u) (m : List Host.Cell) : ConvNoted t { s with mem := m } { u with mem := m } := ⟨h.own, h.others, h.parts, rfl⟩

theorem dma_mem {m : List Host.Cell} (h : ConvNoted t { s with mem := m } u) (x : Nat) : (tileAt u x).dma = (tileAt s x).dma := h.dma x

theorem mem_eq {m : List Host.Cell} (h : ConvNoted t { s with mem := m } u) : u.mem = m := h.mem

theorem of_audits {f : StepCtx → StepCtx} (h : ∀ c, ∃ as, f c = { c with audits := as }) (s : State) (q : Nat) : ConvNoted t s (modCtx s q f) := by
  refine ⟨⟨_, rfl⟩, fun _ _ => rfl, fun p => ?_, rfl⟩
  rw [modCtx_own]
  split
  next e =>
    obtain ⟨as, hf⟩ := h (partAt s q).ctx
    exact ⟨as, by rw [← e, hf]⟩
  · exact ⟨_, rfl⟩

end ConvNoted

theorem raiseOverdraft_noted (s : State) (t slot : Nat) : ConvNoted t s (raiseOverdraft s t slot) := by
  obtain ⟨⟨o, nf, hown⟩, hothers, -, hmem⟩ := raiseOverdraft_flags s t slot
  exact ⟨⟨_, hown⟩, hothers, fun p => ⟨(partAt s p).ctx.audits, rfl⟩, hmem⟩

theorem audit_noted (s : State) (t q layer point fmt converted overflowed vanished : Nat) :
    ConvNoted t s (audit s q layer point fmt converted overflowed vanished) := by
  refine .of_audits (fun c => ?_) s q
  dsimp only
  split <;> exact ⟨_, rfl⟩

theorem auditFeed_noted (s : State) (t q slot point : Nat) (b : SrcBlk) (cap mode : Nat) (rb : List Nat) (blk : Blk) :
    ConvNoted t s (auditFeed s q slot point b cap mode rb blk) := by
  unfold auditFeed
  split
  · exact .refl s
  · dsimp only [auditLayer, auditCounts]
    split
    · exact audit_noted s t q _ _ _ _ _ _
    · exact .refl s

/-- A conversion noted where it saturated, and audited. -/
theorem conversion_noted (s : State) (t q slot point : Nat) (b : SrcBlk) (cap mode : Nat) (rb : List Nat) (blk : Blk) :
    ConvNoted t s (auditFeed (if blk.sat then raiseOverdraft s t slot else s) q slot point b cap mode rb blk) := by
  refine .trans ?_ (auditFeed_noted _ t q slot point b cap mode rb blk)
  split
  · exact raiseOverdraft_noted s t slot
  · exact .refl s

/-! ### Writes at places apart -/

/-- Memory with strings written at their addresses, in order. -/
def writeAll (m : List Host.Cell) (l : List (Nat × List Byte)) : List Host.Cell := l.foldl (fun m w => writeBytes m w.1 w.2) m

/-- The places of two writes do not meet. -/
def Apart (v w : Nat × List Byte) : Prop := v.1 + v.2.length ≤ w.1 ∨ w.1 + w.2.length ≤ v.1

theorem writeAll_append (m : List Host.Cell) (l k : List (Nat × List Byte)) : writeAll m (l ++ k) = writeAll (writeAll m l) k :=
  List.foldl_append

/-- A byte that no write covers stays. -/
theorem readCells_writeAll_outside {m : List Host.Cell} (h : Memory.wf m = true) {l : List (Nat × List Byte)} {a : Nat}
    (ho : ∀ w ∈ l, a < w.1 ∨ w.1 + w.2.length ≤ a) : readCells (writeAll m l) a = readCells m a := by
  induction l generalizing m with
  | nil => rfl
  | cons w l ih =>
    have hw := ho w List.mem_cons_self
    rw [writeAll, List.foldl_cons]
    refine (ih (wf_writeBytes h w.1 w.2) (fun v hv => ho v (List.mem_cons_of_mem w hv))).trans ?_
    rw [readCells_writeBytes h, if_neg (by omega)]

theorem readBytes_congr {m m' : List Host.Cell} {a n : Nat} (h : ∀ c, a ≤ c → c < a + n → readCells m' c = readCells m c) : readBytes m' a n = readBytes m a n :=
  List.map_congr_left fun i hi => h _ (by omega) (by have := List.mem_range.1 hi; omega)

/-- What one of the writes wrote reads back, where every other lies apart from it. -/
theorem readBytes_writeAll {m : List Host.Cell} (h : Memory.wf m = true) {l : List (Nat × List Byte)} {w : Nat × List Byte} (hw : w ∈ l)
    (hapart : ∀ v ∈ l, v = w ∨ Apart v w) : readBytes (writeAll m l) w.1 w.2.length = w.2 := by
  have written : ∀ (l : List (Nat × List Byte)) (m : List Host.Cell), Memory.wf m = true → (∀ v ∈ l, v = w ∨ Apart v w) →
      (w ∈ l ∨ readBytes m w.1 w.2.length = w.2) → readBytes (writeAll m l) w.1 w.2.length = w.2 := by
    intro l
    induction l with
    | nil => exact fun m _ _ h => h.resolve_left List.not_mem_nil
    | cons v l ih =>
      intro m hm ha hor
      refine ih _ (wf_writeBytes hm v.1 v.2) (fun x hx => ha x (List.mem_cons_of_mem v hx)) ?_
      rcases ha v List.mem_cons_self with rfl | hapart
      · exact .inr (readBytes_writeBytes hm v.1 v.2)
      · rcases hor with hmem | hread
        · rcases List.mem_cons.1 hmem with rfl | hmem
          · exact .inr (readBytes_writeBytes hm w.1 w.2)
          · exact .inl hmem
        · refine .inr ((readBytes_congr fun c h1 h2 => ?_).trans hread)
          rw [readCells_writeBytes hm, if_neg (by unfold Apart at hapart; omega)]
  exact written l m h hapart (.inl hw)

end Sys2Proof.Machine
end

section
/-! SUPPORT. FEED and WEIGHT: the descriptor that moves, its intake, its weight set's cells, and the obligation (R80, R87, R88). -/

namespace Sys2Proof.Machine

/-! ### The engine's descriptor -/

theorem headRun_modHeadRun {s : State} {t : Nat} {r : DmaRun} (h : headRun s t = some r) (f : DmaRun → DmaRun) :
    headRun (modHeadRun s t f) t = some (f r) := by
  unfold headRun at h ⊢
  rw [modHeadRun, modTile_own, if_pos rfl]
  cases hd : (tileAt s t).dma with
  | nil => simp [hd] at h
  | cons y l =>
    obtain rfl : y = r := by simpa [hd] using h
    rfl

/-- A descriptor's data have moved with OK. -/
theorem descMoved_modDesc {u : State} {t k : Nat} {r : DmaRun} {x : Desc} (hr : headRun u t = some r) (hx : r.descs[k]? = some x) (miss : Bool) :
    DescMoved (modDesc u t k (fun y => { y with phase := 2, status := stOk, mismatch := miss })) t k := by
  refine ⟨_, { x with phase := 2, status := stOk, mismatch := miss }, headRun_modHeadRun hr _, ?_, rfl, rfl⟩
  simp only [List.getElem?_modify_eq, hx, Option.map_eq_map, Option.map_some]

/-- The row of an operation moves its descriptor's data. -/
theorem runDesc_moves {s : State} {q t k op : Nat} {d : DescF} (h : DescMoves s q t k op d) :
    ∃ r x, headRun s t = some r ∧ r.descs[k]? = some x ∧ ∀ m, moveDesc (serveRequests s t k) q t k d r.tick r.spec = m →
      runDesc op t k s = modDesc m.2.2 t k (fun y => { y with phase := 2, status := m.1, mismatch := m.2.1 }) := by
  obtain ⟨hq, ⟨r, x, hr, hx, hd, hphase, hawait⟩, hop, hreq, hunit, hcheck, hreset, -⟩ := h
  refine ⟨r, x, hr, hx, ?_⟩
  rintro m rfl
  have stream : (d.check && (cvSlotAt s d.unit q).cont && runBad s d.unit q) = false := by
    cases hc : d.check with
    | false => simp only [Bool.false_and]
    | true => rw [hcheck hc, Bool.and_false]
  have moves : tryMove s q t k = modDesc (moveDesc (serveRequests s t k) q t k d r.tick r.spec).2.2 t k (fun y =>
      { y with
        phase := 2
        status := (moveDesc (serveRequests s t k) q t k d r.tick r.spec).1
        mismatch := (moveDesc (serveRequests s t k) q t k d r.tick r.spec).2.1 }) := by
    have moving : (decide (x.phase ≠ 1) || requestsWait s q t k || awaitsEarlier s r k d || unitWaits s d) = false := by
      rw [hreq, hawait, hunit, hphase]
      rfl
    simp only [tryMove, hr, hx, hd, moving, stream, hreset, Bool.false_eq_true, if_false]
  have isOp : ¬d.op ≠ op := not_not.2 hop
  simp only [runDesc, hq, hr, hx, hd, isOp, hphase, if_true, if_false, moves]

/-! ### FEED -/

/-- The blocks of a FEED as its intake takes them. -/
def fedBlk (s : State) (d : DescF) (inWidth i : Nat) : SrcBlk := { storedBlk s d i with index := d.index0 + i * inWidth }

/-- A tile's array with blocks joined to the intake of a descriptor's ring. -/
def takeFed (d : DescF) (bs : List SrcBlk) (a : Arr) : Arr :=
  { a with intakeQ := a.intakeQ.put (4 * d.layerSlot + d.segment) (a.intakeQ.at (4 * d.layerSlot + d.segment) [] ++ bs) }

theorem moveFeed_plain {s : State} {d : DescF} {l : LayerRec} (hcomp : d.srcComp = false) (h : ∀ i, i < d.count → PlainBlk s d i) (hu : s.upsets = [])
    (hp : s.poison = []) :
    ∃ c, moveFeed s d l = (true, modArr (withCache s c) (tileOf (localAddr d.dst)) (takeFed d ((List.range d.count).map (fedBlk s d l.inWidth)))) := by
  obtain ⟨c, hc⟩ := sourceBlocks_plain hcomp h hu hp
  refine ⟨c, ?_⟩
  simp only [moveFeed, hc, withPos_map_range, List.map_map]
  rfl

theorem arr_modDesc (u : State) (t k v : Nat) (f : Desc → Desc) : (tileAt (modDesc u t k f) v).arr = (tileAt u v).arr := by
  rw [modDesc, modHeadRun, modTile_own]
  split
  next e => rw [e]
  · rfl

theorem feed_moves {s : State} {q t k : Nat} {d : DescF} (hcomp : d.srcComp = false) (hm : DescMoves s q t k 2 d)
    (h : ∀ i, i < d.count → PlainBlk s d i) :
    Completes (.feed t k) s (fun u =>
      DescMoved u t k ∧ u.mem = s.mem
      ∧ (tileAt u (tileOf (localAddr d.dst))).arr.intakeQ.at (4 * d.layerSlot + d.segment) []
        = (tileAt s (tileOf (localAddr d.dst))).arr.intakeQ.at (4 * d.layerSlot + d.segment) []
          ++ (List.range d.count).map (fedBlk s d ((layerOf (partAt s q) d.layerSlot).getD {}).inWidth)) := by
  have hop : d.op = 2 := hm.2.2.1
  obtain ⟨r, x, hr, hx, hrun⟩ := runDesc_moves hm
  obtain ⟨-, -, -, -, -, -, -, hp, hu, -⟩ := hm
  obtain ⟨c, hc⟩ := moveFeed_plain (s := serveRequests s t k) (l := (layerOf (partAt s q) d.layerSlot).getD {}) hcomp h hu hp
  have moved : moveDesc (serveRequests s t k) q t k d r.tick r.spec
      = (stOk, false, (moveFeed (serveRequests s t k) d ((layerOf (partAt s q) d.layerSlot).getD {})).2) := by
    have hl : layerOf (partAt (serveRequests s t k) q) d.layerSlot = layerOf (partAt s q) d.layerSlot := rfl
    simp only [moveDesc, hop, hl, hc, if_true]
    rfl
  refine ⟨_, congrArg Host.Outcome.next (hrun _ moved), ?_, ?_, ?_⟩
  · rw [hc]
    refine descMoved_modDesc (r := r) ?_ hx false
    rw [headRun, modArr_own]
    split
    next e => rw [e]; exact hr
    · exact hr
  · rw [hc]
    rfl
  · rw [arr_modDesc, hc, modArr_own, if_pos rfl]
    exact Tab.at_put_same _ _ _ _

/-! ### WEIGHT -/

/-- A weight block as it is converted at a cap of 4 digits, block i of set k (R88). -/
def convertedBlk (p : Part) (d : DescF) (l : LayerRec) (k i : Nat) (b : SrcBlk) : Blk :=
  feedBlock b.fmt b.bytes b.scale 4 l.rndIn
    (bitsAt p l.tag 2 ((List.range 32).map (fun e => d.index0 + 128 * k + (32 * (i / 128) + e) * l.outWidth + i % 128)))

/-- What element e's cell holds: zero for a non-finite block or one of no digits. -/
def cellWord (b : Blk) (e : Nat) : Nat := if b.nonfinite || b.d = 0 then 0 else unsigned 16 (b.q.getD e 0)

/-- The scale byte stored for a block. -/
def scaleWord (b : Blk) : Nat := if b.nonfinite then 255 else if b.nonfinite || b.d = 0 then 0 else b.e

/-- The writes of block i of a set at an address: its 32 cells at their places in stream order, and its scale byte. -/
def cellWrite (base i : Nat) (b : Blk) (e : Nat) : Nat × List Byte := (base + weightOffset (32 * (i / 128) + e) (i % 128), toLe 2 (cellWord b e))
def scaleWrite (base i : Nat) (b : Blk) : Nat × List Byte := (base + 0x8000 + 128 * (i / 128) + i % 128, toLe 1 (scaleWord b))
def blockWrites (base i : Nat) (b : Blk) : List (Nat × List Byte) := (List.range 32).map (cellWrite base i b) ++ [scaleWrite base i b]

/-- A weight block's write is its writes, with its conversion noted. -/
theorem writeWeightBlock_clean (q : Nat) (d : DescF) (l : LayerRec) (k : Nat) (s : State) (i : Nat) {b : SrcBlk} (hb : b.poisoned = false) :
    ConvNoted (tileOf (localAddr d.dst))
      { s with mem := writeAll s.mem (blockWrites (localAddr d.dst + 33280 * k) i (convertedBlk (partAt s q) d l k i b)) }
      (writeWeightBlock q d l k s (i, b)) := by
  have noted := conversion_noted (t := tileOf (localAddr d.dst))
    { s with mem := writeAll s.mem (blockWrites (localAddr d.dst + 33280 * k) i (convertedBlk (partAt s q) d l k i b)) }
    q d.layerSlot 2 b 4 l.rndIn
    (bitsAt (partAt s q) l.tag 2 ((List.range 32).map (fun e => d.index0 + 128 * k + (32 * (i / 128) + e) * l.outWidth + i % 128)))
    (convertedBlk (partAt s q) d l k i b)
  simp only [blockWrites, writeAll, List.foldl_append, List.foldl_map, List.foldl_cons, List.foldl_nil, cellWrite, scaleWrite, cellWord, scaleWord,
    convertedBlk] at noted ⊢
  simp only [writeWeightBlock, hb, Bool.false_eq_true, if_false]
  exact noted

/-- A whole set's blocks, each at its number. -/
def setWrites (p : Part) (d : DescF) (l : LayerRec) (k : Nat) (bs : List (Nat × SrcBlk)) : List (Nat × List Byte) :=
  bs.flatMap (fun x => blockWrites (localAddr d.dst + 33280 * k) x.1 (convertedBlk p d l k x.1 x.2))

theorem setWrites_cons (p : Part) (d : DescF) (l : LayerRec) (k : Nat) (x : Nat × SrcBlk) (bs : List (Nat × SrcBlk)) :
    setWrites p d l k (x :: bs) = blockWrites (localAddr d.dst + 33280 * k) x.1 (convertedBlk p d l k x.1 x.2) ++ setWrites p d l k bs :=
  List.flatMap_cons

theorem writeWeightBlocks_clean (q : Nat) (d : DescF) (l : LayerRec) (k : Nat) (bs : List (Nat × SrcBlk)) (hb : ∀ x ∈ bs, x.2.poisoned = false) (s : State) :
    ConvNoted (tileOf (localAddr d.dst)) { s with mem := writeAll s.mem (setWrites (partAt s q) d l k bs) } (bs.foldl (writeWeightBlock q d l k) s) := by
  induction bs generalizing s with
  | nil => exact .refl s
  | cons x bs ih =>
    obtain ⟨i, b⟩ := x
    have first := writeWeightBlock_clean q d l k s i (hb (i, b) List.mem_cons_self)
    have rest := ih (fun y hy => hb y (List.mem_cons_of_mem _ hy)) (writeWeightBlock q d l k s (i, b))
    have keys : ∀ i' b', convertedBlk (partAt (writeWeightBlock q d l k s (i, b)) q) d l k i' b' = convertedBlk (partAt s q) d l k i' b' :=
      fun i' b' => by simp only [convertedBlk, first.keys_mem]
    have same : setWrites (partAt (writeWeightBlock q d l k s (i, b)) q) d l k bs = setWrites (partAt s q) d l k bs := by simp only [setWrites, keys]
    have written : (writeWeightBlock q d l k s (i, b)).mem
        = writeAll s.mem (blockWrites (localAddr d.dst + 33280 * k) i (convertedBlk (partAt s q) d l k i b)) := by rw [first.mem]
    have all : writeAll (writeWeightBlock q d l k s (i, b)).mem (setWrites (partAt s q) d l k bs)
        = writeAll s.mem (setWrites (partAt s q) d l k ((i, b) :: bs)) := by rw [written, setWrites_cons, writeAll_append]
    rw [same, all] at rest
    exact .trans (first.withMem _) rest

end Sys2Proof.Machine
end

section
/-! SUPPORT. WEIGHT: the places of a set's cells lie apart, and the obligation (R87, R88). -/

namespace Sys2Proof.Machine

/-! ### A set's places -/

/-- Two cells of a set at one place are one cell. -/
theorem weightOffset_inj {k n k' n' : Nat} (hn : n < 128) (hn' : n' < 128) (h : weightOffset k n = weightOffset k' n') :
    k = k' ∧ n = n' := by
  have hr : k % 32 < 32 := Nat.mod_lt _ (by decide)
  have hr' : k' % 32 < 32 := Nat.mod_lt _ (by decide)
  have lt := place_lt hr hn
  have lt' := place_lt hr' hn'
  rw [weightOffset_eq, weightOffset_eq] at h
  have hplace : streamPlace (k % 32) n = streamPlace (k' % 32) n' := by omega
  have hcell : (k % 32, n) = (k' % 32, n') := by rw [← streamCell_place hr hn, ← streamCell_place hr' hn', hplace]
  obtain ⟨hrow, hcol⟩ := Prod.mk.inj hcell
  exact ⟨by omega, hcol⟩

/-- A cell's two bytes lie in the set's cells, at an even offset. -/
theorem weightOffset_lt {k n : Nat} (hk : k < 128) (hn : n < 128) : weightOffset k n + 2 ≤ 0x8000 := by
  have lt := place_lt (r := k % 32) (Nat.mod_lt _ (by decide)) hn
  rw [weightOffset_eq]
  omega

theorem weightOffset_even (k n : Nat) : weightOffset k n % 2 = 0 := by
  rw [weightOffset_eq]
  omega

theorem cellWrite_length (base i : Nat) (b : Blk) (e : Nat) : (cellWrite base i b e).2.length = 2 := toLe_length 2 _

theorem scaleWrite_length (base i : Nat) (b : Blk) : (scaleWrite base i b).2.length = 1 := toLe_length 1 _

/-- The writes of a set of 512 blocks. -/
def cellsAndScales (base : Nat) (blk : Nat → Blk) : List (Nat × List Byte) := (List.range 512).flatMap (fun i => blockWrites base i (blk i))

section
variable {base : Nat} {blk : Nat → Blk}

theorem mem_cellsAndScales {w : Nat × List Byte} :
    w ∈ cellsAndScales base blk ↔ ∃ i, i < 512 ∧ ((∃ e, e < 32 ∧ w = cellWrite base i (blk i) e) ∨ w = scaleWrite base i (blk i)) := by
  simp only [cellsAndScales, blockWrites, List.mem_flatMap, List.mem_range, List.mem_append, List.mem_map, List.mem_singleton, eq_comm (b := w)]

theorem cells_apart {i e i' e' : Nat} (he : e < 32) (he' : e' < 32) :
    cellWrite base i (blk i) e = cellWrite base i' (blk i') e' ∨ Apart (cellWrite base i (blk i) e) (cellWrite base i' (blk i') e') := by
  have hn : i % 128 < 128 := Nat.mod_lt _ (by decide)
  have hn' : i' % 128 < 128 := Nat.mod_lt _ (by decide)
  by_cases h : weightOffset (32 * (i / 128) + e) (i % 128) = weightOffset (32 * (i' / 128) + e') (i' % 128)
  · obtain ⟨hrow, hcol⟩ := weightOffset_inj hn hn' h
    obtain rfl : i = i' := by omega
    obtain rfl : e = e' := by omega
    exact .inl rfl
  · have even := weightOffset_even (32 * (i / 128) + e) (i % 128)
    have even' := weightOffset_even (32 * (i' / 128) + e') (i' % 128)
    refine .inr ?_
    rw [Apart, cellWrite_length, cellWrite_length, cellWrite, cellWrite]
    dsimp only
    omega

theorem cell_scale_apart {i e i' : Nat} (hi : i < 512) (he : e < 32) : Apart (cellWrite base i (blk i) e) (scaleWrite base i' (blk i')) := by
  have low := weightOffset_lt (k := 32 * (i / 128) + e) (n := i % 128) (by omega) (Nat.mod_lt _ (by decide))
  rw [Apart, cellWrite_length, cellWrite, scaleWrite]
  dsimp only
  omega

theorem scales_apart (i i' : Nat) : scaleWrite base i (blk i) = scaleWrite base i' (blk i') ∨ Apart (scaleWrite base i (blk i)) (scaleWrite base i' (blk i')) := by
  by_cases h : i = i'
  · exact .inl (by rw [h])
  · refine .inr ?_
    rw [Apart, scaleWrite_length, scaleWrite_length, scaleWrite, scaleWrite]
    dsimp only
    omega

theorem Apart.symm {v w : Nat × List Byte} (h : Apart v w) : Apart w v := Or.symm h

/-- A set's writes lie apart. -/
theorem cellsAndScales_apart {v w : Nat × List Byte} (hv : v ∈ cellsAndScales base blk) (hw : w ∈ cellsAndScales base blk) : v = w ∨ Apart v w := by
  obtain ⟨i, hi, ⟨e, he, rfl⟩ | rfl⟩ := mem_cellsAndScales.1 hv <;> obtain ⟨i', hi', ⟨e', he', rfl⟩ | rfl⟩ := mem_cellsAndScales.1 hw
  · exact cells_apart he he'
  · exact .inr (cell_scale_apart hi he)
  · exact .inr (cell_scale_apart hi' he').symm
  · exact scales_apart i i'

/-- A set's writes stay within its 33,280 bytes. -/
theorem cellsAndScales_within {w : Nat × List Byte} (hw : w ∈ cellsAndScales base blk) : base ≤ w.1 ∧ w.1 + w.2.length ≤ base + 33280 := by
  obtain ⟨i, hi, ⟨e, he, rfl⟩ | rfl⟩ := mem_cellsAndScales.1 hw
  · have low := weightOffset_lt (k := 32 * (i / 128) + e) (n := i % 128) (by omega) (Nat.mod_lt _ (by decide))
    rw [cellWrite_length, cellWrite]
    dsimp only
    omega
  · rw [scaleWrite_length, scaleWrite]
    dsimp only
    omega

/-! ### What a set's bytes read back -/

variable {m : List Host.Cell} (hwf : Memory.wf m = true)
include hwf

theorem cell_written {i e : Nat} (hi : i < 512) (he : e < 32) :
    readBytes (writeAll m (cellsAndScales base blk)) (base + weightOffset (32 * (i / 128) + e) (i % 128)) 2 = toLe 2 (cellWord (blk i) e) := by
  have hw : cellWrite base i (blk i) e ∈ cellsAndScales base blk := mem_cellsAndScales.2 ⟨i, hi, .inl ⟨e, he, rfl⟩⟩
  have back := readBytes_writeAll hwf hw (fun v hv => cellsAndScales_apart hv hw)
  rwa [cellWrite_length] at back

theorem scale_written {i : Nat} (hi : i < 512) :
    readCells (writeAll m (cellsAndScales base blk)) (base + 0x8000 + 128 * (i / 128) + i % 128) = BitVec.ofNat 8 (scaleWord (blk i)) := by
  have hw : scaleWrite base i (blk i) ∈ cellsAndScales base blk := mem_cellsAndScales.2 ⟨i, hi, .inr rfl⟩
  have back := readBytes_writeAll hwf hw (fun v hv => cellsAndScales_apart hv hw)
  rw [scaleWrite_length] at back
  exact (List.cons.inj back).1

theorem cellsAndScales_outside {a : Nat} (ha : a < base ∨ base + 33280 ≤ a) :
    readCells (writeAll m (cellsAndScales base blk)) a = readCells m a :=
  readCells_writeAll_outside hwf fun w hw => by
    have := cellsAndScales_within hw
    omega

end

/-! ### The values stored -/

theorem unsigned_lt (v : Int) : unsigned 16 v < 65536 := by
  unfold unsigned
  omega

theorem le_cellWord (b : Blk) (e : Nat) : le (toLe 2 (cellWord b e)) 0 2 = if b.nonfinite = true ∨ b.d = 0 then 0 else unsigned 16 (b.q.getD e 0) := by
  have small : cellWord b e < 65536 := by
    unfold cellWord
    split
    · decide
    · exact unsigned_lt _
  rw [le, show slice (toLe 2 (cellWord b e)) 0 2 = toLe 2 (cellWord b e) from rfl, leNat_toLe, Nat.mod_eq_of_lt (show cellWord b e < 256 ^ 2 from small)]
  simp only [cellWord, Bool.or_eq_true, decide_eq_true_eq]

theorem scaleWord_byte (b : Blk) :
    (BitVec.ofNat 8 (scaleWord b)).toNat = if b.nonfinite = true then 255 else if b.d = 0 then 0 else b.e % 256 := by
  rw [BitVec.toNat_ofNat, scaleWord]
  by_cases hn : b.nonfinite = true
  · simp only [hn, if_true]
  · by_cases hd : b.d = 0
    · simp only [hn, hd, Bool.false_eq_true, if_false, decide_true, Bool.or_true, if_true]
    · simp only [hn, hd, Bool.false_eq_true, if_false, decide_false, Bool.or_false]

/-! ### One set moved -/

/-- With nothing poisoned and no stored error a span's cure changes nothing. -/
theorem curePoison_clean {s : State} (hu : s.upsets = []) (hp : s.poison = []) (a n : Nat) : curePoison s a n = s := by
  rw [curePoison, hu, hp]
  obtain ⟨⟩ := s
  subst hu hp
  rfl

/-- Block i of the set of a descriptor of one set, as it is converted. -/
def setBlk (s : State) (p : Part) (d : DescF) (l : LayerRec) (i : Nat) : Blk := convertedBlk p d l 0 i (storedBlk s d i)

theorem setWrites_stored (s : State) (p : Part) (d : DescF) (l : LayerRec) :
    setWrites p d l 0 (withPos ((List.range 512).map (storedBlk s d))) = cellsAndScales (localAddr d.dst) (setBlk s p d l) := by
  rw [withPos_map_range, setWrites, List.flatMap_map]
  rfl

theorem moveWeightSet_plain {s : State} {q : Nat} {d : DescF} {l : LayerRec} (hcomp : d.srcComp = false) (h : ∀ i, i < 512 → PlainBlk s d i)
    (hu : s.upsets = []) (hp : s.poison = []) :
    ∃ u, moveWeightSet q d l (true, s) 0 = (true, u) ∧ u.mem = writeAll s.mem (cellsAndScales (localAddr d.dst) (setBlk s (partAt s q) d l))
      ∧ ∀ x, (tileAt u x).dma = (tileAt s x).dma := by
  obtain ⟨c, hc⟩ := sourceBlocks_plain hcomp h hu hp
  have hcure : curePoison (withCache s c) (localAddr d.dst + 33280 * 0) 33280 = withCache s c := curePoison_clean (s := withCache s c) hu hp _ _
  have moved : moveWeightSet q d l (true, s) 0
      = (true, (withPos ((List.range 512).map (storedBlk s d))).foldl (writeWeightBlock q d l 0) (withCache s c)) := by
    simp only [moveWeightSet, Bool.not_true, Bool.false_eq_true, if_false, Nat.mul_zero 512, hc, hcure]
  have clean : ∀ x ∈ withPos ((List.range 512).map (storedBlk s d)), x.2.poisoned = false := fun x hx => by
    rw [withPos_map_range] at hx
    obtain ⟨i, -, rfl⟩ := List.mem_map.1 hx
    rfl
  have noted := writeWeightBlocks_clean q d l 0 _ clean (withCache s c)
  rw [setWrites_stored] at noted
  exact ⟨_, moved, noted.mem_eq, noted.dma_mem⟩

/-- A state holds a weight set's cells and scale bytes at an address, and the bytes outside its 33,280 as they were. -/
def HoldsSet (s u : State) (base : Nat) (blk : Nat → Blk) : Prop := u.mem = writeAll s.mem (cellsAndScales base blk)

theorem weight_moves {s : State} {q t k : Nat} {d : DescF} (hcomp : d.srcComp = false) (hm : DescMoves s q t k 3 d) (hone : d.count = 1)
    (h : ∀ i, i < 512 → PlainBlk s d i) :
    Completes (.weight t k) s (fun u => DescMoved u t k
      ∧ HoldsSet s u (localAddr d.dst) (setBlk s (partAt s q) d ((layerOf (partAt s q) d.layerSlot).getD {}))) := by
  have hop : d.op = 3 := hm.2.2.1
  obtain ⟨r, x, hr, hx, hrun⟩ := runDesc_moves hm
  obtain ⟨-, -, -, -, -, -, -, hp, hu, -⟩ := hm
  obtain ⟨u, hset, hmem, hdma⟩ := moveWeightSet_plain (s := serveRequests s t k) (q := q) (l := (layerOf (partAt s q) d.layerSlot).getD {}) hcomp h hu hp
  have moved : moveDesc (serveRequests s t k) q t k d r.tick r.spec = (stOk, false, u) := by
    have hl : layerOf (partAt (serveRequests s t k) q) d.layerSlot = layerOf (partAt s q) d.layerSlot := rfl
    simp only [moveDesc, hop, hl, hone, List.range_one, List.foldl_cons, List.foldl_nil, hset]
    rfl
  have kept : setBlk (serveRequests s t k) (partAt (serveRequests s t k) q) d = setBlk s (partAt s q) d := rfl
  rw [kept] at hmem
  refine ⟨_, congrArg Host.Outcome.next (hrun _ moved), descMoved_modDesc (r := r) ?_ hx false, hmem⟩
  rw [headRun, hdma]
  exact hr

end Sys2Proof.Machine

namespace Sys2Proof

open Sys2Proof.Machine

/-- Settles O45: a FEED's blocks are those of its plain planes, in order, and a WEIGHT's cells and scale bytes lie apart in its set. -/
theorem blockTransfersReachTheArray : Obligations.BlockTransfersReachTheArray := by
  unfold Obligations.BlockTransfersReachTheArray
  intro q t k d s hcomp
  refine ⟨fun hm hplain => feed_moves hcomp hm hplain, fun hm hone hplain _ _ => ?_⟩
  have hwf : Memory.wf s.mem = true := hm.2.2.2.2.2.2.2.2.2
  obtain ⟨u, hu, hmoved, hset⟩ := weight_moves hcomp hm hone hplain
  rw [HoldsSet] at hset
  refine ⟨u, hu, hmoved, fun a ha => by rw [hset, cellsAndScales_outside hwf ha], fun b n hb hn => ?_⟩
  have hi : 128 * b + n < 512 := by omega
  have hrow : (128 * b + n) / 128 = b := by omega
  have hcol : (128 * b + n) % 128 = n := by omega
  have hblk : setBlk s (partAt s q) d ((layerOf (partAt s q) d.layerSlot).getD {}) (128 * b + n)
      = feedBlock d.fmt (readBytes s.mem (localAddr d.src + (128 * b + n) * blockStride d.fmt) (fieldBytes d.fmt))
          (if hasScale d.fmt then (readCells s.mem (localAddr d.srcScale + (128 * b + n))).toNat else 0) 4
          ((layerOf (partAt s q) d.layerSlot).getD {}).rndIn
          (bitsAt (partAt s q) ((layerOf (partAt s q) d.layerSlot).getD {}).tag 2
            ((List.range 32).map (fun e => d.index0 + (32 * b + e) * ((layerOf (partAt s q) d.layerSlot).getD {}).outWidth + n))) := by
    rw [setBlk, convertedBlk, hrow, hcol]
    rfl
  dsimp only
  rw [← hblk]
  refine ⟨fun e he => ?_, ?_⟩
  · have written := cell_written (base := localAddr d.dst) (blk := setBlk s (partAt s q) d ((layerOf (partAt s q) d.layerSlot).getD {})) hwf hi he
    rw [hrow, hcol] at written
    rw [hset, written, le_cellWord]
  · have written := scale_written (base := localAddr d.dst) (blk := setBlk s (partAt s q) d ((layerOf (partAt s q) d.layerSlot).getD {})) hwf hi
    rw [hrow, hcol] at written
    rw [hset, written, scaleWord_byte]

end Sys2Proof
end

section
/-! SUPPORT. ISSUE_SLOT and SHADOW_LOAD: a pass's swap slot, and a weight set's first cell and scale byte (R86, R90 to R92). -/

namespace Sys2Proof.Machine

/-! ### Accumulators cleared -/

/-- A state after a plan's set is cleared for its accumulation: how many sets each plan has cleared and tile t's drain apart, all is as it was. -/
structure SetCleared (t : Nat) (s u : State) : Prop where
  own : ∃ g d, (∀ y : Plan, ∃ c, g y = { y with cleared := c })
    ∧ tileAt u t = { tileAt s t with arr := { (tileAt s t).arr with plans := (tileAt s t).arr.plans.map g }, drain := d }
  others : ∀ x, x ≠ t → tileAt u x = tileAt s x
  mem : u.mem = s.mem

theorem clearSet_cleared (s : State) (t id j : Nat) : SetCleared t s (clearSet s t id j) := by
  have same : SetCleared t s s := ⟨⟨fun y => y, (tileAt s t).drain, fun y => ⟨y.cleared, rfl⟩, by rw [List.map_id']⟩, fun _ _ => rfl, rfl⟩
  have noted : ∃ g d, (∀ y : Plan, ∃ c, g y = { y with cleared := c }) ∧ tileAt (modPlan s t id (fun y => { y with cleared := j + 1 })) t
      = { tileAt s t with arr := { (tileAt s t).arr with plans := (tileAt s t).arr.plans.map g }, drain := d } := by
    refine ⟨fun y => if y.id = id then { y with cleared := j + 1 } else y, (tileAt s t).drain, fun y => ?_, by rw [modPlan, modArr_own, if_pos rfl]⟩
    dsimp only
    split
    · exact ⟨_, rfl⟩
    · exact ⟨y.cleared, rfl⟩
  have away : ∀ x, x ≠ t → tileAt (modPlan s t id (fun y => { y with cleared := j + 1 })) x = tileAt s x := fun x hx => by
    rw [modPlan, modArr_own, if_neg (Ne.symm hx)]
  unfold clearSet
  split
  · exact same
  · split
    · exact same
    · dsimp only
      split
      · obtain ⟨g, d, hg, hown⟩ := noted
        exact ⟨⟨g, _, hg, by rw [modDrain_own, if_pos rfl, hown]⟩, fun x hx => by rw [modDrain_own, if_neg (Ne.symm hx), away x hx], rfl⟩
      · exact ⟨noted, away, rfl⟩

/-! ### ISSUE_SLOT -/

/-- The pass that a swap slot begins. -/
def newPass (s : State) (t seg : Nat) (x : Plan) (j : Nat) : PassIssue :=
  { plan := x.id
    set := j
    last := decide (j + 1 = (feedRec s t x.feed).setCount)
    ring := ringKey x.layerSlot seg
    baseSlot := x.baseSlots.getD seg 0
    baseRow := x.baseRows.getD seg 0
    rows := x.rows }

/-- What the swap slot's issue leaves: the pass joins the segment's passes, its plan's set counts as issued, a pass of segment 0 is counted; the
lanes and the stop stay. -/
structure PassStarted (t seg : Nat) (x : Plan) (j : Nat) (s u : State) : Prop where
  lanes : (tileAt u t).arr.laneIn = (tileAt s t).arr.laneIn
  stop : (tileAt u t).arr.faultStop = (tileAt s t).arr.faultStop
  passes : (tileAt u t).arr.issue.at seg [] = (tileAt s t).arr.issue.at seg [] ++ [newPass s t seg x j]
  issued : ∃ y ∈ (tileAt u t).arr.plans, y.id = x.id ∧ y.issued.getD seg 0 = j + 1
  count : seg = 0 → (tileAt u t).arr.passCount = ((tileAt s t).arr.passCount + 1) % 2 ^ 24
  mem : u.mem = s.mem
  others : ∀ z, z ≠ t → tileAt u z = tileAt s z

/-- A plan changed stands among its tile's plans. -/
theorem mem_mapPlan {l : List Plan} {x : Plan} (h : x ∈ l) (f : Plan → Plan) : f x ∈ l.map (fun y => if y.id = x.id then f y else y) :=
  List.mem_map.2 ⟨x, h, if_pos rfl⟩

theorem getD_setNth_same {l : List Nat} {i : Nat} (h : i < l.length) (v : Nat) : (setNth l i v).getD i 0 = v := by
  simp [setNth, List.getD_eq_getElem?_getD, h]

/-- What the issue stage's own change of the array is, its accumulations apart. -/
def issueArr (s : State) (t seg : Nat) (x : Plan) (j : Nat) (a : Arr) : Arr :=
  let loaded (l : Load) : Bool := decide (l.pred = none ∧ l.plan = x.id ∧ l.set = j ∧ l.next = 4096 ∧ l.scaleNext = 128)
  let b := tellDrain { a with
    issue := a.issue.put seg (a.issue.at seg [] ++ [newPass s t seg x j])
    loads := a.loads.put seg ((a.loads.at seg []).filter (fun l => !loaded l)) } seg swapMark
  if seg = 0 then
    { b with
      passCount := (b.passCount + 1) % 2 ^ 24
      swapTags := b.swapTags ++ [layerTagOf (partAt s (partNum s t)) x.layerSlot] }
  else b

theorem issueArr_keeps (s : State) (t seg : Nat) (x : Plan) (j : Nat) (a : Arr) :
    (issueArr s t seg x j a).laneIn = a.laneIn ∧ (issueArr s t seg x j a).faultStop = a.faultStop ∧ (issueArr s t seg x j a).plans = a.plans
      ∧ (issueArr s t seg x j a).issue.at seg [] = a.issue.at seg [] ++ [newPass s t seg x j]
      ∧ (seg = 0 → (issueArr s t seg x j a).passCount = (a.passCount + 1) % 2 ^ 24) := by
  by_cases h : seg = 0 <;> simp [issueArr, tellDrain, h, Tab.at_put_same]

theorem startPass_started {s : State} {t seg : Nat} {x : Plan} (hx : x ∈ (tileAt s t).arr.plans) (hseg : seg < x.issued.length) (j : Nat) :
    PassStarted t seg x j s (startPass s t seg x j) := by
  have split : startPass s t seg x j = clearSet (modArr (modPlan s t x.id (fun p => { p with issued := setNth p.issued seg (j + 1) })) t
      (issueArr s t seg x j)) t x.id j := rfl
  obtain ⟨⟨g, d, hg, hown⟩, hothers, hmem⟩ := clearSet_cleared (modArr (modPlan s t x.id (fun p => { p with issued := setNth p.issued seg (j + 1) })) t
    (issueArr s t seg x j)) t x.id j
  rw [← split] at hown hothers hmem
  rw [modArr_own, if_pos rfl, modPlan, modArr_own, if_pos rfl] at hown
  obtain ⟨hlane, hstop, hplans, hissue, hcount⟩ := issueArr_keeps s t seg x j
    { (tileAt s t).arr with plans := (tileAt s t).arr.plans.map (fun y => if y.id = x.id then { y with issued := setNth y.issued seg (j + 1) } else y) }
  refine
    { lanes := by rw [hown]; exact hlane
      stop := by rw [hown]; exact hstop
      passes := by rw [hown]; exact hissue
      issued := ?_
      count := fun h0 => by rw [hown]; exact hcount h0
      mem := hmem
      others := fun z hz => ?_ }
  · obtain ⟨c, hc⟩ := hg { x with issued := setNth x.issued seg (j + 1) }
    refine ⟨_, ?_, (congrArg Plan.id hc).trans rfl, (congrArg (fun y => y.issued.getD seg 0) hc).trans (getD_setNth_same hseg (j + 1))⟩
    rw [hown]
    dsimp only
    rw [hplans]
    exact List.mem_map_of_mem (mem_mapPlan hx (fun y => { y with issued := setNth y.issued seg (j + 1) }))
  · rw [hothers z hz, modArr_own, if_neg (Ne.symm hz), modPlan, modArr_own, if_neg (Ne.symm hz)]

/-! ### A pass's first slot -/

/-- At its first slot a pass drives its swap onto row 0 alone. -/
theorem lane_first {y : PassIssue} (h : y.sigma = 0) (bytes : List Byte) (i : Nat) : y.lane bytes i = if i = 0 then some (laneEl 0 false true) else none := by
  simp only [PassIssue.lane, h]
  cases i with
  | zero => rfl
  | succ i => simp only [Nat.zero_lt_succ, if_true, Nat.succ_ne_zero, if_false]

/-- The lane of row i at a pass's first slot. -/
def swapLane (seg : Nat) (m : Tab (List LaneEl)) (i : Nat) : Tab (List LaneEl) :=
  if i = 0 then m.put (32 * seg + i) (m.at (32 * seg + i) [] ++ [laneEl 0 false true]) else m

theorem swapLane_rows (seg : Nat) (m : Tab (List LaneEl)) :
    (List.range 32).foldl (swapLane seg) m = m.put (32 * seg) (m.at (32 * seg) [] ++ [laneEl 0 false true]) := by
  rw [List.range_succ_eq_map, List.foldl_cons, List.foldl_map]
  exact List.foldl_fixed' (fun i => if_neg (Nat.succ_ne_zero i)) _

/-- A pass that has read no tag lets no row go. -/
theorem advance_first {y : PassIssue} (h : y.denoms = []) (t : Nat) (s : State) : (advance t s [y]).1 = s := by
  have none : (if y.last then rowsIssued y.denoms 0 y.sigma else 0) ≤ y.freed := by
    rw [h, rowsIssued, ite_self]
    exact Nat.zero_le _
  simp only [advance, releaseRows, none, if_true]

/-- The tile with each row's lane set by a function, the ring's issue place and the segment's passes set. -/
def lanesDriven (f : Tab (List LaneEl) → Nat → Tab (List LaneEl)) (s : State) (t seg ring place : Nat) (l : List PassIssue) : State :=
  setIssue (modRing (modArr s t (fun a => { a with laneIn := (List.range 32).foldl f a.laneIn })) t ring (fun r => { r with issueSlot := place })) t seg l

theorem driveSlot_swap {s : State} {t seg : Nat} {y : PassIssue} (hy : (tileAt s t).arr.issue.at seg [] = [y]) (h0 : y.sigma = 0) (hd : y.denoms = []) :
    ∃ ring place l, driveSlot s t seg = lanesDriven (swapLane seg) s t seg ring place l := by
  have unread : readSlot s t y = ([], false, s) := by
    have : y.reads = false := by simp only [PassIssue.reads, h0, Nat.lt_irrefl, false_and, decide_false]
    rw [readSlot, this]
    rfl
  have slots : readSlots t seg s [y] = (some [(y, [])], s) := by simp only [readSlots, unread, Bool.false_eq_true, if_false, Option.map_some]
  have swapAlone : ∀ {f}, (∀ m i, f m i = swapLane seg m i) →
      ∀ ring place l, lanesDriven f s t seg ring place l = lanesDriven (swapLane seg) s t seg ring place l :=
    fun hf _ _ _ => by rw [funext fun m => funext fun i => hf m i]
  simp only [driveSlot, hy, slots, List.map_cons, List.map_nil, List.isEmpty_cons, Bool.false_eq_true, if_false, List.getLast?_singleton, advance_first hd]
  refine ⟨_, _, _, swapAlone (fun m i => ?_) _ _ _⟩
  cases i <;> simp only [List.filterMap_cons, List.filterMap_nil, lane_first h0] <;> rfl

end Sys2Proof.Machine
end

section
/-! SUPPORT. ISSUE_SLOT's and SHADOW_LOAD's clauses (R86, R90 to R92). -/

namespace Sys2Proof.Machine

/-! ### ISSUE_SLOT -/

section
variable {s : State} {t seg : Nat}

/-- With a lane full nothing moves. -/
theorem issueSlot_full {i : Nat} (hi : i < 32) (h : 2 ≤ ((tileAt s t).arr.laneIn.at (32 * seg + i) []).length) : issueSlot t seg s = s := by
  have full : (List.range 32).any (fun i => decide (2 ≤ ((tileAt s t).arr.laneIn.at (32 * seg + i) []).length)) = true :=
    List.any_eq_true.2 ⟨i, List.mem_range.2 hi, decide_eq_true h⟩
  simp only [issueSlot, full, Bool.or_true, if_true]

/-- A plan found with a place in it is one of its tile's plans. -/
theorem mem_of_find_map {l : List Plan} {p : Plan → Bool} {f : Plan → Nat} {x : Plan} {j : Nat}
    (h : (l.find? p).map (fun x => (x, f x)) = some (x, j)) : x ∈ l := by
  obtain ⟨z, hz, hzx⟩ := Option.map_eq_some_iff.1 h
  obtain ⟨rfl, -⟩ := Prod.mk.inj hzx
  exact List.mem_of_find?_eq_some hz

theorem nextPass_mem {x : Plan} {j : Nat} (h : nextPass s t seg = some (x, j)) : x ∈ (tileAt s t).arr.plans := mem_of_find_map h

theorem nextLoad_mem {x : Plan} {j : Nat} (h : nextLoad s t seg = some (x, j)) : x ∈ (tileAt s t).arr.plans := mem_of_find_map h

/-- With every lane free and the issue stage idle the segment's next pass begins and drives its swap. -/
theorem issueSlot_starts {x : Plan} {j : Nat} (hf : (tileAt s t).arr.faultStop = false) (hidle : (tileAt s t).arr.issue.at seg [] = [])
    (hn : nextPass s t seg = some (x, j)) (hseg : seg < x.issued.length) (hfree : ∀ i, i < 32 → ((tileAt s t).arr.laneIn.at (32 * seg + i) []).length < 2) :
    PassStarted t seg x j s (startPass s t seg x j)
      ∧ ∃ ring place l, issueSlot t seg s = lanesDriven (swapLane seg) (startPass s t seg x j) t seg ring place l := by
  have started := startPass_started (nextPass_mem hn) hseg j
  have passes := started.passes
  rw [hidle, List.nil_append] at passes
  have free : (List.range 32).any (fun i => decide (2 ≤ ((tileAt s t).arr.laneIn.at (32 * seg + i) []).length)) = false :=
    List.any_eq_false.2 fun i hi => by simpa using hfree i (List.mem_range.1 hi)
  have prepared : prepareSlot s t seg = some (startPass s t seg x j) := by simp only [prepareSlot, hidle, List.getLast?_nil, hn, Option.map_some]
  have running : (tileAt (startPass s t seg x j) t).arr.faultStop = false := started.stop.trans hf
  obtain ⟨ring, place, l, hdrive⟩ := driveSlot_swap passes rfl rfl
  refine ⟨started, ring, place, l, ?_⟩
  rw [← hdrive]
  simp only [issueSlot, hf, free, prepared, running, Bool.or_self, Bool.false_eq_true, if_false]

theorem lanesDriven_own (f : Tab (List LaneEl) → Nat → Tab (List LaneEl)) (ring place : Nat) (l : List PassIssue) :
    tileAt (lanesDriven f s t seg ring place l) t = { tileAt s t with arr := { (tileAt s t).arr with
      laneIn := (List.range 32).foldl f (tileAt s t).arr.laneIn
      rings := (tileAt s t).arr.rings.put ring { (tileAt s t).arr.rings.at ring {} with issueSlot := place }
      issue := (tileAt s t).arr.issue.put seg l } } := by
  rw [lanesDriven, setIssue, modArr_own, if_pos rfl, modRing, modArr_own, if_pos rfl, modArr_own, if_pos rfl]

theorem lanesDriven_others (f : Tab (List LaneEl) → Nat → Tab (List LaneEl)) (ring place : Nat) (l : List PassIssue) {z : Nat} (hz : z ≠ t) :
    tileAt (lanesDriven f s t seg ring place l) z = tileAt s z := by
  rw [lanesDriven, setIssue, modArr_own, if_neg (Ne.symm hz), modRing, modArr_own, if_neg (Ne.symm hz), modArr_own, if_neg (Ne.symm hz)]

theorem lanesDriven_mem (f : Tab (List LaneEl) → Nat → Tab (List LaneEl)) (ring place : Nat) (l : List PassIssue) :
    (lanesDriven f s t seg ring place l).mem = s.mem := rfl

theorem issueSlot_swap {x : Plan} {j : Nat} (hf : (tileAt s t).arr.faultStop = false) (hidle : (tileAt s t).arr.issue.at seg [] = [])
    (hn : nextPass s t seg = some (x, j)) (hseg : seg < x.issued.length) (hfree : ∀ i, i < 32 → ((tileAt s t).arr.laneIn.at (32 * seg + i) []).length < 2) :
    Completes (.issueSlot t seg) s (fun u =>
      (tileAt u t).arr.laneIn.at (32 * seg) [] = (tileAt s t).arr.laneIn.at (32 * seg) [] ++ [laneEl 0 false true]
      ∧ (∀ i, 0 < i → i < 32 → (tileAt u t).arr.laneIn.at (32 * seg + i) [] = (tileAt s t).arr.laneIn.at (32 * seg + i) [])
      ∧ (∃ y ∈ (tileAt u t).arr.plans, y.id = x.id ∧ y.issued.getD seg 0 = j + 1)
      ∧ (seg = 0 → (tileAt u t).arr.passCount = ((tileAt s t).arr.passCount + 1) % 2 ^ 24) ∧ u.mem = s.mem
      ∧ (∀ z, z ≠ t → tileAt u z = tileAt s z)) := by
  obtain ⟨started, ring, place, l, hslot⟩ := issueSlot_starts hf hidle hn hseg hfree
  refine ⟨_, congrArg Host.Outcome.next hslot, ?_⟩
  dsimp only
  rw [lanesDriven_own, lanesDriven_mem, swapLane_rows, started.lanes]
  refine ⟨Tab.at_put_same _ _ _ _, fun i hi _ => Tab.at_put_ne _ (by omega) _ _, started.issued, started.count, started.mem, fun z hz => ?_⟩
  rw [lanesDriven_others _ _ _ _ hz, started.others z hz]

end

/-! ### SHADOW_LOAD -/

section
variable {s : State} {t : Nat}

/-- The near store of tile t lets a unit's read by at once, clean: nothing waits at its banks, nothing is poisoned, and no error is stored. -/
structure NearClean (s : State) (t : Nat) : Prop where
  tile : t < 1024
  banks : (tileAt s t).banks = []
  upsets : s.upsets = []
  poison : s.poison = []

theorem offOf_tileBase {t o : Nat} (ho : o < 0x800000) : offOf (tileBase t + o) = o := by
  unfold offOf tileBase
  omega

theorem tileOf_tileBase {t o : Nat} (ho : o < 0x800000) : tileOf (tileBase t + o) = t := by
  unfold tileOf tileBase
  omega

theorem NearClean.fetch (h : NearClean s t) {o n : Nat} (ho : o + n ≤ 0x600000) :
    spanFetch s (tileBase t + o) n false = (readBytes s.mem (tileBase t + o) n, false, s) := by
  have ht := h.tile
  refine spanFetch_near (by unfold tileBase; omega) (by rw [offOf_tileBase (by omega)]; exact ho) ?_ h.upsets h.poison false
  rw [tileOf_tileBase (by omega)]
  exact h.banks

theorem NearClean.modArr (h : NearClean s t) (f : Arr → Arr) : NearClean (modArr s t f) t :=
  ⟨h.tile, by rw [modArr_own, if_pos rfl]; exact h.banks, h.upsets, h.poison⟩

/-- A load that begins, its set's offset read. -/
def newLoad (x : Plan) (j off : Nat) : Load := { plan := x.id, set := j, off := off }

/-- The array with the load taken up and its plan's set counted as loaded. -/
def takeLoad (seg : Nat) (x : Plan) (j off : Nat) (a : Arr) : Arr :=
  { a with
    plans := a.plans.map (fun y => if y.id = x.id then { y with loaded := setNth y.loaded seg (j + 1) } else y)
    loads := a.loads.put seg [newLoad x j off] }

theorem beginLoad_takes {seg : Nat} {x : Plan} {j : Nat} (h : NearClean s t) (hnone : (tileAt s t).arr.loads.at seg [] = [])
    (hn : nextLoad s t seg = some (x, j)) (hlist : (feedRec s t x.feed).setList + 4 * j + 4 ≤ 0x600000) {off : Nat}
    (hoff : le (readBytes s.mem (tileBase t + (feedRec s t x.feed).setList + 4 * j) 4) 0 4 = off) (hal : off % 64 = 0) (hend : off + 33280 ≤ 0x600000)
    (ahead : Option Nat) : ∃ u, beginLoad s t seg ahead = u ∧ tileAt u t = { tileAt s t with arr := takeLoad seg x j off (tileAt s t).arr }
      ∧ NearClean u t ∧ u.mem = s.mem ∧ ∀ z, z ≠ t → tileAt u z = tileAt s z := by
  have fetched := h.fetch (o := (feedRec s t x.feed).setList + 4 * j) (n := 4) hlist
  rw [← Nat.add_assoc] at fetched
  have taken : loadFor s t seg ahead = some (some x, x.feed, j) := by simp only [loadFor, hn]
  refine ⟨_, rfl, ?_⟩
  have begun : beginLoad s t seg ahead = modArr (modPlan s t x.id (fun y => { y with loaded := setNth y.loaded seg (j + 1) })) t
      (fun a => { a with loads := a.loads.put seg [newLoad x j off] }) := by
    have inside : ¬0x600000 < off + 33280 := Nat.not_lt.2 hend
    simp only [beginLoad, taken, hnone, List.filter_nil, List.length_nil, fetched, hoff, hal, inside, Bool.false_eq_true, if_false, if_true,
      ne_eq, not_true_eq_false, decide_false, Bool.or_self, Option.isSome_some, Option.map_some, Option.getD_some, List.nil_append]
    rfl
  rw [begun]
  refine ⟨by rw [modArr_own, if_pos rfl, modPlan, modArr_own, if_pos rfl]; rfl, (h.modArr _).modArr _, rfl, fun z hz => ?_⟩
  rw [modArr_own, if_neg (Ne.symm hz), modPlan, modArr_own, if_neg (Ne.symm hz)]

/-- The one load of a segment changed, while it still writes. -/
theorem modLoad_one {seg : Nat} {y : Load} {f : Load → Load} (hl : (tileAt s t).arr.loads.at seg [] = [y]) (ho : (f y).open_ = true) :
    tileAt (modLoad s t seg 0 f) t = { tileAt s t with arr := { (tileAt s t).arr with loads := (tileAt s t).arr.loads.put seg [f y] } } := by
  rw [modLoad, modArr_own, if_pos rfl]
  simp only [hl, List.modify_zero_cons, List.filter_cons, List.filter_nil, ho, Bool.true_or, if_true]

theorem modLoad_others {seg i : Nat} {f : Load → Load} {z : Nat} (hz : z ≠ t) : tileAt (modLoad s t seg i f) z = tileAt s z := by
  rw [modLoad, modArr_own, if_neg (Ne.symm hz)]

theorem modLoad_mem (s : State) (t seg i : Nat) (f : Load → Load) : (modLoad s t seg i f).mem = s.mem := by simp only [modLoad, modArr_fields]

theorem NearClean.modLoad (h : NearClean s t) (seg i : Nat) (f : Load → Load) : NearClean (modLoad s t seg i f) t := h.modArr _

/-- A cell's shadow register written. -/
def fillCell (w : BitVec 16) (c : Cell) : Cell := { c with shadow := w, shadowPar := parOf 16 w.toNat, full := true }

theorem readBytes_one (m : List Host.Cell) (a : Nat) : readBytes m a 1 = [readCells m a] := rfl

/-- A load's first cell is the segment's first, and it is written where it is free. -/
theorem loadCell_first {seg : Nat} {y : Load} (h : NearClean s t) (hl : (tileAt s t).arr.loads.at seg [] = [y]) (h0 : y.next = 0)
    (hfree : (cellAt (tileAt s t).arr (32 * seg) 0).full = false) (hspan : y.off + 8192 * seg + 2 ≤ 0x600000) :
    loadCell s t seg = modLoad (modArr s t (fun a => modCell a (32 * seg) 0
      (fillCell (BitVec.ofNat 16 (le (readBytes s.mem (tileBase t + y.off + 8192 * seg) 2) 0 2))))) t seg 0 (fun z => { z with next := z.next + 1 }) := by
  have place : streamCell y.next = (0, 0) := by rw [h0]; rfl
  have found : cellLoad (tileAt s t).arr seg = some (0, y) := by
    have hpos : withPos [y] = [(0, y)] := rfl
    have hlt : y.next < 4096 := by omega
    simp only [cellLoad, hl, hpos, List.find?_cons, place, hlt, Nat.add_zero, hfree, List.take_zero, List.all_nil, decide_true, Bool.not_false, Bool.and_self]
  have fetched := h.fetch (o := y.off + 8192 * seg + 2 * y.next) (n := 2) (by omega)
  rw [← Nat.add_assoc, ← Nat.add_assoc] at fetched
  rw [h0, Nat.mul_zero, Nat.add_zero] at fetched
  simp only [loadCell, found, h0, Nat.mul_zero, Nat.add_zero, fetched, Bool.false_eq_true, if_false]
  rfl

theorem loadScale_first {seg : Nat} {y : Load} (h : NearClean s t) (hl : (tileAt s t).arr.loads.at seg [] = [y]) (h0 : y.scaleNext = 0)
    (hfree : (tileAt s t).arr.expShadow.find (128 * seg) = none) (hspan : y.off + 0x8000 + 128 * seg + 1 ≤ 0x600000) :
    loadScale s t seg = modLoad (modArr s t (fun a => { a with
      expShadow := a.expShadow.put (128 * seg) (readCells s.mem (tileBase t + y.off + 0x8000 + 128 * seg)) })) t seg 0
      (fun z => { z with scaleNext := z.scaleNext + 1 }) := by
  have found : scaleLoad (tileAt s t).arr seg = some (0, y) := by
    have hpos : withPos [y] = [(0, y)] := rfl
    have hlt : y.scaleNext < 128 := by omega
    have none : ((tileAt s t).arr.expShadow.find (128 * seg + y.scaleNext)).isNone = true := by rw [h0, Nat.add_zero, hfree]; rfl
    simp only [scaleLoad, hl, hpos, List.find?_cons, hlt, none, List.take_zero, List.all_nil, decide_true, Bool.and_self]
  have fetched := h.fetch (o := y.off + 0x8000 + 128 * seg + y.scaleNext) (n := 1) (by omega)
  rw [← Nat.add_assoc, ← Nat.add_assoc, ← Nat.add_assoc] at fetched
  rw [h0, Nat.add_zero, readBytes_one] at fetched
  simp only [loadScale, found, h0, Nat.add_zero, fetched, Bool.false_eq_true, if_false]
  rfl

/-- The array with a load's first cell and first shadow exponent written. -/
def firstsLoaded (seg : Nat) (y : Load) (w : BitVec 16) (e : Byte) (a : Arr) : Arr :=
  { modCell a (32 * seg) 0 (fillCell w) with
    loads := (a.loads.put seg [{ y with next := y.next + 1 }]).put seg [{ y with next := y.next + 1, scaleNext := y.scaleNext + 1 }]
    expShadow := a.expShadow.put (128 * seg) e }

theorem cellAt_firstsLoaded (seg : Nat) (y : Load) (w : BitVec 16) (e : Byte) (a : Arr) :
    cellAt (firstsLoaded seg y w e a) (32 * seg) 0 = fillCell w (cellAt a (32 * seg) 0) := cellAt_modCell_same a _ _ _

/-- The one load of a segment, begun with nothing written, writes its first cell and its first shadow exponent. -/
theorem loadBoth_first {seg : Nat} {y : Load} (h : NearClean s t) (hf : (tileAt s t).arr.faultStop = false) (hl : (tileAt s t).arr.loads.at seg [] = [y])
    (h0 : y.next = 0) (hs0 : y.scaleNext = 0) (hcell : (cellAt (tileAt s t).arr (32 * seg) 0).full = false)
    (hexp : (tileAt s t).arr.expShadow.find (128 * seg) = none) (hseg : seg < 4) (hend : y.off + 33280 ≤ 0x600000) {w : BitVec 16} {e : Byte}
    (hw : BitVec.ofNat 16 (le (readBytes s.mem (tileBase t + y.off + 8192 * seg) 2) 0 2) = w)
    (he : readCells s.mem (tileBase t + y.off + 0x8000 + 128 * seg) = e) :
    let u := loadScale (loadCell s t seg) t seg
    tileAt u t = { tileAt s t with arr := firstsLoaded seg y w e (tileAt s t).arr }
      ∧ (tileAt (loadCell s t seg) t).arr.faultStop = false ∧ u.mem = s.mem ∧ ∀ z, z ≠ t → tileAt u z = tileAt s z := by
  dsimp only
  have cell := loadCell_first h hl h0 hcell (by omega)
  rw [hw] at cell
  have filled : NearClean (loadCell s t seg) t := by rw [cell]; exact (h.modArr _).modLoad _ _ _
  have own := modLoad_one (s := modArr s t (fun a => modCell a (32 * seg) 0 (fillCell w))) (f := fun z => { z with next := z.next + 1 })
    (y := y) (by rw [modArr_own, if_pos rfl]; exact hl) (by simp [Load.open_, h0])
  rw [← cell, modArr_own, if_pos rfl] at own
  have away : ∀ z, z ≠ t → tileAt (loadCell s t seg) z = tileAt s z := fun z hz => by
    rw [cell, modLoad_others hz, modArr_own, if_neg (Ne.symm hz)]
  have kept : (loadCell s t seg).mem = s.mem := by rw [cell]; rfl
  have loads : (tileAt (loadCell s t seg) t).arr.loads.at seg [] = [{ y with next := y.next + 1 }] := by rw [own]; exact Tab.at_put_same _ _ _ _
  have scale := loadScale_first filled loads hs0 (by rw [own]; exact hexp) (show y.off + 0x8000 + 128 * seg + 1 ≤ 0x600000 by omega)
  rw [kept, he] at scale
  have own' := modLoad_one (s := modArr (loadCell s t seg) t (fun a => { a with expShadow := a.expShadow.put (128 * seg) e }))
    (f := fun z => { z with scaleNext := z.scaleNext + 1 }) (y := { y with next := y.next + 1 })
    (by rw [modArr_own, if_pos rfl]; exact loads) (by simp [Load.open_, hs0])
  rw [modArr_own, if_pos rfl, own] at own'
  refine ⟨?_, by rw [own]; exact hf, ?_, fun z hz => ?_⟩
  · rw [scale, own']
    rfl
  · rw [scale, modLoad_mem]
    simp only [modArr_fields, kept]
  · rw [scale, modLoad_others hz, modArr_own, if_neg (Ne.symm hz), away z hz]

theorem shadowLoad_first {seg : Nat} {x : Plan} {j : Nat} (h : NearClean s t) (hf : (tileAt s t).arr.faultStop = false)
    (hnone : (tileAt s t).arr.loads.at seg [] = []) (hn : nextLoad s t seg = some (x, j)) (hlen : seg < x.loaded.length) (hseg : seg < 4)
    (hlist : (feedRec s t x.feed).setList + 4 * j + 4 ≤ 0x600000) {off : Nat}
    (hoff : le (readBytes s.mem (tileBase t + (feedRec s t x.feed).setList + 4 * j) 4) 0 4 = off) (hal : off % 64 = 0) (hend : off + 33280 ≤ 0x600000)
    (hcell : (cellAt (tileAt s t).arr (32 * seg) 0).full = false) (hexp : (tileAt s t).arr.expShadow.find (128 * seg) = none) (ahead : Option Nat) :
    Completes (.shadowLoad t ⟨seg, ahead⟩) s (fun u =>
      let b := (tileAt u t).arr
      (cellAt b (32 * seg) 0).full = true
      ∧ (cellAt b (32 * seg) 0).shadow = BitVec.ofNat 16 (le (readBytes s.mem (tileBase t + off + 8192 * seg) 2) 0 2)
      ∧ b.expShadow.find (128 * seg) = some (readCells s.mem (tileBase t + off + 0x8000 + 128 * seg))
      ∧ (∃ y, b.loads.at seg [] = [y] ∧ y.plan = x.id ∧ y.set = j ∧ y.off = off ∧ y.next = 1 ∧ y.scaleNext = 1)
      ∧ (∃ y ∈ b.plans, y.id = x.id ∧ y.loaded.getD seg 0 = j + 1) ∧ u.mem = s.mem ∧ (∀ z, z ≠ t → tileAt u z = tileAt s z)) := by
  obtain ⟨u, hu, hown, hclean, hmem, hothers⟩ := beginLoad_takes h hnone hn hlist hoff hal hend ahead
  have loads : (tileAt u t).arr.loads.at seg [] = [newLoad x j off] := by rw [hown]; exact Tab.at_put_same _ _ _ _
  have running : (tileAt u t).arr.faultStop = false := by rw [hown]; exact hf
  obtain ⟨own, hstop, kept, away⟩ := loadBoth_first hclean running loads rfl rfl (by rw [hown]; exact hcell) (by rw [hown]; exact hexp) hseg hend rfl rfl
  rw [hown, hmem] at own
  have run : shadowLoad t seg ahead s = loadScale (loadCell u t seg) t seg := by
    simp only [shadowLoad, hf, hu, running, hstop, Bool.false_eq_true, if_false]
  refine ⟨_, congrArg Host.Outcome.next run, ?_⟩
  dsimp only
  rw [own]
  refine ⟨?_, ?_, ?_, ⟨_, Tab.at_put_same _ _ _ _, rfl, rfl, rfl, rfl, rfl⟩, ⟨_, mem_mapPlan (nextLoad_mem hn) _, rfl, getD_setNth_same hlen (j + 1)⟩, kept.trans hmem,
    fun z hz => (away z hz).trans (hothers z hz)⟩
  · rw [cellAt_firstsLoaded]
    rfl
  · rw [cellAt_firstsLoaded]
    rfl
  · exact (Tab.find_put _ _ _ _).trans (if_pos rfl)

end

end Sys2Proof.Machine
end

section
/-! SUPPORT. GATE_OPEN's and INTAKE_WRITE's clauses, and the obligation (R80 to R83, R95, R217). -/

namespace Sys2Proof.Machine

/-! ### GATE_OPEN -/

/-- A state after a window's notes: the plans of tile t, memory, the partitions and the other tiles are as they were. -/
structure WindowNoted (t : Nat) (s u : State) : Prop where
  plans : (tileAt u t).arr.plans = (tileAt s t).arr.plans
  mem : u.mem = s.mem
  parts : u.parts = s.parts
  others : ∀ z, z ≠ t → tileAt u z = tileAt s z

namespace WindowNoted

variable {t : Nat} {s u v : State}

theorem refl (s : State) : WindowNoted t s s := ⟨rfl, rfl, rfl, fun _ _ => rfl⟩

theorem trans (h : WindowNoted t s u) (g : WindowNoted t u v) : WindowNoted t s v :=
  ⟨g.plans.trans h.plans, g.mem.trans h.mem, g.parts.trans h.parts, fun z hz => (g.others z hz).trans (h.others z hz)⟩

theorem of_modArr {f : Arr → Arr} (h : ∀ a, (f a).plans = a.plans) (s : State) : WindowNoted t s (modArr s t f) :=
  ⟨by rw [modArr_own, if_pos rfl, h], rfl, rfl, fun z hz => by rw [modArr_own, if_neg (Ne.symm hz)]⟩

theorem of_modRing (s : State) (key : Nat) (f : Ring → Ring) : WindowNoted t s (modRing s t key f) := by
  unfold modRing
  exact .of_modArr (by intro; rfl) s

theorem of_modFiring (s : State) (a : Nat) (f : Firing → Firing) : WindowNoted t s (modFiring s t a f) :=
  ⟨by rw [modFiring, modSched_own, if_pos rfl], rfl, rfl, fun z hz => by rw [modFiring, modSched_own, if_neg (Ne.symm hz)]⟩

end WindowNoted

/-- What a plan's gate leaves once it opens. -/
structure PlanOpened (t : Nat) (x : Plan) (rows : Nat) (s u : State) : Prop where
  plan : ∃ y ∈ (tileAt u t).arr.plans, y.id = x.id ∧ y.opened = true ∧ y.rows = rows
  mem : u.mem = s.mem
  parts : u.parts = s.parts
  others : ∀ z, z ≠ t → tileAt u z = tileAt s z

/-- The plan with its window fixed. -/
def withWindow (s : State) (t : Nat) (x y : Plan) : Plan :=
  { y with
    opened := true
    rows := min (rowsQueued s t x) (feedRec s t x.feed).windowRows
    outRow := x.rerun.getD ((tileAt s t).arr.planRows.at x.feed 0)
    baseRows := (planRings s t x).map (fun r => r.rowsOut + r.window)
    baseSlots := (planRings s t x).map (fun r => r.slotOut + (r.denoms.take r.window).foldl (· + ·) 0) }

theorem openPlan_noted (s : State) (t : Nat) (x : Plan) : WindowNoted t (modPlan s t x.id (withWindow s t x)) (openPlan s t x) := by
  unfold openPlan
  refine .trans ?_ (.of_modFiring _ _ _)
  have rings : WindowNoted t (modPlan s t x.id (withWindow s t x)) ((List.range 4).foldl (fun s' b => modRing s' t (ringKey x.layerSlot b) (fun r =>
      { r with window := r.window + min (rowsQueued s t x) (feedRec s t x.feed).windowRows })) (modPlan s t x.id (withWindow s t x))) :=
    foldl_related .refl .trans (fun s' b => .of_modRing s' _ _) (List.range 4) _
  split
  · exact rings
  · exact rings.trans (.of_modArr (by intro; rfl) _)

theorem openPlan_opened {s : State} {t : Nat} {x : Plan} (hx : x ∈ (tileAt s t).arr.plans) :
    PlanOpened t x (min (rowsQueued s t x) (feedRec s t x.feed).windowRows) s (openPlan s t x) := by
  obtain ⟨hplans, hmem, hparts, hothers⟩ := openPlan_noted s t x
  refine ⟨⟨withWindow s t x x, ?_, rfl, rfl, rfl⟩, hmem, hparts, fun z hz => ?_⟩
  · rw [hplans, modPlan, modArr_own, if_pos rfl]
    exact mem_mapPlan hx (withWindow s t x)
  · rw [hothers z hz, modPlan, modArr_own, if_neg (Ne.symm hz)]

section
variable {s : State} {t : Nat} {x : Plan}

theorem waitingPlan_mem (h : waitingPlan s t = some x) : x ∈ (tileAt s t).arr.plans := List.mem_of_find?_eq_some h

/-- A segment's digits reach GATE_SLOTS. -/
def SlotsReached (s : State) (t : Nat) (x : Plan) : Prop :=
  (feedRec s t x.feed).gateSlots ≠ 0 ∧ ∃ y ∈ planRings s t x, (feedRec s t x.feed).gateSlots ≤ (y.denoms.drop y.window).foldl (· + ·) 0

theorem gateOpens_none (h : rowsQueued s t x = 0) : gateOpens s t x = (false, false) := by
  simp only [gateOpens, h, if_true]

/-- With rows queued a gate opens by its rows or its slots. -/
theorem gateOpens_now (h : 0 < rowsQueued s t x) :
    (gateOpens s t x).1 = true ↔ (feedRec s t x.feed).windowRows ≤ rowsQueued s t x ∨ SlotsReached s t x := by
  simp only [gateOpens, Nat.ne_of_gt h, if_false, Bool.or_eq_true, Bool.and_eq_true, decide_eq_true_eq, List.any_eq_true, SlotsReached]

theorem gateOpens_late {n : Nat} (h : 0 < rowsQueued s t x) (hg : (feedRec s t x.feed).gateSlots ≠ 0) (hn : firstQueued s t x = some n)
    (hlate : n + (feedRec s t x.feed).gateTicks ≤ (partAt s (partNum s t)).ctx.runTicks) : (gateOpens s t x).2 = true := by
  simp only [gateOpens, Nat.ne_of_gt h, if_false, hg, ne_eq, not_false_eq_true, decide_true, hn, hlate, Bool.and_self]

/-- With nothing queued, or the array stopped, no gate opens. -/
theorem gateOpen_waits (hw : waitingPlan s t = some x) (h : rowsQueued s t x = 0 ∨ (tileAt s t).arr.faultStop = true) : gateOpen t s = s := by
  rcases h with h | h
  · simp only [gateOpen, hw, gateOpens_none h, Bool.false_eq_true, if_false, ite_self]
  · simp only [gateOpen, hw, h, if_true]

theorem gateOpen_now (hw : waitingPlan s t = some x) (hf : (tileAt s t).arr.faultStop = false) (h : (gateOpens s t x).1 = true) :
    gateOpen t s = openPlan s t x := by
  simp only [gateOpen, hw, hf, h, Bool.false_eq_true, if_false, if_true]

theorem gateOpen_late (hw : waitingPlan s t = some x) (hf : (tileAt s t).arr.faultStop = false) (h : ¬(gateOpens s t x).1 = true)
    (hlate : (gateOpens s t x).2 = true) : gateOpen t s = addCause (openPlan s t x) (partNum s t) 0x10 := by
  simp only [gateOpen, hw, hf, h, hlate, Bool.false_eq_true, if_false, if_true]

end

/-! ### INTAKE_WRITE -/

/-- A write to a tile's near store, as a unit makes it, leaves the tiles and partitions but for the tile's queues. -/
theorem spanWrite_near_leaves {s : State} {t o : Nat} (ht : t < 1024) (ho : o < 0x600000) (bs : List Byte) :
    BankTurnLeaves t s (spanWrite s (tileBase t + o) bs) := by
  have ha : isTileAddr (tileBase t + o) = true := decide_eq_true (by unfold tileBase; omega)
  have hw : windowPart (offOf (tileBase t + o)) = 0 := by rw [offOf_tileBase (by omega)]; exact if_pos ho
  have turn := bankTurn_leaves s (tileBase t + o) bs.length
  rw [tileOf_tileBase (by omega)] at turn
  simp only [spanWrite, ha, hw, if_true]
  exact turn.trans (.of_fields rfl rfl (fun _ => rfl) (fun h => wf_writeBytes h _ _))

/-- A ring with a row joined to it. -/
def Ring.withRow (r : Ring) (b : Blk) (src : SrcBlk) (run : Nat) (ls : Tab (List Byte)) : Ring :=
  { r with
    rowsIn := r.rowsIn + 1
    slotIn := r.slotIn + b.d
    queuedAt := r.queuedAt ++ [run]
    denoms := r.denoms ++ [b.d]
    blocks := r.blocks ++ [src]
    lines := ls }

/-- What a row written into its ring leaves: the row in the ring, its tag in memory, the rest of the tile but its queues, the other tiles and the
partitions. -/
structure RowPut (t key : Nat) (r r' : Ring) (tag : List Byte) (s u : State) : Prop where
  own : ∃ b, tileAt u t = { tileAt s t with arr := { (tileAt s t).arr with rings := (tileAt s t).arr.rings.put key r' }, banks := b }
  tag : readBytes u.mem (tileBase t + r.tagBase + 2 * (r.rowsIn % r.nt)) 2 = tag
  others : ∀ x, x ≠ t → tileAt u x = tileAt s x
  parts : u.parts = s.parts

theorem poisonSpan_leaves (t : Nat) (s : State) (a n : Nat) : BankTurnLeaves t s (poisonSpan s a n) :=
  foldl_related .refl .trans (fun s l => .of_poisonLine s l) _ s

theorem poisonSpan_mem (s : State) (a n : Nat) : (poisonSpan s a n).mem = s.mem := by
  unfold poisonSpan
  exact foldl_related (R := fun s u => u.mem = s.mem) (op := poisonLine) (fun _ => rfl) (fun h g => g.trans h) (fun _ _ => rfl) _ s

/-- A ring changed once its row and tag are in memory. -/
theorem rowPut_modRing {s z : State} {t key : Nat} {r : Ring} {tag : List Byte} (h : BankTurnLeaves t s z) (hr : (tileAt s t).arr.rings.at key {} = r)
    (htag : readBytes z.mem (tileBase t + r.tagBase + 2 * (r.rowsIn % r.nt)) 2 = tag) {f : Ring → Ring} {r' : Ring}
    (hf : f r = r') : RowPut t key r r' tag s (modRing z t key f) := by
  subst hf
  obtain ⟨b, hb⟩ := h.own
  refine ⟨⟨b, ?_⟩, htag, fun x hx => ?_, h.parts⟩
  · rw [modRing, modArr_own, if_pos rfl, hb]
    dsimp only
    rw [hr]
  · rw [modRing, modArr_own, if_neg (Ne.symm hx), h.others x hx]

/-- Poison carried to a written span where its source was poisoned. -/
theorem carryPoison_leaves (t : Nat) (s : State) (a n : Nat) (bad : Bool) :
    BankTurnLeaves t s (if bad then poisonSpan s a n else s) ∧ (if bad then poisonSpan s a n else s).mem = s.mem := by
  cases bad
  · exact ⟨.refl s, rfl⟩
  · exact ⟨poisonSpan_leaves t s a n, poisonSpan_mem s a n⟩

/-- The lines of a row written into its ring's slots. -/
def rowWritten (s : State) (t : Nat) (r : Ring) (b : Blk) : State :=
  (r.rowLines b.d).foldl (fun s l => spanWrite s (tileBase t + r.slotBase + 64 * (l % (r.ns / 4))) ((r.linesWith b).at l [])) s

/-- Where a ring's next tag goes. -/
def tagAddr (t : Nat) (r : Ring) : Nat := tileBase t + r.tagBase + 2 * (r.rowsIn % r.nt)

/-- A state with a ring's next tag written. -/
def tagWritten (s : State) (t : Nat) (r : Ring) (tag : Nat) : State := { s with mem := writeBytes s.mem (tagAddr t r) (toLe 2 tag) }

section
variable {s : State} {t : Nat} {r : Ring} {b : Blk}

theorem rowWritten_leaves (ht : t < 1024) (hslot : 64 ≤ r.slotSize) (hslots : r.slotBase + r.slotSize ≤ 0x600000) :
    BankTurnLeaves t s (rowWritten s t r b) := by
  have lines : ∀ l, r.slotBase + 64 * (l % (r.ns / 4)) < 0x600000 := fun l => by
    have pos : 0 < r.ns / 4 := by unfold Ring.ns; omega
    have hlt := Nat.mod_lt l pos
    unfold Ring.ns at hlt pos ⊢
    omega
  exact foldl_related .refl .trans (fun s l => by rw [Nat.add_assoc]; exact spanWrite_near_leaves ht (lines l) _) _ s

theorem tagTurn_leaves (htags : r.tagBase + r.tagSize ≤ 0x600000) (hroom : r.denoms.length < r.nt) : BankTurnLeaves t s (bankTurn s (tagAddr t r) 2) := by
  have place : r.tagBase + 2 * (r.rowsIn % r.nt) < 0x800000 := by
    have hlt := Nat.mod_lt r.rowsIn (show 0 < r.nt by omega)
    unfold Ring.nt at hlt ⊢
    omega
  have turn := bankTurn_leaves s (tagAddr t r) 2
  rwa [show tileOf (tagAddr t r) = t by rw [tagAddr, Nat.add_assoc, tileOf_tileBase place]] at turn

theorem tagWritten_leaves (s : State) (tag : Nat) : BankTurnLeaves t s (tagWritten s t r tag) :=
  .of_fields rfl rfl (fun _ => rfl) (fun h => wf_writeBytes h _ _)

/-- A row with its unfinished lines kept: those that a later row can still reach. -/
def Ring.joined (lines : Tab (List Byte)) (b : Blk) (src : SrcBlk) (run : Nat) (r : Ring) : Ring :=
  r.withRow b src run (lines.filter (fun x => decide (r.slotIn + b.d < 4 * x.1 + 4)))

/-- A row's write: its lines, its tag, the poison of its source, and the row joined to the ring. -/
theorem putRow_eq (s : State) (t key : Nat) (r : Ring) (b : Blk) (src : SrcBlk) (run : Nat) : putRow s t key r b src run =
    modRing (if src.poisoned then poisonSpan (tagWritten (bankTurn (rowWritten s t r b) (tagAddr t r) 2) t r b.tag) (tagAddr t r) 2
      else tagWritten (bankTurn (rowWritten s t r b) (tagAddr t r) 2) t r b.tag) t key (Ring.joined (r.linesWith b) b src run) := rfl

theorem putRow_put {key run : Nat} {src : SrcBlk} (hr : (tileAt s t).arr.rings.at key {} = r) (ht : t < 1024) (hwf : Memory.wf s.mem = true)
    (hslot : 64 ≤ r.slotSize) (hslots : r.slotBase + r.slotSize ≤ 0x600000) (htags : r.tagBase + r.tagSize ≤ 0x600000)
    (hroom : r.denoms.length < r.nt) : ∃ ls, RowPut t key r (r.withRow b src run ls) (toLe 2 b.tag) s (putRow s t key r b src run) := by
  have banks : BankTurnLeaves t s (bankTurn (rowWritten s t r b) (tagAddr t r) 2) := (rowWritten_leaves ht hslot hslots).trans (tagTurn_leaves htags hroom)
  have tagged : readBytes (tagWritten (bankTurn (rowWritten s t r b) (tagAddr t r) 2) t r b.tag).mem (tagAddr t r) 2 = toLe 2 b.tag :=
    readBytes_writeBytes (banks.wf hwf) (tagAddr t r) (toLe 2 b.tag)
  obtain ⟨poisoned, kept⟩ := carryPoison_leaves t (tagWritten (bankTurn (rowWritten s t r b) (tagAddr t r) 2) t r b.tag) (tagAddr t r) 2 src.poisoned
  rw [← kept] at tagged
  exact ⟨_, putRow_eq s t key r b src run ▸ rowPut_modRing (banks.trans ((tagWritten_leaves _ b.tag).trans poisoned)) hr tagged rfl⟩

end

end Sys2Proof.Machine
end

section
/-! SUPPORT. INTAKE_WRITE's clauses and the obligation (R80 to R83, R86, R90 to R92, R95, R217). -/

namespace Sys2Proof.Machine

section
variable {s : State} {t slot seg q : Nat}

/-- A guess checked changes the predictor's counts and the tick's causes alone. -/
theorem checkDenom_frame (s : State) (q t slot d : Nat) (guess : Option Nat) : ∃ r p, checkDenom s q t slot d guess = { s with regs := r, parts := p } := by
  unfold checkDenom
  split
  · exact ⟨s.regs, s.parts, rfl⟩
  · split
    · exact ⟨s.regs, s.parts, rfl⟩
    · dsimp only
      split <;> exact ⟨_, _, rfl⟩

theorem checkDenom_rest (s : State) (q t slot d : Nat) (guess : Option Nat) :
    (∀ x, tileAt (checkDenom s q t slot d guess) x = tileAt s x) ∧ (checkDenom s q t slot d guess).mem = s.mem := by
  obtain ⟨r, p, h⟩ := checkDenom_frame s q t slot d guess
  rw [h]
  exact ⟨fun _ => rfl, rfl⟩

theorem intakeWrite_empty (h : (tileAt s t).arr.intakeQ.at (ringKey slot seg) [] = []) (guess : Option Nat) : intakeWrite t seg slot guess s = s := by
  cases hq : partOfTile s t <;> simp only [intakeWrite, hq, h]

theorem intakeWrite_noRoom {b : SrcBlk} {rest : List SrcBlk} (hq : partOfTile s t = some q)
    (h : (tileAt s t).arr.intakeQ.at (ringKey slot seg) [] = b :: rest) (hroom : (ringOf s t slot seg).room (intakeBlk (partAt s q) slot b).1.d = false)
    (guess : Option Nat) : intakeWrite t seg slot guess s = s := by
  have none : putBlock s q t slot seg b (partAt s q).ctx.runTicks = none := by simp only [putBlock, hroom, Bool.not_false, if_true]
  simp only [intakeWrite, hq, h, none]

/-- A row taken in: its place in the ring and its tag, the intake's queue one shorter, the other tiles as they were. -/
structure RowTaken (t slot seg : Nat) (r' : Ring) (tagAt : Nat) (tag : List Byte) (rest : List SrcBlk) (s u : State) : Prop where
  ring : ringOf u t slot seg = r'
  queue : (tileAt u t).arr.intakeQ.at (ringKey slot seg) [] = rest
  tag : readBytes u.mem tagAt 2 = tag
  others : ∀ x, x ≠ t → tileAt u x = tileAt s x

theorem intakeWrite_takes {b : SrcBlk} {rest : List SrcBlk} (hq : partOfTile s t = some q)
    (h : (tileAt s t).arr.intakeQ.at (ringKey slot seg) [] = b :: rest) (hroom : (ringOf s t slot seg).room (intakeBlk (partAt s q) slot b).1.d = true)
    (hwf : Memory.wf s.mem = true) (ht : t < 1024) (hslot : 64 ≤ (ringOf s t slot seg).slotSize)
    (hslots : (ringOf s t slot seg).slotBase + (ringOf s t slot seg).slotSize ≤ 0x600000)
    (htags : (ringOf s t slot seg).tagBase + (ringOf s t slot seg).tagSize ≤ 0x600000) (guess : Option Nat) :
    ∃ ls, RowTaken t slot seg ((ringOf s t slot seg).withRow (intakeBlk (partAt s q) slot b).1 b (partAt s q).ctx.runTicks ls)
      (tagAddr t (ringOf s t slot seg)) (toLe 2 (intakeBlk (partAt s q) slot b).1.tag) rest s (intakeWrite t seg slot guess s) := by
  have tags : (ringOf s t slot seg).denoms.length < (ringOf s t slot seg).nt := by
    rw [Ring.room, Bool.and_eq_true] at hroom
    exact of_decide_eq_true hroom.1
  obtain ⟨ls, ⟨banks, hown⟩, htag, hothers, -⟩ := putRow_put (b := (intakeBlk (partAt s q) slot b).1) (src := b) (run := (partAt s q).ctx.runTicks)
    (key := ringKey slot seg) (r := ringOf s t slot seg) rfl ht hwf hslot hslots htags tags
  obtain ⟨v, hv⟩ : ∃ v, putBlock s q t slot seg b (partAt s q).ctx.runTicks = some v ∧ ConvNoted t
      (putRow s t (ringKey slot seg) (ringOf s t slot seg) (intakeBlk (partAt s q) slot b).1 b (partAt s q).ctx.runTicks) v := by
    simp only [putBlock, hroom, Bool.not_true, Bool.false_eq_true, if_false]
    exact ⟨_, rfl, conversion_noted _ t q slot 1 b _ _ _ _⟩
  obtain ⟨hput, ⟨drain, cown⟩, cothers, -, cmem⟩ := hv
  have run : intakeWrite t seg slot guess s = checkDenom (modArr v t (fun a => { a with intakeQ := a.intakeQ.put (ringKey slot seg) rest })) q t slot
      (intakeBlk (partAt s q) slot b).1.d guess := by simp only [intakeWrite, hq, h, hput]
  obtain ⟨htiles, hmem⟩ := checkDenom_rest (modArr v t (fun a => { a with intakeQ := a.intakeQ.put (ringKey slot seg) rest })) q t slot
    (intakeBlk (partAt s q) slot b).1.d guess
  rw [← run] at htiles hmem
  have own := htiles t
  rw [modArr_own, if_pos rfl, cown, hown] at own
  refine ⟨ls, ?_, ?_, ?_, fun x hx => ?_⟩
  · rw [ringOf, own]
    exact Tab.at_put_same _ _ _ _
  · rw [own]
    exact Tab.at_put_same _ _ _ _
  · simp only [modArr_fields, cmem] at hmem
    rw [hmem]
    exact htag
  · rw [htiles, modArr_own, if_neg (Ne.symm hx), cothers x hx, hothers x hx]

end

end Sys2Proof.Machine

namespace Sys2Proof

open Sys2Proof.Machine

/-- Settles O39: an intake's row by its lines and tag, a gate by the rows, slots and deadline of its window, a pass by its swap slot, and a load by its
first cell and scale byte. -/
theorem windowsFillAndPassesIssue : Obligations.WindowsFillAndPassesIssue := by
  unfold Obligations.WindowsFillAndPassesIssue
  refine ⟨?intake, ?gate, ?issue, ?full, ?load⟩
  case intake =>
    intro t seg slot q s hq
    dsimp only
    intro guess
    refine ⟨fun h => congrArg Host.Outcome.next (intakeWrite_empty h guess),
      fun b rest h hroom => congrArg Host.Outcome.next (intakeWrite_noRoom hq h hroom guess), fun b rest h hroom hwf ht hslot hslots htags => ?_⟩
    obtain ⟨ls, hring, hqueue, htag, hothers⟩ := intakeWrite_takes hq h hroom hwf ht hslot hslots htags guess
    exact ⟨_, rfl, ⟨ls, hring⟩, hqueue, htag, hothers⟩
  case gate =>
    intro t x s hw
    dsimp only
    have opened := openPlan_opened (waitingPlan_mem hw)
    refine ⟨fun h => congrArg Host.Outcome.next (gateOpen_waits hw h), fun hf hrows hnow => ?_, fun n q hf hrows hless hg hslots hn hq hlate => ?_⟩
    · have now := gateOpen_now hw hf ((gateOpens_now hrows).2 hnow)
      exact ⟨_, congrArg Host.Outcome.next now, opened.plan, opened.mem, opened.parts, opened.others⟩
    · have notYet : ¬(gateOpens s t x).1 = true := fun h => by
        rcases (gateOpens_now hrows).1 h with hfull | ⟨-, y, hy, hle⟩
        · omega
        · exact absurd (hslots y hy) (Nat.not_lt.2 hle)
      have hnum : partNum s t = q := by rw [partNum, hq, Option.getD_some]
      have late := gateOpen_late hw hf notYet (gateOpens_late hrows hg hn (by rw [hnum]; exact hlate))
      rw [hnum] at late
      obtain ⟨hplan, hmem, hparts, -⟩ := opened
      rw [Nat.min_eq_left (Nat.le_of_lt hless)] at hplan
      refine ⟨_, congrArg Host.Outcome.next late, hplan, ?_, hmem⟩
      rw [addCause, modCtx_own, if_pos rfl, partAt, hparts]
      rfl
  case issue =>
    intro t seg x j s hseg hf hidle hn hlen hfree
    exact issueSlot_swap hf hidle hn (by rw [hlen]; exact hseg) hfree
  case full =>
    intro t seg i s _ hi h
    exact congrArg Host.Outcome.next (issueSlot_full hi h)
  case load =>
    intro t seg x j s hseg hf hu hp ht hbanks hnone hn hlen off hlist hal hend hcell hexp ahead
    exact shadowLoad_first ⟨ht, hbanks, hu, hp⟩ hf hnone hn (by rw [hlen]; exact hseg) hseg hlist rfl hal hend hcell hexp ahead

end Sys2Proof
end


section
/-! SUPPORT. Writes to a port, an anchor register, the window's layout, a tally and a check-value slot, and the control window's own rows by their
addresses (R112, R113, R115, R185, R323, R349). -/

namespace Sys2Proof.Machine

variable {s : State} {v : Word}

/-! ### Ports and anchors -/

/-- ENABLE 0 at a port that is DOWN is stored with FEC, and the port stays DOWN (R323). -/
theorem lnkCfgWrite_down {p : Nat} (hp : p < portCount s) (hdown : (portAt s p).state = 0) (hoff : v.getLsbD 0 = false) :
    lnkCfgWrite p v s = modPort s p (fun x => { x with enable := false, fecReq := v.getLsbD 1 }) := by
  have stays : (portAt (modPort s p (fun x => { x with enable := false, fecReq := v.getLsbD 1 })) p).state = 0 := by
    rw [modPort_own, if_pos rfl]
    exact hdown
  simp only [lnkCfgWrite, Nat.not_le.2 hp, if_false, hoff, Bool.not_false, if_true, stays]

/-- An anchor register's fields as a write leaves them: START_RUNG held at the last rung, LAST_RUNG and LAST_REPEAT kept (R115). -/
def Anchor.written (a : Anchor) (v : Word) (last : Nat) : Anchor :=
  { a with
    anchor := signed 10 v.toNat
    startRung := min (v.toNat / 2 ^ 10 % 4) last
    established := v.getLsbD 12 }

theorem anchorWrite_assigned {q slot : Nat} (h : (layerOf (partAt s q) slot).isSome = true) :
    anchorWrite q slot v s = modPart s q (fun p =>
      { p with anchors := p.anchors.put slot ((p.anchors.at slot {}).written v (lastRung p slot)) }) := by
  have assigned : (layerOf (partAt s q) slot).isNone = false := Option.isNone_eq_false_iff.2 h
  simp only [anchorWrite, assigned, Bool.false_eq_true, if_false, field_eq, Anchor.written]
  rfl

/-! ### The window's layout -/

/-- The layout is written by the partition's actors while it runs, by the host otherwise (R113). -/
theorem windowWrite_allowed {t : Nat} {fromHost : Bool} (hp : tilePresent s t = true)
    (hby : fromHost = true ↔ (partAt s (partNum s t)).state ≠ .running) :
    windowWrite t fromHost v s = regPut s (tileReg t 0x780608) (v.toNat % 2) := by
  have allowed : (fromHost != decide ((partAt s (partNum s t)).state = .running)) = true := by
    by_cases hrun : (partAt s (partNum s t)).state = .running <;> simpa [hrun] using hby
  rw [windowWrite, hp, Bool.true_and, if_pos allowed]

/-! ### Halves of a tally -/

/-- A tally with half 0, its low word, or half 1 replaced. -/
def withHalf (old : BitVec 128) (half : Nat) (v : Word) : BitVec 128 :=
  BitVec.ofNat 128 (if half = 0 then old.extractLsb 127 64 ++ v else v ++ old.extractLsb 63 0).toNat

theorem toNat_halves (x y : BitVec 64) : (BitVec.ofNat 128 (x ++ y).toNat).toNat = 2 ^ 64 * x.toNat + y.toNat := by
  have hx := x.isLt
  have hy := y.isLt
  rw [BitVec.toNat_append, ← Nat.shiftLeft_add_eq_or_of_lt hy, Nat.shiftLeft_eq, BitVec.toNat_ofNat]
  omega

/-- The half written reads as the word, the other as before. -/
theorem withHalf_halves (old : BitVec 128) {half : Nat} (h : half < 2) (v : Word) :
    (withHalf old half v).toNat / 2 ^ (64 * half) % 2 ^ 64 = v.toNat
      ∧ (withHalf old half v).toNat / 2 ^ (64 * (1 - half)) % 2 ^ 64 = old.toNat / 2 ^ (64 * (1 - half)) % 2 ^ 64 := by
  have hv := v.isLt
  have hold := old.isLt
  have low : (old.extractLsb 63 0).toNat = old.toNat % 2 ^ 64 := by simp
  have high : (old.extractLsb 127 64).toNat = old.toNat / 2 ^ 64 := by simp [Nat.shiftRight_eq_div_pow]; omega
  obtain rfl | rfl : half = 0 ∨ half = 1 := by omega
  · have whole : (withHalf old 0 v).toNat = 2 ^ 64 * (old.toNat / 2 ^ 64) + v.toNat := high ▸ toNat_halves (old.extractLsb 127 64) v
    rw [whole]
    omega
  · have whole : (withHalf old 1 v).toNat = 2 ^ 64 * v.toNat + old.toNat % 2 ^ 64 := low ▸ toNat_halves v (old.extractLsb 63 0)
    rw [whole]
    omega

/-- Half a tally written outside RUNNING: the tally's stream is closed, its parity fresh (R185). -/
theorem tallyWrite_half {t k : Nat} (hp : tilePresent s t = true) (hrun : tileRunning s t = false) (hk : k < 64) (half : Nat) :
    tallyWrite t k half v s = setTally s t k (withHalf (tallyVal s t k) half v) (tallyTag s t k &&& ~~~(BitVec.ofNat 8 16)) none := by
  simp only [tallyWrite, hrun, hp, Nat.not_le.2 hk, decide_false, Bool.not_true, Bool.or_false, Bool.false_eq_true, if_false]
  rfl

theorem tallyVal_setTally (s : State) (t k : Nat) (x : BitVec 128) (g : BitVec 8) (st : Option Stream) (j : Nat) :
    tallyVal (setTally s t k x g st) t j = if k = j then x else tallyVal s t j := by
  rw [tallyVal, setTally, modVec_own, if_pos rfl]
  split
  next e => rw [← e]; exact Tab.at_put_same _ _ _ _
  next e => exact Tab.at_put_ne _ e _ _

/-! ### Check-value slots -/

/-- A slot with the register at an offset written (R349). -/
def CvSlot.written (c : CvSlot) (off : Nat) (v : Word) : CvSlot :=
  match off with
  | 0x08 => { c with
      width := v.toNat % 2 ^ 7
      refin := v.getLsbD 7
      refout := v.getLsbD 8
      mode := v.toNat / 2 ^ 9 % 4
      verify := v.getLsbD 11
      cont := v.getLsbD 12
      hold := v.getLsbD 13 }
  | 0x10 => { c with poly := v }
  | 0x18 => { c with init := v }
  | 0x20 => { c with xorout := v }
  | 0x28 => { c with run := v }
  | 0x30 => { c with expect := v }
  | _ => c

/-- A general unit's slot registers are written while the selected slot's partition does not run and its stream is closed (R349). -/
structure SlotOpen (s : State) (u : Nat) : Prop where
  present : cvuPresent s u = true
  general : isGeneral u = true
  idle : (partAt s (cvuAt s u).sel).state ≠ .running
  closed : streamOpen s u (cvuAt s u).sel = false

theorem cvuWrite_slot {u off : Nat} (h : SlotOpen s u) (hoff : off ≠ 0) :
    cvuWrite u off v s = modCvSlot s u (cvuAt s u).sel (fun c => c.written off v) := by
  simp only [cvuWrite, h.present, h.general, h.idle, h.closed, hoff, Bool.not_true, decide_false, Bool.or_false, Bool.false_eq_true, if_false, field_eq]
  rfl

theorem cvSlotAt_modCvSlot (s : State) (u q : Nat) (f : CvSlot → CvSlot) : cvSlotAt (modCvSlot s u q f) u q = f (cvSlotAt s u q) := by
  rw [cvSlotAt, modCvSlot, modCvu_own, if_pos rfl]
  exact Tab.at_put_same _ _ _ _

theorem cvuSlotWrite_completes {u off : Nat} (h : SlotOpen s u) (hlo : 8 ≤ off) (hhi : off ≤ 0x38) {c : CvSlot}
    (hc : (cvSlotAt s u (cvuAt s u).sel).written off v = c) :
    Completes (.cvuSlotWrite u off v) s (fun t => cvSlotAt t u (cvuAt s u).sel = c ∧ t = { s with cvus := t.cvus }) := by
  have hgen : 40 ≤ u ∧ u < 48 := of_decide_eq_true h.general
  have runs : exec (.cvuSlotWrite u off v) s = .next (if u < 48 ∧ 8 ≤ off ∧ off ≤ 0x38 then cvuWrite u off v s else s) := rfl
  rw [if_pos ⟨hgen.2, hlo, hhi⟩, cvuWrite_slot h (by omega)] at runs
  exact ⟨_, runs, (cvSlotAt_modCvSlot s u _ _).trans hc, rfl⟩

/-! ### Rows by their addresses -/

/-- A write by the address of a control-window register is the write of its offset (R12, R13). -/
theorem registerWrite_ctl {o : Nat} (ho : o < 0x100000000) (h8 : o % 8 = 0) : exec (.registerWrite (ctl o) v) s = .next (ctlWrite o v s) := by
  have inside : isCtlAddr (ctl o) = true := decide_eq_true (by unfold ctl; omega)
  have aligned : isRegAddr (ctl o) = true := by
    rw [isRegAddr, inside, Bool.true_or, Bool.and_true]
    exact decide_eq_true (by unfold ctl; omega)
  have offset : ctl o - ctl 0 = o := by unfold ctl; omega
  have runs : exec (.registerWrite (ctl o) v) s = .next (if isRegAddr (ctl o) then regWrite (ctl o) v s else s) := rfl
  rw [runs, if_pos aligned, regWrite, if_pos inside, offset]

/-- A write of PWR_STATUS clears those of its bits 16 to 19 that it names (R554). -/
theorem ctlWrite_pwrStatus : ctlWrite 0xB00 v s = regClear s (ctl 0xB00) (v.toNat &&& 0xF0000) := rfl

end Sys2Proof.Machine

namespace Sys2Proof

open Sys2Proof.Machine

/-- Settles O20: each write by what it leaves of its own unit, a write by an address by the row of its offset. -/
theorem unitWritesStoreTheirFields : Obligations.UnitWritesStoreTheirFields := by
  unfold Obligations.UnitWritesStoreTheirFields
  refine ⟨?port, ?anchor, ?window, ?tally, ?slot, ?byAddress⟩
  case port =>
    intro p v s hp hdown hoff
    refine ⟨_, congrArg Host.Outcome.next (lnkCfgWrite_down hp hdown hoff), ?_, fun r hr => ?_, rfl⟩
    · rw [modPort_own, if_pos rfl]
    · rw [modPort_own, if_neg (Ne.symm hr)]
  case anchor =>
    intro q slot v s hassigned
    refine ⟨_, congrArg Host.Outcome.next (anchorWrite_assigned hassigned), ?_, ?_, ?_, fun i hi => ?_, fun r hr => ?_, rfl⟩
    · rw [modPart_own, if_pos rfl, Tab.at_put_same, Anchor.written]
    · rw [modPart_own, if_pos rfl, Tab.at_put_same, Anchor.written]
    · rw [modPart_own, if_pos rfl, Tab.at_put_same, Anchor.written]
    · rw [modPart_own, if_pos rfl, Tab.at_put_ne _ (Ne.symm hi)]
    · rw [modPart_own, if_neg (Ne.symm hr)]
  case window =>
    intro t0 fromHost v s hp hby
    refine ⟨_, congrArg Host.Outcome.next (windowWrite_allowed hp hby), ?_, fun b hb => ?_, rfl⟩
    · rw [regPut_own, if_pos rfl]
      omega
    · exact (regPut_own s _ b _).trans (if_neg (by simpa [eq_comm] using hb))
  case tally =>
    intro t0 k half v s hp hrun hk hhalf
    obtain ⟨written, kept⟩ := withHalf_halves (tallyVal s t0 k) hhalf v
    refine ⟨_, congrArg Host.Outcome.next (tallyWrite_half hp hrun hk half), ?_, ?_, fun j hj => ?_, fun r hr => ?_, rfl⟩
    · rwa [tallyVal_setTally, if_pos rfl]
    · rwa [tallyVal_setTally, if_pos rfl]
    · rw [tallyVal_setTally, if_neg (Ne.symm hj)]
    · rw [setTally, modVec_own, if_neg (Ne.symm hr)]
  case slot =>
    intro u v s hp hgen hrun hclosed
    have hopen : SlotOpen s u := ⟨hp, hgen, hrun, hclosed⟩
    simp only [List.forall_mem_cons]
    refine ⟨?_, ?_, ?_, ?_, ?_, ?_, List.forall_mem_nil _⟩
    all_goals exact cvuSlotWrite_completes hopen (by decide) (by decide) rfl
  case byAddress =>
    intro v s
    refine ⟨registerWrite_ctl (by decide) rfl, registerWrite_ctl (by decide) rfl, registerWrite_ctl (by decide) rfl, registerWrite_ctl (by decide) rfl, ?_⟩
    refine ⟨_, (registerWrite_ctl (by decide) rfl).trans (congrArg Host.Outcome.next ctlWrite_pwrStatus), ?_, fun b hb => ?_, regClear_frame s _ _⟩
    · exact (regClear_own s _ _ _).trans (if_pos rfl)
    · exact (regClear_own s _ _ b).trans (if_neg (by simpa [eq_comm] using hb))

end Sys2Proof
end

section
/-! SUPPORT. ACCUMULATOR_MERGE: the file's accumulators and counts after a source tile is added (R124, R128). -/

namespace Sys2Proof.Machine

/-! ### Tables written whole -/

theorem Tab.find_eq_find? {α : Type} (c : Tab α) (i : Nat) : c.find i = (List.find? (fun e => decide (e.1 = i)) c).map Prod.snd := by
  induction c with
  | nil => rfl
  | cons e c ih =>
    by_cases h : e.1 = i
    · simp [Tab.find, h]
    · simp [Tab.find, h, ih]

/-- A table written whole from its entries' positions reads as the function it was written from. -/
theorem Tab.at_withPos_map_range {α : Type} (f : Nat → α) {n i : Nat} (h : i < n) (d : α) : Tab.at (withPos ((List.range n).map f)) i d = f i := by
  have hfound : List.find? (fun k => decide (k = i)) (List.range n) = some i :=
    List.find?_range_eq_some.2 ⟨decide_eq_true rfl, List.mem_range.2 h, fun j hj => by simpa using Nat.ne_of_lt hj⟩
  have hcomp : ((fun e : Nat × α => decide (e.1 = i)) ∘ fun k => (k, f k)) = fun k => decide (k = i) := rfl
  rw [Tab.at, Tab.find_eq_find?, withPos_map_range, List.find?_map, hcomp, hfound]
  rfl

/-! ### The merge -/

section
variable {s : State} {q t slot va ta : Nat} {wide : Bool}

/-- Row m's block count with the source's added, holding at 2^40 − 1 (R128). -/
def mergedCount (s : State) (t ta m : Nat) : Nat :=
  min ((tileAt s t).drain.blocks.at m 0 + le (spanRead s (ta + 0x10000 + 8 * m) 8) 0 8 % 2 ^ 40) (2 ^ 40 - 1)

/-- Accumulator i with the source's added: the value, whether it saturated, whether it moved to A128 (R124). -/
def merged (s : State) (q t slot va ta : Nat) (wide : Bool) (i : Nat) : Acc × Bool × Bool :=
  let w := if wide then 16 else 8
  mergeAcc (guardBits (rungOf (partAt s q) slot).2 ((layerOf (partAt s q) slot).getD {}).headroom) (mergedCount s t ta (i / 128)) wide
    (signed (8 * w) (leNat (spanRead s (va + w * i) w))) ((spanRead s (ta + i) 1).getD 0 0) (accAt (tileAt s t).drain i)

/-- The accumulators' file written with every sum and count. -/
def mergedFile (s : State) (q t slot va ta : Nat) (wide : Bool) (d : Drain) : Drain :=
  { d with
    accs := withPos ((List.range 65536).map (fun i => (merged s q t slot va ta wide i).1))
    blocks := withPos ((List.range 512).map (mergedCount s t ta)) }

theorem accumulatorMerge_flags (hq : partOfTile s t = some q) :
    FlagsRaised t (modDrain s t (mergedFile s q t slot va ta wide)) (accumulatorMerge t slot va ta wide s) := by
  have count : ∀ i ∈ List.range 65536, ((List.range 512).map (mergedCount s t ta)).getD (i / 128) 0 = mergedCount s t ta (i / 128) := fun i hi => by
    have hrow : i / 128 < 512 := by
      have := List.mem_range.1 hi
      omega
    simp [List.getD_eq_getElem?_getD, hrow]
  have sums : (List.range 65536).map (fun i =>
        mergeAcc (guardBits (rungOf (partAt s q) slot).2 ((layerOf (partAt s q) slot).getD {}).headroom)
          (((List.range 512).map (mergedCount s t ta)).getD (i / 128) 0) wide
          (signed (8 * if wide then 16 else 8) (leNat (spanRead s (va + (if wide then 16 else 8) * i) (if wide then 16 else 8))))
          ((spanRead s (ta + i) 1).getD 0 0) (accAt (tileAt s t).drain i))
      = (List.range 65536).map (merged s q t slot va ta wide) :=
    List.map_congr_left fun i hi => by rw [count i hi, merged]
  have file : mergedFile s q t slot va ta wide = fun d =>
      { d with
        accs := withPos (((List.range 65536).map (merged s q t slot va ta wide)).map Prod.fst)
        blocks := withPos ((List.range 512).map (mergedCount s t ta)) } := by
    funext d
    rw [mergedFile, List.map_map]
    rfl
  unfold mergedCount at sums file
  simp only [accumulatorMerge, hq, sums, file]
  exact drainFlags_flags _ q t slot _ _ _

/-- Every accumulator and every row's count of the file after a merge; the array, the queue, memory and the other tiles stay. -/
theorem accumulatorMerge_merges (hq : partOfTile s t = some q) :
    let u := accumulatorMerge t slot va ta wide s
    (∀ i, i < 65536 → accAt (tileAt u t).drain i = (merged s q t slot va ta wide i).1)
      ∧ (∀ m, m < 512 → (tileAt u t).drain.blocks.at m 0 = mergedCount s t ta m)
      ∧ (tileAt u t).arr = (tileAt s t).arr ∧ (tileAt u t).drain.queue = (tileAt s t).drain.queue ∧ u.mem = s.mem
      ∧ ∀ z, z ≠ t → tileAt u z = tileAt s z := by
  obtain ⟨⟨o, nf, own⟩, others, -, mem⟩ := accumulatorMerge_flags (slot := slot) (va := va) (ta := ta) (wide := wide) hq
  rw [modDrain_own, if_pos rfl] at own
  refine ⟨fun i hi => ?_, fun m hm => ?_, by rw [own], by simp only [own, mergedFile], mem, fun z hz => ?_⟩
  · simp only [own, accAt, mergedFile]
    exact Tab.at_withPos_map_range _ hi _
  · simp only [own, mergedFile]
    exact Tab.at_withPos_map_range _ hm _
  · rw [others z hz, modDrain_own, if_neg (Ne.symm hz)]

end

end Sys2Proof.Machine
end
section
/-! SUPPORT. OUTPUT_CONVERSION: what a row's conversion notes, what it hands on, and a plan's step (R135, R136, R168, R171). -/

namespace Sys2Proof.Machine

/-! ### What a conversion notes -/

/-- A state after a row's conversion is noted: tile t's drain, its queue apart, status registers and the partitions' contexts apart, all is as it
was. -/
structure RowNoted (t : Nat) (s u : State) : Prop where
  own : ∃ d, d.queue = (tileAt s t).drain.queue ∧ tileAt u t = { tileAt s t with drain := d }
  others : ∀ z, z ≠ t → tileAt u z = tileAt s z
  rest : u = { s with tiles := u.tiles, regs := u.regs, parts := u.parts }

namespace RowNoted

variable {t : Nat} {s u v : State}

theorem of_parts {ps : Tab Part} : RowNoted t s { s with parts := ps } := ⟨⟨_, rfl, rfl⟩, fun _ _ => rfl, rfl⟩

theorem trans (h : RowNoted t s u) (g : RowNoted t u v) : RowNoted t s v := by
  obtain ⟨d, hqueue, hown⟩ := h.own
  obtain ⟨d', gqueue, gown⟩ := g.own
  refine ⟨⟨d', ?_, by rw [gown, hown]⟩, fun z hz => (g.others z hz).trans (h.others z hz), ?_⟩
  · rw [gqueue, hown, hqueue]
  · rw [g.rest, h.rest]

theorem of_modDrain {f : Drain → Drain} (h : ∀ d, (f d).queue = d.queue) (s : State) : RowNoted t s (modDrain s t f) :=
  ⟨⟨_, h _, by rw [modDrain_own, if_pos rfl]⟩, fun z hz => by rw [modDrain_own, if_neg (Ne.symm hz)], rfl⟩

theorem mem (h : RowNoted t s u) : u.mem = s.mem := by
  have fields := congrArg State.mem h.rest
  exact fields

theorem plainSpan (h : RowNoted t s u) {a n : Nat} (hp : PlainSpan s a n) : PlainSpan u a n := by
  have banks : ∀ z, (tileAt u z).banks = (tileAt s z).banks := fun z => by
    by_cases hz : z = t
    · obtain ⟨d, -, hown⟩ := h.own
      rw [hz, hown]
    · rw [h.others z hz]
  have fs : u.fs = s.fs := by rw [h.rest]
  unfold PlainSpan chanAt at hp ⊢
  rwa [banks, fs]

end RowNoted

theorem raiseOverdraft_rowNoted (s : State) (t slot : Nat) : RowNoted t s (raiseOverdraft s t slot) :=
  .trans (.of_modDrain (f := fun d => { d with ovf := insertNat d.ovf slot }) (fun _ => rfl) s) ⟨⟨_, rfl, rfl⟩, fun _ _ => rfl, rfl⟩

theorem auditLayer_rowNoted (s : State) (t q slot point fmt : Nat) (v r : List FVal) (over_ : Nat) :
    RowNoted t s (auditLayer s q slot point fmt v r over_) := by
  dsimp only [auditLayer, auditCounts]
  split <;> exact .of_parts

/-- The largest exponents noted leave the accumulators and the queue. -/
theorem noteExponents_keeps (d : Drain) (slot : Nat) (v : List FVal) (lost : List Nat) :
    (noteExponents d slot v lost).accs = d.accs ∧ (noteExponents d slot v lost).queue = d.queue := by
  unfold noteExponents
  dsimp only
  split <;> exact ⟨rfl, rfl⟩

theorem RowNoted.of_noteExponents {t slot : Nat} {v : List FVal} {lost : List Nat} {f : Drain → Drain} (h : ∀ d, (f d).queue = d.queue) (s : State) :
    RowNoted t s (modDrain s t (fun d => noteExponents (f d) slot v lost)) :=
  .of_modDrain (fun d => (noteExponents_keeps (f d) slot v lost).2.trans (h d)) s

/-! ### The row converted -/

/-- Whether a layer runs at the last rung of its ladder, where what overdrafts is lost (R132). -/
def atLastRung (p : Part) (slot : Nat) : Bool := decide ((layerRunOf p slot).rung = lastRung p slot)

/-- An element row as its drain converts it (R135). -/
def convertedRow (s : State) (q t : Nat) (x : Plan) (fmt : Nat) : ConvRow :=
  let p := partAt s q
  let f := feedRec s t x.feed
  let l := (layerOf p x.layerSlot).getD {}
  let m := accRow f.windowRows (planContinues s t x) x.convSet x.convRow
  let accs := (List.range 128).map (fun n => accAt (tileAt s t).drain (128 * m + n))
  convRow fmt l.rndOut (atLastRung p x.layerSlot) (accs.map (windowVal (latchedAnchor p x.layerSlot).anchor))
    (bitsAt p l.tag 3 (convIndices x f l)) (accs.map (fun a => a.has tagOverdraft))

/-- A row's conversion is noted, then the row is handed on. -/
theorem convertRow_handsOn (s : State) (q t : Nat) (x : Plan) (fmt : Nat) : ∃ u accs, RowNoted t s u
    ∧ convertRow s q t x fmt = handOn u t x (feedRec s t x.feed) ((layerOf (partAt s q) x.layerSlot).getD {}) fmt (convertedRow s q t x fmt) accs := by
  refine ⟨_, _, ?_, rfl⟩
  refine .trans ?_ (auditLayer_rowNoted _ t q _ _ _ _ _ _)
  split
  · refine .of_noteExponents ?_ s
    exact fun _ => rfl
  · refine .trans (.of_noteExponents ?_ s) (raiseOverdraft_rowNoted _ t _)
    exact fun _ => rfl

theorem convBlk_line_length (c mode : Nat) (last : Bool) (j : Nat) (v : List FVal) (rb : List Nat) (bad : List Bool) :
    (convBlk c mode last j v rb bad).line.length = 128 := slice_length _ _ _

/-- A converted row's line is a whole queue line. -/
theorem convRow_line_length (c mode : Nat) (last : Bool) (v : List FVal) (rb : List Nat) (bad : List Bool) :
    (convRow c mode last v rb bad).line.length = 512 := by
  unfold convRow
  split
  · exact slice_length _ _ _
  · dsimp only
    rw [List.length_flatMap, List.map_map]
    simp only [Function.comp_def, convBlk_line_length]
    rfl

/-! ### Plain spans written -/

/-- A write of a plain span lands, and at most uses the far cache. -/
theorem spanWrite_plain {s : State} {a : Nat} {bs : List Byte} (h : PlainSpan s a bs.length) (hn : 0 < bs.length) :
    ∃ p us c, spanWrite s a bs = { s with mem := writeBytes s.mem a bs, poison := p, upsets := us, fs := { s.fs with cache := c } } := by
  by_cases ha : fsBase ≤ a
  · have far : isTileAddr a = false := decide_eq_false (by unfold fsBase at ha; omega)
    rw [spanWrite_far far]
    exact farWriteF_lands (farStoreOpen_of_plainSpan h ha) a bs (Nat.le_refl _)
  · obtain ⟨htop, hoff, hbanks⟩ := h.resolve_right (fun e => ha e.1)
    have near : isTileAddr a = true := decide_eq_true (by omega)
    have window : windowPart (offOf a) = 0 := if_pos (by omega)
    have turn : bankTurn s a bs.length = s := if_pos (by rw [hbanks]; rfl)
    simp only [spanWrite, near, window, turn, if_true]
    exact ⟨_, _, _, rfl⟩

/-- Where a row's line and its scale bytes go in the plan's buffer (R136). -/
def linePlace (t : Nat) (f : FeedRec) (x : Plan) : Nat := tileBase t + f.dest + 512 * (f.windowRows * x.convSet + x.convRow)
def scalePlace (t : Nat) (f : FeedRec) (x : Plan) : Nat :=
  tileBase t + f.dest + 512 * f.windowRows * f.setCount + 4 * (f.windowRows * x.convSet + x.convRow)

/-- A row's writes at its places: its line, and its scale bytes where the format has them. -/
def bufferWrites (fmt dst scaleDst : Nat) (c : ConvRow) : List (Nat × List Byte) :=
  (dst, c.line) :: if hasScale fmt then [(scaleDst, toLe 4 c.scales)] else []

/-- A row handed on to its plan's buffer, in plain spans, is written there. -/
theorem handOn_buffer {u : State} {t : Nat} {x : Plan} {f : FeedRec} {c : ConvRow} (hdest : f.destQueue = false) (hline : 0 < c.line.length)
    (hplain : PlainSpan u (linePlace t f x) c.line.length) (hscale : PlainSpan u (scalePlace t f x) 4) (l : LayerRec) (fmt : Nat) (accs : List Acc) :
    ∃ p us ch, handOn u t x f l fmt c accs = { u with
      mem := writeAll u.mem (bufferWrites fmt (linePlace t f x) (scalePlace t f x) c)
      poison := p
      upsets := us
      fs := { u.fs with cache := ch } } := by
  obtain ⟨p, us, ch, line⟩ := spanWrite_plain hplain hline
  unfold linePlace at line
  by_cases hs : hasScale fmt = true
  · have after : PlainSpan (spanWrite u (linePlace t f x) c.line) (scalePlace t f x) (toLe 4 c.scales).length := by
      unfold linePlace
      rw [line, toLe_length]
      exact hscale
    obtain ⟨p', us', ch', scale⟩ := spanWrite_plain after (Nat.lt_of_lt_of_eq (by decide) (toLe_length 4 c.scales).symm)
    simp only [linePlace, scalePlace, line] at scale
    refine ⟨p', us', ch', ?_⟩
    simp only [handOn, hdest, Bool.false_eq_true, if_false, hs, if_true, scale, line, bufferWrites]
    rfl
  · refine ⟨p, us, ch, ?_⟩
    simp only [handOn, hdest, Bool.false_eq_true, if_false, hs, line, bufferWrites]
    rfl

/-! ### A plan one row or one set on -/

/-- A state after a plan's step: tile t's plans and running firings apart, all is as it was. -/
structure PlanStepped (t : Nat) (s u : State) : Prop where
  own : ∃ ps rs, tileAt u t = { tileAt s t with
    arr := { (tileAt s t).arr with plans := ps }, sched := { (tileAt s t).sched with running := rs } }
  others : ∀ z, z ≠ t → tileAt u z = tileAt s z
  rest : u = { s with tiles := u.tiles }

theorem PlanStepped.mem {t : Nat} {s u : State} (h : PlanStepped t s u) : u.mem = s.mem := by
  have fields := congrArg State.mem h.rest
  exact fields

theorem modPlan_stepped (s : State) (t id : Nat) (f : Plan → Plan) : PlanStepped t s (modPlan s t id f) :=
  ⟨⟨_, (tileAt s t).sched.running, by rw [modPlan, modArr_own, if_pos rfl]⟩, fun z hz => by rw [modPlan, modArr_own, if_neg (Ne.symm hz)], rfl⟩

theorem endPlan_stepped (s : State) (t : Nat) (x : Plan) : PlanStepped t s (endPlan s t x) :=
  ⟨⟨_, _, by rw [endPlan, finishFiring, modFiring, modSched_own, if_pos rfl, modArr_own, if_pos rfl]⟩,
   fun z hz => by rw [endPlan, finishFiring, modFiring, modSched_own, if_neg (Ne.symm hz), modArr_own, if_neg (Ne.symm hz)], rfl⟩

theorem PlanStepped.trans {t : Nat} {s u v : State} (h : PlanStepped t s u) (g : PlanStepped t u v) : PlanStepped t s v := by
  obtain ⟨ps, rs, hown⟩ := h.own
  obtain ⟨ps', rs', gown⟩ := g.own
  refine ⟨⟨ps', rs', by rw [gown, hown]⟩, fun z hz => (g.others z hz).trans (h.others z hz), ?_⟩
  rw [g.rest, h.rest]

theorem convStep_stepped (s : State) (t : Nat) (x : Plan) (wholeSet : Bool) : PlanStepped t s (convStep s t x wholeSet) := by
  have step : ∀ set row, PlanStepped t s
      (if set = (feedRec s t x.feed).setCount then endPlan (modPlan s t x.id (fun y => { y with convSet := set, convRow := row })) t x
        else modPlan s t x.id (fun y => { y with convSet := set, convRow := row })) := fun set row => by
    split
    · exact (modPlan_stepped s t _ _).trans (endPlan_stepped _ t x)
    · exact modPlan_stepped s t _ _
  exact step _ _

/-- A plan not yet at its last set goes one set on. -/
theorem convStep_set {s : State} {t : Nat} {x : Plan} (h : x.convSet + 1 < (feedRec s t x.feed).setCount) :
    convStep s t x true = modPlan s t x.id (fun y => { y with convSet := x.convSet + 1, convRow := 0 }) := by
  simp only [convStep, Bool.not_true, Bool.false_and, Bool.false_eq_true, if_false, Nat.ne_of_lt h]

theorem mem_plans_modPlan {s : State} {t id : Nat} {f : Plan → Plan} {y : Plan}
    (hy : y ∈ (tileAt (modPlan s t id f) t).arr.plans) (hid : y.id = id) : ∃ z, y = f z := by
  rw [modPlan, modArr_own, if_pos rfl] at hy
  obtain ⟨z, -, hz⟩ := List.mem_map.1 hy
  by_cases h : z.id = id
  · exact ⟨z, by rw [← hz, if_pos h]⟩
  · rw [if_neg h] at hz
    exact absurd (hz ▸ hid) h

/-- With no body in progress nothing goes on. -/
theorem resumeBody_none {s : State} {t : Nat} (h : (tileAt s t).vec.body = none) : resumeBody t s = s := by
  rw [resumeBody, h]

end Sys2Proof.Machine
end
section
/-! SUPPORT. OUTPUT_CONVERSION of outputs kept in the file, its cases, and the obligation (R124, R128, R132, R135, R136, R168, R171). -/

namespace Sys2Proof.Machine

/-! ### Outputs kept in the file -/

/-- An accumulator that overdrafted, marked NONFINITE where its output is lost (R132). -/
def Acc.marked (a : Acc) (lost : Bool) : Acc := if lost = true ∧ a.has tagOverdraft = true then a.setTag tagNonfinite else a

theorem Acc.marked_false (a : Acc) : a.marked false = a := if_neg (fun h => Bool.false_ne_true h.1)

theorem Acc.setTag_nonfinite (a : Acc) : (a.setTag tagNonfinite).has tagOverdraft = a.has tagOverdraft
    ∧ (a.setTag tagNonfinite).setTag tagNonfinite = a.setTag tagNonfinite := by
  refine ⟨by simp [Acc.has, Acc.setTag, tagOverdraft, tagNonfinite], ?_⟩
  simp only [Acc.setTag, BitVec.or_assoc, BitVec.or_self]

/-- Marking twice is marking once. -/
theorem Acc.marked_marked (a : Acc) (x y : Bool) : (a.marked x).marked y = a.marked (x || y) := by
  obtain ⟨has, twice⟩ := a.setTag_nonfinite
  cases x
  · rw [Acc.marked_false, Bool.false_or]
  · rw [Bool.true_or]
    by_cases h : a.has tagOverdraft = true
    · have once : a.marked true = a.setTag tagNonfinite := if_pos ⟨rfl, h⟩
      rw [once, Acc.marked, twice, ite_self]
    · have never : ∀ z, a.marked z = a := fun z => if_neg (fun e => h e.2)
      rw [never, never]

/-- The columns of row m that are lost: those that overdrafted, at the last rung. -/
def lostCols (last : Bool) (d : Drain) (m : Nat) : List Nat := (List.range 128).filter (fun n => last && (accAt d (128 * m + n)).has tagOverdraft)

theorem mem_lostCols {last : Bool} {d : Drain} {m n : Nat} :
    n ∈ lostCols last d m ↔ n < 128 ∧ last = true ∧ (accAt d (128 * m + n)).has tagOverdraft = true := by
  simp only [lostCols, List.mem_filter, List.mem_range, Bool.and_eq_true]

/-- A kept row's accumulators: those of row m marked, the others as they were. -/
theorem keptRow_accs (last : Bool) (slot : Nat) (d : Drain) (m j : Nat) :
    accAt (keptRow last slot d m) j = (accAt d j).marked (last && decide (m = j / 128)) := by
  have keys : ((lostCols last d m).map (fun n => 128 * m + n)).Nodup := (List.nodup_range.filter _).map (fun x y h => Nat.add_left_cancel h)
  obtain ⟨hit, miss⟩ := Tab.at_foldl_put (fun n => 128 * m + n) (fun n (_ : Acc) => (accAt d (128 * m + n)).setTag tagNonfinite) {} keys d.accs j
  by_cases h : last = true ∧ m = j / 128 ∧ (accAt d j).has tagOverdraft = true
  · obtain ⟨hlast, hm, hover⟩ := h
    have place : 128 * m + j % 128 = j := by omega
    have lost : j % 128 ∈ lostCols last d m := mem_lostCols.2 ⟨Nat.mod_lt _ (by decide), hlast, by rwa [place]⟩
    rw [hlast, decide_eq_true hm, Bool.true_and, Acc.marked, if_pos ⟨rfl, hover⟩, ← hlast]
    exact (hit _ lost place).trans (by rw [place])
  · have stays : (accAt d j).marked (last && decide (m = j / 128)) = accAt d j :=
      if_neg (fun e => by
        obtain ⟨hl, hm⟩ := Bool.and_eq_true_iff.1 e.1
        exact h ⟨hl, of_decide_eq_true hm, e.2⟩)
    rw [stays]
    refine miss (fun n hn e => h ?_)
    obtain ⟨hlt, hlast, hover⟩ := mem_lostCols.1 hn
    exact ⟨hlast, by omega, e ▸ hover⟩

/-- The drain with row m kept, its largest exponents noted. -/
def keepRow (last : Bool) (slot : Nat) (anchor : Int) (m : Nat) (d : Drain) : Drain :=
  let e := keptRow last slot d m
  noteExponents e slot ((List.range 128).map (fun n => windowVal anchor (accAt e (128 * m + n)))) []

theorem keepRow_keeps (last : Bool) (slot : Nat) (anchor : Int) (m : Nat) (d : Drain) :
    (keepRow last slot anchor m d).queue = d.queue
      ∧ ∀ j, accAt (keepRow last slot anchor m d) j = (accAt d j).marked (last && decide (m = j / 128)) := by
  obtain ⟨accs, queue⟩ := noteExponents_keeps (keptRow last slot d m) slot
    ((List.range 128).map (fun n => windowVal anchor (accAt (keptRow last slot d m) (128 * m + n)))) []
  refine ⟨queue, fun j => ?_⟩
  rw [← keptRow_accs, accAt, keepRow, accs]
  rfl

/-- The rows of a plan's set before the n-th kept, those that are lost marked. -/
structure RowsKept (t : Nat) (last : Bool) (row : Nat → Nat) (n : Nat) (s u : State) : Prop where
  own : ∃ d, d.queue = (tileAt s t).drain.queue
    ∧ (∀ j, accAt d j = (accAt (tileAt s t).drain j).marked (last && (List.range n).any (fun r => decide (row r = j / 128))))
    ∧ tileAt u t = { tileAt s t with drain := d }
  others : ∀ z, z ≠ t → tileAt u z = tileAt s z
  rest : u = { s with tiles := u.tiles }

theorem rowsKept_fold (s : State) (t : Nat) (x : Plan) (w : Nat) (last : Bool) (slot : Nat) (anchor : Int) (n : Nat) :
    RowsKept t last (accRow w (planContinues s t x) x.convSet) n s
      ((List.range n).foldl (fun u i => modDrain u t (keepRow last slot anchor (accRow w (planContinues u t x) x.convSet i))) s) := by
  induction n with
  | zero => exact ⟨⟨_, rfl, fun j => by rw [List.range_zero, List.any_nil, Bool.and_false, Acc.marked_false], rfl⟩, fun _ _ => rfl, rfl⟩
  | succ n ih =>
    rw [List.range_succ, List.foldl_append, List.foldl_cons, List.foldl_nil]
    generalize (List.range n).foldl (fun u i => modDrain u t (keepRow last slot anchor (accRow w (planContinues u t x) x.convSet i))) s = u at ih ⊢
    obtain ⟨⟨d, hqueue, haccs, hown⟩, hothers, hrest⟩ := ih
    have continues : planContinues u t x = planContinues s t x := by rw [hrest]; rfl
    obtain ⟨queue, accs⟩ := keepRow_keeps last slot anchor (accRow w (planContinues s t x) x.convSet n) d
    refine ⟨⟨_, queue.trans hqueue, fun j => ?_, by rw [modDrain_own, if_pos rfl, hown, continues]⟩, fun z hz => ?_, by rw [hrest]; rfl⟩
    · rw [accs, haccs, Acc.marked_marked, ← Bool.and_or_distrib_left, List.range_succ, List.any_append, List.any_cons, List.any_nil, Bool.or_false]
    · rw [modDrain_own, if_neg (Ne.symm hz), hothers z hz]

/-! ### The row's cases -/

/-- The next plan whose outputs are converted, with a set entered whole and still to convert, and its output format. -/
structure ConvReady (s : State) (q t : Nat) (x : Plan) (fmt : Nat) : Prop where
  part : partOfTile s t = some q
  plan : convPlan s t = some x
  running : (tileAt s t).arr.faultStop = false
  entered : x.convSet < x.drainSet
  format : (rungOf (partAt s q) x.layerSlot).2 = fmt

section
variable {s : State} {q t fmt : Nat} {x : Plan}

theorem outputConversion_row (h : ConvReady s q t x fmt) (h64 : fmt ≠ 0x30) (h128 : fmt ≠ 0x31)
    (hroom : (feedRec s t x.feed).destQueue = true → (tileAt s t).drain.queue.length < 16) :
    outputConversion t s = convStep (convertRow s q t x fmt) t x false := by
  have room : ((feedRec s t x.feed).destQueue && decide (16 ≤ (tileAt s t).drain.queue.length)) = false :=
    Bool.eq_false_iff.2 fun e => by
      obtain ⟨hdest, hfull⟩ := Bool.and_eq_true_iff.1 e
      exact absurd (of_decide_eq_true hfull) (Nat.not_le.2 (hroom hdest))
  simp only [outputConversion, h.part, h.plan, h.running, Nat.not_le.2 h.entered, h.format, h64, h128, room, decide_false, Bool.or_self, Bool.false_eq_true, if_false]

/-- A full queue stalls the drain (R171). -/
theorem outputConversion_stalls (h : ConvReady s q t x fmt) (h64 : fmt ≠ 0x30)
    (h128 : fmt ≠ 0x31) (hdest : (feedRec s t x.feed).destQueue = true)
    (hfull : 16 ≤ (tileAt s t).drain.queue.length) : outputConversion t s = s := by
  simp only [outputConversion, h.part, h.plan, h.running, Nat.not_le.2 h.entered, h.format, h64, h128, hdest, hfull, decide_true, decide_false, Bool.and_self,
    Bool.or_self, Bool.false_eq_true, if_false, if_true]

theorem outputConversion_keeps (h : ConvReady s q t x fmt) (hkept : fmt = 0x30 ∨ fmt = 0x31) :
    outputConversion t s = convStep ((List.range x.rows).foldl (fun u i => modDrain u t
      (keepRow (atLastRung (partAt s q) x.layerSlot) x.layerSlot
        (latchedAnchor (partAt s q) x.layerSlot).anchor (accRow (feedRec s t x.feed).windowRows (planContinues u t x) x.convSet i))) s) t x true := by
  have kept : (decide (fmt = 0x30) || decide (fmt = 0x31)) = true := by
    simpa using hkept
  simp only [outputConversion, h.part, h.plan, h.running, Nat.not_le.2 h.entered, h.format, kept, decide_false, Bool.or_self, Bool.false_eq_true, if_false, if_true]
  rfl

/-- A row handed on, its plan one row on. -/
theorem outputConversion_handsOn (h : ConvReady s q t x fmt) (h64 : fmt ≠ 0x30)
    (h128 : fmt ≠ 0x31)
    (hroom : (feedRec s t x.feed).destQueue = true → (tileAt s t).drain.queue.length < 16) :
    ∃ u accs, RowNoted t s u ∧ PlanStepped t (handOn u t x (feedRec s t x.feed) ((layerOf (partAt s q) x.layerSlot).getD {})
      fmt (convertedRow s q t x fmt) accs) (outputConversion t s) := by
  obtain ⟨u, accs, noted, hands⟩ := convertRow_handsOn s q t x fmt
  refine ⟨u, accs, noted, ?_⟩
  rw [outputConversion_row h h64 h128 hroom, hands]
  exact convStep_stepped _ t x false

/-- A row whose plan's destination is the queue joins it as one entry (R168). -/
theorem outputConversion_queues (h : ConvReady s q t x fmt) (h64 : fmt ≠ 0x30)
    (h128 : fmt ≠ 0x31) (hdest : (feedRec s t x.feed).destQueue = true)
    (hroom : (tileAt s t).drain.queue.length < 16) :
    let u := outputConversion t s
    (∃ e, (tileAt u t).drain.queue = (tileAt s t).drain.queue ++ [e]
        ∧ e.data = (convertedRow s q t x fmt).line)
      ∧ u.mem = s.mem ∧ (∀ z, z ≠ t → tileAt u z = tileAt s z) ∧ (tileAt u t).vec = (tileAt s t).vec := by
  obtain ⟨u, accs, noted, stepped⟩ := outputConversion_handsOn h h64 h128 (fun _ => hroom)
  simp only [handOn, hdest, if_true] at stepped
  obtain ⟨d, hqueue, hown⟩ := noted.own
  obtain ⟨ps, rs, own⟩ := stepped.own
  rw [modDrain_own, if_pos rfl, hown] at own
  refine ⟨⟨_, by rw [own]; exact congrArg (· ++ _) hqueue, rfl⟩, stepped.mem.trans noted.mem, fun z hz => ?_, by rw [own]⟩
  rw [stepped.others z hz, modDrain_own, if_neg (Ne.symm hz), noted.others z hz]

/-- A row whose plan's destination is a buffer in plain spans is written there (R136). -/
theorem outputConversion_buffers (h : ConvReady s q t x fmt) (h64 : fmt ≠ 0x30)
    (h128 : fmt ≠ 0x31) (hdest : (feedRec s t x.feed).destQueue = false)
    (hplain : PlainSpan s (linePlace t (feedRec s t x.feed) x) 512) (hscale : PlainSpan s (scalePlace t (feedRec s t x.feed) x) 4) :
    let u := outputConversion t s
    u.mem = writeAll s.mem (bufferWrites fmt (linePlace t (feedRec s t x.feed) x) (scalePlace t (feedRec s t x.feed) x) (convertedRow s q t x fmt))
      ∧ (tileAt u t).drain.queue = (tileAt s t).drain.queue ∧ (∀ z, z ≠ t → tileAt u z = tileAt s z) ∧ (tileAt u t).vec = (tileAt s t).vec := by
  have line : (convertedRow s q t x fmt).line.length = 512 := convRow_line_length _ _ _ _ _ _
  obtain ⟨u, accs, noted, stepped⟩ := outputConversion_handsOn h h64 h128 (fun e => absurd (hdest.symm.trans e) Bool.false_ne_true)
  obtain ⟨p, us, ch, lands⟩ := handOn_buffer (c := convertedRow s q t x fmt) hdest (by rw [line]; decide)
    (line.symm ▸ noted.plainSpan hplain) (noted.plainSpan hscale) ((layerOf (partAt s q) x.layerSlot).getD {}) fmt accs
  rw [lands] at stepped
  obtain ⟨d, hqueue, hown⟩ := noted.own
  obtain ⟨ps, rs, own⟩ := stepped.own
  have own : tileAt (outputConversion t s) t = { tileAt u t with
    arr := { (tileAt u t).arr with plans := ps }, sched := { (tileAt u t).sched with running := rs } } := own
  rw [hown] at own
  refine ⟨?_, by rw [own]; exact hqueue, fun z hz => (stepped.others z hz).trans (noted.others z hz), by rw [own]⟩
  rw [stepped.mem, noted.mem]

/-- Outputs kept in the file: a whole set is marked, its plan one set on (R132). -/
theorem outputConversion_marks (h : ConvReady s q t x fmt) (hkept : fmt = 0x30 ∨ fmt = 0x31)
    (hmore : x.convSet + 1 < (feedRec s t x.feed).setCount) :
    ∃ v, RowsKept t (atLastRung (partAt s q) x.layerSlot)
        (accRow (feedRec s t x.feed).windowRows (planContinues s t x) x.convSet) x.rows s v
      ∧ outputConversion t s = modPlan v t x.id (fun y => { y with convSet := x.convSet + 1, convRow := 0 }) := by
  have kept := rowsKept_fold s t x (feedRec s t x.feed).windowRows
    (atLastRung (partAt s q) x.layerSlot) x.layerSlot
    (latchedAnchor (partAt s q) x.layerSlot).anchor x.rows
  refine ⟨_, kept, ?_⟩
  rw [outputConversion_keeps h hkept]
  refine convStep_set ?_
  obtain ⟨d, -, -, hown⟩ := kept.own
  rw [feedRec, hown]
  exact hmore

end

/-! ### The places of a row in its buffer -/

section
variable {fmt dst scaleDst : Nat} {c : ConvRow}

theorem mem_bufferWrites {w : Nat × List Byte} :
    w ∈ bufferWrites fmt dst scaleDst c ↔ w = (dst, c.line) ∨ hasScale fmt = true ∧ w = (scaleDst, toLe 4 c.scales) := by
  by_cases h : hasScale fmt = true <;> simp [bufferWrites, h]

theorem bufferWrites_apart (h : dst + c.line.length ≤ scaleDst) {v w : Nat × List Byte} (hv : v ∈ bufferWrites fmt dst scaleDst c)
    (hw : w ∈ bufferWrites fmt dst scaleDst c) : v = w ∨ Apart v w := by
  rcases mem_bufferWrites.1 hv with rfl | ⟨-, rfl⟩ <;> rcases mem_bufferWrites.1 hw with rfl | ⟨-, rfl⟩
  · exact .inl rfl
  · exact .inr (.inl h)
  · exact .inr (.inr h)
  · exact .inl rfl

/-- The line and the scale bytes read back from the buffer; every byte outside them stays. -/
theorem bufferWrites_read {m : List Host.Cell} (hwf : Memory.wf m = true) (h : dst + c.line.length ≤ scaleDst) :
    let m' := writeAll m (bufferWrites fmt dst scaleDst c)
    readBytes m' dst c.line.length = c.line ∧ (hasScale fmt = true → readBytes m' scaleDst 4 = toLe 4 c.scales)
      ∧ ∀ y, y < dst ∨ dst + c.line.length ≤ y → hasScale fmt = false ∨ y < scaleDst ∨ scaleDst + 4 ≤ y → readCells m' y = readCells m y := by
  have line : (dst, c.line) ∈ bufferWrites fmt dst scaleDst c := mem_bufferWrites.2 (.inl rfl)
  refine ⟨readBytes_writeAll hwf line (fun v hv => bufferWrites_apart h hv line), fun hs => ?_, fun y hline hscale => ?_⟩
  · have scale : (scaleDst, toLe 4 c.scales) ∈ bufferWrites fmt dst scaleDst c := mem_bufferWrites.2 (.inr ⟨hs, rfl⟩)
    have read := readBytes_writeAll hwf scale (fun v hv => bufferWrites_apart h hv scale)
    rwa [toLe_length] at read
  · refine readCells_writeAll_outside hwf (fun w hw => ?_)
    rcases mem_bufferWrites.1 hw with rfl | ⟨hs, rfl⟩
    · exact hline
    · rw [toLe_length]
      exact hscale.resolve_left (fun e => Bool.false_ne_true (e.symm.trans hs))

end

end Sys2Proof.Machine

namespace Sys2Proof

open Sys2Proof.Machine

/-- Settles O41: the merge by the file it writes whole; a conversion by where its row goes: the queue, a stall, the plan's buffer, or the file. -/
theorem mergesAndOutputConversion : Obligations.MergesAndOutputConversion := by
  unfold Obligations.MergesAndOutputConversion
  refine ⟨?merge, ?conversion⟩
  case merge =>
    intro t slot va ta q wide s hq
    exact ⟨_, rfl, accumulatorMerge_merges hq⟩
  case conversion =>
    intro t q x s hq hx hstop hset hbody p f l fmt m accs c last i at_ scaleAt
    have ready : ConvReady s q t x fmt := ⟨hq, hx, hstop, hset, rfl⟩
    have converts : ∀ {u}, outputConversion t s = u → (tileAt u t).vec = (tileAt s t).vec → exec (.outputConversion t) s = .next u := fun {u} hu hv => by
      have runs : exec (.outputConversion t) s = .next (resumeBody t (outputConversion t s)) := rfl
      rw [runs, hu, resumeBody_none (by rw [hv]; exact hbody)]
    refine ⟨fun h64 h128 hdest hroom => ?queue, fun h64 h128 hdest hfull => ?stall, fun h64 h128 hdest hwf hplain hscale hapart => ?buffer,
      fun hkept hmore => ?kept⟩
    case queue =>
      obtain ⟨queue, mem, others, vec⟩ := outputConversion_queues ready h64 h128 hdest hroom
      exact ⟨_, converts rfl vec, queue, mem, others⟩
    case stall => exact converts (outputConversion_stalls ready h64 h128 hdest hfull) rfl
    case buffer =>
      have line : c.line.length = 512 := convRow_line_length _ _ _ _ _ _
      obtain ⟨mem, queue, others, vec⟩ := outputConversion_buffers ready h64 h128 hdest hplain hscale
      obtain ⟨readLine, readScale, outside⟩ := bufferWrites_read (fmt := fmt) (c := c) hwf (line ▸ hapart)
      have written : (outputConversion t s).mem = writeAll s.mem (bufferWrites fmt at_ scaleAt c) := mem
      rw [← written] at readLine readScale outside
      exact ⟨_, converts rfl vec, readLine, readScale, outside, queue, others⟩
    case kept =>
      obtain ⟨v, ⟨⟨d, hqueue, haccs, hown⟩, -, hrest⟩, marks⟩ := outputConversion_marks ready hkept hmore
      have own : tileAt (outputConversion t s) t = { tileAt s t with
          arr := { (tileAt s t).arr with plans := (tileAt s t).arr.plans.map (fun y => if y.id = x.id then { y with convSet := x.convSet + 1, convRow := 0 } else y) }
          drain := d } := by rw [marks, modPlan, modArr_own, if_pos rfl, hown]
      refine ⟨_, converts rfl (by rw [own]), fun j => ?_, by rw [own]; exact hqueue, ?_, fun y hy hid => ?_, ?_⟩
      · rw [own]
        refine (haccs j).trans (if_congr ?_ rfl rfl)
        simp only [atLastRung, Bool.and_eq_true, decide_eq_true_eq, List.any_eq_true, List.mem_range, and_assoc]
        rfl
      · rw [marks, hrest]
        rfl
      · rw [marks] at hy
        obtain ⟨z, rfl⟩ := mem_plans_modPlan hy hid
        exact ⟨rfl, rfl⟩
      · rw [marks, hrest]
        rfl

end Sys2Proof
end

section
/-! SUPPORT. LAYER_CLOSE: a partition number past the sixteen whose numerics-log count lies at a tile's DRN_STATUS (R131, R139, R401, R403). -/

namespace Sys2Proof.Machine

/-- The register with partition 28,934's count of numerics-log records is the DRN_STATUS of tile 2,088,960: the address map of R242 has no such
partition and no such tile. -/
theorem numlogCount_at_drnStatus : updReg 0x7106 0 = tileReg 0x1FE000 0x780600 := rfl

/-- A partition whose first tile is number 2,088,960, its layer of slot 0 running at the first of two rungs. -/
def strayPart : Part where
  origin := 32640
  gw := 1
  gh := 1
  image := some { layers := [{ rungs := [(0x31, 0x22), (0x31, 0x22)] }] }
  carve := fsBase
  ctx := { layers := [(0, { running := true })] }
  anchors := [(0, {})]

/-- That partition as number 28,934; the layer's part on the tile is a join of tokens, and has overdrafted. -/
def strayState : State :=
  { State.reset with
    parts := [(0x7106, strayPart)]
    tiles := [(0x1FE000, { conf := { actors := [{ kind := kindSync }] }, drain := { ovf := [0] } })] }

theorem strayState_part : partAt strayState 0x7106 = strayPart := rfl

theorem strayState_layerTiles : layerTiles strayState strayPart 0 = [0x1FE000] := by decide

theorem strayState_partDone : partDone strayState strayPart 0 0x1FE000 = true := by decide

/-- The tile's REPEATS field counts the repeat and the repeat's numerics-log record. -/
theorem strayState_repeats : regField (layerClose 0x7106 0 strayState) (tileReg 0x1FE000 0x780600) 32 16 = 2 := by decide

end Sys2Proof.Machine

namespace Sys2Proof

open Sys2Proof.Machine

/-- Refutes O42: its clauses hold of every partition number, and the repeat of a layer of partition 28,934 raises REPEATS of tile 2,088,960 by two, since
the count of numerics-log records lies at the same address. -/
theorem not_layersCloseAndSamplesCount : ¬ Obligations.LayersCloseAndSamplesCount := by
  unfold Obligations.LayersCloseAndSamplesCount
  intro h
  obtain ⟨-, closes⟩ := h.1 0x7106 0 strayState {}
  rw [strayState_part, strayState_layerTiles] at closes
  have inTile : ∀ {P : Nat → Prop}, P 0x1FE000 → ∀ t ∈ [0x1FE000], P t := fun hP t ht => List.mem_singleton.1 ht ▸ hP
  obtain ⟨-, repeats, -⟩ := closes (List.cons_ne_nil _ _) (List.nodup_singleton _) rfl (inTile strayState_partDone) rfl
  obtain ⟨u, hu, -, -, -, tiles, -⟩ := repeats (Nat.le_refl _) ⟨0x1FE000, List.mem_singleton_self _, List.mem_singleton_self _⟩ (by decide)
  obtain ⟨-, -, count⟩ := tiles 0x1FE000 (List.mem_singleton_self _)
  have state : layerClose 0x7106 0 strayState = u := Host.Outcome.next.inj hu
  rw [← state, strayState_repeats] at count
  exact absurd count (by decide)

end Sys2Proof
end


section
/-! SUPPORT. A till line as its elements: lists over a line's positions, and the bytes of a line read back element by element (R141, R146 to R148). -/

namespace Sys2Proof.Machine

/-! ### Bytes and elements -/

theorem leNat_lt (bs : List Byte) : leNat bs < 256 ^ bs.length := by
  induction bs with
  | nil => exact Nat.one_pos
  | cons b bs ih =>
    have hb : b.toNat < 256 := b.isLt
    rw [leNat, List.length_cons, Nat.pow_succ]
    omega

theorem le_lt (bs : List Byte) (o n : Nat) : le bs o n < 256 ^ n := (leNat_lt _).trans_eq (by rw [slice_length])

/-- A slice within a string is a piece of it. -/
theorem slice_within {bs : List Byte} {o n : Nat} (h : o + n ≤ bs.length) : slice bs o n = (bs.drop o).take n := by
  have hlen : ((bs.drop o).take n).length = n := by rw [List.length_take, List.length_drop]; omega
  rw [slice, hlen, Nat.sub_self, List.replicate_zero, List.append_nil]

theorem piecesF_range {α : Type} {w : Nat} (hw : 0 < w) (n fuel : Nat) (l : List α) (hl : l.length = w * n) (hf : n ≤ fuel) :
    piecesF fuel w l = (List.range n).map (fun k => (l.drop (w * k)).take w) := by
  induction n generalizing fuel l with
  | zero =>
    obtain rfl : l = [] := List.eq_nil_of_length_eq_zero hl
    cases fuel <;> rfl
  | succ n ih =>
    obtain ⟨fuel, rfl⟩ : ∃ m, fuel = m + 1 := ⟨fuel - 1, by omega⟩
    have hne : l.isEmpty = false := by
      cases l with
      | nil => rw [List.length_nil, Nat.mul_succ] at hl; omega
      | cons x l => rfl
    have hrest : (l.drop w).length = w * n := by rw [List.length_drop, hl, Nat.mul_succ, Nat.add_sub_cancel]
    rw [piecesF, hne, if_neg Bool.false_ne_true, ih fuel _ hrest (by omega), List.range_succ_eq_map, List.map_cons, List.map_map]
    refine congrArg _ (List.map_congr_left fun k _ => ?_)
    rw [Function.comp_apply, List.drop_drop, Nat.mul_succ, Nat.add_comm w]

/-- A line of n elements as its elements. -/
theorem lineElems_range {w n : Nat} (hw : 0 < w) {l : List Byte} (hl : l.length = w * n) :
    lineElems w l = (List.range n).map (fun k => le l (w * k) w) := by
  have hn : n ≤ l.length := hl ▸ Nat.le_mul_of_pos_left n hw
  rw [lineElems, pieces, piecesF_range hw n _ l hl hn, List.map_map]
  refine List.map_congr_left fun k hk => ?_
  have hk : w * k + w ≤ w * n := Nat.mul_succ w k ▸ Nat.mul_le_mul_left w (List.mem_range.1 hk)
  rw [Function.comp_apply, le, slice_within (hl ▸ hk)]

theorem elemsLine_length (w : Nat) (l : List Nat) : (elemsLine w l).length = w * l.length := by
  rw [elemsLine, List.length_flatMap, List.map_congr_left (fun x _ => toLe_length w x), List.map_const', List.sum_replicate_nat, Nat.mul_comm]

/-- A piece of a string of pieces of w bytes. -/
theorem slice_flatMap {α : Type} {w : Nat} {f : α → List Byte} (hf : ∀ x, (f x).length = w) (l : List α) {k : Nat} (hk : k < l.length) (d : α) :
    slice (l.flatMap f) (w * k) w = f (l.getD k d) := by
  induction l generalizing k with
  | nil => exact absurd hk (Nat.not_lt_zero k)
  | cons x l ih =>
    have hx := hf x
    rw [List.flatMap_cons]
    cases k with
    | zero =>
      have whole := slice_whole (f x)
      rw [hx] at whole
      rw [Nat.mul_zero, slice_append_left _ _ (by omega), List.getD_cons_zero, whole]
    | succ k =>
      have step := slice_append_right (f x) (l.flatMap f) (w * k) w
      rw [hx] at step
      rw [Nat.mul_succ, Nat.add_comm, List.getD_cons_succ, ← ih (Nat.lt_of_succ_lt_succ hk)]
      exact step

theorem getD_map_range {α : Type} {n k : Nat} (hk : k < n) (f : Nat → α) (d : α) : ((List.range n).map f).getD k d = f k := by
  rw [List.getD_eq_getElem?_getD, List.getElem?_map, List.getElem?_range hk, Option.map_some, Option.getD_some]

/-- One byte of a string. -/
theorem le_one (bs : List Byte) (k : Nat) : le bs k 1 = (bs.getD k 0).toNat := by
  have byte : slice bs k 1 = [bs.getD k 0] := by
    rw [slice, List.getD_eq_getElem?_getD, ← List.head?_drop]
    cases bs.drop k <;> rfl
  rw [le, byte]
  exact Nat.add_zero _

/-- Element k of a line written from n elements. -/
theorem le_elemsLine {w n k : Nat} (hk : k < n) (v : Nat → Nat) : le (elemsLine w ((List.range n).map v)) (w * k) w = v k % 2 ^ (8 * w) := by
  rw [le, elemsLine, slice_flatMap (toLe_length w) _ (by simpa using hk) 0, getD_map_range hk, leNat_toLe, show (256 : Nat) = 2 ^ 8 from rfl,
    ← Nat.pow_mul]

/-! ### Lists over the positions of a line -/

/-- A list over its positions. -/
theorem eq_map_range {α : Type} (l : List α) (d : α) : l = (List.range l.length).map (fun k => l.getD k d) := by
  refine List.ext_getElem (by simp) fun k h1 h2 => ?_
  rw [List.getElem_map, List.getElem_range, List.getD_eq_getElem?_getD, List.getElem?_eq_getElem h1, Option.getD_some]

theorem zip_map_range {α β : Type} (f : Nat → α) (g : Nat → β) (n : Nat) :
    ((List.range n).map f).zip ((List.range n).map g) = (List.range n).map (fun k => (f k, g k)) := List.zip_map'

/-- A piece of a list over positions. -/
theorem take_drop_map_range {α : Type} (f : Nat → α) {a m n : Nat} (h : a + m ≤ n) :
    (((List.range n).map f).drop a).take m = (List.range m).map (fun k => f (a + k)) := by
  refine List.ext_getElem (by simp; omega) fun k h1 h2 => by simp

/-! ### Sources and masks -/

/-- An element's width: 2 or 4 bytes. -/
def IsWidth (w : Nat) : Prop := w = 2 ∨ w = 4

theorem isWidth_typBytes (typ : Nat) : IsWidth (typBytes typ) := by
  unfold typBytes
  split
  · exact .inl rfl
  · exact .inr rfl

theorem isWidth_four : IsWidth 4 := .inr rfl

theorem IsWidth.pos {w : Nat} (h : IsWidth w) : 0 < w := by rcases h with rfl | rfl <;> decide

theorem IsWidth.line {w : Nat} (h : IsWidth w) : w * (512 / w) = 512 := by rcases h with rfl | rfl <;> rfl

theorem tillLine_length (s : State) (t l : Nat) : (tillLine s t l).length = 512 := by
  rw [tillLine, readBytes, List.length_map, List.length_range]

theorem lineElems_tillLine (s : State) (t l : Nat) {w : Nat} (hw : IsWidth w) :
    lineElems w (tillLine s t l) = (List.range (512 / w)).map (lane s t l w) :=
  lineElems_range hw.pos ((tillLine_length s t l).trans hw.line.symm)

theorem lane_lt (s : State) (t l w k : Nat) : lane s t l w k < 2 ^ (8 * w) :=
  (le_lt _ _ _).trans_eq (by rw [show (256 : Nat) = 2 ^ 8 from rfl, ← Nat.pow_mul])

theorem source_lt (s : State) (t : Nat) (i : VIns) (j w k : Nat) : source s t i j w k < 2 ^ (8 * w) := by
  unfold source
  split
  · exact Nat.mod_lt _ (Nat.two_pow_pos _)
  · exact lane_lt s t _ w k

theorem srcElems_range (s : State) (t : Nat) (i : VIns) (j : Nat) {w : Nat} (hw : IsWidth w) :
    srcElems s t i j w = (List.range (512 / w)).map (source s t i j w) := by
  unfold srcElems
  split
  next h =>
    have imm : ∀ k ∈ List.range (512 / w), source s t i j w k = i.imm.toNat % 2 ^ (8 * w) := fun k _ => if_pos h
    rw [List.map_congr_left imm, List.map_const', List.length_range]
  next h =>
    rw [lineElems_tillLine s t _ hw]
    exact List.map_congr_left fun k _ => (if_neg h).symm

theorem elemsLine_srcElems (s : State) (t : Nat) (i : VIns) (j : Nat) : elemsLine 4 (srcElems s t i j 4) = sourceLine s t i j := by
  rw [elemsLine, srcElems_range s t i j isWidth_four, List.flatMap_map]
  rfl

theorem sourceLine_length (s : State) (t : Nat) (i : VIns) (j : Nat) : (sourceLine s t i j).length = 512 := by
  rw [← elemsLine_srcElems, elemsLine_length, srcElems_range s t i j isWidth_four, List.length_map, List.length_range]

theorem laneMask_range (s : State) (t : Nat) (i : VIns) (n : Nat) : laneMask s t i n = (List.range n).map (laneOn s t i) := rfl

theorem stochBits_range (s : State) (t : Nat) (i : VIns) (n : Nat) : stochBits s t i n = (List.range n).map (laneRandom s t i n) := by
  have hlen : (stochBits s t i n).length = n := by
    unfold stochBits
    split <;> simp [countFrom]
  have h := eq_map_range (stochBits s t i n) 0
  rwa [hlen] at h

/-! ### Lines merged and conditions joined -/

/-- An element of line DST as an instruction leaves it (R148): its result where it takes part, and elsewhere 0 or what it held. -/
def mergedLane (s : State) (t : Nat) (i : VIns) (w : Nat) (r : Nat → Nat) (k : Nat) : Nat :=
  if laneOn s t i k then r k else if i.zero then 0 else lane s t i.dst w k

theorem mergeLanes_range (i : VIns) (on : Nat → Bool) (old new : Nat → Nat) (n : Nat) :
    mergeLanes i ((List.range n).map on) ((List.range n).map old) ((List.range n).map new)
      = (List.range n).map (fun k => if on k then new k else if i.zero then 0 else old k) := by
  rw [mergeLanes, zip_map_range, zip_map_range, List.map_map]
  rfl

theorem mergedLane_mod (s : State) (t : Nat) (i : VIns) (w : Nat) (r : Nat → Nat) (k : Nat) :
    mergedLane s t i w r k % 2 ^ (8 * w) = if laneOn s t i k then r k % 2 ^ (8 * w) else if i.zero then 0 else lane s t i.dst w k := by
  unfold mergedLane
  split
  · rfl
  · split
    · exact Nat.zero_mod _
    · exact Nat.mod_eq_of_lt (lane_lt s t _ w k)

theorem Fl.testBit_or (a b : Fl) (k : Nat) : (a.or b).bits.testBit k = (a.bits.testBit k || b.bits.testBit k) := by
  have bits : ∀ f : Fl, f.bits.testBit k = [f.inv, f.dz, f.ovf, f.unf, f.inx].getD k false := by
    rintro ⟨f0, f1, f2, f3, f4⟩
    by_cases hk : k < 5
    · revert f0 f1 f2 f3 f4
      interval_cases k <;> decide
    · have hlt : (Fl.mk f0 f1 f2 f3 f4).bits < 2 ^ 5 := by revert f0 f1 f2 f3 f4; decide
      rw [Nat.testBit_lt_two_pow (hlt.trans_le (Nat.pow_le_pow_right (by decide) (Nat.not_lt.1 hk))),
        List.getD_eq_default _ _ (by simpa using hk)]
  rw [bits, bits, bits]
  match k with
  | 0 | 1 | 2 | 3 | 4 => rfl
  | _ + 5 => rfl

/-- The conditions of the elements that take part, bit by bit. -/
theorem testBit_foldFl {α : Type} (on : α → Bool) (f : α → Fl) (l : List α) (a : Fl) (b : Nat) :
    (l.foldl (fun a x => if on x then a.or (f x) else a) a).bits.testBit b = (a.bits.testBit b || l.any (fun x => on x && (f x).bits.testBit b)) := by
  induction l generalizing a with
  | nil => simp
  | cons x l ih =>
    rw [List.foldl_cons, ih, List.any_cons]
    cases hx : on x
    · simp
    · simp [Fl.testBit_or, Bool.or_assoc]

theorem testBit_noFlags (b : Nat) : (({} : Fl).bits).testBit b = false := Nat.zero_testBit b

theorem testBit_lanesFl (on : Nat → Bool) (r : Nat → FRes) (n b : Nat) :
    (lanesFl ((List.range n).map on) ((List.range n).map r)).bits.testBit b = (List.range n).any (fun k => on k && (r k).fl.bits.testBit b) := by
  rw [lanesFl, zip_map_range, testBit_foldFl (fun x : Bool × FRes => x.1) (fun x => x.2.fl), testBit_noFlags, Bool.false_or, List.any_map]
  rfl

end Sys2Proof.Machine
end


section
/-! SUPPORT. One instruction in a bundle of its own: the bundle runs, and its writes land (R143, R144, R150, R156). -/

namespace Sys2Proof.Machine

/-! ### The sticky conditions -/

theorem testBit_withField_low (r lo n v : Nat) {b : Nat} (h : b < lo) : (withField r lo n v).testBit b = r.testBit b := by
  rw [withField_eq, Nat.add_comm, Nat.testBit_two_pow_mul_add _ (Nat.mod_lt _ (Nat.two_pow_pos lo)), if_pos h, Nat.testBit_mod_two_pow,
    decide_eq_true h, Bool.true_and]

section
variable (s : State) (t tag bits : Nat)

theorem recordSticky_regs : ∃ rs, recordSticky s t tag bits = { s with regs := rs } := by
  unfold recordSticky
  split
  · exact ⟨s.regs, rfl⟩
  · exact ⟨_, rfl⟩

theorem recordSticky_others : SameRegistersBut [tileReg t 0x780800] s (recordSticky s t tag bits) := by
  intro a ha
  have hne : tileReg t 0x780800 ≠ a := by simpa [eq_comm] using ha
  unfold recordSticky
  split
  · rfl
  · rw [regSet, regPut_own, if_neg hne, regPut_own, if_neg hne]

/-- The conditions join those that stood before. -/
theorem recordSticky_joins {b : Nat} (hb : b < 5) : (regGet (recordSticky s t tag bits) (tileReg t 0x780800)).testBit b
    = ((regGet s (tileReg t 0x780800)).testBit b || bits.testBit b) := by
  have h64 : b < 64 := by omega
  unfold recordSticky
  split
  next h => rw [h, Nat.zero_testBit, Bool.or_false]
  next h =>
    rw [regSet, regPut_own, if_pos rfl, Nat.testBit_mod_two_pow, testBit_withField_low _ _ _ _ (by omega), regPut_own, if_pos rfl,
      Nat.testBit_mod_two_pow, decide_eq_true h64, Bool.true_and, Bool.true_and, Nat.testBit_or]

end

/-! ### Stores to the till and the near store -/

/-- A state whose memory holds a list of writes; with none, the state itself. -/
def Stored (s u : State) (l : List (Nat × List Byte)) : Prop :=
  ∃ p e, u = { s with mem := writeAll s.mem l, poison := p, upsets := e } ∧ (l = [] → u = s)

theorem Stored.refl (s : State) : Stored s s [] := ⟨_, _, rfl, fun _ => rfl⟩

theorem Stored.then {s u v : State} {l k : List (Nat × List Byte)} (h : Stored s u l) (g : Stored u v k) : Stored s v (l ++ k) := by
  obtain ⟨p, e, rfl, hl⟩ := h
  obtain ⟨p', e', rfl, hk⟩ := g
  refine ⟨p', e', by rw [writeAll_append], fun hnil => ?_⟩
  obtain ⟨rfl, rfl⟩ := List.append_eq_nil_iff.1 hnil
  exact (hk rfl).trans (hl rfl)

theorem nsStore_stored (s : State) (a : Nat) (bs : List Byte) : Stored s (nsStore s a bs) [(a, bs)] :=
  ⟨_, _, rfl, fun h => absurd h (List.cons_ne_nil _ _)⟩

theorem tillAddr_eq (t l : Nat) : tillAddr t l = tileBase t + (0x700000 + 512 * l) := Nat.add_assoc _ _ _

theorem spanWrite_line {s : State} {t l : Nat} (ht : t < 1024) (hl : l ≤ 511) (bs : List Byte) :
    Stored s (spanWrite s (tillAddr t l) bs) [(tillAddr t l, bs)] := by
  have hoff : offOf (tillAddr t l) = 0x700000 + 512 * l := by rw [tillAddr_eq, offOf_tileBase (by omega)]
  have hpart : windowPart (0x700000 + 512 * l) = 2 := by
    rw [windowPart, if_neg (by omega), if_neg (by omega), if_pos (by omega)]
  rw [spanWrite_till (decide_eq_true (by unfold tillAddr tileBase; omega)) (hoff ▸ hpart)]
  exact nsStore_stored s _ bs

theorem bankTurn_idle {s : State} {a : Nat} (h : (tileAt s (tileOf a)).banks = []) (n : Nat) : bankTurn s a n = s := by
  rw [bankTurn, h]
  rfl

theorem spanWrite_near {s : State} {t o : Nat} (ht : t < 1024) (ho : o < 0x600000) (hb : (tileAt s t).banks = []) (bs : List Byte) :
    Stored s (spanWrite s (tileBase t + o) bs) [(tileBase t + o, bs)] := by
  have ha : isTileAddr (tileBase t + o) = true := decide_eq_true (by unfold tileBase; omega)
  have hw : windowPart (offOf (tileBase t + o)) = 0 := by rw [offOf_tileBase (by omega)]; exact if_pos ho
  simp only [spanWrite, ha, hw, if_true]
  rw [bankTurn_idle (by rw [tileOf_tileBase (by omega)]; exact hb)]
  exact nsStore_stored s _ bs

/-! ### What a slot's writes leave -/

/-- The places of a slot's writes in memory. -/
def Fx.writes (fx : Fx) (t : Nat) : List (Nat × List Byte) :=
  fx.lines.map (fun l => (tillAddr t l.1, l.2)) ++ (fx.near.map (fun w => (tileBase t + w.1, w.2))).toList

/-- A slot's writes have their places: till lines, and the near store of a tile at whose banks nothing waits; it sends no contribution. -/
structure Fx.Placed (fx : Fx) : Prop where
  lines : ∀ l ∈ fx.lines, l.1 ≤ 511
  near : ∀ w, fx.near = some w → w.1 < 0x600000
  net : fx.net = none

/-- A slot's writes have landed: its lines and near-store bytes, the engine's registers and the queue's head on its tile, the conditions in
VEC_STATUS, and nothing else. -/
structure Landed (s u : State) (t : Nat) (fx : Fx) : Prop where
  own : tileAt u t = { tileAt s t with
    vec := (tileAt s t).vec.take fx.held
    drain := if fx.pop then { (tileAt s t).drain with queue := (tileAt s t).drain.queue.drop 1 } else (tileAt s t).drain }
  others : ∀ x, x ≠ t → tileAt u x = tileAt s x
  mem : u.mem = writeAll s.mem (fx.writes t)
  status : SameRegistersBut [tileReg t 0x780800] s u
  sticky : ∀ b, b < 5 → (regGet u (tileReg t 0x780800)).testBit b = ((regGet s (tileReg t 0x780800)).testBit b || fx.fl.bits.testBit b)
  quiet : fx.fl.bits = 0 → u.regs = s.regs
  rest : u = { s with mem := u.mem, tiles := u.tiles, regs := u.regs, poison := u.poison, upsets := u.upsets }
  unwritten : fx.writes t = [] → u = { s with tiles := u.tiles, regs := u.regs }

/-- The lines of a slot stored in order. -/
theorem linesStored {t : Nat} (ht : t < 1024) (ls : List (Nat × List Byte)) (hl : ∀ l ∈ ls, l.1 ≤ 511) (s : State) :
    Stored s (ls.foldl (fun s l => spanWrite s (tillAddr t l.1) l.2) s) (ls.map (fun l => (tillAddr t l.1, l.2))) := by
  induction ls generalizing s with
  | nil => exact Stored.refl s
  | cons l ls ih =>
    exact (spanWrite_line ht (hl l List.mem_cons_self) l.2).then (ih (fun x hx => hl x (List.mem_cons_of_mem l hx)) _)

theorem Vec.take_body (x : Vec) (h : HeldFx) : (x.take h).body = x.body := by
  have fold : ∀ (l : List (Nat × BitVec 128 × BitVec 8 × Option Stream)) (x : Vec),
      (l.foldl (fun x w => x.setTally w.1 w.2.1 w.2.2.1 w.2.2.2 h.mode) x).body = x.body := by
    intro l
    induction l with
    | nil => exact fun _ => rfl
    | cons w l ih => exact fun x => ih _
  exact fold h.tallies x

section
variable {s : State} {t : Nat}

theorem bodyLayer_idle (hb : (tileAt s t).vec.body = none) : bodyLayer s t = none := by
  simp only [bodyLayer, hb]

/-- The memory and the queue as a slot's writes leave them, before the engine's own registers are written. -/
def fxStored (s : State) (t : Nat) (fx : Fx) : State :=
  let s1 := fx.lines.foldl (fun s l => spanWrite s (tillAddr t l.1) l.2) s
  let s2 := match fx.near with | some w => spanWrite s1 (tileBase t + w.1) w.2 | none => s1
  if fx.pop then modDrain s2 t (fun d => { d with queue := d.queue.drop 1 }) else s2

theorem fxStored_stored (ht : t < 1024) (hbanks : (tileAt s t).banks = []) {fx : Fx} (h : fx.Placed) :
    ∃ u, Stored s u (fx.writes t) ∧ fxStored s t fx = if fx.pop then modDrain u t (fun d => { d with queue := d.queue.drop 1 }) else u := by
  have lines := linesStored ht fx.lines h.lines s
  unfold fxStored Fx.writes
  cases hn : fx.near with
  | none => exact ⟨_, by simpa using lines, rfl⟩
  | some w =>
    refine ⟨_, lines.then (spanWrite_near ht (h.near w hn) ?_ w.2), rfl⟩
    obtain ⟨p, e, hu, -⟩ := lines
    rw [hu]
    exact hbanks

theorem applyFx_idle {fx : Fx} (hs : (tileAt s t).vec.body = none) (hb : (tileAt (fxStored s t fx) t).vec.body = none) (hn : fx.net = none) :
    applyFx s t fx = recordSticky (modVec (fxStored s t fx) t (fun x => x.take fx.held)) t 0 fx.fl.bits := by
  have hbody : (tileAt (modVec (fxStored s t fx) t (fun x => x.take fx.held)) t).vec.body = none := by
    rw [modVec_own, if_pos rfl]
    exact (Vec.take_body _ _).trans hb
  have hspec : specActor s t = none := by
    rw [specActor, hs]
    rfl
  simp only [applyFx, hspec, hn]
  exact congrArg (fun l => reportHeld (modVec (fxStored s t fx) t (fun x => x.take fx.held)) t l fx.held) (bodyLayer_idle hbody)

/-- Outside a body a slot's writes land at once. -/
theorem applyFx_landed (ht : t < 1024) (hbody : (tileAt s t).vec.body = none) (hbanks : (tileAt s t).banks = []) {fx : Fx} (h : fx.Placed) :
    Landed s (applyFx s t fx) t fx := by
  obtain ⟨u, ⟨p, e, rfl, hnone⟩, hu⟩ := fxStored_stored ht hbanks h
  have own : tileAt (fxStored s t fx) t = { tileAt s t with
      drain := if fx.pop then { (tileAt s t).drain with queue := (tileAt s t).drain.queue.drop 1 } else (tileAt s t).drain } := by
    rw [hu]
    split
    · rw [modDrain_own, if_pos rfl]; rfl
    · rfl
  have others : ∀ x, x ≠ t → tileAt (fxStored s t fx) x = tileAt s x := fun x hx => by
    rw [hu]
    split
    · rw [modDrain_own, if_neg (Ne.symm hx)]; rfl
    · rfl
  have fields : fxStored s t fx = { s with mem := writeAll s.mem (fx.writes t), tiles := (fxStored s t fx).tiles, poison := p, upsets := e } := by
    rw [hu]
    split <;> rfl
  rw [applyFx_idle hbody (by rw [own]; exact hbody) h.net]
  obtain ⟨rs, hrs⟩ := recordSticky_regs (modVec (fxStored s t fx) t (fun x => x.take fx.held)) t 0 fx.fl.bits
  have regs : ∀ a, regGet (modVec (fxStored s t fx) t (fun x => x.take fx.held)) a = regGet s a := fun a =>
    (congrArg (regGet · a) fields :)
  have tiles : ∀ x, tileAt (recordSticky (modVec (fxStored s t fx) t (fun x => x.take fx.held)) t 0 fx.fl.bits) x
      = tileAt (modVec (fxStored s t fx) t (fun x => x.take fx.held)) x := fun x => by
    rw [hrs]
    rfl
  constructor
  case own =>
    rw [tiles, modVec_own, if_pos rfl, own]
  case others => exact fun x hx => by rw [tiles, modVec_own, if_neg (Ne.symm hx), others x hx]
  case mem => rw [hrs, fields]; rfl
  case status => exact fun a ha => (recordSticky_others _ t 0 fx.fl.bits a ha).trans (regs a)
  case sticky => exact fun b hb => by rw [recordSticky_joins _ t 0 fx.fl.bits hb, regs]
  case quiet => exact fun h0 => by rw [h0, recordSticky, if_pos rfl, fields]; rfl
  case rest => rw [hrs, fields]; rfl
  case unwritten =>
    intro hw
    have h0 := hnone hw
    have hp : p = s.poison := congrArg State.poison h0
    have he : e = s.upsets := congrArg State.upsets h0
    rw [hrs, fields, hw, hp, he]
    rfl

theorem Fx.placed_nothing : ({} : Fx).Placed := ⟨fun _ h => absurd h List.not_mem_nil, fun _ h => (nomatch h), rfl⟩

/-- A slot with nothing to write leaves every tile as it reads, and everything else as it is. -/
theorem applyFx_nothing (ht : t < 1024) (hbody : (tileAt s t).vec.body = none) (hbanks : (tileAt s t).banks = []) :
    (∀ x, tileAt (applyFx s t {}) x = tileAt s x) ∧ applyFx s t {} = { s with tiles := (applyFx s t {}).tiles } := by
  have h := applyFx_landed ht hbody hbanks Fx.placed_nothing
  refine ⟨fun x => ?_, ?_⟩
  · by_cases hx : x = t
    · subst hx
      exact h.own
    · exact h.others x hx
  · have hu := h.unwritten rfl
    rw [h.quiet rfl] at hu
    exact hu

/-- What landed stays so after a slot with nothing to write. -/
theorem Landed.then_nothing {u : State} {fx : Fx} (h : Landed s u t fx) (ht : t < 1024) (hbody : (tileAt s t).vec.body = none)
    (hbanks : (tileAt s t).banks = []) : Landed s (applyFx u t {}) t fx := by
  obtain ⟨tiles, rest⟩ := applyFx_nothing (s := u) ht (by rw [h.own]; exact (Vec.take_body _ _).trans hbody) (by rw [h.own]; exact hbanks)
  have regs : (applyFx u t {}).regs = u.regs := by rw [rest]
  have get : ∀ a, regGet (applyFx u t {}) a = regGet u a := fun a => by rw [regGet, regs]; rfl
  exact {
    own := (tiles t).trans h.own
    others := fun x hx => (tiles x).trans (h.others x hx)
    mem := (congrArg State.mem rest).trans h.mem
    status := fun a ha => (get a).trans (h.status a ha)
    sticky := fun b hb => by rw [get]; exact h.sticky b hb
    quiet := fun h0 => regs.trans (h.quiet h0)
    rest := by rw [rest, h.rest]
    unwritten := fun hw => by rw [rest, h.unwritten hw] }

/-- What a slot's writes leave after one with nothing to write. -/
theorem Landed.after_nothing {u : State} {fx : Fx} (ht : t < 1024) (hbody : (tileAt s t).vec.body = none) (hbanks : (tileAt s t).banks = [])
    (h : Landed (applyFx s t {}) u t fx) : Landed s u t fx := by
  obtain ⟨tiles, rest⟩ := applyFx_nothing ht hbody hbanks
  have get : ∀ a, regGet (applyFx s t {}) a = regGet s a := fun a => (congrArg (regGet · a) rest :)
  exact {
    own := h.own.trans (by rw [tiles])
    others := fun x hx => (h.others x hx).trans (tiles x)
    mem := h.mem.trans (congrArg (fun z : State => writeAll z.mem (fx.writes t)) rest :)
    status := fun a ha => (h.status a ha).trans (get a)
    sticky := fun b hb => by rw [h.sticky b hb, get]
    quiet := fun h0 => (h.quiet h0).trans (congrArg State.regs rest :)
    rest := by rw [h.rest, rest]
    unwritten := fun hw => by rw [h.unwritten hw, rest] }

end

/-! ### The bundle of one instruction -/

section
variable {s : State} {t op : Nat} {i : VIns}

theorem tile_lt_of_present (h : tilePresent s t = true) : t < 1024 := by
  have hlt : t < tileCount s := of_decide_eq_true (Bool.and_eq_true_iff.1 h).1
  have hrows : tileCount s ≤ 1024 := by unfold tileCount gridRows; split <;> decide
  omega

theorem tillTouch_clean (hu : s.upsets = []) (a n at_ : Nat) : tillTouch s a n at_ = (false, s) := by
  rw [tillTouch, hu]
  rfl

theorem touchLines_clean (hu : s.upsets = []) (at_ : Nat) (l : List Nat) : touchLines s t at_ l = (false, s) := by
  induction l with
  | nil => rfl
  | cons n l ih =>
    rw [touchLines, List.foldl_cons, tillTouch_clean hu]
    exact ih

theorem nsTouch_clean (hu : s.upsets = []) {a : Nat} (hb : (tileAt s (tileOf a)).banks = []) (n : Nat) : nsTouch s a n = s := by
  rw [nsTouch, bankTurn_idle hb, nsErrors, hu]
  rfl

/-- A bundle on an engine that is ready, that need not wait and meets no error, makes its writes: the vector slot's, then the reduction
slot's (R144, R150). -/
theorem runBundle_ready (h : EngineReady s t) {v r : Nat × VIns} (hok : bundleOk s v r = true) (hwait : redWaits r.1 s t r.2 = false)
    (hload : v.1 = 0x38 → spanPoisoned s (tileBase t + v.2.imm.toNat) 512 = false) (hbad : tallyBad r.1 s t r.2 = false)
    (hmatch : (redFx r.1 s t r.2).mismatch = false) (at_ : Nat) :
    runBundle s t at_ v r = some (applyFx (applyFx s t (vecFx v.1 s t v.2)) t (redFx r.1 s t r.2)) := by
  obtain ⟨-, -, hbody, hupsets, hbanks, -⟩ := h
  have hescape : bundleEscapes s t v r = false := by rw [bundleEscapes, hbody]; rfl
  have htouch : (if v.1 = 0x38 then nsTouch s (tileBase t + v.2.imm.toNat) 512 else s) = s := by
    split
    next h38 =>
      refine nsTouch_clean hupsets ?_ 512
      have hlen : v.2.imm.toNat + 512 ≤ 0x600000 := by
        simp only [bundleOk, insLength, h38, Bool.and_eq_true, Bool.or_eq_true] at hok
        have hfits := hok.1.2.resolve_left (by decide)
        exact of_decide_eq_true hfits.2
      rw [tileOf_tileBase (by omega), hbanks]
    · rfl
  have hpoison : (decide (v.1 = 0x38) && spanPoisoned s (tileBase t + v.2.imm.toNat) 512) = false := by
    by_cases h38 : v.1 = 0x38
    · rw [hload h38, Bool.and_false]
    · rw [decide_eq_false h38, Bool.false_and]
  simp only [runBundle, hok, hescape, hwait, touchLines_clean hupsets, htouch, hpoison, hbad, hmatch, Bool.not_true, Bool.false_eq_true, if_false]

/-- An instruction of the vector slot, alone in its bundle. -/
theorem runOne_vector (h : EngineReady s t) (hop : op < 0xC0) (hok : bundleOk s (op, i) nopSlot = true)
    (hload : op = 0x38 → spanPoisoned s (tileBase t + i.imm.toNat) 512 = false) :
    runOne op t i s = applyFx (applyFx s t (vecFx op s t i)) t {} := by
  have run := runBundle_ready h hok rfl hload rfl rfl (bundleAt s t)
  obtain ⟨hpresent, hstop, -⟩ := h
  simp only [runOne, hpresent, hstop, Nat.not_le.2 hop, Bool.not_true, Bool.or_false, Bool.false_eq_true, if_false, run]
  rfl

/-- No tree is open on the tile: no tally is awaited, and of the reduction slot's instructions only POPQ may wait, for the queue. -/
theorem redWaits_idle (hnet : (tileAt s t).vec.netOpen = []) (hq : op = 0xCD → (tileAt s t).drain.queue ≠ []) : redWaits op s t i = false := by
  have hawait : netAwaited s t = [] := by rw [netAwaited, hnet]; rfl
  have hqueue : (decide (op = 0xCD) && (tileAt s t).drain.queue.isEmpty) = false := by
    by_cases hcd : op = 0xCD
    · rw [List.isEmpty_eq_false_iff.2 (hq hcd), Bool.and_false]
    · rw [decide_eq_false hcd, Bool.false_and]
  simp [redWaits, hawait, hqueue, hnet]

/-- An instruction of the reduction slot, alone in its bundle. -/
theorem runOne_reduction (h : EngineReady s t) (hop : 0xC0 ≤ op) (hok : bundleOk s nopSlot (op, i) = true) (hnet : (tileAt s t).vec.netOpen = [])
    (hq : op = 0xCD → (tileAt s t).drain.queue ≠ []) (hbad : tallyBad op s t i = false) (hmatch : (redFx op s t i).mismatch = false) :
    runOne op t i s = applyFx (applyFx s t {}) t (redFx op s t i) := by
  have run := runBundle_ready h hok (redWaits_idle hnet hq) (fun h38 => nomatch h38) hbad hmatch (bundleAt s t)
  obtain ⟨hpresent, hstop, -⟩ := h
  simp only [runOne, hpresent, hstop, hop, Bool.not_true, Bool.or_false, Bool.false_eq_true, if_false, if_true, run]
  rfl

theorem vector_landed (h : EngineReady s t) (hop : op < 0xC0) (hok : bundleOk s (op, i) nopSlot = true)
    (hload : op = 0x38 → spanPoisoned s (tileBase t + i.imm.toNat) 512 = false) (hplaced : (vecFx op s t i).Placed) :
    Landed s (runOne op t i s) t (vecFx op s t i) := by
  rw [runOne_vector h hop hok hload]
  obtain ⟨hpresent, -, hbody, -, hbanks, -⟩ := h
  have ht := tile_lt_of_present hpresent
  exact (applyFx_landed ht hbody hbanks hplaced).then_nothing ht hbody hbanks

theorem reduction_landed (h : EngineReady s t) (hop : 0xC0 ≤ op) (hok : bundleOk s nopSlot (op, i) = true) (hnet : (tileAt s t).vec.netOpen = [])
    (hq : op = 0xCD → (tileAt s t).drain.queue ≠ []) (hbad : tallyBad op s t i = false) (hmatch : (redFx op s t i).mismatch = false)
    (hplaced : (redFx op s t i).Placed) : Landed s (runOne op t i s) t (redFx op s t i) := by
  rw [runOne_reduction h hop hok hnet hq hbad hmatch]
  obtain ⟨hpresent, -, hbody, -, hbanks, -⟩ := h
  have ht := tile_lt_of_present hpresent
  obtain ⟨tiles, -⟩ := applyFx_nothing ht hbody hbanks
  exact .after_nothing ht hbody hbanks (applyFx_landed ht (by rw [tiles]; exact hbody) (by rw [tiles]; exact hbanks) hplaced)

end

end Sys2Proof.Machine
end


section
/-! SUPPORT. A vector instruction's results in its lines: lanes, halves and conditions, and the typed opcodes (R147 to R149, R152 to R158). -/

namespace Sys2Proof.Machine

/-! ### What a bundle's checks say of its instructions (R150) -/

section
variable {s : State} {v r : Nat × VIns} {op : Nat} {i : VIns}

theorem bundleOk_fields (h : bundleOk s v r = true) : insField v.1 v.2 = true ∧ insField r.1 r.2 = true ∧ insLength v.1 v.2 = true := by
  simp only [bundleOk, bundleField, Bool.and_eq_true] at h
  obtain ⟨⟨⟨⟨⟨-, hv⟩, hr⟩, -⟩, hlen⟩, -⟩ := h
  exact ⟨hv, hr, hlen⟩

theorem insField_range (h : insField op i = true) : rangeOk op i = true := by
  simp only [insField, Bool.and_eq_true] at h
  obtain ⟨⟨⟨⟨-, hrange⟩, -⟩, -⟩, -⟩ := h
  exact hrange

/-- Whatever the opcode, DST and SRC_C lie within the till's lines. -/
theorem rangeOk_lines (h : rangeOk op i = true) : i.dst ≤ 511 ∧ i.srcC ≤ 511 := by
  simp only [rangeOk, Bool.and_eq_true, decide_eq_true_eq] at h
  obtain ⟨⟨⟨⟨⟨⟨hdst, -⟩, -⟩, hsrcC⟩, -⟩, -⟩, -⟩ := h
  refine ⟨?_, hsrcC⟩
  split_ifs at hdst <;> have := of_decide_eq_true hdst <;> omega

theorem vector_lines_le (h : bundleOk s (op, i) nopSlot = true) : i.dst ≤ 511 ∧ i.srcC ≤ 511 := rangeOk_lines (insField_range (bundleOk_fields h).1)

theorem reduction_lines_le (h : bundleOk s nopSlot (op, i) = true) : i.dst ≤ 511 ∧ i.srcC ≤ 511 :=
  rangeOk_lines (insField_range (bundleOk_fields h).2.1)

end

/-! ### Writes within the till -/

section
variable {s u : State} {t op n w : Nat} {i : VIns} {fx : Fx}

/-- A slot's writes that stay within the till and VEC_STATUS. -/
structure Fx.OnlyTill (fx : Fx) : Prop where
  lines : ∀ l ∈ fx.lines, l.1 ≤ 511 ∧ l.2.length = 512
  near : fx.near = none
  net : fx.net = none
  pop : fx.pop = false
  pred : fx.pred = none
  idx : fx.idx = none
  tallies : fx.tallies = []

theorem Fx.OnlyTill.placed (h : fx.OnlyTill) : fx.Placed := ⟨fun l hl => (h.lines l hl).1, by simp [h.near], h.net⟩

theorem Fx.OnlyTill.writes (h : fx.OnlyTill) (t : Nat) : fx.writes t = fx.lines.map (fun l => (tillAddr t l.1, l.2)) := by
  rw [Fx.writes, h.near]
  exact List.append_nil _

theorem Fx.OnlyTill.take (h : fx.OnlyTill) (x : Vec) : x.take fx.held = x := by
  simp only [Vec.take, Fx.held, h.tallies, h.pred, h.idx, List.foldl_nil]

/-- Such writes change the named lines and VEC_STATUS alone. -/
theorem Landed.onlyLines (h : Landed s u t fx) (hf : fx.OnlyTill) (hwf : Memory.wf s.mem = true) {ls : List Nat} (hls : fx.lines.map Prod.fst = ls) :
    OnlyLines s u t ls := by
  refine ⟨fun b hb => ?_, fun x => ?_, h.status, h.rest⟩
  · rw [h.mem, hf.writes]
    refine readCells_writeAll_outside hwf fun v hv => ?_
    obtain ⟨l, hl, rfl⟩ := List.mem_map.1 hv
    exact (hf.lines l hl).2 ▸ hb l.1 (hls ▸ List.mem_map_of_mem hl)
  · by_cases hx : x = t
    · rw [hx, h.own, hf.take, hf.pop]
      rfl
    · exact h.others x hx

theorem tillAddr_apart {l m : Nat} (hne : l ≠ m) {x y : List Byte} (hx : x.length = 512) (hy : y.length = 512) :
    Apart (tillAddr t l, x) (tillAddr t m, y) := by
  unfold Apart tillAddr
  dsimp only
  omega

/-- A line just written, no other of its number being written with it, holds what was written. -/
theorem Landed.line (h : Landed s u t fx) (hf : fx.OnlyTill) (hwf : Memory.wf s.mem = true) {l : Nat × List Byte} (hl : l ∈ fx.lines)
    (hone : ∀ m ∈ fx.lines, m.1 = l.1 → m = l) : tillLine u t l.1 = l.2 := by
  have hlen := (hf.lines l hl).2
  have back := readBytes_writeAll (w := (tillAddr t l.1, l.2)) hwf (hf.writes t ▸ List.mem_map_of_mem hl) (fun v hv => by
    rw [hf.writes] at hv
    obtain ⟨m, hm, rfl⟩ := List.mem_map.1 hv
    by_cases hne : m.1 = l.1
    · exact .inl (by rw [hone m hm hne])
    · exact .inr (tillAddr_apart hne (hf.lines m hm).2 hlen))
  rw [tillLine, h.mem, ← hlen]
  exact back

theorem Landed.flags (h : Landed s u t fx) {f : Nat → Fl}
    (hf : ∀ b, fx.fl.bits.testBit b = (List.range n).any (fun k => laneOn s t i k && (f k).bits.testBit b)) : FlagsJoin s u t i n f :=
  fun b hb => by rw [h.sticky b hb, hf]

/-! ### Whole lines of results -/

/-- Line DST as n results of w bytes leave it. -/
def mergedLine (s : State) (t : Nat) (i : VIns) (w : Nat) (r : Nat → Nat) : List Byte :=
  elemsLine w ((List.range (512 / w)).map (mergedLane s t i w r))

theorem mergedLine_length (hw : IsWidth w) (r : Nat → Nat) : (mergedLine s t i w r).length = 512 := by
  rw [mergedLine, elemsLine_length, List.length_map, List.length_range, hw.line]

theorem writeLanes_range (hw : IsWidth w) (r : Nat → FRes) : writeLanes s t i w ((List.range (512 / w)).map r)
    = { lines := [(i.dst, mergedLine s t i w (fun k => (r k).bits))], fl := lanesFl ((List.range (512 / w)).map (laneOn s t i)) ((List.range (512 / w)).map r) } := by
  rw [writeLanes, lineElems_tillLine s t _ hw, List.map_map, laneMask_range, mergeLanes_range]
  rfl

theorem lanesBecome_of_line {r : Nat → Nat} (h : tillLine u t i.dst = mergedLine s t i w r) :
    LanesBecome s u t i w (512 / w) r := fun k hk => by
  rw [lane, h, mergedLine, le_elemsLine hk, mergedLane_mod]

theorem onlyTill_line (hd : i.dst ≤ 511) {line : List Byte} (hlen : line.length = 512) {fl : Fl} {a : Option VAudit} :
    ({ lines := [(i.dst, line)], fl := fl, audit := a } : Fx).OnlyTill :=
  ⟨fun l hl => by rw [List.mem_singleton.1 hl]; exact ⟨hd, hlen⟩, rfl, rfl, rfl, rfl, rfl, rfl⟩

/-- A slot that writes line DST alone: the line, what else stays, and the conditions. -/
theorem Landed.oneLine {fl : Fl} {a : Option VAudit} {line : List Byte} (h : Landed s u t { lines := [(i.dst, line)], fl := fl, audit := a })
    (hd : i.dst ≤ 511) (hlen : line.length = 512) (hwf : Memory.wf s.mem = true) :
    tillLine u t i.dst = line ∧ OnlyLines s u t [i.dst]
      ∧ ∀ {n : Nat} {f : Nat → Fl}, (∀ b, fl.bits.testBit b = (List.range n).any (fun k => laneOn s t i k && (f k).bits.testBit b)) →
        FlagsJoin s u t i n f := by
  have only : ({ lines := [(i.dst, line)], fl := fl, audit := a } : Fx).OnlyTill := onlyTill_line hd hlen
  have written := h.line only hwf (l := (i.dst, line)) (List.mem_singleton_self _) (fun m hm _ => List.mem_singleton.1 hm)
  exact ⟨written, h.onlyLines only hwf rfl, fun hf => h.flags hf⟩

/-- An instruction that writes line DST alone. -/
theorem vector_line {fl : Fl} {a : Option VAudit} {line : List Byte} (h : EngineReady s t) (hop : op < 0xC0)
    (hok : bundleOk s (op, i) nopSlot = true) (hload : op = 0x38 → spanPoisoned s (tileBase t + i.imm.toNat) 512 = false)
    (hfx : vecFx op s t i = { lines := [(i.dst, line)], fl := fl, audit := a }) (hlen : line.length = 512) :
    tillLine (runOne op t i s) t i.dst = line ∧ OnlyLines s (runOne op t i s) t [i.dst]
      ∧ ∀ {n : Nat} {f : Nat → Fl}, (∀ b, fl.bits.testBit b = (List.range n).any (fun k => laneOn s t i k && (f k).bits.testBit b)) →
        FlagsJoin s (runOne op t i s) t i n f := by
  have hd := (vector_lines_le hok).1
  have land := vector_landed h hop hok hload (hfx ▸ (onlyTill_line hd hlen).placed)
  obtain ⟨-, -, -, -, -, hwf⟩ := h
  rw [hfx] at land
  exact land.oneLine hd hlen hwf

/-- An instruction whose results of w bytes fill line DST (R148, R149). -/
theorem vector_lanes {r : Nat → FRes} {a : Option VAudit} (h : EngineReady s t) (hop : op < 0xC0) (hne : op ≠ 0x38)
    (hok : bundleOk s (op, i) nopSlot = true) (hw : IsWidth w) (hfx : vecFx op s t i = { writeLanes s t i w ((List.range (512 / w)).map r) with audit := a }) :
    LanesBecome s (runOne op t i s) t i w (512 / w) (fun k => (r k).bits) ∧ FlagsJoin s (runOne op t i s) t i (512 / w) (fun k => (r k).fl)
      ∧ OnlyLines s (runOne op t i s) t [i.dst] := by
  rw [writeLanes_range hw] at hfx
  obtain ⟨line, only, flags⟩ := vector_line h hop hok (fun h38 => absurd h38 hne) hfx (mergedLine_length hw _)
  exact ⟨lanesBecome_of_line line, flags (testBit_lanesFl (laneOn s t i) r (512 / w)), only⟩

end

/-! ### Typed opcodes -/

section
variable {s : State} {t op : Nat} {i : VIns}

/-- Element k of a typed opcode's result: its operation on the elements of its sources, rounded once. -/
def floatLane (op : Nat) (s : State) (t : Nat) (i : VIns) (k : Nat) : FRes :=
  opF (fmtOf i.typ) i.rnd i.ftz (laneRandom s t i (512 / typBytes i.typ) k)
    ((List.range (floatSrcs op)).map (fun j => source s t i j (typBytes i.typ) k)) (floatFn op i.rnd)

theorem getD_srcElems {j w k : Nat} (hw : IsWidth w) (hk : k < 512 / w) : (srcElems s t i j w).getD k 0 = source s t i j w k := by
  rw [srcElems_range s t i j hw, getD_map_range hk]

theorem floatFx_lanes (op : Nat) (s : State) (t : Nat) (i : VIns) :
    floatFx op s t i = writeLanes s t i (typBytes i.typ) ((List.range (512 / typBytes i.typ)).map (floatLane op s t i)) := by
  have args : ∀ k, k < 512 / typBytes i.typ → laneArgs ((List.range (floatSrcs op)).map (fun j => srcElems s t i j (typBytes i.typ))) k
      = (List.range (floatSrcs op)).map (fun j => source s t i j (typBytes i.typ) k) := fun k hk => by
    rw [laneArgs, List.map_map]
    exact List.map_congr_left fun j _ => getD_srcElems (isWidth_typBytes i.typ) hk
  simp only [floatFx]
  rw [stochBits_range, withPos_map_range, List.map_map]
  refine congrArg _ (List.map_congr_left fun k hk => ?_)
  rw [Function.comp_apply, args k (List.mem_range.1 hk), floatLane]

theorem vecFx_float (h1 : 0x01 ≤ op) (h2 : op ≤ 0x11) : vecFx op s t i = floatFx op s t i := if_pos ⟨h1, h2⟩

end

end Sys2Proof.Machine

namespace Sys2Proof

open Sys2Proof.Machine

/-- A typed opcode computes the operation that its row names on every element. -/
theorem floatOp_computes {c : Nat → VIns → Instr} {op n : Nat} {fn : VIns → (Nat → FVal) → FVf}
    (hexec : ∀ t i s, exec (c t i) s = .next (runOne op t i s)) (h1 : 0x01 ≤ op) (h2 : op ≤ 0x11) (hn : floatSrcs op = n)
    (hfn : ∀ (i : VIns) (x : List FVal), floatFn op i.rnd x = fn i (fun j => x.getD j .nan)) : FloatOp c op n fn := by
  intro t i s hready hok
  have lanes := vector_lanes (a := none) hready (by omega) (by omega) hok (isWidth_typBytes i.typ) ((vecFx_float h1 h2).trans (floatFx_lanes op s t i))
  have lane : floatLane op s t i = fun k => opF (fmtOf i.typ) i.rnd i.ftz (laneRandom s t i (512 / typBytes i.typ) k)
      ((List.range n).map (fun j => source s t i j (typBytes i.typ) k)) (fun x => fn i (fun j => x.getD j .nan)) := by
    funext k
    rw [floatLane, hn, funext (hfn i)]
  rw [lane] at lanes
  exact ⟨_, hexec t i s, lanes⟩

/-- Settles O31: each typed opcode is the one case of `floatOp_computes` with its row's operation. -/
theorem floatOpcodesComputeEachLane : Obligations.FloatOpcodesComputeEachLane := by
  unfold Obligations.FloatOpcodesComputeEachLane
  and_intros
  all_goals exact floatOp_computes (fun _ _ _ => rfl) (by decide) (by decide) rfl (fun _ _ => rfl)

end Sys2Proof
end


section
/-! SUPPORT. Untyped opcodes, predicates and comparisons: 32-bit lanes as bit vectors, and a mask built bit by bit (R147 to R149, R153). -/

namespace Sys2Proof.Machine

/-! ### 32-bit lanes -/

theorem signed_toNat (x : BitVec 32) : signed 32 x.toNat = x.toInt := by
  have hx := x.isLt
  rw [BitVec.toInt_eq_toNat_cond]
  simp only [signed, Nat.mod_eq_of_lt hx]
  split <;> split <;> omega

theorem unsigned_toNat (n : Nat) (v : Int) : unsigned n v = (BitVec.ofInt n v).toNat := by
  rw [BitVec.toNat_ofInt, unsigned]
  push_cast
  rfl

theorem intFn_sub (x y : BitVec 32) : unsigned 32 (x.toInt - y.toInt) = (x - y).toNat := by
  rw [unsigned_toNat]
  refine congrArg _ (BitVec.eq_of_toInt_eq ?_)
  rw [BitVec.toInt_ofInt, BitVec.toInt_sub]

theorem intFn_sar (x : BitVec 32) (n : Nat) : unsigned 32 (x.toInt / (2 ^ n : Int)) = (x.sshiftRight n).toNat := by
  have h := BitVec.toInt_sshiftRight (x := x) (n := n)
  rw [Int.shiftRight_eq_div_pow] at h
  push_cast at h
  rw [unsigned_toNat, ← h, BitVec.ofInt_toInt]

section
variable {s : State} {t op : Nat} {i : VIns}

/-- Element k of a source as a bit vector. -/
def sourceBits (s : State) (t : Nat) (i : VIns) (j k : Nat) : BitVec 32 := BitVec.ofNat 32 (source s t i j 4 k)

theorem sourceBits_toNat (s : State) (t : Nat) (i : VIns) (j k : Nat) : (sourceBits s t i j k).toNat = source s t i j 4 k :=
  Nat.mod_eq_of_lt (source_lt s t i j 4 k)

theorem intFn_mov (a b : Nat) : intFn 0x30 a b = a := rfl

/-- An untyped opcode on a line; MOV has no second source and does not read it. -/
theorem intFx_lanes (op : Nat) (s : State) (t : Nat) (i : VIns) :
    intFx op s t i = writeLanes s t i 4 ((List.range (512 / 4)).map (fun k => { bits := intFn op (source s t i 0 4 k) (source s t i 1 4 k) })) := by
  unfold intFx
  split
  next h =>
    simp only [srcElems_range s t i _ isWidth_four, zip_map_range, List.map_map, h, intFn_mov]
    rfl
  next h =>
    simp only [srcElems_range s t i _ isWidth_four, zip_map_range, List.map_map]
    rfl

end

/-! ### Masks -/

/-- The number whose bits below n are given. -/
def maskSum (n : Nat) (b : Nat → Bool) : Nat := (List.range n).foldl (fun a k => a + b2n (b k) * 2 ^ k) 0

theorem maskSum_succ (n : Nat) (b : Nat → Bool) : maskSum (n + 1) b = 2 ^ n * b2n (b n) + maskSum n b := by
  rw [maskSum, List.range_succ, List.foldl_append, List.foldl_cons, List.foldl_nil, Nat.add_comm, Nat.mul_comm]
  rfl

theorem b2n_le_one (b : Bool) : b2n b ≤ 1 := by cases b <;> decide

theorem maskSum_lt (n : Nat) (b : Nat → Bool) : maskSum n b < 2 ^ n := by
  induction n with
  | zero => exact Nat.one_pos
  | succ n ih =>
    have hprod := Nat.mul_le_mul_left (2 ^ n) (b2n_le_one (b n))
    rw [maskSum_succ, Nat.pow_succ]
    omega

theorem testBit_maskSum (n : Nat) (b : Nat → Bool) (k : Nat) : (maskSum n b).testBit k = (decide (k < n) && b k) := by
  induction n with
  | zero => exact Nat.zero_testBit k
  | succ n ih =>
    rw [maskSum_succ, Nat.testBit_two_pow_mul_add _ (maskSum_lt n b)]
    split
    next h => rw [ih, decide_eq_true h, decide_eq_true (Nat.lt_succ_of_lt h)]
    next h =>
      rcases Nat.eq_or_lt_of_not_lt h with rfl | hlt
      · rw [Nat.sub_self, decide_eq_true (Nat.lt_succ_self k), Bool.true_and]
        cases b k <;> rfl
      · have hbit : b2n (b n) < 2 ^ (k - n) := by
          have hone : 2 ^ 1 ≤ 2 ^ (k - n) := Nat.pow_le_pow_right (by decide) (by omega)
          have hle := b2n_le_one (b n)
          omega
        rw [Nat.testBit_lt_two_pow hbit, decide_eq_false (by omega), Bool.false_and]

theorem getD_setNth_self {α : Type} {l : List α} {k : Nat} (h : k < l.length) (v d : α) : (setNth l k v).getD k d = v := by
  simp [setNth, List.getD_eq_getElem?_getD, h]

section
variable {s u : State} {t op n : Nat} {i : VIns} {fl : Fl}

/-- Bit k of the mask DST as an instruction leaves it: its condition where the element takes part, elsewhere 0 or what the mask held (R148). -/
def mergedBit (s : State) (t : Nat) (i : VIns) (c : Nat → Bool) (k : Nat) : Bool :=
  if laneOn s t i k then c k else !i.zero && (maskOf s t i.dst).getLsbD k

theorem writeMask_range (s : State) (t : Nat) (i : VIns) (n : Nat) (c : Nat → Bool) (fl : Fl) : writeMask s t i n ((List.range n).map c) fl
    = { pred := some (i.dst, BitVec.ofNat 256 (maskSum n (mergedBit s t i c))), fl := fl } := by
  have bit : ∀ k, mergedBit s t i c k = if laneOn s t i k then c k else if i.zero then false else (maskOf s t i.dst).getLsbD k := fun k => by
    unfold mergedBit
    cases i.zero <;> rfl
  simp only [writeMask, laneMask_range, zip_map_range, withPos_map_range, List.foldl_map, maskSum, bit]

/-- The opcodes whose DST is a mask. -/
def WritesMask (op : Nat) : Prop := op = 0x12 ∨ op = 0x2B ∨ 0x40 ≤ op ∧ op ≤ 0x44

theorem mask_dst (hop : WritesMask op) (hok : bundleOk s (op, i) nopSlot = true) : 1 ≤ i.dst ∧ i.dst ≤ 7 := by
  have hrange := insField_range (bundleOk_fields hok).1
  have hmask : (decide (op = 0x12) || decide (op = 0x2B) || (decide (0x40 ≤ op) && decide (op ≤ 0x44))) = true := by
    simpa [WritesMask, or_assoc] using hop
  simp only [rangeOk, hmask, if_true, Bool.and_eq_true, decide_eq_true_eq] at hrange
  obtain ⟨⟨⟨⟨⟨⟨hdst, -⟩, -⟩, -⟩, -⟩, -⟩, -⟩ := hrange
  exact hdst

/-- An instruction that writes mask DST alone, P1 to P7. -/
theorem vector_mask {c : Nat → Bool} (h : EngineReady s t) (hop : WritesMask op) (hok : bundleOk s (op, i) nopSlot = true)
    (hpreds : (tileAt s t).vec.preds.length = 8)
    (hfx : vecFx op s t i = writeMask s t i n ((List.range n).map c) fl) :
    (∀ k, k < 256 → (maskOf (runOne op t i s) t i.dst).getLsbD k = (decide (k < n) && mergedBit s t i c k))
      ∧ (∀ {m : Nat} {f : Nat → Fl}, (∀ b, fl.bits.testBit b = (List.range m).any (fun k => laneOn s t i k && (f k).bits.testBit b)) →
        FlagsJoin s (runOne op t i s) t i m f)
      ∧ ∃ m, OnlyEngine s (runOne op t i s) t { (tileAt s t).vec with preds := (tileAt s t).vec.preds.set i.dst m } := by
  rw [writeMask_range] at hfx
  have hrow : op < 0xC0 ∧ op ≠ 0x38 := by unfold WritesMask at hop; omega
  have hd := mask_dst hop hok
  have land := vector_landed h hrow.1 hok (fun h38 => absurd h38 hrow.2) (hfx ▸ ⟨fun _ hl => absurd hl List.not_mem_nil, fun _ hw => (nomatch hw), rfl⟩)
  rw [hfx] at land
  refine ⟨fun k hk => ?_, fun hf => land.flags hf, _, land.own, land.others, land.status, land.unwritten rfl⟩
  have hmask : maskOf (runOne op t i s) t i.dst = BitVec.ofNat 256 (maskSum n (mergedBit s t i c)) := by
    rw [maskOf, if_neg (by omega), land.own]
    exact getD_setNth_self (show i.dst < (tileAt s t).vec.preds.length by omega) _ _
  rw [hmask, BitVec.getLsbD_ofNat, decide_eq_true hk, Bool.true_and, testBit_maskSum]

/-! ### Comparisons -/

theorem Fl.or_assoc (a b c : Fl) : (a.or b).or c = a.or (b.or c) := by simp only [Fl.or, Bool.or_assoc]

/-- The conditions of the elements that take part in a comparison. -/
def comparedFl (s : State) (t : Nat) (i : VIns) (n : Nat) (f : Nat → Fl) : Fl :=
  (List.range n).foldl (fun a k => if laneOn s t i k then a.or (f k) else a) {}

theorem testBit_comparedFl (s : State) (t : Nat) (i : VIns) (n : Nat) (f : Nat → Fl) (b : Nat) :
    (comparedFl s t i n f).bits.testBit b = (List.range n).any (fun k => laneOn s t i k && (f k).bits.testBit b) := by
  rw [comparedFl, testBit_foldFl, testBit_noFlags, Bool.false_or]

/-- An element of a typed source as it is read. -/
def sourceF (s : State) (t : Nat) (i : VIns) (j k : Nat) : FVf := readF (fmtOf i.typ) i.ftz (source s t i j (typBytes i.typ) k)

theorem fcmpFx_bits (s : State) (t : Nat) (i : VIns) : fcmpFx s t i = writeMask s t i (512 / typBytes i.typ)
    ((List.range (512 / typBytes i.typ)).map (fun k => cmpV i.sub (sourceF s t i 0 k).v (sourceF s t i 1 k).v))
    (comparedFl s t i (512 / typBytes i.typ) (fun k => (sourceF s t i 0 k).fl.or (sourceF s t i 1 k).fl)) := by
  simp only [fcmpFx, srcElems_range s t i _ (isWidth_typBytes i.typ), laneMask_range, zip_map_range, List.map_map, List.foldl_map, Fl.or_assoc,
    Function.comp_def]
  rfl

theorem icmpFx_bits (s : State) (t : Nat) (i : VIns) : icmpFx s t i = writeMask s t i 128
    ((List.range 128).map (fun k => cmpI i.sub (signed 32 (source s t i 0 4 k)) (signed 32 (source s t i 1 4 k)))) {} := by
  simp only [icmpFx, srcElems_range s t i _ isWidth_four, zip_map_range, List.map_map]
  rfl

/-! ### IOTA and SEL -/

theorem iotaFx_lanes (s : State) (t : Nat) (i : VIns) :
    iotaFx s t i = writeLanes s t i 4 ((List.range (512 / 4)).map (fun k => { bits := (k + i.imm.toNat) % 2 ^ 32 })) := rfl

/-- Line DST as SEL leaves it. -/
def selectedLine (s : State) (t : Nat) (i : VIns) : List Byte :=
  elemsLine 4 ((List.range 128).map (fun k => if laneOn s t i k then source s t i 0 4 k else source s t i 1 4 k))

theorem selFx_line (s : State) (t : Nat) (i : VIns) : selFx s t i = { lines := [(i.dst, selectedLine s t i)] } := by
  simp only [selFx, srcElems_range s t i _ isWidth_four, laneMask_range]
  rw [zip_map_range, zip_map_range, List.map_map]
  rfl

theorem selectedLine_length (s : State) (t : Nat) (i : VIns) : (selectedLine s t i).length = 512 := by
  rw [selectedLine, elemsLine_length, List.length_map, List.length_range]

end

end Sys2Proof.Machine

namespace Sys2Proof
open Sys2Proof.Machine

theorem intOp_computes {c : Nat → VIns → Instr} {op : Nat} {fn : BitVec 32 → BitVec 32 → BitVec 32}
    (hexec : ∀ t i s, exec (c t i) s = .next (runOne op t i s)) (hop : op < 0x38) (hfx : ∀ s t i, vecFx op s t i = intFx op s t i)
    (hfn : ∀ x y : BitVec 32, intFn op x.toNat y.toNat = (fn x y).toNat) : IntOp c op fn := by
  intro t i s hready hok
  obtain ⟨lanes, -, only⟩ := vector_lanes (a := none) hready (by omega) (by omega) hok isWidth_four ((hfx s t i).trans (intFx_lanes op s t i))
  refine ⟨_, hexec t i s, fun k hk => ?_, only⟩
  rw [lanes k hk]
  have value := hfn (sourceBits s t i 0 k) (sourceBits s t i 1 k)
  rw [sourceBits_toNat, sourceBits_toNat] at value
  simp only [value]
  rfl

/-- A predicate opcode computes its operation on every bit of its source masks. -/
theorem maskOp_computes {c : Nat → VIns → Instr} {op : Nat} {fn : VIns → Nat → Bool → Bool → Bool}
    (v : VIns → BitVec 256 → BitVec 256 → BitVec 256) (hexec : ∀ t i s, exec (c t i) s = .next (runOne op t i s)) (hop : 0x40 ≤ op ∧ op ≤ 0x44)
    (hfx : ∀ s t i, vecFx op s t i = writeMask s t i 256 ((List.range 256).map (v i (maskOf s t i.srcA) (maskOf s t i.srcB)).getLsbD) {})
    (hfn : ∀ i a b k, k < 256 → (v i a b).getLsbD k = fn i k (a.getLsbD k) (b.getLsbD k)) : MaskOp c op fn := by
  intro t i s hready hok hpreds
  obtain ⟨bits, -, only⟩ := vector_mask hready (.inr (.inr hop)) hok hpreds (hfx s t i)
  refine ⟨_, hexec t i s, fun k hk => ?_, only⟩
  rw [bits k hk, decide_eq_true hk, Bool.true_and, mergedBit, hfn _ _ _ _ hk]
  cases i.zero <;> rfl

/-- Settles O33: the untyped opcodes are cases of `intOp_computes`, the predicates of `maskOp_computes`; IOTA, SEL and the comparisons write
their line or mask from their own bits. -/
theorem integersPredicatesAndComparisons : Obligations.IntegersPredicatesAndComparisons := by
  unfold Obligations.IntegersPredicatesAndComparisons
  refine ⟨⟨?iadd, ?isub, ?imul, ?imin, ?imax, ?vand, ?vor, ?vxor, ?shl, ?shr, ?sar, ?mov, fun t i s hready => ⟨fun hok => ?iota, fun hok => ?sel⟩⟩,
    ?pand, ?por, ?pxor, ?pnot, ?pset, fun t i s hready hpreds => ⟨fun hok => ?fcmp, fun hok => ?icmp⟩⟩
  case iadd => exact intOp_computes (fun _ _ _ => rfl) (by decide) (fun _ _ _ => rfl) (fun _ _ => rfl)
  case isub =>
    exact intOp_computes (fun _ _ _ => rfl) (by decide) (fun _ _ _ => rfl) (fun x y => by simp only [intFn, signed_toNat]; exact intFn_sub x y)
  case imul => exact intOp_computes (fun _ _ _ => rfl) (by decide) (fun _ _ _ => rfl) (fun x y => (BitVec.toNat_mul x y).symm)
  case imin =>
    exact intOp_computes (fun _ _ _ => rfl) (by decide) (fun _ _ _ => rfl) (fun x y => by
      simp only [intFn, signed_toNat, BitVec.slt, decide_eq_true_eq, apply_ite BitVec.toNat])
  case imax =>
    exact intOp_computes (fun _ _ _ => rfl) (by decide) (fun _ _ _ => rfl) (fun x y => by
      simp only [intFn, signed_toNat, BitVec.slt, decide_eq_true_eq, apply_ite BitVec.toNat])
  case vand => exact intOp_computes (fun _ _ _ => rfl) (by decide) (fun _ _ _ => rfl) (fun x y => (BitVec.toNat_and x y).symm)
  case vor => exact intOp_computes (fun _ _ _ => rfl) (by decide) (fun _ _ _ => rfl) (fun x y => (BitVec.toNat_or x y).symm)
  case vxor => exact intOp_computes (fun _ _ _ => rfl) (by decide) (fun _ _ _ => rfl) (fun x y => (BitVec.toNat_xor x y).symm)
  case shl => exact intOp_computes (fun _ _ _ => rfl) (by decide) (fun _ _ _ => rfl) (fun _ _ => BitVec.toNat_shiftLeft.symm)
  case shr => exact intOp_computes (fun _ _ _ => rfl) (by decide) (fun _ _ _ => rfl) (fun _ _ => (BitVec.toNat_ushiftRight _ _).symm)
  case sar =>
    exact intOp_computes (fun _ _ _ => rfl) (by decide) (fun _ _ _ => rfl) (fun x y => by simp only [intFn, signed_toNat]; exact intFn_sar x _)
  case mov => exact intOp_computes (fun _ _ _ => rfl) (by decide) (fun _ _ _ => rfl) (fun _ _ => rfl)
  case iota =>
    obtain ⟨lanes, -, only⟩ := vector_lanes (a := none) hready (by decide) (by decide) hok isWidth_four (iotaFx_lanes s t i)
    refine ⟨_, rfl, fun k hk => ?_, only⟩
    exact lanes k hk
  case sel =>
    obtain ⟨line, only, -⟩ := vector_line hready (by decide) hok (fun h38 => absurd h38 (by decide)) (selFx_line s t i) (selectedLine_length s t i)
    refine ⟨_, rfl, fun k hk => ?_, only⟩
    rw [lane, line, selectedLine, le_elemsLine hk]
    split <;> exact Nat.mod_eq_of_lt (source_lt s t i _ 4 k)
  case pand => exact maskOp_computes (fun _ a b => a &&& b) (fun _ _ _ => rfl) (by decide) (fun _ _ _ => rfl) (fun _ _ _ _ _ => BitVec.getLsbD_and)
  case por => exact maskOp_computes (fun _ a b => a ||| b) (fun _ _ _ => rfl) (by decide) (fun _ _ _ => rfl) (fun _ _ _ _ _ => BitVec.getLsbD_or)
  case pxor => exact maskOp_computes (fun _ a b => a ^^^ b) (fun _ _ _ => rfl) (by decide) (fun _ _ _ => rfl) (fun _ _ _ _ _ => BitVec.getLsbD_xor)
  case pnot =>
    exact maskOp_computes (fun _ a _ => ~~~a) (fun _ _ _ => rfl) (by decide) (fun _ _ _ => rfl) (fun _ a _ k hk => by
      rw [BitVec.getLsbD_not, decide_eq_true hk, Bool.true_and])
  case pset =>
    exact maskOp_computes (fun i _ _ => BitVec.ofNat 256 (2 ^ i.imm.toNat - 1)) (fun _ _ _ => rfl) (by decide) (fun _ _ _ => rfl)
      (fun i _ _ k hk => by rw [BitVec.getLsbD_ofNat, decide_eq_true hk, Bool.true_and, Nat.testBit_two_pow_sub_one])
  case fcmp =>
    obtain ⟨bits, flags, only⟩ := vector_mask hready (.inl rfl) hok hpreds (fcmpFx_bits s t i)
    exact ⟨_, rfl, bits, flags (testBit_comparedFl s t i _ _), only⟩
  case icmp =>
    obtain ⟨bits, -, only⟩ := vector_mask hready (.inr (.inl rfl)) hok hpreds (icmpFx_bits s t i)
    exact ⟨_, rfl, bits, only⟩

end Sys2Proof
end


section
/-! SUPPORT. Conversions: half lines, FRINT, CVT, ITOF and FTOI (R157). -/

namespace Sys2Proof.Machine

/-! ### Half lines -/

section
variable {s : State} {t op n h : Nat} {i : VIns}

/-- Element k of line DST as 128 results leave it in half h of 16-bit elements (R157). -/
def halfLane (s : State) (t : Nat) (i : VIns) (h : Nat) (r : Nat → Nat) (k : Nat) : Nat :=
  if 128 * h ≤ k ∧ k < 128 * h + 128 then
    if laneOn s t i (k - 128 * h) then r (k - 128 * h) else if i.zero then 0 else lane s t i.dst 2 k
  else lane s t i.dst 2 k

/-- Line DST as 128 results leave it in half h. -/
def halfLine (s : State) (t : Nat) (i : VIns) (h : Nat) (r : Nat → Nat) : List Byte := elemsLine 2 ((List.range (512 / 2)).map (halfLane s t i h r))

theorem halfLine_length (h : Nat) (r : Nat → Nat) : (halfLine s t i h r).length = 512 := by
  rw [halfLine, elemsLine_length, List.length_map, List.length_range]

/-- A list over n positions with m of them from a on replaced. -/
theorem replaced_map_range {α : Type} (f g : Nat → α) {a m n : Nat} (hn : a + m ≤ n) :
    ((List.range n).map f).take a ++ (List.range m).map g ++ ((List.range n).map f).drop (a + m)
      = (List.range n).map (fun k => if a ≤ k ∧ k < a + m then g (k - a) else f k) := by
  refine List.ext_getElem (by simp; omega) fun k h1 h2 => ?_
  have hk : k < n := by simpa using h2
  simp only [List.getElem_append, List.getElem_take, List.getElem_drop, List.getElem_map, List.getElem_range, List.length_append, List.length_take,
    List.length_map, List.length_range, Nat.min_eq_left (show a ≤ n by omega)]
  split
  next hlow =>
    split
    next ha => rw [if_neg (by omega)]
    next ha => rw [if_pos (by omega)]
  next hhigh => rw [if_neg (by omega), show a + m + (k - (a + m)) = k by omega]

theorem writeHalf_range (hh : h < 2) (r : Nat → FRes) : writeHalf s t i h ((List.range 128).map r)
    = { lines := [(i.dst, halfLine s t i h (fun k => (r k).bits))], fl := lanesFl ((List.range 128).map (laneOn s t i)) ((List.range 128).map r) } := by
  have lanes : (List.range (512 / 2)).map (fun k => if 128 * h ≤ k ∧ k < 128 * h + 128 then
      (fun k => if laneOn s t i k then (r k).bits else if i.zero then 0 else lane s t i.dst 2 (128 * h + k)) (k - 128 * h) else lane s t i.dst 2 k)
      = (List.range (512 / 2)).map (halfLane s t i h (fun k => (r k).bits)) := List.map_congr_left fun k _ => by
    unfold halfLane
    split
    next hk => simp only [show 128 * h + (k - 128 * h) = k by omega]
    next hk => rfl
  simp only [writeHalf]
  rw [lineElems_tillLine s t _ (.inl rfl), take_drop_map_range _ (show 128 * h + 128 ≤ 512 / 2 by omega), laneMask_range, List.map_map,
    mergeLanes_range, replaced_map_range _ _ (show 128 * h + 128 ≤ 512 / 2 by omega), halfLine, ← lanes]
  rfl

/-- What 128 results make of the two halves of line DST. -/
def HalfBecomes (s u : State) (t : Nat) (i : VIns) (h : Nat) (r : Nat → Nat) : Prop :=
  (∀ k, k < 128 → lane u t i.dst 2 (128 * h + k) = if laneOn s t i k then r k % 2 ^ 16 else if i.zero then 0 else lane s t i.dst 2 (128 * h + k))
    ∧ ∀ k, k < 128 → lane u t i.dst 2 (128 * (1 - h) + k) = lane s t i.dst 2 (128 * (1 - h) + k)

theorem halfBecomes_of_line {u : State} (hh : h < 2) {r : Nat → Nat} (hline : tillLine u t i.dst = halfLine s t i h r) : HalfBecomes s u t i h r := by
  have read : ∀ k, k < 256 → lane u t i.dst 2 k = halfLane s t i h r k % 2 ^ 16 := fun k hk => by
    rw [lane, hline, halfLine, le_elemsLine hk]
  have old : ∀ k, lane s t i.dst 2 k % 2 ^ 16 = lane s t i.dst 2 k := fun k => Nat.mod_eq_of_lt (lane_lt s t i.dst 2 k)
  refine ⟨fun k hk => ?_, fun k hk => ?_⟩
  · rw [read _ (by omega), halfLane, if_pos (by omega), Nat.add_sub_cancel_left]
    split
    · rfl
    · split
      · rfl
      · exact old _
  · rw [read _ (by omega), halfLane, if_neg (by omega), old]

/-- An instruction whose results fill half a line. -/
theorem vector_half {r : Nat → FRes} {a : Option VAudit} (hready : EngineReady s t) (hop : op < 0x38) (hok : bundleOk s (op, i) nopSlot = true)
    (hh : h < 2) (hfx : vecFx op s t i = { writeHalf s t i h ((List.range 128).map r) with audit := a }) :
    HalfBecomes s (runOne op t i s) t i h (fun k => (r k).bits) ∧ FlagsJoin s (runOne op t i s) t i 128 (fun k => (r k).fl)
      ∧ OnlyLines s (runOne op t i s) t [i.dst] := by
  rw [writeHalf_range hh] at hfx
  obtain ⟨line, only, flags⟩ := vector_line hready (by omega) hok (fun h38 => absurd h38 (by omega)) hfx (halfLine_length h _)
  exact ⟨halfBecomes_of_line hh line, flags (testBit_lanesFl (laneOn s t i) r 128), only⟩

end

/-! ### The conversions' results -/

section
variable (s : State) (t : Nat) (i : VIns)

/-- Element k of FRINT's result. -/
def frintLane (k : Nat) : FRes :=
  let rb := laneRandom s t i (512 / typBytes i.typ) k
  opF (fmtOf i.typ) i.rnd i.ftz rb [source s t i 0 (typBytes i.typ) k]
    (fun x => { v := (frintV i.rnd rb (x.getD 0 .nan)).1, fl := (frintV i.rnd rb (x.getD 0 .nan)).2 })

theorem frintFx_lanes : frintFx s t i = writeLanes s t i (typBytes i.typ) ((List.range (512 / typBytes i.typ)).map (frintLane s t i)) := by
  simp only [frintFx, srcElems_range s t i _ (isWidth_typBytes i.typ), stochBits_range, zip_map_range, List.map_map]
  rfl

/-- Elements of a 16-bit source line that a conversion to 32 bits takes from the half SUB names, and of any other source line. -/
theorem halfSource (w w2 : Nat) (hw : IsWidth w) (hw2 : IsWidth w2) :
    (if w = 2 && w2 = 4 then ((srcElems s t i 0 w).drop (128 * (i.sub % 2))).take 128 else srcElems s t i 0 w)
      = (List.range (min (512 / w) (512 / w2))).map (fun k => source s t i 0 w (k + if w < w2 then 128 * (i.sub % 2) else 0)) := by
  rw [srcElems_range s t i 0 hw]
  rcases hw with rfl | rfl <;> rcases hw2 with rfl | rfl
  · rfl
  · simp only [decide_true, Bool.and_self, if_true, show (2 : Nat) < 4 from by decide]
    rw [take_drop_map_range _ (show 128 * (i.sub % 2) + 128 ≤ 512 / 2 by omega)]
    exact List.map_congr_left fun k _ => by rw [Nat.add_comm]
  · rfl
  · rfl

/-- Results that a conversion puts in half a 16-bit line, or in a whole line. -/
def convFx (half : Prop) [Decidable half] (w : Nat) (rs : List FRes) : Fx := if half then writeHalf s t i (i.sub % 2) rs else writeLanes s t i w rs

/-- Element k of CVT's result. -/
def cvtLane (k : Nat) : FRes :=
  let w := typBytes i.typ
  let w2 := typBytes i.typ2
  convF (fmtOf i.typ) (fmtOf i.typ2) i.rnd i.ftz (source s t i 0 w (k + if w < w2 then 128 * (i.sub % 2) else 0))
    (laneRandom s t i (min (512 / w) (512 / w2)) k)

theorem cvtFx_lanes : ∃ a, cvtFx s t i = { convFx s t i ((typBytes i.typ = 4 && typBytes i.typ2 = 2) = true) (typBytes i.typ2)
    ((List.range (min (512 / typBytes i.typ) (512 / typBytes i.typ2))).map (cvtLane s t i)) with audit := a } := by
  have src := halfSource s t i _ _ (isWidth_typBytes i.typ) (isWidth_typBytes i.typ2)
  simp only [cvtFx]
  rw [src, List.length_map, List.length_range, stochBits_range, zip_map_range, List.map_map]
  exact ⟨_, rfl⟩

/-- Element k of ITOF's result. -/
def itofLane (k : Nat) : FRes := roundF (fmtOf i.typ) i.rnd i.ftz (laneRandom s t i 128 k) (FVal.ofInt (signed 32 (source s t i 0 4 k)) 0)

theorem itofFx_lanes : ∃ a, itofFx s t i = { convFx s t i (typBytes i.typ = 2) 4 ((List.range 128).map (itofLane s t i)) with audit := a } := by
  simp only [itofFx, srcElems_range s t i 0 isWidth_four]
  rw [List.map_map, stochBits_range, zip_map_range, List.map_map]
  exact ⟨_, rfl⟩

/-- Element k of FTOI's result. -/
def ftoiLane (k : Nat) : FRes :=
  let x := readF (fmtOf i.typ) i.ftz (source s t i 0 (typBytes i.typ) (k + if typBytes i.typ = 2 then 128 * (i.sub % 2) else 0))
  let r := ftoiV i.rnd (laneRandom s t i 128 k) x.v
  { bits := unsigned 32 r.1, fl := r.2.or x.fl }

theorem ftoiFx_lanes : ftoiFx s t i = writeLanes s t i 4 ((List.range (512 / 4)).map (ftoiLane s t i)) := by
  have src : (if typBytes i.typ = 2 then ((srcElems s t i 0 (typBytes i.typ)).drop (128 * (i.sub % 2))).take 128 else srcElems s t i 0 (typBytes i.typ))
      = (List.range 128).map (fun k => source s t i 0 (typBytes i.typ) (k + if typBytes i.typ = 2 then 128 * (i.sub % 2) else 0)) := by
    have h := halfSource s t i _ 4 (isWidth_typBytes i.typ) isWidth_four
    rcases isWidth_typBytes i.typ with hw | hw <;> rw [hw] at h ⊢ <;> exact h
  simp only [ftoiFx]
  rw [src, stochBits_range, zip_map_range, List.map_map]
  rfl

end

end Sys2Proof.Machine
end


section
/-! SUPPORT. PACKB, UNPACKB and GFN, and the obligation on conversions and blocks (R157, R173). -/

namespace Sys2Proof.Machine

/-! ### Stored blocks -/

/-- A stored block of a DB or MX format has 32 values. -/
theorem blockValues_length {c : Nat} (h : isDb c = true ∨ isMx c = true) (bytes : List Byte) (scale : Nat) : (blockValues c bytes scale).length = 32 := by
  have mx : (mxUnpack c bytes scale).length = 32 := by
    unfold mxUnpack
    split
    · exact List.length_replicate
    · rw [List.length_map, List.length_range]
  unfold blockValues
  split
  · split
    · exact List.length_replicate
    · rw [dbUnpack, List.length_map, List.length_map, List.length_range]
  next hdb => rw [if_pos (h.resolve_left hdb), mx]

/-- Lists of m, one after another, over their positions. -/
theorem flatMap_range {α : Type} {m : Nat} {f : Nat → List α} (hf : ∀ j, (f j).length = m) (d : α) (n : Nat) :
    (List.range n).flatMap f = (List.range (m * n)).map (fun k => (f (k / m)).getD (k % m) d) := by
  induction n with
  | zero => rfl
  | succ n ih =>
    have last : f n = (List.range m).map (fun k => (f ((m * n + k) / m)).getD ((m * n + k) % m) d) := by
      conv_lhs => rw [eq_map_range (f n) d, hf n]
      refine List.map_congr_left fun k hk => ?_
      have hk := List.mem_range.1 hk
      rw [Nat.mul_add_div (Nat.zero_lt_of_lt hk), Nat.div_eq_of_lt hk, Nat.mul_add_mod, Nat.mod_eq_of_lt hk, Nat.add_zero]
    rw [List.range_succ, List.flatMap_append, ih, List.flatMap_singleton, Nat.mul_succ, List.range_add, List.map_append, List.map_map]
    exact congrArg _ last

section
variable {s : State} {t op : Nat} {i : VIns}

/-- UNPACKB reads blocks of a DB or MX format (R150). -/
theorem unpackb_format (hok : bundleOk s (0x1A, i) nopSlot = true) : isDb i.typ2 = true ∨ isMx i.typ2 = true := by
  have h := (bundleOk_fields hok).1
  simp only [insField, Bool.and_eq_true] at h
  obtain ⟨⟨⟨⟨⟨⟨⟨-, htyp2⟩, -⟩, -⟩, -⟩, -⟩, -⟩, -⟩ := h
  exact Bool.or_eq_true_iff.1 htyp2

/-- Element k of the four blocks UNPACKB reads. -/
def unpackedValue (s : State) (t : Nat) (i : VIns) (k : Nat) : FVal :=
  (blockValues i.typ2 (slice (sourceLine s t i 0) (128 * (k / 32)) (fieldBytes i.typ2))
    (le (sourceLine s t i 1) (4 * (i.imm.toNat % 128) + k / 32) 1)).getD (k % 32) .nan

theorem unpackbFx_lanes (h : isDb i.typ2 = true ∨ isMx i.typ2 = true) : ∃ a, unpackbFx s t i = { writeLanes s t i 4 ((List.range (512 / 4)).map
    (fun k => roundF fp32 i.rnd i.ftz (laneRandom s t i 128 k) (unpackedValue s t i k))) with audit := a } := by
  have values : (List.range 4).flatMap (fun j => blockValues i.typ2 (slice (sourceLine s t i 0) (128 * j) (fieldBytes i.typ2))
      ((sourceLine s t i 1).getD (scaleAt i + j) 0).toNat) = (List.range 128).map (unpackedValue s t i) := by
    rw [flatMap_range (fun j => blockValues_length h _ _) .nan]
    exact List.map_congr_left fun k _ => by rw [unpackedValue, le_one, scaleAt]
  simp only [unpackbFx, elemsLine_srcElems]
  rw [values, stochBits_range, zip_map_range, List.map_map]
  exact ⟨_, rfl⟩

/-- Element k of GFN's result. -/
def gfnLane (s : State) (t : Nat) (i : VIns) (k : Nat) : FRes :=
  let x := readF (fmtOf i.typ) true (source s t i 0 (typBytes i.typ) k)
  { bits := (roundF (fmtOf i.typ) rne true 0 (gwRound (gwFn i.sub x.v))).bits
    fl := { inv := x.fl.inv || (!x.v.isNan && x.v.neg && !x.v.isZero && (i.sub = 1 || i.sub = 3)) } }

theorem gfnFx_lanes (s : State) (t : Nat) (i : VIns) :
    gfnFx s t i = writeLanes s t i (typBytes i.typ) ((List.range (512 / typBytes i.typ)).map (gfnLane s t i)) := by
  simp only [gfnFx, srcElems_range s t i _ (isWidth_typBytes i.typ), List.map_map]
  rfl

/-! ### PACKB -/

/-- The values of block j that PACKB packs: those of its elements, a masked one counting as zero. -/
def packedValues (s : State) (t : Nat) (i : VIns) (j : Nat) : List FVal :=
  (List.range 32).map (fun k => if laneOn s t i (32 * j + k) then (readF fp32 i.ftz (source s t i 0 4 (32 * j + k))).v else .zero)

/-- Block j as PACKB packs it. -/
def packedBlock (s : State) (t : Nat) (i : VIns) (j : Nat) : List Byte × Nat × Bool :=
  packBlock i.typ2 i.rnd (packedValues s t i j) ((List.range 32).map (fun k => laneRandom s t i 128 (32 * j + k)))

/-- Line DST as PACKB leaves it. -/
def packedLine (s : State) (t : Nat) (i : VIns) : List Byte := (List.range 4).flatMap (fun j => slice (packedBlock s t i j).1 0 128)

/-- Line SRC_C as PACKB leaves it. -/
def scaledLine (s : State) (t : Nat) (i : VIns) : List Byte :=
  (tillLine s t i.srcC).take (scaleAt i) ++ (List.range 4).flatMap (fun j => toLe 1 (packedBlock s t i j).2.1) ++ (tillLine s t i.srcC).drop (scaleAt i + 4)

theorem packOne_block (s : State) (t : Nat) (i : VIns) {j : Nat} (hj : j < 4) : ∃ x, packOne i (((laneMask s t i 128).drop (32 * j)).take 32)
    ((((srcElems s t i 0 4).map (readF fp32 i.ftz)).drop (32 * j)).take 32) (((stochBits s t i 128).drop (32 * j)).take 32)
      = (slice (packedBlock s t i j).1 0 128, (packedBlock s t i j).2.1, x) := by
  have h128 : 32 * j + 32 ≤ 128 := by omega
  rw [laneMask_range, srcElems_range s t i 0 isWidth_four, stochBits_range, List.map_map, take_drop_map_range _ h128,
    take_drop_map_range _ (show 32 * j + 32 ≤ 512 / 4 from h128), take_drop_map_range _ h128]
  simp only [packOne]
  rw [zip_map_range, List.map_map]
  exact ⟨_, rfl⟩

theorem packbFx_lines (s : State) (t : Nat) (i : VIns) : (packbFx s t i).lines = [(i.dst, packedLine s t i), (i.srcC, scaledLine s t i)] := by
  simp only [packbFx, packedLine, scaledLine, List.flatMap_map]
  have line : (List.range 4).flatMap (fun j => (packOne i (((laneMask s t i 128).drop (32 * j)).take 32)
      ((((srcElems s t i 0 4).map (readF fp32 i.ftz)).drop (32 * j)).take 32) (((stochBits s t i 128).drop (32 * j)).take 32)).1)
      = (List.range 4).flatMap (fun j => slice (packedBlock s t i j).1 0 128) := List.flatMap_congr fun j hj => by
    obtain ⟨x, hx⟩ := packOne_block s t i (List.mem_range.1 hj)
    rw [hx]
  have scales : (List.range 4).flatMap (fun j => toLe 1 (packOne i (((laneMask s t i 128).drop (32 * j)).take 32)
      ((((srcElems s t i 0 4).map (readF fp32 i.ftz)).drop (32 * j)).take 32) (((stochBits s t i 128).drop (32 * j)).take 32)).2.1)
      = (List.range 4).flatMap (fun j => toLe 1 (packedBlock s t i j).2.1) := List.flatMap_congr fun j hj => by
    obtain ⟨x, hx⟩ := packOne_block s t i (List.mem_range.1 hj)
    rw [hx]
  rw [line, scales]

theorem slice_packedLine (s : State) (t : Nat) (i : VIns) {j : Nat} (hj : j < 4) :
    slice (packedLine s t i) (128 * j) 128 = slice (packedBlock s t i j).1 0 128 := by
  rw [packedLine, slice_flatMap (fun j => slice_length _ 0 128) _ (by simpa using hj) 0]
  exact congrArg (fun k => slice (packedBlock s t i k).1 0 128) ((List.map_id' (List.range 4)) ▸ getD_map_range hj (fun k => k) 0)

theorem packedLine_length (s : State) (t : Nat) (i : VIns) : (packedLine s t i).length = 512 := by
  rw [packedLine, List.length_flatMap, List.map_congr_left (fun j _ => slice_length _ 0 128)]
  rfl

/-- A line with four bytes replaced reads as them there, and as it was elsewhere. -/
theorem le_replaced {l b : List Byte} {a : Nat} (ha : a + b.length ≤ l.length) (k : Nat) :
    le (l.take a ++ b ++ l.drop (a + b.length)) k 1 = if a ≤ k ∧ k < a + b.length then le b (k - a) 1 else le l k 1 := by
  have hlen : (l.take a).length = a := List.length_take_of_le (by omega)
  simp only [le_one, List.getD_eq_getElem?_getD, List.append_assoc]
  by_cases h1 : k < a
  · rw [if_neg (by omega), List.getElem?_append_left (by omega), List.getElem?_take_of_lt h1]
  · rw [List.getElem?_append_right (by omega), hlen]
    by_cases h2 : k < a + b.length
    · rw [if_pos (by omega), List.getElem?_append_left (by omega)]
    · rw [if_neg (by omega), List.getElem?_append_right (by omega), List.getElem?_drop, show a + b.length + (k - a - b.length) = k by omega]

theorem scales_length (s : State) (t : Nat) (i : VIns) : ((List.range 4).flatMap (fun j => toLe 1 (packedBlock s t i j).2.1)).length = 4 := by
  rw [List.length_flatMap, List.map_congr_left (fun j _ => toLe_length 1 _)]
  rfl

theorem le_scaledLine (s : State) (t : Nat) (i : VIns) :
    (∀ j, j < 4 → le (scaledLine s t i) (scaleAt i + j) 1 = (packedBlock s t i j).2.1 % 256)
      ∧ (∀ k, k < scaleAt i ∨ scaleAt i + 4 ≤ k → le (scaledLine s t i) k 1 = le (tillLine s t i.srcC) k 1) := by
  have hlen := scales_length s t i
  have read := le_replaced (l := tillLine s t i.srcC) (b := (List.range 4).flatMap (fun j => toLe 1 (packedBlock s t i j).2.1)) (a := scaleAt i)
    (by rw [hlen, tillLine_length]; unfold scaleAt; omega)
  rw [hlen] at read
  refine ⟨fun j hj => ?_, fun k hk => ?_⟩
  · have scale := slice_flatMap (fun j => toLe_length 1 (packedBlock s t i j).2.1) (List.range 4) (k := j) (by simpa using hj) 0
    rw [scaledLine, read, if_pos (by omega), Nat.add_sub_cancel_left, le, ← Nat.one_mul j, scale, leNat_toLe, Nat.one_mul]
    exact congrArg (fun k => (packedBlock s t i k).2.1 % 256) ((List.map_id' (List.range 4)) ▸ getD_map_range hj (fun k => k) 0)
  · rw [scaledLine, read, if_neg (by omega)]

theorem scaledLine_length (s : State) (t : Nat) (i : VIns) : (scaledLine s t i).length = 512 := by
  rw [scaledLine, List.length_append, List.length_append, scales_length, List.length_take, List.length_drop, tillLine_length]
  unfold scaleAt
  omega

theorem packb_lines_apart (hok : bundleOk s (0x19, i) nopSlot = true) : i.dst ≠ i.srcC := by
  have h := (bundleOk_fields hok).1
  simp only [insField, Bool.and_eq_true, Bool.or_eq_true] at h
  exact of_decide_eq_true (h.2.resolve_left (by simp))

/-- PACKB writes its two lines. -/
theorem packb_landed (hready : EngineReady s t) (hok : bundleOk s (0x19, i) nopSlot = true) :
    let u := runOne 0x19 t i s
    tillLine u t i.dst = packedLine s t i ∧ tillLine u t i.srcC = scaledLine s t i ∧ OnlyLines s u t [i.dst, i.srcC] := by
  have lines : (vecFx 0x19 s t i).lines = [(i.dst, packedLine s t i), (i.srcC, scaledLine s t i)] := packbFx_lines s t i
  have hne := packb_lines_apart hok
  obtain ⟨hd, hc⟩ := vector_lines_le hok
  have only : (vecFx 0x19 s t i).OnlyTill := ⟨fun l hl => by
    rw [lines] at hl
    rcases List.mem_cons.1 hl with rfl | hl
    · exact ⟨hd, packedLine_length s t i⟩
    · rw [List.mem_singleton.1 hl]
      exact ⟨hc, scaledLine_length s t i⟩, rfl, rfl, rfl, rfl, rfl, rfl⟩
  have land := vector_landed hready (by decide) hok (fun h38 => absurd h38 (by decide)) only.placed
  obtain ⟨-, -, -, -, -, hwf⟩ := hready
  have hmem : ∀ {l : Nat × List Byte}, l ∈ (vecFx 0x19 s t i).lines ↔ l = (i.dst, packedLine s t i) ∨ l = (i.srcC, scaledLine s t i) := by
    rw [lines]
    simp
  refine ⟨land.line only hwf (l := (i.dst, packedLine s t i)) (hmem.2 (.inl rfl)) (fun m hm e => ?_),
    land.line only hwf (l := (i.srcC, scaledLine s t i)) (hmem.2 (.inr rfl)) (fun m hm e => ?_), land.onlyLines only hwf (by rw [lines]; rfl)⟩
  · exact (hmem.1 hm).resolve_right fun h => hne (e.symm.trans (congrArg Prod.fst h))
  · exact (hmem.1 hm).resolve_left fun h => hne ((congrArg Prod.fst h).symm.trans e)

end

end Sys2Proof.Machine

namespace Sys2Proof

open Sys2Proof.Machine

/-- Settles O32: each conversion's results are a line or half a line of its own lanes; PACKB writes two lines. -/
theorem conversionsAndBlocks : Obligations.ConversionsAndBlocks := by
  unfold Obligations.ConversionsAndBlocks
  refine ⟨fun t i s hready => ?_, fun t i s hready => ?_⟩
  · refine ⟨fun hok => ?frint, fun hok => ?cvt, fun hok => ?itof, fun hok => ?ftoi⟩
    case frint => exact ⟨_, rfl, vector_lanes (a := none) hready (by decide) (by decide) hok (isWidth_typBytes i.typ) (frintFx_lanes s t i)⟩
    case cvt =>
      obtain ⟨a, hfx⟩ := cvtFx_lanes s t i
      by_cases hhalf : typBytes i.typ = 4 ∧ typBytes i.typ2 = 2
      · have hn : min (512 / typBytes i.typ) (512 / typBytes i.typ2) = 128 := by rw [hhalf.1, hhalf.2]; rfl
        rw [convFx, if_pos (by simpa using hhalf), hn] at hfx
        obtain ⟨half, flags, only⟩ := vector_half hready (by decide) hok (Nat.mod_lt _ (by decide)) hfx
        rw [← hn] at flags
        exact ⟨_, rfl, fun _ _ => half, fun hnot => absurd hhalf hnot, flags, only⟩
      · have hn : min (512 / typBytes i.typ) (512 / typBytes i.typ2) = 512 / typBytes i.typ2 := by
          rcases isWidth_typBytes i.typ with hw | hw <;> rcases isWidth_typBytes i.typ2 with hw2 | hw2 <;> rw [hw, hw2]
          · rfl
          · rfl
          · exact absurd ⟨hw, hw2⟩ hhalf
          · rfl
        rw [convFx, if_neg (by simpa using hhalf), hn] at hfx
        obtain ⟨lanes, flags, only⟩ := vector_lanes hready (by decide) (by decide) hok (isWidth_typBytes i.typ2) hfx
        rw [← hn] at lanes flags
        exact ⟨_, rfl, fun hw hw2 => absurd ⟨hw, hw2⟩ hhalf, fun _ => lanes, flags, only⟩
    case itof =>
      obtain ⟨a, hfx⟩ := itofFx_lanes s t i
      by_cases hhalf : typBytes i.typ = 2
      · rw [convFx, if_pos hhalf] at hfx
        obtain ⟨half, flags, only⟩ := vector_half hready (by decide) hok (Nat.mod_lt _ (by decide)) hfx
        exact ⟨_, rfl, fun _ => half, fun h4 => absurd (hhalf.symm.trans h4) (by decide), flags, only⟩
      · rw [convFx, if_neg hhalf] at hfx
        obtain ⟨lanes, flags, only⟩ := vector_lanes hready (by decide) (by decide) hok isWidth_four hfx
        exact ⟨_, rfl, fun h2 => absurd h2 hhalf, fun _ => lanes, flags, only⟩
    case ftoi =>
      obtain ⟨lanes, flags, only⟩ := vector_lanes (a := none) hready (by decide) (by decide) hok isWidth_four (ftoiFx_lanes s t i)
      exact ⟨_, rfl, lanes, flags, only⟩
  · refine ⟨fun hok => ?packb, fun hok => ?unpackb, fun hok => ?gfn⟩
    case packb =>
      obtain ⟨hdst, hsrcC, only⟩ := packb_landed hready hok
      obtain ⟨scales, rest⟩ := le_scaledLine s t i
      refine ⟨_, rfl, fun j hj => ⟨?_, ?_⟩, fun k _ hk => ?_, only⟩
      · rw [hdst]; exact slice_packedLine s t i hj
      · rw [hsrcC]; exact scales j hj
      · rw [hsrcC]; exact rest k hk
    case unpackb =>
      obtain ⟨a, hfx⟩ := unpackbFx_lanes (s := s) (t := t) (unpackb_format hok)
      exact ⟨_, rfl, vector_lanes hready (by decide) (by decide) hok isWidth_four hfx⟩
    case gfn =>
      obtain ⟨lanes, -, only⟩ := vector_lanes (a := none) hready (by decide) (by decide) hok (isWidth_typBytes i.typ) (gfnFx_lanes s t i)
      exact ⟨_, rfl, lanes, only⟩

end Sys2Proof
end


section
/-! SUPPORT. Moves, index registers, and the reduction slot's writes to tallies, trees and the queue (R149, R159, R160, R164, R165, R167, R171). -/

namespace Sys2Proof.Machine

/-! ### Moves and index registers -/

section
variable {s : State} {t : Nat} {i : VIns}

/-- A load or store lies in the near store (R150). -/
theorem near_fits {op : Nat} (hop : op = 0x38 ∨ op = 0x39) (hok : bundleOk s (op, i) nopSlot = true) : i.imm.toNat + 512 ≤ 0x600000 := by
  obtain ⟨-, -, hlen⟩ := bundleOk_fields hok
  have hmoves : (decide (op ≠ 0x38) && decide (op ≠ 0x39)) = false := by rcases hop with rfl | rfl <;> rfl
  simp only [insLength, hmoves, Bool.false_or, Bool.and_eq_true, decide_eq_true_eq] at hlen
  exact hlen.2

theorem nop_runs (h : EngineReady s t) (hok : bundleOk s (0x00, i) nopSlot = true) : OnlyLines s (runOne 0x00 t i s) t [] := by
  have land := vector_landed h (by decide) hok (fun h38 => absurd h38 (by decide)) Fx.placed_nothing
  obtain ⟨-, -, -, -, -, hwf⟩ := h
  exact land.onlyLines ⟨fun _ hl => absurd hl List.not_mem_nil, rfl, rfl, rfl, rfl, rfl, rfl⟩ hwf rfl

/-- A slot that writes bytes of the near store alone. -/
theorem Landed.nearBytes {u : State} {o n : Nat} {bs : List Byte} (h : Landed s u t { near := some (o, bs) }) (hlen : bs.length = n)
    (hwf : Memory.wf s.mem = true) : readBytes u.mem (tileBase t + o) n = bs ∧ SameMemoryOutside (tileBase t + o) n s u
      ∧ (∀ x, tileAt u x = tileAt s x) ∧ u.regs = s.regs := by
  subst hlen
  have hmem : u.mem = writeBytes s.mem (tileBase t + o) bs := h.mem
  refine ⟨by rw [hmem]; exact readBytes_writeBytes hwf _ bs, fun b hb => ?_, fun x => ?_, h.quiet rfl⟩
  · rw [hmem, readCells_writeBytes hwf, if_neg (by omega)]
  · by_cases hx : x = t
    · rw [hx]
      exact h.own
    · exact h.others x hx

/-- STL's 512 bytes land in the near store, and nothing else changes. -/
theorem stl_landed (h : EngineReady s t) (hok : bundleOk s (0x39, i) nopSlot = true) :
    Landed s (runOne 0x39 t i s) t { near := some (i.imm.toNat, sourceLine s t i 0) } := by
  have hfits := near_fits (.inr rfl) hok
  have hfx : vecFx 0x39 s t i = { near := some (i.imm.toNat, sourceLine s t i 0) } := by
    rw [← elemsLine_srcElems]
    rfl
  have land := vector_landed h (by decide) hok (fun h38 => absurd h38 (by decide)) (hfx ▸ ⟨fun _ hl => absurd hl List.not_mem_nil, fun w hw => by
    rw [← Option.some.inj hw]
    omega, rfl⟩)
  rwa [hfx] at land

/-- An instruction that writes an index register alone. -/
theorem index_written {op : Nat} {v : BitVec 48} (h : EngineReady s t) (hop : op < 0xC0) (hne : op ≠ 0x38) (hok : bundleOk s (op, i) nopSlot = true)
    (hfx : vecFx op s t i = { idx := some (i.dst, v) }) :
    OnlyEngine s (runOne op t i s) t { (tileAt s t).vec with idx := (tileAt s t).vec.idx.set i.dst v } := by
  have land := vector_landed h hop hok (fun h38 => absurd h38 hne) (hfx ▸ ⟨fun _ hl => absurd hl List.not_mem_nil, fun _ hw => (nomatch hw), rfl⟩)
  rw [hfx] at land
  exact ⟨land.own, land.others, land.status, land.unwritten rfl⟩

theorem addidxFx_index (s : State) (t : Nat) (i : VIns) :
    addidxFx s t i = { idx := some (i.dst, (tileAt s t).vec.idx.getD i.dst 0 + BitVec.signExtend 48 i.imm) } := by
  rw [addidxFx, BitVec.ofNat_add, idxReg, BitVec.ofNat_toNat, BitVec.setWidth_eq, unsigned_toNat, BitVec.ofNat_toNat, BitVec.setWidth_eq]
  rfl

end

/-! ### Tallies -/

/-- A tag byte's bits are the flags it was made of (R160, R186). -/
theorem tagOf_bits (empty exact sat nonfinite stream indexed : Bool) :
    (tagOf empty exact sat nonfinite stream indexed).getLsbD tagEmpty = empty ∧ (tagOf empty exact sat nonfinite stream indexed).getLsbD tagExact = exact
      ∧ (tagOf empty exact sat nonfinite stream indexed).getLsbD tagStream = stream := by
  revert empty exact sat nonfinite stream indexed
  decide

/-- A state after one tally of tile t has been written: its value, tag and stream, and nothing else but VEC_STATUS. -/
structure TallySet (s u : State) (t k : Nat) (v : BitVec 128) (g : BitVec 8) (st : Option Stream) : Prop where
  own : ∃ m, tileAt u t = { tileAt s t with vec := (tileAt s t).vec.setTally k v g st m }
  others : ∀ x, x ≠ t → tileAt u x = tileAt s x
  status : SameRegistersBut [tileReg t 0x780800] s u
  rest : u = { s with tiles := u.tiles, regs := u.regs }

section
variable {s u : State} {t k op : Nat} {i : VIns} {v : BitVec 128} {g : BitVec 8} {st : Option Stream}

theorem TallySet.val (h : TallySet s u t k v g st) (j : Nat) : tallyVal u t j = if k = j then v else tallyVal s t j := by
  obtain ⟨m, own⟩ := h.own
  rw [tallyVal, own]
  simp only [Vec.setTally, Tab.at, Tab.find_put, tallyVal]
  split <;> rfl

theorem TallySet.tag (h : TallySet s u t k v g st) (j : Nat) : tallyTag u t j = if k = j then g else tallyTag s t j := by
  obtain ⟨m, own⟩ := h.own
  rw [tallyTag, own]
  simp only [Vec.setTally, Tab.at, Tab.find_put, tallyTag]
  split <;> rfl

theorem TallySet.stream (h : TallySet s u t k v g st) : (tileAt u t).vec.streams.find k = st := by
  obtain ⟨m, own⟩ := h.own
  rw [own]
  cases st with
  | none => exact (Tab.find_drop _ k k).trans (if_pos rfl)
  | some y => exact Tab.find_put_same _ k y

theorem TallySet.unnamed (h : TallySet s u t k v g st) : ∀ j, j ≠ k → tallyVal u t j = tallyVal s t j ∧ tallyTag u t j = tallyTag s t j :=
  fun j hj => ⟨(h.val j).trans (if_neg (Ne.symm hj)), (h.tag j).trans (if_neg (Ne.symm hj))⟩

theorem TallySet.mem (h : TallySet s u t k v g st) : u.mem = s.mem := by rw [h.rest]

/-- A slot that writes one tally. -/
theorem Landed.tally {fx : Fx} (h : Landed s u t fx) (htally : fx.tallies = [(k, v, g, st)]) (hwrites : fx.writes t = []) (hpop : fx.pop = false)
    (hpred : fx.pred = none) (hidx : fx.idx = none) : TallySet s u t k v g st := by
  have take : (tileAt s t).vec.take fx.held = (tileAt s t).vec.setTally k v g st fx.mode := by
    simp only [Vec.take, Fx.held, htally, hpred, hidx, List.foldl_cons, List.foldl_nil]
  refine ⟨⟨fx.mode, ?_⟩, h.others, h.status, h.unwritten hwrites⟩
  rw [h.own, take, hpop]
  rfl

/-- A reduction-slot instruction that writes one tally, and otherwise reports conditions only. -/
theorem reduction_tally (h : EngineReady s t) (hop : 0xC0 ≤ op) (hcd : op ≠ 0xCD) (hok : bundleOk s nopSlot (op, i) = true)
    (hnet : (tileAt s t).vec.netOpen = []) (hbad : tallyBad op s t i = false) {fl : Fl} {nf : Bool} {a : Option VAudit} {m : Nat}
    (hfx : redFx op s t i = { tallies := [(k, v, g, st)], fl := fl, nonfinite := nf, audit := a, mode := m }) :
    TallySet s (runOne op t i s) t k v g st ∧ (fl.bits = 0 → (runOne op t i s).regs = s.regs) := by
  have land := reduction_landed h hop hok hnet (fun e => absurd e hcd) hbad (by rw [hfx])
    (hfx ▸ ⟨fun _ hl => absurd hl List.not_mem_nil, fun _ hw => (nomatch hw), rfl⟩)
  rw [hfx] at land
  exact ⟨land.tally rfl rfl rfl rfl rfl, land.quiet⟩

theorem tallyBad_none (h : (tileAt s t).vec.badTallies = []) (op : Nat) (i : VIns) : tallyBad op s t i = false := by
  rw [tallyBad, h]
  exact List.any_eq_false.2 fun _ _ => Bool.false_ne_true

/-- RBCAST's result, the same in every element: the tally as it stands, or rounded. -/
def broadcastBits (s : State) (t : Nat) (i : VIns) : Nat :=
  if i.typ = 0 ∨ (i.typ = 0x22 ∧ (tallyTag s t i.srcA).getLsbD tagExact = false) then (tallyVal s t i.srcA).toNat % 2 ^ 32 else (tallyConv s t i).1.bits

theorem rbcastFx_lanes (s : State) (t : Nat) (i : VIns) : ∃ (r : FRes) (a : Option VAudit), r.bits = broadcastBits s t i ∧ rbcastFx s t i
    = { writeLanes s t i (typBytes i.typ) ((List.range (512 / typBytes i.typ)).map (fun _ => r)) with audit := a } := by
  simp only [rbcastFx, List.map_const', List.length_range]
  refine ⟨_, _, ?_, rfl⟩
  unfold broadcastBits
  by_cases hcond : i.typ = 0 ∨ (i.typ = 0x22 ∧ (tallyTag s t i.srcA).getLsbD tagExact = false)
  · rw [if_pos hcond, if_pos (by simpa using hcond)]
  · rw [if_neg hcond, if_neg (by simpa using hcond)]

/-- RBCAST fills line DST. -/
theorem rbcast_lanes (h : EngineReady s t) (hok : bundleOk s nopSlot (0xCC, i) = true) (hnet : (tileAt s t).vec.netOpen = [])
    (hbad : (tileAt s t).vec.badTallies = []) :
    LanesBecome s (runOne 0xCC t i s) t i (typBytes i.typ) (512 / typBytes i.typ) (fun _ => broadcastBits s t i)
      ∧ OnlyLines s (runOne 0xCC t i s) t [i.dst] := by
  obtain ⟨r, a, hr, hfx⟩ := rbcastFx_lanes s t i
  have hw := isWidth_typBytes i.typ
  have hd := (reduction_lines_le hok).1
  rw [writeLanes_range hw] at hfx
  have hlen := mergedLine_length (s := s) (t := t) (i := i) hw (fun _ => r.bits)
  have hfx : redFx 0xCC s t i = _ := hfx
  have land := reduction_landed h (by decide) hok hnet (fun e => absurd e (by decide)) (tallyBad_none hbad _ _) (by rw [hfx])
    (hfx ▸ (onlyTill_line hd hlen).placed)
  obtain ⟨-, -, -, -, -, hwf⟩ := h
  rw [hfx] at land
  obtain ⟨line, only, -⟩ := land.oneLine hd hlen hwf
  exact ⟨lanesBecome_of_line (line.trans (by rw [hr])), only⟩

/-! ### POPQ -/

theorem popqFx_head {e : QEntry} {rest : List QEntry} (hq : (tileAt s t).drain.queue = e :: rest) : popqFx s t i
    = { lines := [(i.dst, slice e.data 0 512)]
        tallies := [(i.imm.toNat % 64, BitVec.ofNat 128 e.hdr.toNat, 0, none),
          (i.imm.toNat % 64 + 1, if e.hdr.getLsbD 29 then BitVec.ofNat 128 (e.rowMax.toNat + e.rowSum.toNat * 2 ^ 32) else 0, 0, none)]
        pop := true } := by
  simp only [popqFx, hq]
  split <;> rfl

/-- A slot that writes line DST and two tallies and takes the queue's head. -/
theorem Landed.popped {line : List Byte} {v' : BitVec 128} (h : Landed s u t
      { lines := [(i.dst, line)], tallies := [(k, v, g, none), (k + 1, v', g, none)], pop := true }) (hlen : line.length = 512)
    (hwf : Memory.wf s.mem = true) : tillLine u t i.dst = line ∧ (tileAt u t).drain.queue = (tileAt s t).drain.queue.drop 1
      ∧ tallyVal u t k = v ∧ tallyTag u t k = g ∧ tallyVal u t (k + 1) = v' ∧ SameMemoryOutside (tillAddr t i.dst) 512 s u ∧ u.regs = s.regs := by
  have hne : k + 1 ≠ k := Nat.succ_ne_self k
  have hmem : u.mem = writeBytes s.mem (tillAddr t i.dst) line := h.mem
  have back := readBytes_writeBytes hwf (tillAddr t i.dst) line
  rw [hlen] at back
  refine ⟨by rw [tillLine, hmem]; exact back, by rw [h.own]; rfl, ?_, ?_, ?_, fun b hb => ?_, h.quiet rfl⟩
  · rw [tallyVal, h.own]
    exact (Tab.at_put_ne _ hne _ _).trans (Tab.at_put_same _ _ _ _)
  · rw [tallyTag, h.own]
    exact (Tab.at_put_ne _ hne _ _).trans (Tab.at_put_same _ _ _ _)
  · rw [tallyVal, h.own]
    exact Tab.at_put_same _ _ _ _
  · rw [hmem, readCells_writeBytes hwf, if_neg (by omega)]

/-- POPQ moves the queue's head to line DST and two tallies. -/
theorem popq_landed {e : QEntry} {rest : List QEntry} (h : EngineReady s t) (hok : bundleOk s nopSlot (0xCD, i) = true)
    (hnet : (tileAt s t).vec.netOpen = []) (hbad : (tileAt s t).vec.badTallies = []) (hq : (tileAt s t).drain.queue = e :: rest) :
    Landed s (runOne 0xCD t i s) t (popqFx s t i) := by
  have hfx := popqFx_head (i := i) hq
  refine reduction_landed (op := 0xCD) h (by decide) hok hnet (fun _ => by rw [hq]; exact List.cons_ne_nil _ _) (tallyBad_none hbad _ _)
    (congrArg Fx.mismatch hfx) (show (popqFx s t i).Placed from ?_)
  rw [hfx]
  exact ⟨fun l hl => by rw [List.mem_singleton.1 hl]; exact (reduction_lines_le hok).1, fun _ hw => (nomatch hw), rfl⟩

/-! ### RNET -/

/-- The partition of a tile's tree is the tile's own. -/
theorem netTree_part {tree q n : Nat} {x : TreeRec} (h : netTree s t tree = some (q, x, n)) : partNum s t = q := by
  unfold netTree at h
  split at h
  next => exact absurd h (by simp)
  next p hp =>
    simp only at h
    split at h
    next => exact absurd h (by simp)
    next =>
      split at h
      next => exact absurd h (by simp)
      next => rw [partNum, hp, Option.getD_some, (Prod.mk.inj (Option.some.inj h)).1]

/-- The contribution RNET sends outside a body. -/
def netContrib (s : State) (t : Nat) (i : VIns) (n : Nat) : Contrib where
  idx := n
  val := tallyVal s t i.srcA
  tag := tallyTag s t i.srcA
  mode := (tileAt s t).vec.modes.at i.srcA 0
  tick := now s

theorem rnetFx_contributes {q n : Nat} {x : TreeRec} (hbody : (tileAt s t).vec.body = none) (htree : netTree s t (i.imm.toNat % 256) = some (q, x, n))
    (htag : tagMatches x.op (tallyTag s t i.srcA) = true) : rnetFx s t i = { net := some (x.tree, netContrib s t i n, i.dst) } := by
  have htick : bodyTick s t = now s := by simp only [bodyTick, hbody]
  simp only [rnetFx, htree, htag, if_true, htick]
  rfl

/-- Outside a body a contribution joins its tree, and nothing else is written. -/
theorem applyFx_contributes (hbody : (tileAt s t).vec.body = none) (c : Nat × Contrib × Nat) :
    applyFx s t { net := some c } = modVec (contribute s t c) t (fun x => x) := by
  have hspec : specActor s t = none := by
    rw [specActor, hbody]
    rfl
  have hbody' : (tileAt (modVec (contribute s t c) t (fun x => x)) t).vec.body = none := by
    rw [modVec_own, if_pos rfl, contribute, modVec_own, if_pos rfl]
    exact hbody
  simp only [applyFx, hspec]
  exact congrArg (fun l => reportHeld (modVec (contribute s t c) t (fun x => x)) t l {}) (bodyLayer_idle hbody')

/-- A contribution's tree with it added, and the tile's list of open trees. -/
theorem contribute_joins (s : State) (t : Nat) (c : Nat × Contrib × Nat) :
    (partAt (contribute s t c) (partNum s t)).trees.at c.1 [] = (partAt s (partNum s t)).trees.at c.1 [] ++ [c.2.1]
      ∧ (tileAt (contribute s t c) t).vec.netOpen = (tileAt s t).vec.netOpen ++ [(c.1, c.2.2)]
      ∧ (∀ r, r ≠ partNum s t → partAt (contribute s t c) r = partAt s r)
      ∧ contribute s t c = { s with parts := (contribute s t c).parts, tiles := (contribute s t c).tiles } := by
  refine ⟨?_, ?_, fun r hr => ?_, rfl⟩
  · rw [contribute, (modVec_reads _ _ _ 0 0 0 0 0 0 _ 0 0).1, modPart_own, if_pos rfl]
    exact Tab.at_put_same _ _ _ _
  · rw [contribute, modVec_own, if_pos rfl]
    rfl
  · rw [contribute, (modVec_reads _ _ _ 0 0 0 0 0 0 _ 0 0).1, modPart_own, if_neg (Ne.symm hr)]

/-- RNET adds the tile's contribution to its open tree. -/
theorem rnet_contributes {q n : Nat} {x : TreeRec} (h : EngineReady s t) (hok : bundleOk s nopSlot (0xCB, i) = true)
    (hnet : (tileAt s t).vec.netOpen = []) (hbad : (tileAt s t).vec.badTallies = []) (htree : netTree s t (i.imm.toNat % 256) = some (q, x, n))
    (htag : tagMatches x.op (tallyTag s t i.srcA) = true) :
    let u := runOne 0xCB t i s
    (partAt u q).trees.at x.tree [] = (partAt s q).trees.at x.tree [] ++ [netContrib s t i n] ∧ (tileAt u t).vec.netOpen = [(x.tree, i.dst)]
      ∧ (∀ r, r ≠ q → partAt u r = partAt s r) ∧ u = { s with parts := u.parts, tiles := u.tiles } := by
  intro u
  obtain ⟨hpresent, -, hbody, -, hbanks, -⟩ := id h
  have hfx : redFx 0xCB s t i = { net := some (x.tree, netContrib s t i n, i.dst) } := rnetFx_contributes hbody htree htag
  obtain ⟨tiles, rest⟩ := applyFx_nothing (tile_lt_of_present hpresent) hbody hbanks
  have parts : ∀ r, partAt (applyFx s t {}) r = partAt s r := fun r => (congrArg (partAt · r) rest :)
  have hq : partNum (applyFx s t {}) t = q := (congrArg (partNum · t) rest :).trans (netTree_part htree)
  have hu : u = modVec (contribute (applyFx s t {}) t (x.tree, netContrib s t i n, i.dst)) t (fun y => y) := by
    have run := runOne_reduction h (by decide) hok hnet (fun e => absurd e (by decide)) (tallyBad_none hbad _ _) (by rw [hfx])
    rw [hfx, applyFx_contributes (by rw [tiles]; exact hbody)] at run
    exact run
  obtain ⟨joined, opened, others, fields⟩ := contribute_joins (applyFx s t {}) t (x.tree, netContrib s t i n, i.dst)
  rw [hq] at joined others
  refine ⟨?_, ?_, fun r hr => ?_, ?_⟩
  · rw [hu, ← parts]
    exact joined
  · rw [hu, modVec_own, if_pos rfl]
    exact opened.trans (by rw [tiles, hnet]; rfl)
  · rw [hu, ← parts]
    exact others r hr
  · rw [hu, fields, rest]
    rfl

end

end Sys2Proof.Machine

namespace Sys2Proof

open Sys2Proof.Machine

/-- Settles O34: each instruction's bundle lands its one write, a line, an index register, a tally or a tree's contribution, and nothing else. -/
theorem movesIndexRegistersAndTallies : Obligations.MovesIndexRegistersAndTallies := by
  unfold Obligations.MovesIndexRegistersAndTallies
  refine ⟨fun t i s hready => ?_, fun t i s hready hnet hbad => ?_⟩
  · refine ⟨fun hok => ?nop, fun hok hclean => ?ldl, fun hok => ?stl, fun hok hidx => ?setidx, fun hok hidx => ?addidx⟩
    case nop => exact ⟨_, rfl, nop_runs hready hok⟩
    case ldl =>
      obtain ⟨line, only, -⟩ := vector_line hready (by decide) hok (fun _ => hclean) (show vecFx 0x38 s t i = { lines := [(i.dst, _)] } from rfl)
        (by simp [readBytes])
      exact ⟨_, rfl, line, only⟩
    case stl =>
      obtain ⟨-, -, -, -, -, hwf⟩ := id hready
      exact ⟨_, rfl, (stl_landed hready hok).nearBytes (sourceLine_length s t i 0) hwf⟩
    case setidx => exact ⟨_, rfl, index_written hready (by decide) (by decide) hok rfl⟩
    case addidx => exact ⟨_, rfl, index_written hready (by decide) (by decide) hok (addidxFx_index s t i)⟩
  · refine ⟨fun hok => ?rcvt, fun q x k hok htree htag => ?rnet, fun hok => ?rbcast, fun e rest hok hq => ?popq, fun hok => ?rclr⟩
    case rcvt =>
      obtain ⟨set, -⟩ := reduction_tally (op := 0xCA) hready (by decide) (by decide) hok hnet (tallyBad_none hbad _ _) rfl
      refine ⟨_, rfl, ?_, ?_, ?_, set.unnamed, set.status, set.mem⟩
      · rw [set.val, if_pos rfl]
      · rw [set.tag, if_pos rfl]; exact (tagOf_bits _ _ _ _ _ _).2.1
      · rw [set.tag, if_pos rfl]; exact (tagOf_bits _ _ _ _ _ _).1
    case rnet => exact ⟨_, rfl, rnet_contributes hready hok hnet hbad htree htag⟩
    case rbcast => exact ⟨_, rfl, rbcast_lanes hready hok hnet hbad⟩
    case popq =>
      have land := popq_landed hready hok hnet hbad hq
      obtain ⟨-, -, -, -, -, hwf⟩ := hready
      rw [popqFx_head hq] at land
      have popped := land.popped (slice_length e.data 0 512) hwf
      rw [hq] at popped
      exact ⟨_, rfl, popped⟩
    case rclr =>
      obtain ⟨set, quiet⟩ := reduction_tally (op := 0xCE) (k := i.dst) (fl := {}) hready (by decide) (by decide) hok hnet (tallyBad_none hbad _ _) rfl
      refine ⟨_, rfl, ?_, ?_, set.stream, set.unnamed, set.mem, quiet rfl⟩
      · rw [set.val, if_pos rfl]
      · rw [set.tag, if_pos rfl]

end Sys2Proof
end


section
/-! SUPPORT. The canonical tree as a fold, and a reduction of one line (R161 to R163). -/

namespace Sys2Proof.Machine

/-! ### The tree of an associative operation -/

section
variable {β : Type} {g : β → β → β}

theorem merge_assoc (hg : ∀ a b c, g (g a b) c = g a (g b c)) (x y z : Option β) :
    Option.merge g (Option.merge g x y) z = Option.merge g x (Option.merge g y z) := by
  cases x with
  | none => rw [Option.merge_none_left, Option.merge_none_left]
  | some a =>
    cases y with
    | none => rw [Option.merge_none_left, Option.merge_none_right]
    | some b =>
      cases z with
      | none => rw [Option.merge_none_right, Option.merge_none_right]
      | some c => exact congrArg some (hg a b c)

/-- Values that may be absent, put together from the first to the last. -/
def mergeAll (g : β → β → β) (l : List (Option β)) : Option β := l.foldr (Option.merge g) none

variable {f : RNode → RNode → RNode × Fl} {val : RNode → β}

/-- What two nodes make, read as values. -/
theorem redJoin_val (hf : ∀ x y, val (f x y).1 = g (val x) (val y)) (l r : Option RNode) :
    (redJoin f l r).1.map val = Option.merge g (l.map val) (r.map val) := by
  cases l with
  | none => exact Option.merge_none_left.symm
  | some x =>
    cases r with
    | none => rfl
    | some y => exact congrArg some (hf x y)

/-- A level of the tree keeps what the leaves make together. -/
theorem treeLevel_val (hf : ∀ x y, val (f x y).1 = g (val x) (val y)) (hg : ∀ a b c, g (g a b) c = g a (g b c)) (l : List (Option RNode)) :
    mergeAll g ((treeLevel f l).1.map (Option.map val)) = mergeAll g (l.map (Option.map val)) := by
  induction l using treeLevel.induct (f := f) with
  | case1 => rfl
  | case2 x => rfl
  | case3 x y l ih =>
    have step : mergeAll g ((treeLevel f (x :: y :: l)).1.map (Option.map val))
        = Option.merge g (Option.merge g (x.map val) (y.map val)) (mergeAll g ((treeLevel f l).1.map (Option.map val))) :=
      congrArg (fun z => Option.merge g z _) (redJoin_val hf x y)
    rw [step, ih, merge_assoc hg]
    rfl

theorem treeLevel_length (l : List (Option RNode)) : (treeLevel f l).1.length = (l.length + 1) / 2 := by
  induction l using treeLevel.induct (f := f) with
  | case1 => rfl
  | case2 x => simp [treeLevel]
  | case3 x y l ih =>
    have step : (treeLevel f (x :: y :: l)).1.length = (treeLevel f l).1.length + 1 := rfl
    rw [step, ih, List.length_cons, List.length_cons]
    omega

theorem headD_val {l : List (Option RNode)} (h : l.length ≤ 1) : (l.headD none).map val = mergeAll g (l.map (Option.map val)) := by
  match l with
  | [] => rfl
  | [x] => exact Option.merge_none_right.symm

/-- The root of the canonical tree is what its leaves make together, where the operation is associative (R161). -/
theorem treeOfLeaves_val (hf : ∀ x y, val (f x y).1 = g (val x) (val y)) (hg : ∀ a b c, g (g a b) c = g a (g b c)) (fuel : Nat)
    (l : List (Option RNode)) (hl : l.length ≤ 2 ^ fuel) : (treeOfLeaves f fuel l).1.map val = mergeAll g (l.map (Option.map val)) := by
  induction fuel generalizing l with
  | zero => exact headD_val hl
  | succ fuel ih =>
    unfold treeOfLeaves
    split
    next h => exact headD_val h
    next h =>
      rw [Nat.pow_succ] at hl
      exact (ih _ (by rw [treeLevel_length]; omega)).trans (treeLevel_val hf hg l)

/-- Present values put together are their fold, from the operation's identity. -/
theorem mergeAll_present (hg : ∀ a b c, g (g a b) c = g a (g b c)) {e : β} (hl : ∀ a, g e a = a) (hr : ∀ a, g a e = a)
    (on : Nat → Bool) (v : Nat → β) (l : List Nat) : mergeAll g (l.map (fun k => if on k then some (v k) else none))
      = if (l.filter on).isEmpty then none else some (((l.filter on).map v).foldl g e) := by
  have assoc : Std.Associative g := ⟨hg⟩
  induction l with
  | nil => rfl
  | cons k l ih =>
    have step : mergeAll g ((k :: l).map (fun k => if on k then some (v k) else none))
        = Option.merge g (if on k then some (v k) else none) (mergeAll g (l.map (fun k => if on k then some (v k) else none))) := rfl
    rw [step, ih, List.filter_cons]
    by_cases hk : on k = true
    · rw [if_pos hk, if_pos hk, List.isEmpty_cons, if_neg Bool.false_ne_true, List.map_cons, List.foldl_cons, hl]
      split
      next hnil => rw [List.isEmpty_iff.1 hnil, Option.merge_none_right]; rfl
      next =>
        refine congrArg some ?_
        exact (List.foldl_assoc (op := g)).symm.trans (congrArg (fun a => List.foldl g a _) (hr (v k)))
    · rw [if_neg hk, if_neg hk, Option.merge_none_left]

end

/-! ### A line's leaves, and what a reduction of it writes -/

section
variable {s u : State} {t op : Nat} {i : VIns}

/-- The width of a reduction's elements. -/
def redWidth (int : Bool) (i : VIns) : Nat := if int then 4 else typBytes i.typ

theorem isWidth_redWidth (int : Bool) (i : VIns) : IsWidth (redWidth int i) := by
  cases int
  · exact isWidth_typBytes i.typ
  · exact isWidth_four

theorem redLeaves_lanes (s : State) (t op : Nat) (i : VIns) (int : Bool) (base : Nat) : (redLeaves s t op i int base).1
    = (List.range (512 / redWidth int i)).map (fun k =>
      if laneOn s t i k then some (redLeaf op i int ((base + k) % 2 ^ 32) (source s t i 0 (redWidth int i) k)).1 else none) := by
  have elems : redElems s t i int = (List.range (512 / redWidth int i)).map (source s t i 0 (redWidth int i)) :=
    srcElems_range s t i 0 (isWidth_redWidth int i)
  simp only [redLeaves]
  rw [elems, List.length_map, List.length_range, laneMask_range, zip_map_range, withPos_map_range, List.map_map, List.map_map]
  refine List.map_congr_left fun k _ => ?_
  simp only [Function.comp_apply]
  split <;> rfl

/-- A SINGLE or FIRST phase opens a stream of its own. -/
def newStream (s : State) (t op : Nat) (i : VIns) : Stream := { op := op, typ := i.typ, intLanes := i.sub.testBit 2, base := idxReg s t i.idxr }

theorem streamFor_new (h : i.sub % 4 = 0 ∨ i.sub % 4 = 1) : streamFor s t op i = newStream s t op i := by
  have hphase : (decide (i.sub % 4 = 2) || decide (i.sub % 4 = 3)) = false := by
    rcases h with h | h <;> rw [h] <;> rfl
  unfold streamFor
  split
  · rfl
  · simp only [hphase, Bool.false_and, Bool.false_eq_true, if_false]
    rfl

/-- A MIDDLE or LAST phase continues the stream its row opened. -/
theorem streamFor_open {x : Stream} (h : i.sub % 4 = 2 ∨ i.sub % 4 = 3) (hx : (tileAt s t).vec.streams.find i.dst = some x) (hop : x.op = op)
    (htyp : x.typ = i.typ) (hint : x.intLanes = i.sub.testBit 2) : streamFor s t op i = x := by
  have hphase : (decide (i.sub % 4 = 2) || decide (i.sub % 4 = 3)) = true := by
    rcases h with h | h <;> rw [h] <;> rfl
  unfold streamFor
  rw [hx]
  simp only [hphase, hop, htyp, hint, decide_true, Bool.and_self, if_true]

/-- Phases FIRST and MIDDLE leave the stream open with one line more (R161). -/
theorem lineFx_open (h : i.sub % 4 = 1 ∨ i.sub % 4 = 2) : ∃ v stack fl, lineFx op s t i
    = { tallies := [(i.dst, v, tagOf false (op = 0xC9) false false true (isArg op),
          some { streamFor s t op i with stack := stack, lines := (streamFor s t op i).lines + 1 })]
        fl := fl
        mode := modeOf i } := by
  have hphase : (decide (i.sub % 4 = 0) || decide (i.sub % 4 = 3)) = false := by
    rcases h with h | h <;> rw [h] <;> rfl
  simp only [lineFx, hphase, Bool.false_eq_true, if_false]
  exact ⟨_, _, _, rfl⟩

/-- Phases SINGLE and LAST close it on some root. -/
theorem lineFx_closed (h : i.sub % 4 = 0 ∨ i.sub % 4 = 3) : ∃ x fl nf, lineFx op s t i
    = { tallies := [(i.dst, (redResult op (redInt op i.typ) x).1, (redResult op (redInt op i.typ) x).2.1, none)]
        fl := fl
        nonfinite := nf
        mode := modeOf i } := by
  have hphase : (decide (i.sub % 4 = 0) || decide (i.sub % 4 = 3)) = true := by
    rcases h with h | h <;> rw [h] <;> rfl
  simp only [lineFx, hphase, if_true]
  exact ⟨_, _, _, rfl⟩

/-- The root of one line's tree (R161, R162). -/
def lineRoot (s : State) (t op : Nat) (i : VIns) : Option RNode :=
  (treeOfLeaves (redNode op i.rnd i.ftz (redInt op i.typ) false) 8 (redLeaves s t op i (redInt op i.typ) (idxReg s t i.idxr)).1).1

theorem redJoin_none_right (f : RNode → RNode → RNode × Fl) (x : Option RNode) : (redJoin f x none).1 = x := by cases x <;> rfl

/-- In phase SINGLE an opcode but RXSUM leaves the root of its line's tree. -/
theorem lineFx_single (hne : op ≠ 0xC9) (h : i.sub % 4 = 0) : ∃ fl nf, lineFx op s t i
    = { tallies := [(i.dst, (redResult op (redInt op i.typ) (lineRoot s t op i)).1, (redResult op (redInt op i.typ) (lineRoot s t op i)).2.1, none)]
        fl := fl
        nonfinite := nf
        mode := modeOf i } := by
  have hphase : (decide (i.sub % 4 = 0) || decide (i.sub % 4 = 3)) = true := by rw [h]; rfl
  simp only [lineFx, hphase, streamFor_new (.inl h), newStream, hne, if_true, if_false, List.reverse_nil, pushTree, List.reverse_singleton, closeTree,
    List.foldl_cons, List.foldl_nil, redJoin_none_right, Nat.zero_mul, Nat.add_zero]
  exact ⟨_, _, rfl⟩

theorem redFx_line (h1 : 0xC0 ≤ op) (h2 : op ≤ 0xC9) : redFx op s t i = lineFx op s t i := by
  unfold redFx
  split
  case h_6 => exact if_pos ⟨h1, h2⟩
  all_goals omega

/-- A reduction that continues no stream reads no tally. -/
theorem tallyBad_new (h2 : op ≤ 0xC9) (h : i.sub % 4 = 0 ∨ i.sub % 4 = 1) : tallyBad op s t i = false := by
  have hmoves : (decide (op = 0xCA) || decide (op = 0xCB) || decide (op = 0xCC)) = false := by
    simp only [Bool.or_eq_false_iff, decide_eq_false_iff_not]
    omega
  have hsources : redSources op s t i = [] := by
    simp only [redSources, hmoves, streamFor_new h, newStream, List.isEmpty_nil, Bool.not_true, Bool.and_false, Bool.false_eq_true, if_false]
  rw [tallyBad, hsources]
  rfl

theorem redResult_tag (op : Nat) (int : Bool) (x : Option RNode) : (redResult op int x).2.1.getLsbD tagEmpty = x.isNone
    ∧ (redResult op int x).2.1.getLsbD tagExact = decide (op = 0xC9) ∧ (redResult op int x).2.1.getLsbD tagStream = false := by
  cases x <;> exact tagOf_bits _ _ _ _ _ _

/-- A tally set with no stream open on it, as the statements of the reductions say it. -/
theorem TallySet.becomes {v : BitVec 128} {g : BitVec 8} {empty : Bool} (h : TallySet s u t i.dst v g none) (hempty : g.getLsbD tagEmpty = empty)
    (hstream : g.getLsbD tagStream = false) : TallyBecomes s u t i v empty := by
  obtain ⟨m, own⟩ := h.own
  refine ⟨(h.val _).trans (if_pos rfl), ?_, ?_, h.stream, h.unnamed, by rw [own]; rfl, by rw [own]; rfl, h.others, h.status, h.rest⟩
  · rw [h.tag, if_pos rfl, hempty]
  · rw [h.tag, if_pos rfl, hstream]

/-- A reduction of one line, but RXSUM, leaves its root as a tally holds it. -/
theorem single_becomes (hready : EngineReady s t) (h1 : 0xC0 ≤ op) (h2 : op < 0xC9) (hok : bundleOk s nopSlot (op, i) = true)
    (hnet : (tileAt s t).vec.netOpen = []) (hphase : i.sub % 4 = 0) :
    TallyBecomes s (runOne op t i s) t i (redResult op (redInt op i.typ) (lineRoot s t op i)).1 (lineRoot s t op i).isNone := by
  obtain ⟨fl, nf, hfx⟩ := lineFx_single (s := s) (t := t) (Nat.ne_of_lt h2) hphase
  obtain ⟨set, -⟩ := reduction_tally hready h1 (by omega) hok hnet (tallyBad_new (by omega) (.inl hphase)) ((redFx_line h1 (by omega)).trans hfx)
  obtain ⟨hempty, -, hstream⟩ := redResult_tag op (redInt op i.typ) (lineRoot s t op i)
  exact set.becomes hempty hstream

end

end Sys2Proof.Machine
end


section
/-! SUPPORT. Reductions of integers, of typed lanes, exact sums and streams (R160 to R164). -/

namespace Sys2Proof.Machine

/-! ### Integer operations as folds (R162, R163) -/

theorem signed_ofNat (n : Nat) : signed 32 n = (BitVec.ofNat 32 n).toInt := by
  rw [← signed_toNat, BitVec.toNat_ofNat]
  simp only [signed, Nat.mod_mod]

/-- A node's value as 32 bits. -/
def nodeBits (x : RNode) : BitVec 32 := BitVec.ofNat 32 x.val.toNat

theorem nodeBits_mod (n p : Nat) : nodeBits { val := ((n % 2 ^ 32 : Nat) : Int), pos := p } = BitVec.ofNat 32 n := by
  refine BitVec.eq_of_toNat_eq ?_
  rw [nodeBits, Int.toNat_natCast, BitVec.toNat_ofNat, BitVec.toNat_ofNat, Nat.mod_mod]

/-- An opcode over integers is the fold of an associative operation with an identity: each node of two is it, each leaf the operation's
reading of the element, and a tally holds the value alone. -/
structure FoldsAs (op : Nat) (e : BitVec 32) (g : BitVec 32 → BitVec 32 → BitVec 32) (leaf : BitVec 32 → BitVec 32) : Prop where
  line : 0xC0 ≤ op ∧ op < 0xC9 ∧ isArg op = false
  node : ∀ mode ftz x y, nodeBits (redNode op mode ftz true false x y).1 = g (nodeBits x) (nodeBits y)
  leaf : ∀ i p x, x < 2 ^ 32 → nodeBits (redLeaf op i true p x).1 = leaf (BitVec.ofNat 32 x)
  assoc : ∀ a b c, g (g a b) c = g a (g b c)
  identity : BitVec.ofNat 32 (redIdentity op true).toNat = e
  left : ∀ a, g e a = a
  right : ∀ a, g a e = a

theorem tallyBits_node {op : Nat} (h : op ≠ 0xC9) (harg : isArg op = false) (x : RNode) : tallyBits op x = (nodeBits x).setWidth 128 := by
  refine BitVec.eq_of_toNat_eq ?_
  rw [tallyBits, if_neg h, if_neg (by rw [harg]; exact Bool.false_ne_true), nodeBits, BitVec.toNat_ofNat, BitVec.toNat_setWidth, BitVec.toNat_ofNat]

section
variable {op : Nat} {e : BitVec 32} {g : BitVec 32 → BitVec 32 → BitVec 32} {leaf : BitVec 32 → BitVec 32}

/-- The root over integer lanes is their fold. -/
theorem FoldsAs.root (h : FoldsAs op e g leaf) {s : State} {t : Nat} {i : VIns} (hint : redInt op i.typ = true) : (lineRoot s t op i).map nodeBits
    = if (presentLanes s t i).isEmpty then none else some ((presentLanes s t i).foldl (fun a b => g a (leaf b)) e) := by
  have leaves : (redLeaves s t op i true (idxReg s t i.idxr)).1.map (Option.map nodeBits)
      = (List.range 128).map (fun k => if laneOn s t i k then some (leaf (sourceBits s t i 0 k)) else none) := by
    rw [redLeaves_lanes, List.map_map, show 512 / redWidth true i = 128 by simp [redWidth]]
    refine List.map_congr_left fun k _ => ?_
    rw [Function.comp_apply]
    split
    · exact congrArg some (h.leaf _ _ _ (source_lt s t i 0 4 k))
    · rfl
  have depth : (redLeaves s t op i true (idxReg s t i.idxr)).1.length ≤ 2 ^ 8 := by
    rw [redLeaves_lanes, List.length_map, List.length_range]
    exact (by decide : 512 / 4 ≤ 2 ^ 8)
  rw [lineRoot, hint, treeOfLeaves_val (h.node _ _) h.assoc 8 _ depth, leaves, mergeAll_present h.assoc h.left h.right,
    presentLanes, List.isEmpty_map, List.foldl_map, List.foldl_map]
  rfl

/-- What closes a reduction of integers, read off its root. -/
theorem FoldsAs.result (h : FoldsAs op e g leaf) (x : Option RNode) : (redResult op true x).1 = ((x.map nodeBits).getD e).setWidth 128 := by
  obtain ⟨-, hlt, harg⟩ := h.line
  cases x with
  | none => exact (tallyBits_node (Nat.ne_of_lt hlt) harg _).trans (congrArg _ h.identity)
  | some n => exact tallyBits_node (Nat.ne_of_lt hlt) harg n

/-- Such an opcode folds its operation over the elements that take part. -/
theorem FoldsAs.reduces (h : FoldsAs op e g leaf) {c : Nat → VIns → Instr} (hexec : ∀ t i s, exec (c t i) s = .next (runOne op t i s)) :
    IntReduce c op e (fun a b => g a (leaf b)) := by
  intro t i s hready hok hnet hint hphase
  obtain ⟨hge, hlt, -⟩ := h.line
  have tally := single_becomes hready hge hlt hok hnet hphase
  have root := h.root (s := s) (t := t) hint
  have empty : (lineRoot s t op i).isNone = (presentLanes s t i).isEmpty := by
    rw [← Option.isNone_map (f := nodeBits), root]
    cases (presentLanes s t i).isEmpty <;> rfl
  have value : (redResult op true (lineRoot s t op i)).1 = ((presentLanes s t i).foldl (fun a b => g a (leaf b)) e).setWidth 128 := by
    rw [h.result, root]
    split
    next hnil => rw [List.isEmpty_iff.1 hnil]; rfl
    next => rfl
  rw [hint, value, empty] at tally
  exact ⟨_, hexec t i s, tally⟩

end

/-- An integer element is itself a leaf but for RCOUNT. -/
theorem redLeaf_bits {op : Nat} (h9 : op ≠ 0xC9) (h6 : op ≠ 0xC6) (i : VIns) (p x : Nat) : nodeBits (redLeaf op i true p x).1 = BitVec.ofNat 32 x := by
  rw [redLeaf, if_neg h9, if_neg h6]
  rfl

section
variable {key : BitVec 32 → Int} {lt : BitVec 32 → BitVec 32 → Bool}

/-- The extreme of two values under a key, the first of equal ones. -/
def extreme (lt : BitVec 32 → BitVec 32 → Bool) (a b : BitVec 32) : BitVec 32 := if lt a b then b else a

theorem extreme_assoc (hlt : ∀ a b, lt a b = true ↔ key a < key b) (a b c : BitVec 32) :
    extreme lt (extreme lt a b) c = extreme lt a (extreme lt b c) := by
  have hab := hlt a b
  have hbc := hlt b c
  have hac := hlt a c
  by_cases h1 : lt a b = true <;> by_cases h2 : lt b c = true <;> simp only [extreme, h1, h2, if_true] <;> grind

theorem extreme_right (hlt : ∀ a b, lt a b = true ↔ key a < key b) {e : BitVec 32} (he : ∀ a, key e ≤ key a) (a : BitVec 32) : extreme lt a e = a :=
  if_neg fun h => Int.not_lt.2 (he a) ((hlt a e).1 h)

theorem extreme_left (hlt : ∀ a b, lt a b = true ↔ key a < key b) (hkey : ∀ a b, key a = key b → a = b) {e : BitVec 32} (he : ∀ a, key e ≤ key a)
    (a : BitVec 32) : extreme lt e a = a := by
  unfold extreme
  split
  · rfl
  next h => exact hkey e a (Int.le_antisymm (he a) (Int.not_lt.1 (mt (hlt e a).2 h)))

end

theorem foldsAs_sum : FoldsAs 0xC0 0 (fun a b => a + b) id where
  line := by decide
  node _ _ _ _ := (nodeBits_mod _ _).trans (BitVec.ofNat_add _ _)
  leaf i p x _ := redLeaf_bits (by decide) (by decide) i p x
  assoc := BitVec.add_assoc
  identity := rfl
  left := BitVec.zero_add
  right := BitVec.add_zero

theorem foldsAs_prod : FoldsAs 0xC1 1 (fun a b => a * b) id where
  line := by decide
  node _ _ _ _ := (nodeBits_mod _ _).trans (BitVec.ofNat_mul _ _)
  leaf i p x _ := redLeaf_bits (by decide) (by decide) i p x
  assoc := BitVec.mul_assoc
  identity := rfl
  left := BitVec.one_mul
  right := BitVec.mul_one

theorem slt_iff_lt (a b : BitVec 32) : a.slt b = true ↔ a.toInt < b.toInt := BitVec.slt_iff_toInt_lt

theorem extreme_slt (a b : BitVec 32) : extreme (fun a b => a.slt b) a b = if a.toInt < b.toInt then b else a := by
  simp only [extreme, slt_iff_lt]

theorem intMin_le (a : BitVec 32) : (0x80000000 : BitVec 32).toInt ≤ a.toInt := BitVec.le_toInt a

theorem foldsAs_max : FoldsAs 0xC2 0x80000000 (extreme fun a b => a.slt b) id where
  line := by decide
  node _ _ x y := (nodeBits_mod _ _).trans (by
    rw [extreme_slt, apply_ite (BitVec.ofNat 32), signed_ofNat, signed_ofNat]
    rfl)
  leaf i p x _ := redLeaf_bits (by decide) (by decide) i p x
  assoc := extreme_assoc slt_iff_lt
  identity := rfl
  left := extreme_left slt_iff_lt (fun _ _ => BitVec.eq_of_toInt_eq) intMin_le
  right := extreme_right slt_iff_lt intMin_le

theorem slt_iff_neg_lt (a b : BitVec 32) : b.slt a = true ↔ -a.toInt < -b.toInt := BitVec.slt_iff_toInt_lt.trans Int.neg_lt_neg_iff.symm

theorem extreme_sgt (a b : BitVec 32) : extreme (fun a b => b.slt a) a b = if b.toInt < a.toInt then b else a := by
  simp only [extreme, slt_iff_lt]

theorem neg_intMax_le (a : BitVec 32) : -(0x7FFFFFFF : BitVec 32).toInt ≤ -a.toInt := Int.neg_le_neg (BitVec.toInt_le (x := a))

theorem foldsAs_min : FoldsAs 0xC3 0x7FFFFFFF (extreme fun a b => b.slt a) id where
  line := by decide
  node _ _ x y := (nodeBits_mod _ _).trans (by
    rw [extreme_sgt, apply_ite (BitVec.ofNat 32), signed_ofNat, signed_ofNat]
    rfl)
  leaf i p x _ := redLeaf_bits (by decide) (by decide) i p x
  assoc := extreme_assoc slt_iff_neg_lt
  identity := rfl
  left := extreme_left slt_iff_neg_lt (fun _ _ h => BitVec.eq_of_toInt_eq (Int.neg_inj.1 h)) neg_intMax_le
  right := extreme_right slt_iff_neg_lt neg_intMax_le

/-- RCOUNT's leaf: an element that is not zero counts one. -/
theorem countLeaf_bits (i : VIns) (p x : Nat) (hx : x < 2 ^ 32) :
    nodeBits (redLeaf 0xC6 i true p x).1 = if BitVec.ofNat 32 x = 0 then 0 else 1 := by
  have zero : BitVec.ofNat 32 x = 0 ↔ x = 0 := by
    rw [← BitVec.toNat_inj, BitVec.toNat_ofNat, Nat.mod_eq_of_lt hx]
    rfl
  by_cases h : x = 0
  · rw [if_pos (zero.2 h), h]; rfl
  · rw [if_neg (mt zero.1 h), redLeaf, if_neg (by decide), if_pos rfl]
    simp only [h, if_false]
    rfl

theorem foldsAs_count : FoldsAs 0xC6 0 (fun a b => a + b) (fun b => if b = 0 then 0 else 1) where
  line := by decide
  node _ _ _ _ := (nodeBits_mod _ _).trans (BitVec.ofNat_add _ _)
  leaf := countLeaf_bits
  assoc := BitVec.add_assoc
  identity := rfl
  left := BitVec.zero_add
  right := BitVec.add_zero

theorem foldsAs_and : FoldsAs 0xC7 0xFFFFFFFF (fun a b => a &&& b) id where
  line := by decide
  node _ _ _ _ := (nodeBits_mod _ _).trans BitVec.ofNat_and
  leaf i p x _ := redLeaf_bits (by decide) (by decide) i p x
  assoc := BitVec.and_assoc
  identity := rfl
  left _ := BitVec.allOnes_and
  right _ := BitVec.and_allOnes

theorem foldsAs_or : FoldsAs 0xC8 0 (fun a b => a ||| b) id where
  line := by decide
  node _ _ _ _ := (nodeBits_mod _ _).trans BitVec.ofNat_or
  leaf i p x _ := redLeaf_bits (by decide) (by decide) i p x
  assoc := BitVec.or_assoc
  identity := rfl
  left _ := BitVec.zero_or
  right _ := BitVec.or_zero

/-! ### Typed lanes (R161) -/

section
variable {s : State} {t op : Nat} {i : VIns}

theorem redLeaves_float (h9 : op ≠ 0xC9) (h6 : op ≠ 0xC6) (s : State) (t : Nat) (i : VIns) (base : Nat) :
    (redLeaves s t op i false base).1 = floatLeaves s t i base := by
  rw [redLeaves_lanes]
  refine List.map_congr_left fun k _ => ?_
  rw [redLeaf, if_neg h9, if_neg h6]
  rfl

theorem floatReduce_root {c : Nat → VIns → Instr} (hexec : ∀ t i s, exec (c t i) s = .next (runOne op t i s)) (h1 : 0xC0 ≤ op) (h2 : op ≤ 0xC5) :
    FloatReduce c op := by
  intro t i s hready hok hnet hint hphase
  have tally := single_becomes hready h1 (by omega) hok hnet hphase
  rw [lineRoot, hint, redLeaves_float (by omega) (by omega)] at tally
  exact ⟨_, hexec t i s, tally⟩

/-! ### The exact sum (R164) -/

/-- RXSUM is over typed lanes. -/
theorem rxsum_typed (hok : bundleOk s nopSlot (0xC9, i) = true) : redInt 0xC9 i.typ = false := by
  obtain ⟨-, hfield, -⟩ := bundleOk_fields hok
  simp only [insField, Bool.and_eq_true] at hfield
  obtain ⟨⟨⟨⟨⟨⟨⟨htyp, -⟩, -⟩, -⟩, -⟩, -⟩, -⟩, -⟩ := hfield
  have typed : isFloatTyp i.typ = true := htyp
  have : i.typ ≠ 0 := fun h => by rw [h] at typed; exact absurd typed (by decide)
  simp [redInt, this]

/-- A node joined to an exact sum. -/
def joinExact (i : VIns) (a l : Option RNode) : Option RNode := (redJoin (redNode 0xC9 i.rnd i.ftz false false) a l).1

theorem lineFx_exact (hint : redInt 0xC9 i.typ = false) (h : i.sub % 4 = 0) : ∃ fl nf, lineFx 0xC9 s t i
    = { tallies := [(i.dst, (redResult 0xC9 false ((redLeaves s t 0xC9 i false (idxReg s t i.idxr)).1.foldl (joinExact i) none)).1,
          (redResult 0xC9 false ((redLeaves s t 0xC9 i false (idxReg s t i.idxr)).1.foldl (joinExact i) none)).2.1, none)]
        fl := fl
        nonfinite := nf
        mode := modeOf i } := by
  have hphase : (decide (i.sub % 4 = 0) || decide (i.sub % 4 = 3)) = true := by rw [h]; rfl
  simp only [lineFx, hphase, hint, streamFor_new (.inl h), newStream, if_true, Nat.zero_mul, Nat.add_zero, List.headD_cons]
  exact ⟨_, _, rfl⟩

/-- Within A128's range a sum is exact. -/
theorem addExact_val {x y : RNode} (hlo : -(2 ^ 127) ≤ x.val + y.val) (hhi : x.val + y.val ≤ 2 ^ 127 - 1) : (addExact x y).val = x.val + y.val := by
  simp only [addExact, clamp]
  rw [if_neg (by omega), if_neg (by omega)]

/-- The sum of the elements that take part. -/
def sumOfLanes (on : Nat → Bool) (v : Nat → RNode) (l : List Nat) : Int := (l.filter on).foldl (fun a k => a + (v k).val) 0

theorem sumOfLanes_append (on : Nat → Bool) (v : Nat → RNode) (l : List Nat) (k : Nat) :
    sumOfLanes on v (l ++ [k]) = if on k then sumOfLanes on v l + (v k).val else sumOfLanes on v l := by
  rw [sumOfLanes, List.filter_append, List.foldl_append, List.filter_singleton]
  cases on k <;> rfl

/-- n leaves of at most 120 bits make a sum that n leaves bound. -/
theorem sumOfLanes_bound {on : Nat → Bool} {v : Nat → RNode} {l : List Nat} (hv : ∀ k ∈ l, -(2 ^ 119) ≤ (v k).val ∧ (v k).val < 2 ^ 119) :
    -(2 ^ 119 * (l.length : Int)) ≤ sumOfLanes on v l ∧ sumOfLanes on v l ≤ (2 ^ 119 - 1) * (l.length : Int) := by
  induction l using List.reverseRecOn with
  | nil => exact ⟨Int.le_refl 0, Int.le_refl 0⟩
  | append_singleton l k ih =>
    obtain ⟨hlo, hhi⟩ := ih fun j hj => hv j (List.mem_append_left _ hj)
    obtain ⟨klo, khi⟩ := hv k (List.mem_append_right _ (List.mem_singleton_self k))
    rw [sumOfLanes_append, List.length_append, List.length_singleton]
    push_cast
    split <;> constructor <;> omega

/-- The leaves of a line, joined from the first to the last, make their exact sum: 256 of 120 bits never leave A128. -/
theorem joinExact_fold {on : Nat → Bool} {v : Nat → RNode} {l : List Nat} (hlen : l.length ≤ 256)
    (hv : ∀ k ∈ l, -(2 ^ 119) ≤ (v k).val ∧ (v k).val < 2 ^ 119) :
    (((l.map fun k => if on k then some (v k) else none).foldl (joinExact i) none).map RNode.val).getD 0 = sumOfLanes on v l
    ∧ ((l.map fun k => if on k then some (v k) else none).foldl (joinExact i) none).isNone = l.all (fun k => !on k) := by
  induction l using List.reverseRecOn with
  | nil => exact ⟨rfl, rfl⟩
  | append_singleton l k ih =>
    have bound := sumOfLanes_bound (on := on) hv
    rw [List.length_append, List.length_singleton] at hlen bound
    obtain ⟨value, empty⟩ := ih (by omega) fun j hj => hv j (List.mem_append_left _ hj)
    rw [sumOfLanes_append] at bound
    rw [List.map_append, List.foldl_append, List.all_append, sumOfLanes_append, ← value, ← empty, List.map_singleton, List.foldl_cons, List.foldl_nil]
    rw [← value] at bound
    by_cases hk : on k = true
    · simp only [hk, if_true] at bound ⊢
      cases hacc : (l.map fun k => if on k then some (v k) else none).foldl (joinExact i) none with
      | none => exact ⟨(Int.zero_add _).symm, by simp [joinExact, redJoin, hk]⟩
      | some a =>
        rw [hacc] at bound
        have sum : (addExact a (v k)).val = a.val + (v k).val := addExact_val (by have := bound.1; simp at this; omega) (by have := bound.2; simp at this; omega)
        exact ⟨sum, rfl⟩
    · simp [joinExact, redJoin_none_right, hk]

/-- An exact sum as a tally holds it. -/
theorem redResult_exact (x : Option RNode) : (redResult 0xC9 false x).1 = BitVec.ofInt 128 ((x.map RNode.val).getD 0) := by
  have bits (n : RNode) : tallyBits 0xC9 n = BitVec.ofInt 128 n.val := by
    rw [tallyBits, if_pos rfl, unsigned_toNat, BitVec.ofNat_toNat, BitVec.setWidth_eq]
  cases x <;> exact bits _

theorem IsWidth.lanes {w : Nat} (h : IsWidth w) : 512 / w ≤ 256 := by rcases h with rfl | rfl <;> decide

/-- RXSUM over one line leaves the exact sum of its elements that take part (R164). -/
theorem rxsum_single (hready : EngineReady s t) (hnet : (tileAt s t).vec.netOpen = []) (hok : bundleOk s nopSlot (0xC9, i) = true) (hphase : i.sub % 4 = 0)
    (hv : ∀ k, k < 512 / typBytes i.typ → -(2 ^ 119) ≤ (exactLeaf i (source s t i 0 (typBytes i.typ) k)).1.val
      ∧ (exactLeaf i (source s t i 0 (typBytes i.typ) k)).1.val < 2 ^ 119) :
    TallyBecomes s (runOne 0xC9 t i s) t i
        (BitVec.ofInt 128 (sumOfLanes (laneOn s t i) (fun k => (exactLeaf i (source s t i 0 (typBytes i.typ) k)).1) (List.range (512 / typBytes i.typ))))
        ((List.range (512 / typBytes i.typ)).all (fun k => !laneOn s t i k))
      ∧ (tallyTag (runOne 0xC9 t i s) t i.dst).getLsbD tagExact = true := by
  obtain ⟨fl, nf, hfx⟩ := lineFx_exact (s := s) (t := t) (rxsum_typed hok) hphase
  obtain ⟨set, -⟩ := reduction_tally hready (by decide) (by decide) hok hnet (tallyBad_new (by decide) (.inl hphase))
    ((redFx_line (by decide) (by decide)).trans hfx)
  have leaves : (redLeaves s t 0xC9 i false (idxReg s t i.idxr)).1 = (List.range (512 / typBytes i.typ)).map fun k =>
      if laneOn s t i k then some (exactLeaf i (source s t i 0 (typBytes i.typ) k)).1 else none := redLeaves_lanes s t 0xC9 i false _
  obtain ⟨value, empty⟩ := joinExact_fold (i := i) (on := laneOn s t i) (v := fun k => (exactLeaf i (source s t i 0 (typBytes i.typ) k)).1)
    (l := List.range (512 / typBytes i.typ)) (List.length_range.trans_le (isWidth_typBytes i.typ).lanes) (fun k hk => hv k (List.mem_range.1 hk))
  rw [← leaves] at value empty
  obtain ⟨hempty, hexact, hstream⟩ := redResult_tag 0xC9 false ((redLeaves s t 0xC9 i false (idxReg s t i.idxr)).1.foldl (joinExact i) none)
  refine ⟨?_, ?_⟩
  · rw [← value, ← redResult_exact]
    exact set.becomes (hempty.trans empty) hstream
  · rw [set.tag, if_pos rfl]
    exact hexact

/-! ### Streams (R161) -/

/-- Phases FIRST and MIDDLE leave the row's stream open with one line more, and the tally's tag says so. -/
theorem stream_open (hready : EngineReady s t) (h1 : 0xC0 ≤ op) (h2 : op ≤ 0xC9) (hok : bundleOk s nopSlot (op, i) = true)
    (hnet : (tileAt s t).vec.netOpen = []) (hbad : tallyBad op s t i = false) (hphase : i.sub % 4 = 1 ∨ i.sub % 4 = 2) :
    (∃ y, (tileAt (runOne op t i s) t).vec.streams.find i.dst = some y ∧ y.op = (streamFor s t op i).op ∧ y.base = (streamFor s t op i).base
        ∧ y.lines = (streamFor s t op i).lines + 1)
      ∧ (tallyTag (runOne op t i s) t i.dst).getLsbD tagStream = true := by
  obtain ⟨v, stack, fl, hfx⟩ := lineFx_open (s := s) (t := t) (op := op) hphase
  obtain ⟨set, -⟩ := reduction_tally hready h1 (by omega) hok hnet hbad ((redFx_line h1 h2).trans hfx)
  refine ⟨⟨_, set.stream, rfl, rfl, rfl⟩, ?_⟩
  rw [set.tag, if_pos rfl]
  exact (tagOf_bits _ _ _ _ _ _).2.2

/-- Phase FIRST opens a stream of its opcode with one line. -/
theorem stream_first (hready : EngineReady s t) (h1 : 0xC0 ≤ op) (h2 : op ≤ 0xC9) (hok : bundleOk s nopSlot (op, i) = true)
    (hnet : (tileAt s t).vec.netOpen = []) (hphase : i.sub % 4 = 1) :
    (∃ y, (tileAt (runOne op t i s) t).vec.streams.find i.dst = some y ∧ y.op = op ∧ y.lines = 1)
      ∧ (tallyTag (runOne op t i s) t i.dst).getLsbD tagStream = true := by
  obtain ⟨⟨y, found, hop, -, hlines⟩, tag⟩ := stream_open hready h1 h2 hok hnet (tallyBad_new h2 (.inr hphase)) (.inl hphase)
  rw [streamFor_new (.inr hphase)] at hop hlines
  exact ⟨⟨y, found, hop, hlines⟩, tag⟩

/-- Phase LAST leaves no stream. -/
theorem stream_last (hready : EngineReady s t) (h1 : 0xC0 ≤ op) (h2 : op ≤ 0xC9) (hok : bundleOk s nopSlot (op, i) = true)
    (hnet : (tileAt s t).vec.netOpen = []) (hbad : (tileAt s t).vec.badTallies = []) (hphase : i.sub % 4 = 3) :
    (tileAt (runOne op t i s) t).vec.streams.find i.dst = none ∧ (tallyTag (runOne op t i s) t i.dst).getLsbD tagStream = false := by
  obtain ⟨x, fl, nf, hfx⟩ := lineFx_closed (s := s) (t := t) (op := op) (.inr hphase)
  obtain ⟨set, -⟩ := reduction_tally hready h1 (by omega) hok hnet (tallyBad_none hbad op i) ((redFx_line h1 h2).trans hfx)
  refine ⟨set.stream, ?_⟩
  rw [set.tag, if_pos rfl]
  exact (redResult_tag op (redInt op i.typ) x).2.2

end

end Sys2Proof.Machine

namespace Sys2Proof
open Sys2Proof.Machine

/-- Settles O35: over integers each operation is associative with its identity, so the tree's root is the fold; over typed lanes the leaves are
the line's; an exact sum of 256 lanes stays within A128. -/
theorem reductionsFoldTheirLanes : Obligations.ReductionsFoldTheirLanes := by
  unfold Obligations.ReductionsFoldTheirLanes
  refine ⟨⟨foldsAs_sum.reduces fun _ _ _ => rfl, foldsAs_prod.reduces fun _ _ _ => rfl, foldsAs_max.reduces fun _ _ _ => rfl,
    foldsAs_min.reduces fun _ _ _ => rfl, foldsAs_count.reduces fun _ _ _ => rfl, foldsAs_and.reduces fun _ _ _ => rfl,
    foldsAs_or.reduces fun _ _ _ => rfl⟩,
    floatReduce_root (fun _ _ _ => rfl) (by decide) (by decide), floatReduce_root (fun _ _ _ => rfl) (by decide) (by decide),
    floatReduce_root (fun _ _ _ => rfl) (by decide) (by decide), floatReduce_root (fun _ _ _ => rfl) (by decide) (by decide),
    floatReduce_root (fun _ _ _ => rfl) (by decide) (by decide), floatReduce_root (fun _ _ _ => rfl) (by decide) (by decide),
    fun t i s hready hnet hok => ?exact, fun t i s x hready hnet hbad hok => ?streams⟩
  case exact =>
    refine ⟨fun hphase hv => ⟨_, rfl, rxsum_single hready hnet hok hphase fun k hk => (hv k hk).2⟩, fun hphase => ?_⟩
    exact ⟨_, rfl, stream_first hready (by decide) (by decide) hok hnet hphase⟩
  case streams =>
    refine ⟨fun hphase => ?first, fun hphase hfind hop htyp hint => ?middle, fun hphase => ?last⟩
    case first => exact ⟨_, rfl, stream_first hready (by decide) (by decide) hok hnet hphase⟩
    case middle =>
      obtain ⟨⟨y, found, -, hbase, hlines⟩, -⟩ :=
        stream_open hready (by decide) (by decide) hok hnet (tallyBad_none hbad 0xC0 i) (.inr hphase)
      rw [streamFor_open (.inl hphase) hfind hop htyp hint] at hbase hlines
      exact ⟨_, rfl, y, found, hlines, hbase⟩
    case last => exact ⟨_, rfl, stream_last hready (by decide) (by decide) hok hnet hbad hphase⟩

end Sys2Proof
end


section
/-! SUPPORT. A reduction tree's result reaches its tallies and the tree closes (R165). -/

namespace Sys2Proof.Machine

/-- An operation on each tile of a list without repeats does to each what it does to one. -/
theorem foldl_eachTile {op : State → Nat → State} {F : Tile → Tile} (hop : ∀ s t x, tileAt (op s t) x = if t = x then F (tileAt s t) else tileAt s x)
    {l : List Nat} (hl : l.Nodup) (s : State) (x : Nat) : tileAt (l.foldl op s) x = if x ∈ l then F (tileAt s x) else tileAt s x := by
  induction l generalizing s with
  | nil => rfl
  | cons t l ih =>
    obtain ⟨fresh, rest⟩ := List.nodup_cons.1 hl
    rw [List.foldl_cons, ih rest, hop]
    by_cases h : t = x
    · subst h
      rw [if_neg fresh, if_pos rfl, if_pos List.mem_cons_self]
    · simp only [if_neg h, List.mem_cons, Ne.symm h, false_or]

/-- A tile once a tree's result is in the tally that waits for it. -/
def Tile.delivered (tree : Nat) (r : BitVec 128 × BitVec 8) (x : Tile) : Tile :=
  match x.vec.netOpen.find? (fun y => y.1 = tree) with
  | some y => { x with vec := x.vec.setTally y.2 r.1 r.2 none 0 }
  | none => x

theorem netDeliver_own (tree : Nat) (r : BitVec 128 × BitVec 8) (s : State) (t x : Nat) :
    tileAt (netDeliver s tree t r) x = if t = x then (tileAt s t).delivered tree r else tileAt s x := by
  cases hfind : (tileAt s t).vec.netOpen.find? (fun y => y.1 = tree) with
  | some y =>
    simp only [netDeliver, Tile.delivered, hfind]
    exact modVec_own s t x _
  | none =>
    simp only [netDeliver, Tile.delivered, hfind]
    split
    next e => rw [e]
    next => rfl

theorem Tile.delivered_vec (tree : Nat) (r : BitVec 128 × BitVec 8) (x : Tile) :
    (x.delivered tree r).vec.netOpen = x.vec.netOpen ∧ (x.delivered tree r).vec.body = x.vec.body := by
  unfold Tile.delivered
  split <;> exact ⟨rfl, rfl⟩

theorem Tile.delivered_tally {tree k : Nat} {x : Tile} (h : x.vec.netOpen.find? (fun y => y.1 = tree) = some (tree, k)) (r : BitVec 128 × BitVec 8) :
    (x.delivered tree r).vec.tallies.at k 0 = r.1 ∧ (x.delivered tree r).vec.tags.at k 0 = r.2 := by
  simp only [Tile.delivered, h]
  exact ⟨Tab.at_put_same _ _ _ _, Tab.at_put_same _ _ _ _⟩

/-- A tile once a tree is open on it no more. -/
def Tile.treeClosed (tree : Nat) (x : Tile) : Tile := { x with vec := { x.vec with netOpen := x.vec.netOpen.filter (fun y => y.1 ≠ tree) } }

/-- The closing of a tree on one tile. -/
def closeNet (tree : Nat) (s : State) (t : Nat) : State := modVec s t (fun v => { v with netOpen := v.netOpen.filter (fun y => y.1 ≠ tree) })

/-- The tiles of a tree. -/
def netTiles (s : State) (q : Nat) (x : TreeRec) : List Nat := x.contrib.map (tileOfLocal (partAt s q))

/-- Those that its result reaches. -/
def netDests (s : State) (q : Nat) (x : TreeRec) : List Nat := if x.bcast then netTiles s q x else [(netTiles s q x).getD x.root 0]

/-- Its result. -/
def netValue (s : State) (q tree : Nat) (x : TreeRec) : BitVec 128 × BitVec 8 := netResult x ((partAt s q).trees.at tree [])

/-- A tree's result delivered, and the tree dropped from its partition. -/
def netReached (s : State) (q tree : Nat) (x : TreeRec) : State :=
  modPart ((netDests s q x).foldl (fun u t => netDeliver u tree t (netValue s q tree x)) s) q (fun p => { p with trees := p.trees.drop tree })

/-- The tree closed on its tiles too. -/
def netClosed (s : State) (q tree : Nat) (x : TreeRec) : State := (netTiles s q x).foldl (closeNet tree) (netReached s q tree x)

section
variable {s : State} {q tree : Nat} {x : TreeRec}

/-- A contribution that is not in leaves everything as it is. -/
theorem treeComplete_waits (hx : (imageOf (partAt s q)).trees.find? (fun y => y.tree = tree) = some x) {k : Nat} (hk : k < x.contrib.length)
    (hout : ∀ c ∈ (partAt s q).trees.at tree [], c.idx ≠ k) : treeComplete q tree s = s := by
  have missing : (List.range x.contrib.length).any (fun k => !((partAt s q).trees.at tree []).any (fun c => c.idx = k)) = true := by
    refine List.any_eq_true.2 ⟨k, List.mem_range.2 hk, ?_⟩
    rw [Bool.not_eq_true', List.any_eq_false]
    exact fun c hc => by simpa using hout c hc
  simp only [treeComplete, hx, missing, if_true]

/-- With every contribution in, the tree closes; bodies that do not wait stay as they are. -/
theorem treeComplete_closes (hx : (imageOf (partAt s q)).trees.find? (fun y => y.tree = tree) = some x)
    (hin : ∀ k, k < x.contrib.length → ∃ c ∈ (partAt s q).trees.at tree [], c.idx = k)
    (hidle : ∀ t ∈ netTiles s q x, (tileAt (netClosed s q tree x) t).vec.body = none) : treeComplete q tree s = netClosed s q tree x := by
  have complete : (List.range x.contrib.length).any (fun k => !((partAt s q).trees.at tree []).any (fun c => c.idx = k)) = false := by
    refine List.any_eq_false.2 fun k hk => ?_
    obtain ⟨c, hc, hck⟩ := hin k (List.mem_range.1 hk)
    have : ((partAt s q).trees.at tree []).any (fun c => c.idx = k) = true := List.any_eq_true.2 ⟨c, hc, decide_eq_true hck⟩
    rw [this]
    exact Bool.false_ne_true
  have runs : treeComplete q tree s = (netTiles s q x).foldl (fun u t => resumeBody t u) (netClosed s q tree x) := by
    simp only [treeComplete, hx, complete, Bool.false_eq_true, if_false]
    rfl
  exact runs.trans (foldl_idle fun t ht => resumeBody_none (hidle t ht))

theorem netDests_mem (hroot : x.root < x.contrib.length) {t : Nat} (ht : t ∈ netDests s q x) : t ∈ netTiles s q x := by
  unfold netDests at ht
  split at ht
  · exact ht
  · have inside : x.root < (netTiles s q x).length := by rwa [netTiles, List.length_map]
    rw [List.mem_singleton.1 ht, List.getD_eq_getElem _ _ inside]
    exact List.getElem_mem inside

theorem netDests_nodup (h : (netTiles s q x).Nodup) : (netDests s q x).Nodup := by
  unfold netDests
  split
  · exact h
  · exact List.nodup_singleton _

/-- Each tile once the tree has closed: a tile of the tree holds it open no more, and one the result reaches has it. -/
theorem tileAt_netClosed (hnd : (netTiles s q x).Nodup) (t : Nat) : tileAt (netClosed s q tree x) t =
    let y := if t ∈ netDests s q x then (tileAt s t).delivered tree (netValue s q tree x) else tileAt s t
    if t ∈ netTiles s q x then y.treeClosed tree else y := by
  have reached : tileAt (netReached s q tree x) t = if t ∈ netDests s q x then (tileAt s t).delivered tree (netValue s q tree x) else tileAt s t :=
    foldl_eachTile (netDeliver_own tree _) (netDests_nodup hnd) s t
  have closed := foldl_eachTile (op := closeNet tree) (F := Tile.treeClosed tree) (fun u t x => modVec_own u t x _) hnd (netReached s q tree x) t
  rw [reached] at closed
  exact closed

/-- Memory, the registers and the partitions are no tile's. -/
def SameOutside (s u : State) : Prop := u.mem = s.mem ∧ u.regs = s.regs ∧ u.parts = s.parts

theorem SameOutside.refl (s : State) : SameOutside s s := ⟨rfl, rfl, rfl⟩

theorem SameOutside.trans {a b c : State} : SameOutside a b → SameOutside b c → SameOutside a c
  | ⟨mem, regs, parts⟩, ⟨mem', regs', parts'⟩ => ⟨mem'.trans mem, regs'.trans regs, parts'.trans parts⟩

theorem netDeliver_outside (tree : Nat) (r : BitVec 128 × BitVec 8) (s : State) (t : Nat) : SameOutside s (netDeliver s tree t r) := by
  unfold netDeliver
  split <;> exact ⟨rfl, rfl, rfl⟩

theorem closeNet_outside (tree : Nat) (s : State) (t : Nat) : SameOutside s (closeNet tree s t) := ⟨rfl, rfl, rfl⟩

theorem netClosed_outside (s : State) (q tree : Nat) (x : TreeRec) : (netClosed s q tree x).mem = s.mem ∧ (netClosed s q tree x).regs = s.regs
    ∧ (partAt (netClosed s q tree x) q).trees.at tree [] = [] := by
  obtain ⟨mem, regs, -⟩ : SameOutside s ((netDests s q x).foldl (fun u t => netDeliver u tree t (netValue s q tree x)) s) :=
    foldl_related SameOutside.refl SameOutside.trans (netDeliver_outside tree _) _ s
  obtain ⟨mem', regs', parts⟩ : SameOutside (netReached s q tree x) (netClosed s q tree x) :=
    foldl_related SameOutside.refl SameOutside.trans (closeNet_outside tree) _ _
  have dropped : partAt (netClosed s q tree x) q = partAt (netReached s q tree x) q := congrArg (fun ps : Tab Part => ps.at q {}) parts
  refine ⟨mem'.trans mem, regs'.trans regs, ?_⟩
  rw [dropped, netReached, modPart_own, if_pos (rfl), Tab.at, Tab.find_drop, if_pos (rfl), Option.getD_none]

/-- What the closing of a tree leaves, tile by tile. -/
theorem netClosed_tiles (hnd : (netTiles s q x).Nodup) (hroot : x.root < x.contrib.length) :
    (∀ t ∈ netDests s q x, ∀ k, (tileAt s t).vec.netOpen.find? (fun y => y.1 = tree) = some (tree, k) →
        tallyVal (netClosed s q tree x) t k = (netValue s q tree x).1
          ∧ tallyTag (netClosed s q tree x) t k = (netValue s q tree x).2)
      ∧ (∀ t ∈ netTiles s q x, ∀ y ∈ (tileAt (netClosed s q tree x) t).vec.netOpen, y.1 ≠ tree)
      ∧ (∀ t, t ∉ netTiles s q x → tileAt (netClosed s q tree x) t = tileAt s t) := by
  refine ⟨fun t ht k hk => ?_, fun t ht y hy => ?_, fun t ht => ?_⟩
  · rw [tallyVal, tallyTag, tileAt_netClosed hnd]
    simp only [if_pos ht, if_pos (netDests_mem hroot ht)]
    exact Tile.delivered_tally hk _
  · rw [tileAt_netClosed hnd] at hy
    simp only [if_pos ht] at hy
    exact of_decide_eq_true (List.mem_filter.1 hy).2
  · rw [tileAt_netClosed hnd]
    simp only [if_neg ht, if_neg (mt (netDests_mem hroot) ht)]

theorem netClosed_body (hnd : (netTiles s q x).Nodup) (t : Nat) : (tileAt (netClosed s q tree x) t).vec.body = (tileAt s t).vec.body := by
  rw [tileAt_netClosed hnd]
  simp only
  split <;> split
  · exact (Tile.delivered_vec tree _ (tileAt s t)).2
  · exact rfl
  · exact (Tile.delivered_vec tree _ (tileAt s t)).2
  · exact rfl

end

end Sys2Proof.Machine

namespace Sys2Proof
open Sys2Proof.Machine

/-- Settles O43: the deliveries, one tile each, are apart; the tree is then dropped and, no body waiting, nothing goes on. -/
theorem networkTreesDeliverTheirResult : Obligations.NetworkTreesDeliverTheirResult := by
  unfold Obligations.NetworkTreesDeliverTheirResult
  intro q tree x s hx
  refine ⟨fun ⟨k, hk, hout⟩ => congrArg Host.Outcome.next (treeComplete_waits hx hk hout), fun hin hnd hbody hroot => ?_⟩
  have runs := treeComplete_closes hx hin fun t ht => (netClosed_body hnd t).trans (hbody t ht)
  obtain ⟨delivered, closed, others⟩ := netClosed_tiles (tree := tree) hnd hroot
  obtain ⟨mem, regs, dropped⟩ := netClosed_outside s q tree x
  exact ⟨_, congrArg Host.Outcome.next runs, delivered, closed, dropped, others, mem, regs⟩

end Sys2Proof
end

section
/-! SUPPORT. Every entry of a table changed alike. -/

namespace Sys2Proof.Machine

theorem Tab.find_mapValues {α β : Type} (f : α → β) (t : Tab α) (i : Nat) : Tab.find (t.map fun x => (x.1, f x.2)) i = (t.find i).map f := by
  induction t with
  | nil => rfl
  | cons x t ih =>
    obtain ⟨k, v⟩ := x
    by_cases h : k = i <;> simp [Tab.find, h, ih]

theorem partAt_oneCycle (s : State) (q : Nat) : partAt (oneCycle s) q = creditPart (partAt s q) := by
  simp only [partAt, oneCycle, Tab.at, Tab.find_mapValues]
  cases s.parts.find q <;> rfl

end Sys2Proof.Machine

namespace Sys2Proof
open Sys2Proof.Machine

/-- Settles O1: both clauses are the step's two cases; a partition never entered is credited nothing. -/
theorem theFrontCommandRuns : Obligations.TheFrontCommandRuns := by
  unfold Obligations.TheFrontCommandRuns
  refine ⟨fun c rest s => rfl, fun s hp => ⟨oneCycle s, ?_, rfl, partAt_oneCycle s, rfl⟩⟩
  simp only [step, hp]

/-- Settles O3: the reset state evaluated, the four Ethernet ports one by one. -/
theorem resetLeavesTheSpecsValues : Obligations.ResetLeavesTheSpecsValues := by
  unfold Obligations.ResetLeavesTheSpecsValues
  refine ⟨rfl, rfl, rfl, rfl, fun q => rfl, ?_, ?_, ?_, ?_, ?_, rfl, fun e he => ?_⟩
  · decide
  · decide
  · decide
  · decide
  · decide
  · decide +revert

end Sys2Proof
end

section
/-! SUPPORT. A descriptor list beyond its tile's window, and two commands under one SEQ. -/

namespace Sys2Proof.Machine

/-- A DMA actor whose list's offset leaves the tile's window for the near store of the tile after it. -/
def strayListActor : ActorRec := { kind := kindDma, arg := 0x800000, len := 1 }

/-- Its firing, ready. -/
def strayListFiring : Firing := { actor := 0 }

/-- A request to write the first line of tile 1's near store, whose turn came before the present cycle. -/
def waitingWrite : BankReq := { addr := 0x800000, len := 64, req := { (default : MeshReq) with isWrite := true, addr := 0x800000, data := List.replicate 64 0 } }

/-- Tile 0 is about to serve the firing; the write waits at tile 1. -/
def strayListState : State := { State.reset with
  cycle := 1
  parts := [(0, { state := .running, gw := 1, gh := 1, image := some {} })]
  tiles := [(0, { conf := { actors := [strayListActor] }, sched := { ready := [strayListFiring] } }), (1, { banks := [(0, [waitingWrite])] })] }

theorem strayListFiring_ready : FiringReady strayListState 0 kindDma strayListFiring strayListActor := by
  refine ⟨?_, ?_, ?_, ?_, ?_, ?_, ?_⟩ <;> decide +kernel

/-- The fetch of the list serves the write that waits at tile 1. -/
theorem strayListFetch_serves : (tileAt (fireDma 0 strayListState) 1).banks ≠ (tileAt strayListState 1).banks := by decide +kernel

/-- ABORT_STEP of a RUNNING partition, accepted from host 0. -/
def abortingCmd : Cmd := { seq := 1, opcode := opAbortStep }

/-- A later command under the same SEQ, of an opcode that the table does not have. -/
def unknownCmd : Cmd := { seq := 1, opcode := 0x99 }

/-- A host's DMA command whose list tile 0 runs. -/
def listCmd : Cmd := { seq := 5, opcode := opDma, phase := 2 }

/-- The three commands accepted, the DMA command's list running on tile 0. -/
def sharedSeqState : State := { State.reset with
  dev := .ready
  mgt := { running := true }
  cmds := [abortingCmd, unknownCmd, listCmd]
  parts := [(0, { state := .running, gw := 1, gh := 1, image := some {} })]
  tiles := [(0, { dma := [{ host := some (0, 5) }] })] }

theorem sharedSeq_starts : Starts sharedSeqState 0 1 opAbortStep abortingCmd [] := by
  refine ⟨?_, ?_, ?_⟩ <;> decide +kernel

theorem sharedSeq_runs (u : Nat) : ∀ run ∈ (tileAt sharedSeqState u).dma, run.host ≠ some (0, 1) := by
  by_cases hu : 0 = u
  · subst hu
    decide
  · simp [tileAt, sharedSeqState, Tab.at, Tab.find, hu]

/-- The purge completes the DMA command, and the unknown command after it takes ABORT_STEP off with itself. -/
theorem sharedSeq_dropped : cmdAt (abortStep 0 1 sharedSeqState) 0 1 = none := by decide +kernel

end Sys2Proof.Machine

namespace Sys2Proof
open Sys2Proof.Machine

/-- Refutes O36: no hypothesis bounds the list's offset, and a list at 0x800000 of tile 0 is fetched through the banks of tile 1, where an
older request is then served. -/
theorem not_firingsRunAndSpeculate : ¬ Obligations.FiringsRunAndSpeculate := by
  unfold Obligations.FiringsRunAndSpeculate
  rintro ⟨⟨-, firings⟩, -⟩
  obtain ⟨-, -, -, dma, -⟩ := firings 0 strayListFiring strayListActor strayListState rfl
  obtain ⟨u, runs, ⟨-, -, -, -, others⟩, -⟩ := dma strayListFiring_ready rfl rfl
  have ends : fireDma 0 strayListState = u := Host.Outcome.next.inj runs
  exact strayListFetch_serves (congrArg Tile.banks (ends ▸ others 1 (by decide)))

/-- Refutes O23: no hypothesis keeps the SEQs of a host apart; an unknown command under ABORT_STEP's SEQ ends when the purge completes the
DMA command before it, and ABORT_STEP is gone with it. -/
theorem not_stepAbortsPurgeAndReplay : ¬ Obligations.StepAbortsPurgeAndReplay := by
  unfold Obligations.StepAbortsPurgeAndReplay
  rintro ⟨aborts, -⟩
  obtain ⟨t, runs, -, phase, -⟩ := aborts 0 1 sharedSeqState abortingCmd sharedSeq_starts rfl sharedSeq_runs
  have ends : abortStep 0 1 sharedSeqState = t := Host.Outcome.next.inj runs
  rw [← ends, sharedSeq_dropped] at phase
  exact absurd phase (by decide)

end Sys2Proof
end

section
/-! SUPPORT. What a completed command leaves: its record, and nothing else changed. -/

namespace Sys2Proof.Machine
section
variable {s t : State} {c : Cmd} {st r0 r1 : Nat}

/-! ### The status record's fields -/

theorem recordOf_length (s : State) (c : Cmd) (st r0 r1 detail bulk : Nat) : (recordOf s c st r0 r1 detail bulk).length = 64 := by
  simp [recordOf, setNth, statusBytes]

theorem le_setNth_apart {l : List Byte} {i o n : Nat} {b : Byte} (h : i < o ∨ o + n ≤ i) : le (setNth l i b) o n = le l o n := by
  have taken : ((l.set i b).drop o).take n = (l.drop o).take n := by
    rw [List.drop_set]
    split
    · rfl
    · rw [List.take_set_of_le (by omega)]
  simp only [le, slice, setNth, taken]

theorem le_toLe_front (n v : Nat) (z : List Byte) : le (toLe n v ++ z) 0 n = v % 256 ^ n := by
  rw [le, slice_append_left _ _ (by simp), ← leNat_toLe]
  exact congrArg leNat ((congrArg (slice (toLe n v) 0) (toLe_length n v).symm).trans (slice_whole (toLe n v)))

theorem le_toLe_past {m o : Nat} (n v : Nat) (z : List Byte) (h : m ≤ o) : le (toLe m v ++ z) o n = le z (o - m) n := by
  have past := slice_append_right (toLe m v) z (o - m) n
  rw [toLe_length, Nat.add_sub_cancel' h] at past
  rw [le, past, le]

/-- The fields of a record that show the command and its results (R357). -/
theorem recordOf_fields (s : State) (c : Cmd) (st r0 r1 detail bulk : Nat) :
    le (recordOf s c st r0 r1 detail bulk) 0 2 = c.opcode % 2 ^ 16 ∧ le (recordOf s c st r0 r1 detail bulk) 3 1 = st % 2 ^ 8
      ∧ le (recordOf s c st r0 r1 detail bulk) 4 4 = c.seq % 2 ^ 32 ∧ le (recordOf s c st r0 r1 detail bulk) 16 8 = r0 % 2 ^ 64
      ∧ le (recordOf s c st r0 r1 detail bulk) 24 8 = r1 % 2 ^ 64 := by
  simp only [recordOf]
  refine ⟨?_, ?_, ?_, ?_, ?_⟩
  all_goals
    rw [le_setNth_apart (by decide)]
    simp only [statusBytes, List.append_assoc]
    simp (disch := decide) only [le_toLe_past, Nat.reduceSub, le_toLe_front, Nat.reducePow]

/-! ### What a completion leaves -/

theorem onlyRecord_refl (s : State) : OnlyRecord s s := rfl

theorem onlyRecord_trans {s t u : State} (h : OnlyRecord s t) (g : OnlyRecord t u) : OnlyRecord s u := by
  rw [OnlyRecord] at h g ⊢
  rw [g, h]

theorem finishCmd_onlyRecord (s : State) (c : Cmd) (st r0 r1 detail bulk : Nat) : OnlyRecord s (finishCmd s c st r0 r1 detail bulk) := by
  unfold finishCmd
  simp only
  split <;> rfl

theorem endUnknown_related {P : State → State → Prop} (refl : ∀ s, P s s) (trans : ∀ {s t u}, P s t → P t u → P s u)
    (ends : ∀ s c, P s (finishCmd s c stBadField 0 0 0 0)) (fuel : Nat) (s : State) : P s (endUnknown fuel s) := by
  induction fuel generalizing s with
  | zero => exact refl s
  | succ fuel ih =>
    unfold endUnknown
    split
    · exact refl s
    · exact trans (ends s _) (ih _)

theorem endUnknown_onlyRecord (fuel : Nat) (s : State) : OnlyRecord s (endUnknown fuel s) :=
  endUnknown_related onlyRecord_refl onlyRecord_trans (fun s c => finishCmd_onlyRecord s c stBadField 0 0 0 0) fuel s

theorem complete_onlyRecord (s : State) (c : Cmd) (st r0 r1 detail bulk : Nat) : OnlyRecord s (complete s c st r0 r1 detail bulk) :=
  onlyRecord_trans (finishCmd_onlyRecord s c st r0 r1 detail bulk) (endUnknown_onlyRecord _ _)

theorem partAt_onlyRecord {s t : State} (h : OnlyRecord s t) (q : Nat) : partAt t q = partAt s q := by
  rw [OnlyRecord] at h
  rw [h]
  rfl

theorem same_of_onlyRecord {s t : State} (h : OnlyRecord s t) : t.tiles = s.tiles ∧ t.mem = s.mem ∧ t.regs = s.regs ∧ t.parts = s.parts := by
  rw [OnlyRecord] at h
  rw [h]
  exact ⟨rfl, rfl, rfl, rfl⟩

theorem cmdAt_host {s : State} {h seq : Nat} {c : Cmd} (hc : cmdAt s h seq = some c) : c.host = h ∧ c.seq = seq := by
  simpa using List.find?_some hc

/-! ### What a later completion keeps of a record -/

/-- Accepted commands only leave, what was sent stays sent, a host slot keeps its attachment and H, and a kept record of the last 256
SEQs stays. -/
def KeepsRecords (s t : State) : Prop :=
  t.cmds.Sublist s.cmds ∧ (∀ e ∈ s.out, e ∈ t.out)
    ∧ ∀ h, (hostAt t h).attached = (hostAt s h).attached ∧ (hostAt t h).h = (hostAt s h).h
      ∧ ∀ x ∈ (hostAt s h).cache, ((hostAt s h).h + 2 ^ 32 - x.1) % 2 ^ 32 ≤ 255 → x ∈ (hostAt t h).cache

theorem KeepsRecords.refl (s : State) : KeepsRecords s s := ⟨List.Sublist.refl _, fun _ h => h, fun _ => ⟨rfl, rfl, fun _ hx _ => hx⟩⟩

theorem KeepsRecords.trans {s t u : State} (h : KeepsRecords s t) (g : KeepsRecords t u) : KeepsRecords s u := by
  obtain ⟨cmds, out, hosts⟩ := h
  obtain ⟨cmds', out', hosts'⟩ := g
  refine ⟨cmds'.trans cmds, fun e he => out' e (out e he), fun k => ?_⟩
  obtain ⟨attached, h, cache⟩ := hosts k
  obtain ⟨attached', h', cache'⟩ := hosts' k
  exact ⟨attached'.trans attached, h'.trans h, fun x hx near => cache' x (cache x hx near) (h ▸ near)⟩

theorem hostAt_setHosts (s : State) (k h : Nat) (x : HostSlot) :
    hostAt { s with hosts := setNth s.hosts k x } h = if h = k ∧ k < s.hosts.length then x else hostAt s h := by
  simp only [hostAt, setNth, List.getD_eq_getElem?_getD, List.getElem?_set]
  by_cases hk : k = h
  · subst hk
    by_cases hl : k < s.hosts.length <;> simp [hl]
  · simp [hk, Ne.symm hk]

/-- The host slot after a command's record has been kept (R359). -/
theorem finishCmd_host (s : State) (c : Cmd) (st r0 r1 detail bulk h : Nat) : hostAt (finishCmd s c st r0 r1 detail bulk) h
    = if h = c.host ∧ c.host < s.hosts.length then
        { hostAt s h with cache := keptRecords (hostAt s h).h ((c.seq, recordOf s c st r0 r1 detail bulk) :: (hostAt s h).cache) }
      else hostAt s h := by
  have sent : hostAt (finishCmd s c st r0 r1 detail bulk) h
      = hostAt { s with hosts := setNth s.hosts c.host { hostAt s c.host with
          cache := keptRecords (hostAt s c.host).h ((c.seq, recordOf s c st r0 r1 detail bulk) :: (hostAt s c.host).cache) } } h := by
    simp only [finishCmd]
    split <;> rfl
  rw [sent, hostAt_setHosts]
  split
  case isTrue own => rw [own.1]
  case isFalse => rfl

theorem finishCmd_cmds (s : State) (c : Cmd) (st r0 r1 detail bulk : Nat) :
    (finishCmd s c st r0 r1 detail bulk).cmds = s.cmds.filter (fun d => !(d.host = c.host && d.seq = c.seq)) := by
  simp only [finishCmd]
  split <;> rfl

theorem finishCmd_out (s : State) (c : Cmd) (st r0 r1 detail bulk : Nat) : (finishCmd s c st r0 r1 detail bulk).out
    = if (hostAt s c.host).attached then .status c.host (recordOf s c st r0 r1 detail bulk) :: s.out else s.out := by
  simp only [finishCmd]
  split <;> rfl

theorem mem_keptRecords {h : Nat} {l : List (Nat × List Byte)} {x : Nat × List Byte} :
    x ∈ keptRecords h l ↔ x ∈ l ∧ (h + 2 ^ 32 - x.1) % 2 ^ 32 ≤ 255 := by
  simp [keptRecords, List.mem_filter]

theorem finishCmd_keepsRecords (s : State) (c : Cmd) (st r0 r1 detail bulk : Nat) : KeepsRecords s (finishCmd s c st r0 r1 detail bulk) := by
  refine ⟨?_, fun e he => ?_, fun h => ?_⟩
  · rw [finishCmd_cmds]
    exact List.filter_sublist
  · rw [finishCmd_out]
    split
    · exact List.mem_cons_of_mem _ he
    · exact he
  · rw [finishCmd_host]
    split
    · exact ⟨rfl, rfl, fun x hx near => mem_keptRecords.2 ⟨List.mem_cons_of_mem _ hx, near⟩⟩
    · exact ⟨rfl, rfl, fun x hx _ => hx⟩

theorem endUnknown_keepsRecords (fuel : Nat) (s : State) : KeepsRecords s (endUnknown fuel s) :=
  endUnknown_related KeepsRecords.refl KeepsRecords.trans (fun s c => finishCmd_keepsRecords s c stBadField 0 0 0 0) fuel s

theorem cmdAt_none_of_sublist {s t : State} {h seq : Nat} (sub : t.cmds.Sublist s.cmds) (gone : cmdAt s h seq = none) : cmdAt t h seq = none := by
  rw [cmdAt, List.find?_eq_none] at gone ⊢
  exact fun c hc => gone c (sub.subset hc)

/-- A record once made is there after what keeps records. -/
theorem recorded_kept {s t : State} {c : Cmd} {st r0 r1 : Nat} (h : Recorded s c st r0 r1) (keeps : KeepsRecords s t) : Recorded t c st r0 r1 := by
  obtain ⟨gone, r, sent, cached, fields⟩ := h
  obtain ⟨cmds, out, hosts⟩ := keeps
  obtain ⟨attached, hh, cache⟩ := hosts c.host
  refine ⟨cmdAt_none_of_sublist cmds gone, r, fun ha => out _ (sent (attached ▸ ha)), fun near => ?_, fields⟩
  rw [hh] at near
  exact cache _ (cached near) near

theorem finishCmd_recorded {s : State} {c : Cmd} {st : Nat} (hh : c.host < s.hosts.length) (hst : st < 256) (r0 r1 detail bulk : Nat) :
    Recorded (finishCmd s c st r0 r1 detail bulk) c st r0 r1 := by
  obtain ⟨opcode, status, seq, v0, v1⟩ := recordOf_fields s c st r0 r1 detail bulk
  rw [Recorded, finishCmd_host, if_pos ⟨rfl, hh⟩, finishCmd_out]
  refine ⟨?_, recordOf s c st r0 r1 detail bulk, fun ha => ?_, fun near => mem_keptRecords.2 ⟨List.mem_cons_self, near⟩, recordOf_length ..,
    opcode, status.trans (Nat.mod_eq_of_lt hst), seq, v0, v1⟩
  · rw [cmdAt, List.find?_eq_none, finishCmd_cmds]
    intro d hd same
    have apart := (List.mem_filter.1 hd).2
    rw [same] at apart
    exact Bool.false_ne_true apart
  · rw [if_pos ha]
    exact List.mem_cons_self

/-- A completed command is recorded with its status and results (R357, R359). -/
theorem complete_recorded {s : State} {c : Cmd} {st : Nat} (hh : c.host < s.hosts.length) (hst : st < 256) (r0 r1 detail bulk : Nat) :
    Recorded (complete s c st r0 r1 detail bulk) c st r0 r1 :=
  recorded_kept (finishCmd_recorded hh hst r0 r1 detail bulk) (endUnknown_keepsRecords _ _)
end
end Sys2Proof.Machine
end

section
/-! SUPPORT. A faulted partition of a job loaded again. -/

namespace Sys2Proof.Machine

/-- The smallest image but for its digest: one group of tiles, one tick of one step, no layer, no actor. -/
def plainImageBody : List Byte :=
  [0x44, 0x52, 0x53, 0x49, 1, 0, 0, 0] ++ toLe 8 768 ++ toLe 4 3 ++ toLe 4 0 ++ toLe 8 128 ++ toLe 8 77 ++ [7, 0] ++ List.replicate 86 0
    ++ (toLe 4 1 ++ toLe 4 0xFFFFFFFF ++ toLe 8 256 ++ toLe 8 256 ++ toLe 8 1)
    ++ (toLe 4 3 ++ toLe 4 0xFFFFFFFF ++ toLe 8 512 ++ toLe 8 16 ++ toLe 8 1)
    ++ (toLe 4 9 ++ toLe 4 0xFFFFFFFF ++ toLe 8 576 ++ toLe 8 128 ++ toLe 8 1) ++ List.replicate 32 0
    ++ ([1, 1, 0, 1] ++ toLe 4 1 ++ toLe 4 1 ++ List.replicate 8 0 ++ toLe 4 1 ++ toLe 4 1 ++ List.replicate 228 0)
    ++ ([0, 1] ++ List.replicate 62 0)
    ++ ([1, 0, 0, 0, 1, 0, 0, 0] ++ toLe 4 1 ++ toLe 4 1 ++ toLe 4 2 ++ toLe 4 1 ++ List.replicate 104 0)

def plainImage : List Byte := plainImageBody ++ shake256 64 plainImageBody

/-- A LOAD_IMAGE whose image is staged. -/
def reloadCmd : Cmd := { seq := 1, opcode := opLoadImage, arg0 := 15, bulkLen := 768, phase := 2, bulk := plainImage }

/-- A faulted partition of a job of this image, in the first of whose escrow slots a pass was under way. -/
def reloadPart : Part :=
  { state := .faulted, gw := 1, gh := 1, image := some {}, carve := 0x10B40000000
    binding := some { imageDigest := carriedDigest plainImage, slots := [{ passDone := 1 }] } }

def reloadState : State := { State.reset with
  dev := .ready
  fs := { active := List.range 32 }
  cmds := [reloadCmd]
  parts := [(0, reloadPart)] }

theorem plainImageBody_length : plainImageBody.length = 704 := by decide +kernel

theorem plainImage_length : plainImage.length = 768 := by
  rw [plainImage, List.length_append, plainImageBody_length, shake256_length 64 _ (by decide)]

theorem plainImage_digest : carriedDigest plainImage = imageDigest plainImage := by
  have integ : imgInteg plainImage = 704 := by decide +kernel
  have body : plainImage.take 704 = plainImageBody := by
    rw [plainImage, ← plainImageBody_length]
    exact List.take_left
  have carried := slice_append_end plainImageBody (shake256 64 plainImageBody)
  rw [plainImageBody_length, shake256_length 64 _ (by decide)] at carried
  rw [carriedDigest, imageDigest, integ, body]
  exact carried

theorem reload_bulk : reloadCmd.bulk = plainImage := rfl

theorem reload_partition : reloadCmd.partition = 0 := rfl

theorem reload_origin : reloadCmd.arg0 = 15 := rfl

theorem plainImage_signState : signState reloadState plainImage = some (0, 0) := by
  have unsigned : imgSigned plainImage = false := by decide +kernel
  have free : reloadState.fuses.requireSigned = false := by decide
  simp [signState, plainImage_digest, unsigned, free]

theorem reload_passes : decideFail (heldFail reloadCmd ++ imageFails reloadState reloadCmd reloadCmd.bulk) = none := by
  have held : heldFail reloadCmd = [] := by decide +kernel
  have head : headFails reloadState plainImage 768 = [] := by decide +kernel
  have fits : tableFits plainImage = true := by
    simp only [tableFits, plainImage_length]
    decide +kernel
  have content : contentFails reloadState 0 plainImage (readImage plainImage 15) = [] := by decide +kernel
  have room : noRoom reloadState 0 (readImage plainImage 15) = false := by decide +kernel
  have same : (partAt reloadState 0).binding.map (fun k => decide (k.imageDigest ≠ carriedDigest plainImage)) = some false := by
    simp [partAt, reloadState, reloadPart, Tab.at, Tab.find]
  have checks : imageFails reloadState reloadCmd plainImage = [] := by
    rw [imageFails, if_neg (by rw [fits]; decide), reload_partition, same, reload_origin]
    simp only
    rw [content, plainImage_signState, room]
    exact congrArg (· ++ []) head
  rw [held, reload_bulk, checks]
  rfl

/-- Blocks folded in a partition's escrow slots. -/
def passesDone (s : State) (q : Nat) : Option (List Nat) := (partAt s q).binding.map fun b => b.slots.map EscrowSlot.passDone

/-- A staged image of n bytes distributed and charged, its command yet to complete. -/
def distributed (s : State) (c : Cmd) (n : Nat) : State :=
  chargeNow (fcUseSpan (loadEffect s c c.bulk) (stagingBase s) n false false) c.partition engStaging [(stagingBase s, n), (stagingBase s, n)]

/-- A staged image that passes every check is distributed. -/
theorem imageStaged_distributes {h seq : Nat} {s : State} {c : Cmd} (hc : cmdAt s h seq = some c) (hop : c.opcode = opLoadImage) (hphase : c.phase = 2)
    (pass : decideFail (heldFail c ++ imageFails s c c.bulk) = none) :
    OnlyRecord (distributed s c (min c.bulk.length (stagingBytes s))) (imageStaged h seq s) := by
  have goes : (c.opcode ≠ opLoadImage || c.phase ≠ 2) = false := by simp [hop, hphase]
  simp only [imageStaged, hc, goes, Bool.false_eq_true, if_false, pass]
  exact complete_onlyRecord ..

/-- The reload begins the job's passes again. -/
theorem reloaded_restarts : passesDone (distributed reloadState reloadCmd 768) 0 = some [0] := by decide +kernel
end Sys2Proof.Machine


namespace Sys2Proof
open Sys2Proof.Machine
/-- Refutes O25: a bound partition may be loaded again out of FAULTED, and the purge that frees it begins its escrow slots' passes anew, so that its
binding does not stay. -/
theorem not_imagesLoadAndUnload : ¬ Obligations.ImagesLoadAndUnload := by
  unfold Obligations.ImagesLoadAndUnload
  rintro ⟨-, staged, -⟩
  obtain ⟨t, runs, -, -, -, binding, -⟩ := staged 0 1 reloadState reloadCmd rfl rfl rfl (by decide) reload_passes
  have ends : imageStaged 0 1 reloadState = t := Host.Outcome.next.inj runs
  have kept : passesDone t 0 = some [1] := (congrArg (Option.map fun b : Binding => b.slots.map EscrowSlot.passDone) binding :)
  have size : min reloadCmd.bulk.length (stagingBytes reloadState) = 768 := by
    rw [reload_bulk, plainImage_length]
    decide
  have loads := imageStaged_distributes (h := 0) (seq := 1) (c := reloadCmd) rfl rfl rfl reload_passes
  rw [size, ends] at loads
  rw [passesDone, partAt_onlyRecord loads] at kept
  exact absurd (kept.symm.trans reloaded_restarts) (by decide)
end Sys2Proof
end

section
/-! SUPPORT. Descriptors that start and end: the statuses of failed checks, the engine's list, and the obligation (R209, R251, R252). -/

namespace Sys2Proof.Machine

/-! ### The statuses of failed checks -/

theorem decideFail_mem {l : List (Nat × Nat)} {f : Nat × Nat} (h : decideFail l = some f) : f ∈ l := by
  have from_ : ∀ (l : List (Nat × Nat)) (b : Option (Nat × Nat)), l.foldl (fun best f =>
      match best with
      | none => some f
      | some b => if statusRank f.1 < statusRank b.1 ∨ (statusRank f.1 = statusRank b.1 ∧ f.2 < b.2) then some f else some b) b = some f
      → b = some f ∨ f ∈ l := by
    intro l
    induction l with
    | nil => exact fun b hb => .inl hb
    | cons x l ih =>
      intro b hb
      rcases ih _ hb with hx | hx
      · cases b with
        | none => exact .inr (List.mem_cons.2 (.inl (Option.some.inj hx).symm))
        | some y =>
          simp only at hx
          split at hx
          · exact .inr (List.mem_cons.2 (.inl (Option.some.inj hx).symm))
          · exact .inl hx
      · exact .inr (List.mem_cons_of_mem _ hx)
  exact (from_ l none h).resolve_left (by simp)

theorem check_nonzero {st : Nat} (h : st ≠ 0) (b : Bool) (o : Nat) : ∀ f ∈ check b st o, f.1 ≠ 0 := by
  intro f hf
  unfold check at hf
  split at hf
  · exact List.mem_singleton.1 hf ▸ h
  · cases hf

theorem extentFails_nonzero (s : State) (p : Part) (host : Bool) (a n off : Nat) : ∀ f ∈ extentFails s p host a n off, f.1 ≠ 0 := by
  simp only [extentFails]
  split
  · exact List.forall_mem_append.2 ⟨check_nonzero (by decide) _ _, check_nonzero (by decide) _ _⟩
  · exact check_nonzero (by decide) _ _

theorem descFieldFails_nonzero (s : State) (q : Nat) (d : DescF) : ∀ f ∈ descFieldFails s q d, f.1 ≠ 0 := by
  have bad : stBadField ≠ 0 := by decide
  unfold descFieldFails
  extract_lets p field remote
  iterate 33 refine List.forall_mem_append.2 ⟨?_, check_nonzero bad _ _⟩
  exact check_nonzero bad _ _

theorem descUnitFails_nonzero (s : State) (q : Nat) (host : Bool) (d : DescF) : ∀ f ∈ descUnitFails s q host d, f.1 ≠ 0 := by
  simp only [descUnitFails, List.forall_mem_append]
  refine ⟨⟨fun f hf => ?_, check_nonzero (by decide) _ _⟩, check_nonzero (by decide) _ _⟩
  obtain ⟨x, -, hx⟩ := List.mem_flatMap.1 hf
  split at hx
  · exact check_nonzero (by decide) _ _ f hx
  · exact extentFails_nonzero _ _ _ _ _ _ f hx

/-- A failed check of a descriptor never gives OK. -/
theorem descFails_nonzero (s : State) (q : Nat) (host : Bool) (d : DescF) : ∀ f ∈ descFails s q host d, f.1 ≠ 0 := by
  refine List.forall_mem_append.2 ⟨descFieldFails_nonzero s q d, ?_⟩
  split
  · exact fun _ hf => absurd hf List.not_mem_nil
  · exact descUnitFails_nonzero s q host d

/-! ### Starting -/

/-- After a failure in an actor's list no descriptor of it starts. -/
theorem mayStartDesc_failed {r : DmaRun} {y : Desc} (ha : r.actor ≠ none) (hy : y ∈ r.descs) (hphase : y.phase ≠ 0) (hst : y.status ≠ 0) (k : Nat)
    (fence : Bool) : mayStartDesc r k fence = false := by
  have failed : (r.descs.any fun d => d.phase ≠ 0 && d.status ≠ 0) = true := List.any_eq_true.2 ⟨y, hy, by simp [hphase, hst]⟩
  rw [mayStartDesc, failed, Option.isSome_iff_ne_none.2 ha]
  simp

/-- A list of which no descriptor is both of a reserved OP and free to start. -/
theorem startReserved_idle {s : State} {q t : Nat} {r : DmaRun} (h : headRun s t = some r)
    (idle : ∀ k x, r.descs[k]? = some x → (1 ≤ (descOf x.bytes).op ∧ (descOf x.bytes).op ≤ 6) ∨ mayStartDesc r k (descOf x.bytes).fence = false) :
    startReserved q t s = s := by
  simp only [startReserved, h]
  refine List.foldl_fixed' (fun k => ?_) _
  simp only [h]
  split
  case h_1 => rfl
  case h_2 x hx => rw [if_pos (by rcases idle k x hx with op | blocked <;> simp [*])]

section
variable {s : State} {q t k op : Nat} {r : DmaRun} {x : Desc}

/-- A row of an operation at a descriptor that may start. -/
theorem runDesc_starts (hq : partOfTile s t = some q) (hr : headRun s t = some r) (hx : r.descs[k]? = some x) (hop : (descOf x.bytes).op = op)
    (hphase : x.phase = 0) (hpoison : x.poisoned = false) (may : mayStartDesc r k (descOf x.bytes).fence = true) :
    runDesc op t k s = startReserved q t (startDesc s q t k r (descOf x.bytes)) := by
  simp [runDesc, hq, hr, hx, hop, hphase, hpoison, may]

/-- The list once descriptor k of it has ended, or begun, in itself. -/
theorem headRun_modDesc (hr : headRun s t = some r) (f : Desc → Desc) : headRun (modDesc s t k f) t = some { r with descs := r.descs.modify k f } :=
  headRun_modHeadRun hr _

/-- A descriptor of an actor's list that fails its checks ends with the failing status, and nothing of the list starts after it. -/
theorem runDesc_fails {f : Nat × Nat} (hq : partOfTile s t = some q) (hr : headRun s t = some r) (hx : r.descs[k]? = some x)
    (hop : (descOf x.bytes).op = op) (hphase : x.phase = 0) (hpoison : x.poisoned = false) (may : mayStartDesc r k (descOf x.bytes).fence = true)
    (ha : r.actor ≠ none) (fails : decideFail (descFails s q false (descOf x.bytes)) = some f) :
    runDesc op t k s = modDesc s t k (fun x => { x with phase := 2, status := f.1 }) := by
  have ended : { x with phase := 2, status := f.1 } ∈ r.descs.modify k (fun x => { x with phase := 2, status := f.1 }) :=
    List.mem_of_getElem? (i := k) (by simp [hx])
  have status : f.1 ≠ 0 := descFails_nonzero _ _ _ _ f (decideFail_mem fails)
  have started : startDesc s q t k r (descOf x.bytes) = modDesc s t k (fun x => { x with phase := 2, status := f.1 }) := by
    simp only [startDesc, Option.isSome_iff_ne_none.2 ha, if_true, fails]
  rw [runDesc_starts hq hr hx hop hphase hpoison may, started]
  exact startReserved_idle (headRun_modDesc hr _) fun j y _ => .inr (mayStartDesc_failed (by exact ha) ended (by simp) status _ _)

/-- A descriptor that moves nothing ends at once. -/
theorem runDesc_empty (hq : partOfTile s t = some q) (hr : headRun s t = some r) (hx : r.descs[k]? = some x)
    (hop : (descOf x.bytes).op = op) (hphase : x.phase = 0) (hpoison : x.poisoned = false) (may : mayStartDesc r k (descOf x.bytes).fence = true)
    (passes : r.actor = none ∨ decideFail (descFails s q false (descOf x.bytes)) = none)
    (ops : ∀ e ∈ r.descs, 1 ≤ (descOf e.bytes).op ∧ (descOf e.bytes).op ≤ 6) (empty : (descOf x.bytes).count * (descOf x.bytes).rows = 0) :
    runDesc op t k s = modDesc s t k (fun x => { x with phase := 2 }) := by
  have started : startDesc s q t k r (descOf x.bytes) = modDesc s t k (fun x => { x with phase := 2 }) := by
    have pass : (if r.actor.isSome then decideFail (descFails s q false (descOf x.bytes)) else none) = none := by
      rcases passes with h | h <;> simp [h]
    simp only [startDesc, pass, empty, if_true]
  rw [runDesc_starts hq hr hx hop hphase hpoison may, started]
  refine startReserved_idle (headRun_modDesc hr _) fun j y hy => .inl ?_
  have hj : (r.descs[j]?.map fun e => e.bytes) = some y.bytes := by
    rw [List.getElem?_modify] at hy
    cases he : r.descs[j]? with
    | none => simp [he] at hy
    | some e =>
      rw [he] at hy
      have hy' := Option.some.inj hy
      rw [← hy']
      split <;> rfl
  obtain ⟨e, he, bytes⟩ := Option.map_eq_some_iff.1 hj
  exact bytes ▸ ops e (List.mem_of_getElem? he)

/-! ### Completing -/

/-- A general unit that holds no stream of a descriptor writes nothing at its end. -/
theorem endRemote_idle {d : DescF} (h : d.check = false ∨ (cvuAt s d.unit).busy = none) : endRemote s q t k d x = s := by
  rw [endRemote, if_pos]
  rcases h with h | h <;> simp [h]

/-- A list of one descriptor that has moved with OK: counted, the run leaves the engine. -/
theorem descriptorComplete_ends (hq : partOfTile s t = some q) (hdma : (tileAt s t).dma = [r]) (hdescs : r.descs = [x]) (hphase : x.phase = 2)
    (hst : x.status = stOk) (hguard : x.guardIdx = none)
    (hunit : (descOf x.bytes).check = false ∨ (cvuAt s (descOf x.bytes).unit).busy = none) (hremote : remotePending s t 0 = false)
    (hfeed : feedPending s (descOf x.bytes) = false) :
    descriptorComplete t 0 s = endRun (regBump (modDesc s t 0 (fun x => { x with phase := 3, got := [] })) (tileReg t 0x780308) 32 32 1) q t
      { r with descs := [{ x with phase := 3, got := [] }] } := by
  have head : headRun s t = some r := by rw [headRun, hdma]; rfl
  have first : r.descs[0]? = some x := by rw [hdescs]; rfl
  have waits : (x.phase ≠ 2 || remotePending s t 0 || feedPending s (descOf x.bytes)) = false := by simp [hphase, hremote, hfeed]
  have counted : headRun (regBump (modDesc s t 0 (fun x => { x with phase := 3, got := [] })) (tileReg t 0x780308) 32 32 1) t
      = some { r with descs := [{ x with phase := 3, got := [] }] } := by
    have own := headRun_modDesc (k := 0) head (fun x => { x with phase := 3, got := [] })
    rw [hdescs] at own
    exact own
  simp only [descriptorComplete, hq, head, first, waits, hst, hguard, Bool.false_eq_true, if_false, if_true, endRemote_idle hunit, countDesc, closeRun,
    counted]
  rw [if_pos (by simp [runEnded])]
end
end Sys2Proof.Machine

namespace Sys2Proof.Machine
section
variable {s : State} {q t : Nat} {r : DmaRun} {x : Desc}

/-- The engine's first list taken off. -/
def listDropped (s : State) (t : Nat) : State := modTile s t (fun y => { y with dma := y.dma.drop 1 })

/-- A run of one descriptor, complete with OK, whose command waits: the command completes with OK and a count of one. -/
theorem endRun_completes {h seq : Nat} {c : Cmd} (hr : r.descs = [x]) (hst : x.status = stOk) (ha : r.actor = none) (hh : r.host = some (h, seq))
    (hc : cmdAt s h seq = some c) : endRun s q t r = complete (listDropped s t) c stOk 1 0xFFFFFFFF 0 0 := by
  have found : cmdAt (modTile s t (fun y => { y with dma := y.dma.drop 1 })) h seq = some c := hc
  simp only [endRun, ha, hh, found, hr]
  simp [withPos, hst, listDropped]

/-- A run of one descriptor, complete with OK: its actor's firing is finished. -/
theorem endRun_finishes {a : Nat} (hr : r.descs = [x]) (hst : x.status = stOk) (hmiss : x.mismatch = false) (ha : r.actor = some a) :
    endRun s q t r = modFiring (listDropped s t) t a (fun f => { f with finished := true, status := stOk }) := by
  simp [endRun, ha, hr, withPos, hst, hmiss, finishList, listDropped]

/-- The state once a descriptor of one has been counted and its list taken off. -/
def oneEnded (s : State) (t : Nat) : State :=
  listDropped (regBump (modDesc s t 0 (fun x => { x with phase := 3, got := [] })) (tileReg t 0x780308) 32 32 1) t

theorem tileAt_oneEnded (hdma : (tileAt s t).dma = [r]) : tileAt (oneEnded s t) t = { tileAt s t with dma := [] } := by
  have dropped : tileAt (oneEnded s t) t = { tileAt (modDesc s t 0 (fun x => { x with phase := 3, got := [] })) t with
      dma := (tileAt (modDesc s t 0 (fun x => { x with phase := 3, got := [] })) t).dma.drop 1 } := by
    rw [oneEnded, listDropped, modTile_own, if_pos rfl]
    rfl
  rw [dropped, modDesc, modHeadRun, modTile_own, if_pos rfl, hdma]
  rfl

theorem oneEnded_counts (s : State) (t : Nat) :
    regField (oneEnded s t) (tileReg t 0x780308) 32 32 = min (regField s (tileReg t 0x780308) 32 32 + 1) (2 ^ 32 - 1) :=
  regField_regBump (modDesc s t 0 (fun x => { x with phase := 3, got := [] })) _ 1 (by decide)

end
end Sys2Proof.Machine

namespace Sys2Proof
open Sys2Proof.Machine

/-- Settles O47: nothing more of a list starts after the descriptor, its statuses of failed checks being none of them OK; with the last one counted
the list ends. -/
theorem descriptorsStartAndComplete : Obligations.DescriptorsStartAndComplete := by
  unfold Obligations.DescriptorsStartAndComplete
  refine ⟨fun q t k op r x s c hc hq hr hx hop hphase hpoison may => ?_, fun q t r x s hq hdma hdescs hphase hst hmiss hguard hunit hremote hfeed => ?_⟩
  · have runs : exec (c t k) s = .next (runDesc op t k s) := by
      simp only [List.mem_cons, Prod.mk.injEq, List.not_mem_nil, or_false] at hc
      rcases hc with ⟨rfl, rfl⟩ | ⟨rfl, rfl⟩ | ⟨rfl, rfl⟩ | ⟨rfl, rfl⟩ | ⟨rfl, rfl⟩ | ⟨rfl, rfl⟩ <;> rfl
    refine ⟨fun f ha fails => ⟨_, runs, ?_⟩, fun passes ops empty => ⟨_, runs, ?_⟩⟩
    · rw [runDesc_fails hq hr hx hop hphase hpoison may ha fails]
      exact ⟨⟨_, headRun_modDesc hr _, by simp [hx]⟩, rfl⟩
    · rw [runDesc_empty hq hr hx hop hphase hpoison may passes ops empty]
      exact ⟨⟨_, headRun_modDesc hr _, by simp [hx]⟩, rfl⟩
  · have ends := descriptorComplete_ends hq hdma hdescs hphase hst hguard hunit hremote hfeed
    have own := tileAt_oneEnded hdma
    have counts := oneEnded_counts s t
    refine ⟨fun h seq c ha hh hc hlen => ?_,
      fun a f ha hrun hf hfin => ⟨modFiring (oneEnded s t) t a (fun f => { f with finished := true, status := stOk }), ?_, ?_, ?_, rfl, counts⟩⟩
    · have completes : descriptorComplete t 0 s = complete (oneEnded s t) c stOk 1 0xFFFFFFFF 0 0 := ends.trans (endRun_completes rfl hst ha hh hc)
      obtain ⟨tiles, mem, regs, -⟩ := same_of_onlyRecord (complete_onlyRecord (oneEnded s t) c stOk 1 0xFFFFFFFF 0 0)
      have tile : tileAt (complete (oneEnded s t) c stOk 1 0xFFFFFFFF 0 0) t = tileAt (oneEnded s t) t := congrArg (fun l : Tab Tile => l.at t {}) tiles
      refine ⟨_, congrArg Host.Outcome.next completes, ?_, complete_recorded ((cmdAt_host hc).1 ▸ hlen) (by decide) _ _ _ _, mem, ?_⟩
      · rw [tile, own]
      · rw [← counts]
        exact congrArg (fun l : Tab Word => field (l.at (tileReg t 0x780308) 0).toNat 32 32) regs
    · exact congrArg Host.Outcome.next (ends.trans (endRun_finishes rfl hst hmiss ha))
    · rw [modFiring, modSched_own, if_pos rfl, own]
    · rw [modFiring, modSched_own, if_pos rfl, own]
      simp [hrun, modFirst, hf, hfin]
end Sys2Proof
end

section
/-! SUPPORT. What a purge leaves: writes, floods and the fabric's part stand behind an abort, the partition gives up its work (R225, R270, R343). -/

namespace Sys2Proof.Machine

/-! ### What stands behind an abort -/

/-- The device's, the ticks' and the trees' state as it was, no slot added, and of each tile nothing changed but its bank queues and its drain. -/
structure Stands (s t : State) : Prop where
  dev : t.dev = s.dev
  tick : t.tick = s.tick
  trees : t.trees = s.trees
  fences : t.fencesSeen = s.fencesSeen
  running : t.mgt.running = s.mgt.running
  slots : ∀ y ∈ t.slots, y ∈ s.slots
  engines : ∀ x, ∃ b d, tileAt t x = { tileAt s x with banks := b, drain := d }

namespace Stands
variable {s t u : State}

theorem of_fields (h : (t.dev, t.tick, t.trees, t.fencesSeen, t.mgt.running, t.slots, t.tiles)
    = (s.dev, s.tick, s.trees, s.fencesSeen, s.mgt.running, s.slots, s.tiles)) : Stands s t := by
  simp only [Prod.mk.injEq] at h
  obtain ⟨dev, tick, trees, fences, running, slots, tiles⟩ := h
  exact ⟨dev, tick, trees, fences, running, fun y hy => slots ▸ hy, fun x => ⟨(tileAt s x).banks, (tileAt s x).drain, by rw [tileAt, tiles]; rfl⟩⟩

theorem refl (s : State) : Stands s s := of_fields rfl

theorem trans (h : Stands s t) (g : Stands t u) : Stands s u where
  dev := g.dev.trans h.dev
  tick := g.tick.trans h.tick
  trees := g.trees.trans h.trees
  fences := g.fences.trans h.fences
  running := g.running.trans h.running
  slots y hy := h.slots y (g.slots y hy)
  engines x := by
    obtain ⟨b, d, hx⟩ := h.engines x
    obtain ⟨b', d', gx⟩ := g.engines x
    exact ⟨b', d', by rw [gx, hx]⟩

theorem of_modTile {f : Tile → Tile} (h : ∀ x, ∃ b d, f x = { x with banks := b, drain := d }) (s : State) (k : Nat) : Stands s (modTile s k f) where
  dev := rfl
  tick := rfl
  trees := rfl
  fences := rfl
  running := rfl
  slots _ hy := hy
  engines x := by
    rw [modTile_own]
    split
    case isTrue hk => exact hk ▸ h (tileAt s k)
    case isFalse => exact ⟨_, _, rfl⟩

theorem of_modDrain (s : State) (k : Nat) (f : Drain → Drain) : Stands s (modDrain s k f) := of_modTile (fun _ => ⟨_, _, rfl⟩) s k

end Stands

/-- The same, and every partition as it was. -/
def Backstage (s t : State) : Prop := Stands s t ∧ ∀ r, partAt t r = partAt s r

namespace Backstage
variable {s t u : State}

theorem refl (s : State) : Backstage s s := ⟨.refl s, fun _ => rfl⟩

theorem trans (h : Backstage s t) (g : Backstage t u) : Backstage s u := ⟨h.1.trans g.1, fun r => (g.2 r).trans (h.2 r)⟩

theorem of_fields (h : (t.dev, t.tick, t.trees, t.fencesSeen, t.mgt.running, t.slots, t.tiles)
    = (s.dev, s.tick, s.trees, s.fencesSeen, s.mgt.running, s.slots, s.tiles)) (parts : t.parts = s.parts) : Backstage s t :=
  ⟨.of_fields h, fun r => by rw [partAt, parts, partAt]⟩

theorem of_trace (s : State) (unit ev arg : Nat) : Backstage s (trace s unit ev arg) := of_fields rfl rfl

theorem of_logWith (s : State) (code test verdict index part : Nat) (d : List Nat) : Backstage s (logWith s code test verdict index part d) :=
  of_fields rfl rfl

theorem of_logError (s : State) (code index testIdx part : Nat) (afterPurge : Bool) (d : List Nat) :
    Backstage s (logError s code index testIdx part afterPurge d) := by
  have queued : ∀ (u : State) (kind : Nat), Backstage u (queueTest u kind testIdx afterPurge part) := fun u kind => by
    unfold queueTest
    split <;> exact of_fields rfl rfl
  exact .trans (.trans (of_logWith _ _ _ _ _ _ _) (of_trace _ _ _ _)) (queued _ _)

end Backstage

/-! ### Writes, floods and fabric -/

theorem nsUpset_backstage (s : State) (w : Nat) (double : Bool) : Backstage s (nsUpset s w double) := by
  unfold nsUpset
  cases double with
  | false => exact .of_fields rfl rfl
  | true =>
    refine .trans ?_ (.of_logError _ _ _ _ _ _ _)
    split <;> exact .of_fields rfl rfl

theorem nsErrors_backstage (s : State) (a n : Nat) : Backstage s (nsErrors s a n) := by
  refine foldl_related (R := Backstage) .refl .trans (fun s x => ?_) s.upsets s
  split
  · exact nsUpset_backstage s x.1 x.2
  · exact .refl s

theorem backstage_of_queues {f : Tile → Tile} (h : ∀ x, ∃ b, f x = { x with banks := b }) (s : State) (k : Nat) : Backstage s (modTile s k f) :=
  ⟨.of_modTile (fun x => (h x).elim fun b hb => ⟨b, x.drain, hb⟩) s k, fun _ => rfl⟩

theorem answerLast_backstage (s : State) (t : Nat) (b : BankReq) (p : Bool) (d : List Byte) : Backstage s (answerLast s t b p d) := by
  unfold answerLast
  split
  · exact .refl s
  · exact .of_fields rfl rfl

theorem serveRow_backstage (s : State) (t : Nat) (b : BankReq) : Backstage s (serveRow s t b) := by
  by_cases h : b.req.isWrite = true
  · rw [serveRow_write h]
    refine .trans ?_ (answerLast_backstage _ t b false [])
    exact .of_fields rfl rfl
  · rw [serveRow, if_neg h]
    refine .trans (nsErrors_backstage s b.addr b.len) (.trans ?_ (answerLast_backstage _ t b _ _))
    exact backstage_of_queues (fun x => ⟨_, rfl⟩) _ t

theorem serveBank_backstage (s : State) (t bank : Nat) (b : BankReq) : Backstage s (serveBank s t bank b) := by
  refine .trans (backstage_of_queues (fun x => ?_) s t) (serveRow_backstage _ t b)
  exact ⟨_, admitPorts_frame { x with banks := x.banks.put bank ((x.banks.at bank []).erase b) }⟩

theorem serveOlder_backstage (n : Nat) (s : State) (t bank : Nat) : Backstage s (serveOlder n s t bank) := by
  induction n generalizing s with
  | zero => exact .refl s
  | succ n ih =>
    unfold serveOlder
    split
    · exact .refl s
    · split
      · exact .trans (serveBank_backstage s t bank _) (ih _)
      · exact .refl s

theorem bankTurn_backstage (s : State) (a n : Nat) : Backstage s (bankTurn s a n) := by
  unfold bankTurn
  split
  · exact .refl s
  · exact foldl_related (R := Backstage) .refl .trans (fun s l => serveOlder_backstage 64 s _ _) _ s

theorem farWriteUnit_backstage (s : State) (a : Nat) (bs : List Byte) : Backstage s (farWriteUnit s a bs) := by
  simp only [farWriteUnit]
  split
  · unfold fsFirstErr
    simp only
    split <;> exact .of_fields rfl rfl
  · split <;> exact .of_fields rfl rfl

theorem farWriteF_backstage (n : Nat) (s : State) (a : Nat) (bs : List Byte) : Backstage s (farWriteF n s a bs) := by
  induction n generalizing s a bs with
  | zero => exact .refl s
  | succ n ih =>
    unfold farWriteF
    split
    · exact .refl s
    · exact .trans (farWriteUnit_backstage s a _) (ih _ _ _)

theorem spanWrite_backstage (s : State) (a : Nat) (bs : List Byte) : Backstage s (spanWrite s a bs) := by
  unfold spanWrite
  split
  · split
    · exact ⟨.of_modDrain s _ _, fun _ => rfl⟩
    · exact .trans (bankTurn_backstage s a _) (.of_fields rfl rfl)
    · exact .of_fields rfl rfl
    · exact .refl s
  · exact farWriteF_backstage _ s a bs

theorem freeGuards_backstage (s : State) (gone : Guard → Bool) : Backstage s (freeGuards s gone) := by
  unfold freeGuards
  extract_lets held kept
  have freed : Backstage s kept := .of_fields rfl rfl
  refine freed.trans ?_
  refine foldl_related (R := Backstage) .refl .trans (fun s w => ?_) held kept
  exact farWriteUnit_backstage s w.1 w.2

theorem writeNarrow_backstage (s : State) (q : Nat) (r : Recipe) (v step lo hi : Nat) : Backstage s (writeNarrow s q r v step lo hi) := by
  unfold writeNarrow
  split
  · exact .refl s
  · exact foldl_related (R := Backstage) .refl .trans (fun s n => spanWrite_backstage s _ _) _ s

theorem sendSymbol_backstage (s : State) (p : Nat) (c : CtlSlot) : Backstage s (sendSymbol s p c) := by
  unfold sendSymbol
  split
  · exact .refl s
  · split <;> exact .of_fields rfl rfl

theorem flood_backstage (s : State) (q : Nat) (c : CtlSlot) : Backstage s (flood s q c) := by
  unfold flood
  simp only
  split
  · exact .refl s
  · exact foldl_related (R := Backstage) .refl .trans (fun s p => sendSymbol_backstage s p c) _ s

theorem sendEvent_backstage (s : State) (code part r0 r1 : Nat) : Backstage s (sendEvent s code part r0 r1) := by
  refine .trans (foldl_related (R := Backstage) .refl .trans (fun s h => ?_) (List.range 4) s) (.of_fields rfl rfl)
  split
  · exact .of_fields rfl rfl
  · exact .refl s

theorem cvAbandon_backstage (s : State) (q : Nat) : Backstage s (cvAbandon s q) :=
  foldl_related (R := Backstage) .refl .trans (op := fun s u => abandonStream s u q) (fun _ _ => .of_fields rfl rfl) _ s

theorem releaseSlot_backstage (s : State) (n : Nat) : Backstage s (releaseSlot s n) :=
  ⟨⟨rfl, rfl, rfl, rfl, rfl, fun _ hy => (List.mem_filter.1 hy).1, fun _ => ⟨_, _, rfl⟩⟩, fun _ => rfl⟩

theorem purgeFabric_backstage (s : State) (q a : Nat) : Backstage s (purgeFabric s q a) := by
  unfold purgeFabric releaseSlots
  refine .trans ?_ (foldl_related (R := Backstage) .refl .trans (fun s (x : ReqSlot) => releaseSlot_backstage s x.num) _ _)
  exact .of_fields rfl rfl

/-! ### The partition that is purged -/

/-- A partition apart from what a purge takes: its requests, its settlement state, its escrow slots' passes, its exchanges and trees. -/
def PurgedOf (p p' : Part) : Prop :=
  ∃ w o z b k e t x, p' = { p with
      regWait := w, regOps := o, settle := z, binding := b, buckets := k, earlyDeposits := e, trees := t, spoilt := x }
    ∧ b.map Binding.fenced = p.binding.map Binding.fenced

theorem PurgedOf.refl (p : Part) : PurgedOf p p := ⟨_, _, _, _, _, _, _, _, rfl, rfl⟩

theorem PurgedOf.trans {p p' p'' : Part} (h : PurgedOf p p') (g : PurgedOf p' p'') : PurgedOf p p'' := by
  obtain ⟨_, _, _, _, _, _, _, _, rfl, same⟩ := h
  obtain ⟨_, _, _, _, _, _, _, _, rfl, same'⟩ := g
  exact ⟨_, _, _, _, _, _, _, _, rfl, same'.trans same⟩

/-- What a purge of partition q leaves behind an abort. -/
def PurgeLeaves (q : Nat) (s t : State) : Prop :=
  Stands s t ∧ (∀ r, r ≠ q → partAt t r = partAt s r) ∧ PurgedOf (partAt s q) (partAt t q)

namespace PurgeLeaves
variable {q : Nat} {s t u : State}

theorem of_backstage (h : Backstage s t) : PurgeLeaves q s t := ⟨h.1, fun r _ => h.2 r, h.2 q ▸ .refl _⟩

theorem trans (h : PurgeLeaves q s t) (g : PurgeLeaves q t u) : PurgeLeaves q s u := by
  obtain ⟨stands, others, own⟩ := h
  obtain ⟨stands', others', own'⟩ := g
  exact ⟨stands.trans stands', fun r hr => (others' r hr).trans (others r hr), own.trans own'⟩

theorem of_modPart {f : Part → Part} (h : ∀ p, PurgedOf p (f p)) (s : State) : PurgeLeaves q s (modPart s q f) := by
  refine ⟨.of_fields rfl, fun r hr => ?_, ?_⟩
  · rw [modPart_own, if_neg (Ne.symm hr)]
  · rw [modPart_own, if_pos rfl]
    exact h _

theorem of_modSettle (s : State) (f : Settle → Settle) : PurgeLeaves q s (modSettle s q f) :=
  of_modPart (fun _ => ⟨_, _, _, _, _, _, _, _, rfl, rfl⟩) s

theorem of_modBinding {f : Binding → Binding} (h : ∀ b, (f b).fenced = b.fenced) (s : State) : PurgeLeaves q s (modBinding s q f) :=
  of_modPart (fun p => ⟨_, _, _, _, _, _, _, _, rfl, by cases p.binding <;> simp [h]⟩) s

end PurgeLeaves

section
variable (s : State) (q a : Nat) (wide : Bool)

theorem purgeRequests_leaves : PurgeLeaves q s (purgeRequests s q a) := by
  unfold purgeRequests
  extract_lets tiles keep s1
  have slots : PurgeLeaves q s s1 := .of_backstage (.of_fields rfl rfl)
  exact slots.trans (.of_modPart (fun _ => ⟨_, _, _, _, _, _, _, _, rfl, rfl⟩) s1)

theorem rebuildNarrow_leaves : PurgeLeaves q s (rebuildNarrow s q) := by
  unfold rebuildNarrow
  extract_lets p rs
  refine .trans (.of_modSettle s _) (.of_backstage (foldl_related (R := Backstage) .refl .trans (fun s i => ?_) _ _))
  split
  · exact writeNarrow_backstage _ _ _ _ _ _ _
  · exact .refl s

theorem purgeMessages_leaves : PurgeLeaves q s (purgeMessages s q a wide) := .of_modSettle s _

theorem guardsFree_leaves : PurgeLeaves q s (guardsFree s q) := .of_backstage (freeGuards_backstage s _)

theorem purgePart_leaves : PurgeLeaves q s (purgePart s q a wide) := by
  unfold purgePart
  extract_lets s1 s2 s3 s4
  have fabric : PurgeLeaves q s (purgeFabric (cvAbandon s q) q a) :=
    .of_backstage ((cvAbandon_backstage s q).trans (purgeFabric_backstage (cvAbandon s q) q a))
  have requests := fabric.trans (purgeRequests_leaves (purgeFabric (cvAbandon s q) q a) q a)
  have messages := requests.trans (purgeMessages_leaves (purgeRequests (purgeFabric (cvAbandon s q) q a) q a) q a wide)
  have guards : PurgeLeaves q s s1 := messages.trans (guardsFree_leaves _ q)
  have narrow : PurgeLeaves q s s2 := guards.trans (rebuildNarrow_leaves s1 q)
  have exchanges : PurgeLeaves q s s3 := narrow.trans (.of_modPart (fun _ => ⟨_, _, _, _, _, _, _, _, rfl, rfl⟩) s2)
  have settled : PurgeLeaves q s s4 := exchanges.trans (.of_modSettle s3 _)
  refine settled.trans (.of_modBinding (fun b => ?_) s4)
  rfl

theorem purgePart_buckets : (partAt (purgePart s q a wide) q).buckets = [] := by
  simp only [purgePart, modBinding, modSettle, modPart_own, if_true]
end
end Sys2Proof.Machine
end

section
/-! SUPPORT. The tiles' purge, one after the other (R101, R225). -/

namespace Sys2Proof.Machine

/-! ### The tiles' purge -/

/-- A tile purged from tick a: of its lists those that the purge leaves, no plan, no open stream, no context. -/
def TilePurged (a : Nat) (x y : Tile) : Prop :=
  y.dma = x.dma.filter (fun r => !purgesRun a r) ∧ y.arr.plans = [] ∧ y.vec.streams = [] ∧ y.sched.ctx = []

theorem TilePurged.again {a : Nat} {x y z : Tile} (h : TilePurged a x y) (g : TilePurged a y z) : TilePurged a x z := by
  obtain ⟨dma, -⟩ := h
  obtain ⟨dma', rest⟩ := g
  exact ⟨by rw [dma', dma, List.filter_filter]; simp, rest⟩

/-- Nothing differs but the tiles, the accepted commands, the host slots and the outbox. -/
def OnlyTiles (s t : State) : Prop := t = { s with tiles := t.tiles, hosts := t.hosts, cmds := t.cmds, out := t.out }

theorem OnlyTiles.refl (s : State) : OnlyTiles s s := rfl

theorem OnlyTiles.trans {s t u : State} (h : OnlyTiles s t) (g : OnlyTiles t u) : OnlyTiles s u := by
  unfold OnlyTiles at *
  rw [g, h]

theorem endPurgedRun_onlyRecord (s : State) (r : DmaRun) : OnlyRecord s (endPurgedRun s r) := by
  unfold endPurgedRun
  split
  · split
    · exact complete_onlyRecord ..
    · exact onlyRecord_refl s
  · exact onlyRecord_refl s

theorem endPurgedRuns_onlyRecord (l : List DmaRun) (s : State) : OnlyRecord s (l.foldl endPurgedRun s) :=
  foldl_related (R := OnlyRecord) onlyRecord_refl onlyRecord_trans endPurgedRun_onlyRecord l s

theorem OnlyTiles.of_onlyRecord {s t : State} (h : OnlyRecord s t) : OnlyTiles s t := by
  rw [OnlyRecord] at h
  rw [OnlyTiles, h]

theorem OnlyTiles.of_modTile (s : State) (t : Nat) (f : Tile → Tile) : OnlyTiles s (modTile s t f) := rfl

theorem purgeTile_onlyTiles (a : Nat) (s : State) (t : Nat) : OnlyTiles s (purgeTile a s t) := by
  unfold purgeTile
  extract_lets s1 s2 s3
  have stopped : OnlyTiles s (arrayStop s t) := by
    unfold arrayStop
    exact .trans (.of_modTile s t _) (.of_modTile _ t _)
  have engines : OnlyTiles s s1 := stopped.trans (.trans (.of_modTile _ t _) (.of_modTile _ t _))
  have scheduler : OnlyTiles s s3 := engines.trans (.trans (.of_modTile s1 t _) (.of_modTile s2 t _))
  exact scheduler.trans (.of_onlyRecord (endPurgedRuns_onlyRecord _ s3))

theorem tileAt_onlyRecord {s t : State} (h : OnlyRecord s t) (x : Nat) : tileAt t x = tileAt s x :=
  congrArg (fun l : Tab Tile => l.at x {}) (same_of_onlyRecord h).1

theorem purgeTile_purges (a : Nat) (s : State) (t : Nat) : TilePurged a (tileAt s t) (tileAt (purgeTile a s t) t) := by
  unfold purgeTile
  extract_lets s1 s2 s3
  rw [tileAt_onlyRecord (endPurgedRuns_onlyRecord _ s3)]
  simp only [s3, s2, s1, modTile_own, modDrain_own, modArr_own, modVec_own, engineStop, arrayStop, if_true]
  exact ⟨rfl, rfl, rfl, rfl⟩

theorem purgeTile_others (a : Nat) (s : State) {t x : Nat} (h : x ≠ t) : tileAt (purgeTile a s t) x = tileAt s x := by
  unfold purgeTile
  extract_lets s1 s2 s3
  rw [tileAt_onlyRecord (endPurgedRuns_onlyRecord _ s3)]
  simp only [s3, s2, s1, modTile_own, modDrain_own, modArr_own, modVec_own, engineStop, arrayStop, if_neg h.symm]

/-- The tiles of a list purged one after the other. -/
theorem purgeTiles_purge (a : Nat) (l : List Nat) (s : State) : OnlyTiles s (l.foldl (purgeTile a) s)
    ∧ (∀ x ∈ l, TilePurged a (tileAt s x) (tileAt (l.foldl (purgeTile a) s) x))
    ∧ ∀ x, x ∉ l → tileAt (l.foldl (purgeTile a) s) x = tileAt s x := by
  induction l generalizing s with
  | nil => exact ⟨rfl, fun x hx => absurd hx List.not_mem_nil, fun _ _ => rfl⟩
  | cons t l ih =>
    obtain ⟨only, purged, others⟩ := ih (purgeTile a s t)
    refine ⟨(purgeTile_onlyTiles a s t).trans only, fun x hx => ?_, fun x hx => ?_⟩
    · by_cases hl : x ∈ l
      · by_cases ht : x = t
        · exact ht ▸ (purgeTile_purges a s t).again (ht ▸ purged x hl)
        · exact purgeTile_others a s ht ▸ purged x hl
      · obtain rfl : x = t := by simpa [hl] using hx
        exact (others x hl) ▸ purgeTile_purges a s x
    · obtain ⟨ht, hl⟩ := not_or.1 (mt List.mem_cons.2 hx)
      exact (others x hl).trans (purgeTile_others a s ht)
end Sys2Proof.Machine
end

section
/-! SUPPORT. The purge of a running partition from its beginning to ABORTING (R225 to R227). -/

namespace Sys2Proof.Machine

/-! ### The broadcast and the partition's state -/

theorem OnlyTiles.partAt {s t : State} (h : OnlyTiles s t) (r : Nat) : partAt t r = partAt s r := by
  rw [OnlyTiles] at h
  rw [h]
  rfl

theorem broadcastPurge_partAt (s : State) (q r : Nat) : partAt (broadcastPurge s q) r
    = if q = r then { partAt s q with purge := (partAt s q).purge.map (fun x => { x with sent := true }) } else partAt s r := by
  unfold broadcastPurge
  extract_lets a s1
  have kept := fun x => (purgeTiles_purge a (partTiles (partAt s q)) s).1.partAt x
  rw [modPart_own, kept, kept]

theorem broadcastPurge_purges (s : State) (q a : Nat) (h : (partAt s q).purge.map Purge.abortTick = some a) :
    ∀ x ∈ partTiles (partAt s q), TilePurged a (tileAt s x) (tileAt (broadcastPurge s q) x) := by
  intro x hx
  have purged := (purgeTiles_purge a (partTiles (partAt s q)) s).2.1 x hx
  unfold broadcastPurge
  rw [h]
  exact purged

theorem setPartState_backstage (s : State) (q : Nat) (st : PartState) : Backstage (modPart s q (fun p => { p with state := st })) (setPartState s q st) := by
  unfold setPartState
  extract_lets old
  split
  case isTrue h =>
    refine ⟨.of_fields rfl, fun r => ?_⟩
    rw [modPart_own]
    split
    case isTrue hr => rw [← hr, ← h]
    case isFalse => rfl
  case isFalse => exact .trans (.of_trace _ 0 2 _) (sendEvent_backstage _ _ _ _ _)

theorem setPartState_partAt (s : State) (q r : Nat) (st : PartState) :
    partAt (setPartState s q st) r = if q = r then { partAt s q with state := st } else partAt s r := by
  rw [(setPartState_backstage s q st).2, modPart_own]

theorem setPartState_engines (s : State) (q : Nat) (st : PartState) (x : Nat) :
    ∃ b d, tileAt (setPartState s q st) x = { tileAt s x with banks := b, drain := d } :=
  (setPartState_backstage s q st).1.engines x

/-! ### The purge of a running partition begun -/

theorem PurgedOf.partTiles {p p' : Part} (h : PurgedOf p p') : partTiles p' = partTiles p := by
  obtain ⟨_, _, _, _, _, _, _, _, rfl, -⟩ := h
  rfl

/-- The partition once its attempt has been given up. -/
def purgeBegun (p : Part) (tiles : List Nat) (a : Nat) (faulted wide : Bool) : Part :=
  { p with
    ctx := abandonAttempt p.ctx p.buckets wide
    replayAt := if p.state = .held then p.replayAt else some (a + (imageOf p).resumeGap)
    replay := true
    preemptDue := false
    purge := some { tiles := tiles, abortTick := a, faulted := faulted || ((p.purge.map Purge.faulted).getD false), sent := false } }

section
variable {s : State} {q a : Nat} {faulted wide : Bool}

/-- The state when the attempt has been given up and all but the tiles purged. -/
def heldBack (s : State) (q a : Nat) (faulted wide : Bool) : State :=
  purgePart (modPart s q (fun x => purgeBegun x (purgeTiles s q) a faulted wide)) q a wide

/-- And when the tiles have been told, where the controller runs. -/
def toldTiles (s : State) (q a : Nat) (faulted wide : Bool) : State :=
  if (heldBack s q a faulted wide).mgt.running then broadcastPurge (heldBack s q a faulted wide) q else heldBack s q a faulted wide

theorem beginPurge_eq (s : State) (q a : Nat) (faulted wide : Bool) : beginPurge s q a faulted wide
    = if (partAt s q).state = .running then setPartState (toldTiles s q a faulted wide) q .aborting else toldTiles s q a faulted wide := rfl

theorem heldBack_own (s : State) (q a : Nat) (faulted wide : Bool) :
    PurgedOf (purgeBegun (partAt s q) (purgeTiles s q) a faulted wide) (partAt (heldBack s q a faulted wide) q) := by
  have own := (purgePart_leaves (modPart s q (fun x => purgeBegun x (purgeTiles s q) a faulted wide)) q a wide).2.2
  rwa [modPart_own, if_pos rfl] at own

theorem heldBack_others {r : Nat} (hr : r ≠ q) : partAt (heldBack s q a faulted wide) r = partAt s r := by
  rw [heldBack, (purgePart_leaves _ q a wide).2.1 r hr, modPart_own, if_neg (Ne.symm hr)]

theorem heldBack_stands (s : State) (q a : Nat) (faulted wide : Bool) : Stands s (heldBack s q a faulted wide) := by
  have begun : Stands s (modPart s q (fun x => purgeBegun x (purgeTiles s q) a faulted wide)) := .of_fields rfl
  exact begun.trans (purgePart_leaves _ q a wide).1

theorem toldTiles_own (s : State) (q a : Nat) (faulted wide : Bool) : ∃ x, partAt (toldTiles s q a faulted wide) q
    = { partAt (heldBack s q a faulted wide) q with purge := some x } ∧ x.abortTick = a
      ∧ x.faulted = (faulted || (((partAt s q).purge.map Purge.faulted).getD false)) := by
  obtain ⟨w, o, z, b, k, e, t, x, own, -⟩ := heldBack_own s q a faulted wide
  unfold toldTiles
  split
  · rw [broadcastPurge_partAt, if_pos rfl, own]
    exact ⟨_, rfl, rfl, rfl⟩
  · rw [own]
    exact ⟨_, rfl, rfl, rfl⟩

theorem toldTiles_others {r : Nat} (hr : r ≠ q) : partAt (toldTiles s q a faulted wide) r = partAt s r := by
  unfold toldTiles
  split
  · rw [broadcastPurge_partAt, if_neg (Ne.symm hr), heldBack_others hr]
  · exact heldBack_others hr

theorem heldBack_due (s : State) (q a : Nat) (faulted wide : Bool) : (partAt (heldBack s q a faulted wide) q).purge.map Purge.abortTick = some a := by
  obtain ⟨_, _, _, _, _, _, _, _, own, -⟩ := heldBack_own s q a faulted wide
  rw [own]
  rfl

theorem heldBack_partTiles (s : State) (q a : Nat) (faulted wide : Bool) : partTiles (partAt (heldBack s q a faulted wide) q) = partTiles (partAt s q) :=
  (heldBack_own s q a faulted wide).partTiles

theorem toldTiles_tiles (hrun : s.mgt.running = true) {x : Nat} (hx : x ∈ partTiles (partAt s q)) :
    TilePurged a (tileAt s x) (tileAt (toldTiles s q a faulted wide) x) := by
  have stands := heldBack_stands s q a faulted wide
  have running : (heldBack s q a faulted wide).mgt.running = true := stands.running.trans hrun
  have told : toldTiles s q a faulted wide = broadcastPurge (heldBack s q a faulted wide) q := if_pos running
  rw [← heldBack_partTiles s q a faulted wide] at hx
  obtain ⟨dma, rest⟩ := broadcastPurge_purges (heldBack s q a faulted wide) q a (heldBack_due s q a faulted wide) x hx
  obtain ⟨b, d, engines⟩ := stands.engines x
  rw [engines] at dma
  rw [told]
  exact ⟨dma, rest⟩

theorem TilePurged.of_engines {x y z : Tile} (h : TilePurged a x y) (hz : ∃ b d, z = { y with banks := b, drain := d }) : TilePurged a x z := by
  obtain ⟨_, _, rfl⟩ := hz
  exact h

/-- A running partition whose purge begins is ABORTING. -/
theorem beginPurge_aborts (hstate : (partAt s q).state = .running) (hpurge : (partAt s q).purge = none) {t : State}
    (ht : beginPurge s q a faulted wide = t) :
    let p := partAt s q
    let p' := partAt t q
    p'.state = .aborting ∧ p'.aborted = p.aborted ∧ p'.abortEpoch = p.abortEpoch ∧ p'.replay = true
      ∧ p'.replayAt = some (a + (imageOf p).resumeGap) ∧ p'.ctx.active = false ∧ p'.buckets = []
      ∧ (∃ x, p'.purge = some x ∧ x.abortTick = a ∧ x.faulted = faulted)
      ∧ (s.mgt.running = true → ∀ x ∈ partTiles p, TilePurged a (tileAt s x) (tileAt t x))
      ∧ ∀ r, r ≠ q → partAt t r = partAt s r := by
  intro p p'
  rw [beginPurge_eq, if_pos hstate] at ht
  have buckets : (partAt (heldBack s q a faulted wide) q).buckets = [] := purgePart_buckets _ q a wide
  obtain ⟨w, o, z, b, k, e, tr, sp, own, -⟩ := heldBack_own s q a faulted wide
  obtain ⟨x, told, tick, fault⟩ := toldTiles_own s q a faulted wide
  have part : p' = { partAt (toldTiles s q a faulted wide) q with state := .aborting } := by
    rw [show p' = partAt t q from rfl, ← ht, setPartState_partAt, if_pos rfl]
  rw [told] at part
  refine ⟨?_, ?_, ?_, ?_, ?_, ?_, ?_, ⟨x, ?_, tick, ?_⟩, fun hrun y hy => ?_, fun r hr => ?_⟩
  · rw [part]
  · rw [part, own]; rfl
  · rw [part, own]; rfl
  · rw [part, own]; rfl
  · rw [part, own]
    simp [purgeBegun, hstate, p]
  · rw [part, own]; rfl
  · rw [part, buckets]
  · rw [part]
  · rw [fault, hpurge]; simp
  · rw [← ht]
    exact (toldTiles_tiles hrun hy).of_engines (setPartState_engines _ q .aborting y)
  · rw [← ht, setPartState_partAt, if_neg (Ne.symm hr), toldTiles_others hr]
end
end Sys2Proof.Machine
end

section
/-! SUPPORT. The abort of a step, from its mark to its purge (R225, R226, R234, R313). -/

namespace Sys2Proof.Machine

section
variable {s t u : State} {q a : Nat} {faulted wide : Bool}

/-! ### An abort leaves the rest of the device as it was -/

/-- What an abort of partition q leaves: the device's, the ticks' and the trees' state, the other partitions, and of its own whether its job has
fenced it and its part in a join; it adds no slot. -/
structure AbortLeaves (q : Nat) (s t : State) : Prop where
  dev : t.dev = s.dev
  tick : t.tick = s.tick
  trees : t.trees = s.trees
  fences : t.fencesSeen = s.fencesSeen
  slots : ∀ y ∈ t.slots, y ∈ s.slots
  others : ∀ r, r ≠ q → partAt t r = partAt s r
  fenced : (partAt t q).binding.map Binding.fenced = (partAt s q).binding.map Binding.fenced
  join : (partAt t q).join = (partAt s q).join

theorem AbortLeaves.refl (q : Nat) (s : State) : AbortLeaves q s s := ⟨rfl, rfl, rfl, rfl, fun _ h => h, fun _ _ => rfl, rfl, rfl⟩

theorem AbortLeaves.trans (h : AbortLeaves q s t) (g : AbortLeaves q t u) : AbortLeaves q s u where
  dev := g.dev.trans h.dev
  tick := g.tick.trans h.tick
  trees := g.trees.trans h.trees
  fences := g.fences.trans h.fences
  slots y hy := h.slots y (g.slots y hy)
  others r hr := (g.others r hr).trans (h.others r hr)
  fenced := g.fenced.trans h.fenced
  join := g.join.trans h.join

theorem AbortLeaves.of_purge (h : PurgeLeaves q s t) : AbortLeaves q s t := by
  obtain ⟨stands, others, own⟩ := h
  obtain ⟨_, _, _, _, _, _, _, _, eq, same⟩ := own
  refine ⟨stands.dev, stands.tick, stands.trees, stands.fences, stands.slots, others, ?_, ?_⟩
  all_goals rw [eq]
  exact same

theorem AbortLeaves.of_backstage (h : Backstage s t) : AbortLeaves q s t := .of_purge (.of_backstage h)

theorem AbortLeaves.of_modPart {f : Part → Part} (h : ∀ p, ((f p).binding, (f p).join) = (p.binding, p.join)) (s : State) : AbortLeaves q s (modPart s q f) where
  dev := rfl
  tick := rfl
  trees := rfl
  fences := rfl
  slots _ hy := hy
  others r hr := by rw [modPart_own, if_neg (Ne.symm hr)]
  fenced := by rw [modPart_own, if_pos rfl, (Prod.mk.inj (h _)).1]
  join := by rw [modPart_own, if_pos rfl, (Prod.mk.inj (h _)).2]

theorem AbortLeaves.of_onlyTiles (h : OnlyTiles s t) : AbortLeaves q s t := by
  have parts := h.partAt
  rw [OnlyTiles] at h
  rw [h] at parts ⊢
  exact ⟨rfl, rfl, rfl, rfl, fun _ hy => hy, fun r _ => rfl, rfl, rfl⟩

theorem broadcastPurge_leaves (s : State) (q : Nat) : AbortLeaves q s (broadcastPurge s q) := by
  unfold broadcastPurge
  extract_lets a s1
  have told : AbortLeaves q s s1 := .of_onlyTiles (purgeTiles_purge a (partTiles (partAt s q)) s).1
  refine told.trans (.of_modPart (fun p => ?_) s1)
  rfl

theorem setPartState_leaves (s : State) (q : Nat) (st : PartState) : AbortLeaves q s (setPartState s q st) := by
  refine .trans (.of_modPart (fun p => ?_) s) (.of_backstage (setPartState_backstage s q st))
  rfl

theorem toldTiles_leaves (s : State) (q a : Nat) (faulted wide : Bool) : AbortLeaves q s (toldTiles s q a faulted wide) := by
  have begun : AbortLeaves q s (modPart s q (fun x => purgeBegun x (purgeTiles s q) a faulted wide)) := by
    refine .of_modPart (fun p => ?_) s
    rfl
  have back : AbortLeaves q s (heldBack s q a faulted wide) := begun.trans (.of_purge (purgePart_leaves _ q a wide))
  unfold toldTiles
  split
  · exact back.trans (broadcastPurge_leaves _ q)
  · exact back

theorem beginPurge_leaves (s : State) (q a : Nat) (faulted wide : Bool) : AbortLeaves q s (beginPurge s q a faulted wide) := by
  rw [beginPurge_eq]
  split
  · exact (toldTiles_leaves s q a faulted wide).trans (setPartState_leaves _ q .aborting)
  · exact toldTiles_leaves s q a faulted wide

/-! ### The abort of a step -/

/-- The abort's mark: it is flooded and voted, its tick recorded, its epoch advanced. -/
def abortMarked (s : State) (q cause a : Nat) : State :=
  let p := partAt s q
  let s1 := flood s q (abortSlot p p.abortEpoch a cause)
  let s2 := if isFencedPart p then s1 else raiseVote s1 q voteAbort
  let s3 := modPart s2 q (fun x => { x with aborted := some (x.abortEpoch, a), abortEpoch := next16 x.abortEpoch })
  trace s3 (unitKey 3 0) 4 (q * 256 + cause)

theorem doAbort_eq (s : State) (q cause a : Nat) (faulted wide : Bool) : doAbort s q cause a faulted wide
    = beginPurge (abortMarked s q cause a) q a faulted wide := rfl

/-- What the mark leaves of the device, and makes of the partition. -/
theorem abortMarked_marks (s : State) (q cause a : Nat) : Stands s (abortMarked s q cause a)
    ∧ (∀ r, r ≠ q → partAt (abortMarked s q cause a) r = partAt s r)
    ∧ ∃ v, partAt (abortMarked s q cause a) q = { partAt s q with
        ctx := { (partAt s q).ctx with votes := v }
        aborted := some ((partAt s q).abortEpoch, a), abortEpoch := next16 (partAt s q).abortEpoch } := by
  unfold abortMarked
  extract_lets p s1 s2 s3
  have flooded : Backstage s s1 := flood_backstage s q _
  have voted : Stands s1 s2 ∧ (∀ r, r ≠ q → partAt s2 r = partAt s1 r)
      ∧ ∃ v, partAt s2 q = { partAt s1 q with ctx := { (partAt s1 q).ctx with votes := v } } := by
    unfold s2 raiseVote
    split
    · exact ⟨.refl _, fun _ _ => rfl, (partAt s1 q).ctx.votes, rfl⟩
    · split
      · exact ⟨.refl _, fun _ _ => rfl, (partAt s1 q).ctx.votes, rfl⟩
      · refine ⟨.of_fields rfl, fun r hr => ?_, ?_⟩
        · rw [modCtx_own, if_neg (Ne.symm hr)]
        · rw [modCtx_own, if_pos rfl]
          exact ⟨_, rfl⟩
  obtain ⟨stands, others, v, own⟩ := voted
  refine ⟨flooded.1.trans (stands.trans (.of_fields rfl)), fun r hr => ?_, v, ?_⟩
  · rw [(trace_reads s3 _ _ _ 0 0 0 0 0 0 r 0 0).2.1, modPart_own, if_neg (Ne.symm hr), others r hr, flooded.2]
  · rw [(trace_reads s3 _ _ _ 0 0 0 0 0 0 q 0 0).2.1, modPart_own, if_pos rfl, own, flooded.2]

theorem abortMarked_leaves (s : State) (q cause a : Nat) : AbortLeaves q s (abortMarked s q cause a) := by
  obtain ⟨stands, others, v, own⟩ := abortMarked_marks s q cause a
  exact ⟨stands.dev, stands.tick, stands.trees, stands.fences, stands.slots, others, by rw [own], by rw [own]⟩

theorem doAbort_leaves (s : State) (q cause a : Nat) (faulted wide : Bool) : AbortLeaves q s (doAbort s q cause a faulted wide) :=
  (abortMarked_leaves s q cause a).trans (beginPurge_leaves _ q a faulted wide)

/-- A running partition's step aborts (R225, R226). -/
theorem doAbort_aborts {cause : Nat} (hstate : (partAt s q).state = .running) (hpurge : (partAt s q).purge = none) :
    AbortedAt s (doAbort s q cause a faulted wide) q a faulted := by
  obtain ⟨stands, others, v, own⟩ := abortMarked_marks s q cause a
  have state : (partAt (abortMarked s q cause a) q).state = .running := by rw [own]; exact hstate
  have purge : (partAt (abortMarked s q cause a) q).purge = none := by rw [own]; exact hpurge
  obtain ⟨aborting, aborted, epoch, replay, replayAt, active, buckets, began, tiles, rest⟩ :=
    beginPurge_aborts (a := a) (faulted := faulted) (wide := wide) state purge rfl
  rw [doAbort_eq]
  rw [own] at aborted epoch replayAt tiles
  refine ⟨aborting, aborted, epoch, replay, replayAt, active, buckets, began, fun hrun x hx => ?_, fun r hr => (rest r hr).trans (others r hr)⟩
  obtain ⟨b, d, engines⟩ := stands.engines x
  have purged := tiles (stands.running.trans hrun) x hx
  rw [engines] at purged
  exact purged

theorem extendAbort_leaves (s : State) (q a : Nat) : AbortLeaves q s (extendAbort s q a) := by
  unfold extendAbort
  extract_lets s1
  have earlier : AbortLeaves q s s1 := by
    refine .of_modPart (fun p => ?_) s
    rfl
  exact earlier.trans (.trans (.of_backstage (purgeFabric_backstage s1 q a)) (.of_purge (purgeMessages_leaves _ q a false)))

theorem stepAbort_leaves (s : State) (q cause a : Nat) (faulted wide : Bool) : AbortLeaves q s (stepAbort s q cause a faulted wide) := by
  have active : AbortLeaves q s (if (partAt s q).purge.isSome then
      modPart (if a < abortTickOf (partAt s q) then extendAbort s q a else s) q
        (fun x => { x with purge := x.purge.map (fun y => { y with faulted := y.faulted || faulted }) })
      else doAbort s q cause a faulted wide) := by
    split
    · refine .trans (t := if a < abortTickOf (partAt s q) then extendAbort s q a else s) ?_ (.of_modPart (fun p => ?_) _)
      · split
        · exact extendAbort_leaves s q a
        · exact .refl q s
      · rfl
    · exact doAbort_leaves s q cause a faulted wide
  unfold stepAbort
  extract_lets p
  split
  · exact active
  · exact active
  · exact active
  · exact .refl q s

/-- An abort raised in a running partition with no purge in progress. -/
theorem stepAbort_running {cause : Nat} (hstate : (partAt s q).state = .running) (hpurge : (partAt s q).purge = none) :
    stepAbort s q cause a faulted wide = doAbort s q cause a faulted wide := by
  simp [stepAbort, hstate, hpurge]
end
end Sys2Proof.Machine
end

section
/-! SUPPORT. ABORT and FENCE symbols, the timing parent lost, and the obligation (R311 to R315). -/

namespace Sys2Proof.Machine

/-! ### Symbols taken and flooded -/

/-- Nothing differs but the ports and the outbox. -/
def OnlyPorts (s t : State) : Prop := t = { s with ports := t.ports, out := t.out }

theorem OnlyPorts.refl (s : State) : OnlyPorts s s := rfl

theorem OnlyPorts.trans {s t u : State} (h : OnlyPorts s t) (g : OnlyPorts t u) : OnlyPorts s u := by
  unfold OnlyPorts at *
  rw [g, h]

theorem takeSymbol_onlyPorts (s : State) (p : Nat) (c : CtlSlot) : OnlyPorts s (takeSymbol s p c) := by
  unfold takeSymbol
  split <;> rfl

theorem sendSymbol_onlyPorts (s : State) (p : Nat) (c : CtlSlot) : OnlyPorts s (sendSymbol s p c) := by
  unfold sendSymbol
  split
  · rfl
  · split <;> rfl

theorem flood_onlyPorts (s : State) (q : Nat) (c : CtlSlot) : OnlyPorts s (flood s q c) := by
  unfold flood
  simp only
  split
  · rfl
  · exact foldl_related (R := OnlyPorts) .refl .trans (fun s p => sendSymbol_onlyPorts s p c) _ s

/-- A state's records apart from its ports and outbox. -/
theorem OnlyPorts.same {s t : State} (h : OnlyPorts s t) : t.parts = s.parts ∧ t.trees = s.trees ∧ t.tiles = s.tiles ∧ t.mem = s.mem ∧ t.dev = s.dev
    ∧ t.fencesSeen = s.fencesSeen ∧ t.mgt = s.mgt ∧ t.tick = s.tick ∧ t.devId = s.devId ∧ t.devIdValid = s.devIdValid := by
  rw [OnlyPorts] at h
  rw [h]
  exact ⟨rfl, rfl, rfl, rfl, rfl, rfl, rfl, rfl, rfl, rfl⟩

theorem OnlyPorts.reads {s t : State} (h : OnlyPorts s t) : (∀ q, partAt t q = partAt s q) ∧ (∀ k, treeAt t k = treeAt s k)
    ∧ (∀ x, tileAt t x = tileAt s x) ∧ now t = now s := by
  rw [OnlyPorts] at h
  rw [h]
  exact ⟨fun _ => rfl, fun _ => rfl, fun _ => rfl, rfl⟩

section
variable {s : State} {p typ : Nat} {c : CtlSlot} {go : State → Nat → State}

theorem receiveSymbol_goes (htyp : c.typ = typ) (hlow : typ < 7) (hcrc : symOk c = true) (hvalid : (treeAt s c.tree).valid = true)
    (hepoch : typ = 3 ∨ c.epoch = (treeAt s c.tree).epoch % 65536) :
    receiveSymbol s p typ c anyPort go = go (takeSymbol s p c) c.tree := by
  have tree : treeAt (takeSymbol s p c) c.tree = treeAt s c.tree := (takeSymbol_onlyPorts s p c).reads.2.1 c.tree
  have near : (typ ≠ 3 && c.epoch ≠ (treeAt s c.tree).epoch % 65536) = false := by rcases hepoch with h | h <;> simp [h]
  have low : ¬ 7 ≤ c.typ := by omega
  simp only [receiveSymbol, tree, hcrc, hvalid, near, anyPort, htyp]
  simp [show ¬ 7 ≤ typ by omega]
end

/-- An abort seen from a state with the same partitions and tiles. -/
theorem abortedAt_of_onlyPorts {s s0 t : State} {q a : Nat} {faulted : Bool} (h : OnlyPorts s s0) (g : AbortedAt s0 t q a faulted) :
    AbortedAt s t q a faulted := by
  obtain ⟨parts, -, tiles, -⟩ := h.reads
  have mgt := h.same.2.2.2.2.2.2.1
  unfold AbortedAt at g ⊢
  simpa only [parts, tiles, mgt] using g

/-! ### ABORT -/

section
variable {s : State} {p : Nat} {c : CtlSlot}

/-- An abort of the present epoch aborts the step in progress, or passes through (R313). -/
theorem abortSymbol_present (h : SymbolArrives s 2 c) (hepoch : field c.sym.toNat 32 16 = (partAt s (treeAt s c.tree).part).abortEpoch) :
    abortSymbol p c s =
      (if (partAt s (treeAt s c.tree).part).state = .running || (partAt s (treeAt s c.tree).part).state = .held
          || (partAt s (treeAt s c.tree).part).state = .aborting then
        doAbort (takeSymbol s p c) (treeAt s c.tree).part (field c.sym.toNat 24 8) (fullTick (now s) (field c.sym.toNat 0 24)) false false
      else passAbort (takeSymbol s p c) (treeAt s c.tree).part (field c.sym.toNat 24 8) (fullTick (now s) (field c.sym.toNat 0 24))) := by
  obtain ⟨typ, crc, valid, epoch⟩ := h
  obtain ⟨parts, trees, -, now⟩ := (takeSymbol_onlyPorts s p c).reads
  rw [abortSymbol, receiveSymbol_goes typ (by decide) crc valid (.inr epoch)]
  simp only [trees, parts, now, hepoch, if_true]

theorem passAbort_passes (s : State) (q cause a : Nat) : (passAbort s q cause a).mem = s.mem ∧ (passAbort s q cause a).tiles = s.tiles
    ∧ (∀ r, r ≠ q → partAt (passAbort s q cause a) r = partAt s r)
    ∧ partAt (passAbort s q cause a) q = { partAt s q with aborted := some ((partAt s q).abortEpoch, a), abortEpoch := next16 (partAt s q).abortEpoch } := by
  unfold passAbort
  extract_lets x
  have only := flood_onlyPorts s q (abortSlot x x.abortEpoch a cause)
  obtain ⟨parts, -, -, -⟩ := only.reads
  obtain ⟨-, -, tiles, mem, -⟩ := only.same
  refine ⟨mem, tiles, fun r hr => ?_, ?_⟩
  · rw [modPart_own, if_neg (Ne.symm hr), parts]
  · rw [modPart_own, if_pos rfl, parts]

/-! ### FENCE -/

theorem fenceSymbol_goes (htyp : c.typ = 3) (hcrc : symOk c = true) (hvalid : (treeAt s c.tree).valid = true) :
    fenceSymbol p c s =
      let s0 := takeSymbol s p c
      let q := (treeAt s c.tree).part
      let dev := field c.sym.toNat 0 16
      let epoch := field c.sym.toNat 16 32
      if s.fencesSeen.contains (dev + 65536 * q, epoch) then s0
      else
        let s1 := flood { s0 with fencesSeen := s.fencesSeen ++ [(dev + 65536 * q, epoch)] } q (fenceSlot (partAt s q) dev epoch)
        if s.devIdValid && dev = s.devId && newerEpoch epoch (jobEpochOf (partAt s q)) then enterFenced s1 (jobIdOf (partAt s q)) else s1 := by
  obtain ⟨parts, trees, -, -⟩ := (takeSymbol_onlyPorts s p c).reads
  obtain ⟨-, -, -, -, -, fences, -, -, id, valid⟩ := (takeSymbol_onlyPorts s p c).same
  rw [fenceSymbol, receiveSymbol_goes htyp (by decide) hcrc hvalid (.inl rfl)]
  simp only [trees, fences]
  have noticed := flood_onlyPorts
    { takeSymbol s p c with fencesSeen := s.fencesSeen ++ [(field c.sym.toNat 0 16 + 65536 * (treeAt s c.tree).part, field c.sym.toNat 16 32)] }
    (treeAt s c.tree).part
    (fenceSlot (partAt (takeSymbol s p c) (treeAt s c.tree).part) (field c.sym.toNat 0 16) (field c.sym.toNat 16 32))
  obtain ⟨-, -, -, -, -, -, -, -, id', valid'⟩ := noticed.same
  have parts' : ∀ q, partAt _ q = partAt s q := fun q => (noticed.reads.1 q).trans (parts q)
  rw [id', valid', parts']
  simp only [id, valid, parts]

/-- A property that every step keeps, and that the step of one element establishes. -/
theorem foldl_establishes {α : Type} {I P : State → Prop} {op : State → α → State} {x : α} (stays : ∀ s y, I s → I (op s y))
    (keeps : ∀ s y, P s → P (op s y)) (makes : ∀ s, I s → P (op s x)) {l : List α} (hx : x ∈ l) {s : State} (hI : I s) : P (l.foldl op s) := by
  induction l generalizing s with
  | nil => exact absurd hx List.not_mem_nil
  | cons y l ih =>
    rcases List.mem_cons.1 hx with rfl | hl
    · have made : ∀ (l : List α) (s : State), P s → P (l.foldl op s) := fun l => by
        induction l with
        | nil => exact fun _ h => h
        | cons z l ih' => exact fun s h => ih' _ (keeps s z h)
      exact made l _ (makes s hI)
    · exact ih hl (stays s y hI)

/-- The fence of a job stays, and the device's state and the notices seen are as they were. -/
def FencesStay (s t : State) : Prop := t.dev = s.dev ∧ t.fencesSeen = s.fencesSeen ∧ ∀ r, isFencedPart (partAt t r) = isFencedPart (partAt s r)

theorem FencesStay.refl (s : State) : FencesStay s s := ⟨rfl, rfl, fun _ => rfl⟩

theorem FencesStay.trans {s t u : State} (h : FencesStay s t) (g : FencesStay t u) : FencesStay s u :=
  ⟨g.1.trans h.1, g.2.1.trans h.2.1, fun r => (g.2.2 r).trans (h.2.2 r)⟩

theorem FencesStay.of_abort {q : Nat} {t : State} (h : AbortLeaves q s t) : FencesStay s t := by
  refine ⟨h.dev, h.fences, fun r => ?_⟩
  by_cases hr : r = q
  · rw [hr, isFencedPart, h.fenced, isFencedPart]
  · rw [h.others r hr]

theorem isFencedPart_fenced (x : Part) (h : isBound x = true) : isFencedPart { x with binding := x.binding.map (fun b => { b with fenced := true }) } = true := by
  obtain ⟨b, hb⟩ := Option.isSome_iff_exists.1 h
  simp [isFencedPart, hb]

/-- A partition marked as fenced by its job. -/
def markFenced (s : State) (q : Nat) : State := modBinding s q (fun b => { b with fenced := true })

theorem markFenced_marks {l : List Nat} {q : Nat} (hq : q ∈ l) (hbound : isBound (partAt s q) = true) :
    isFencedPart (partAt (l.foldl markFenced s) q) = true ∧ (l.foldl markFenced s).dev = s.dev ∧ (l.foldl markFenced s).fencesSeen = s.fencesSeen := by
  have same : ∀ l : List Nat, (l.foldl markFenced s).dev = s.dev ∧ (l.foldl markFenced s).fencesSeen = s.fencesSeen := fun l =>
    foldl_related (R := fun s t => t.dev = s.dev ∧ t.fencesSeen = s.fencesSeen) (op := markFenced) (fun _ => ⟨rfl, rfl⟩)
      (fun h g => ⟨g.1.trans h.1, g.2.trans h.2⟩) (fun _ _ => ⟨rfl, rfl⟩) l s
  refine ⟨foldl_establishes (I := fun s => isBound (partAt s q) = true) (P := fun s => isFencedPart (partAt s q) = true)
    (fun s y h => ?_) (fun s y h => ?_) (fun s h => ?_) hq hbound, same l⟩
  · rw [markFenced, modBinding, modPart_own]
    split
    case isTrue hy => simpa [isBound, hy] using h
    case isFalse => exact h
  · rw [markFenced, modBinding, modPart_own]
    split
    case isTrue hy =>
      subst hy
      cases hb : (partAt s y).binding <;> simp_all [isFencedPart]
    case isFalse => exact h
  · rw [markFenced, modBinding, modPart_own, if_pos rfl]
    exact isFencedPart_fenced _ h

theorem setDev_backstage {d : DevState} (h : s.dev ≠ d) : Backstage { s with dev := d } (setDev s d) := by
  rw [setDev, if_neg h]
  exact .trans (.of_trace _ 0 1 _) (sendEvent_backstage _ _ _ _ _)

/-- A module fenced in a job: the job's partitions are fenced, the device is FENCED (R314, R315). -/
theorem enterFenced_fences {q job : Nat} (hq : q < 16) (hbound : isBound (partAt s q) = true) (hjob : jobIdOf (partAt s q) = job) :
    (enterFenced s job).fencesSeen = s.fencesSeen ∧ isFencedPart (partAt (enterFenced s job) q) = true
      ∧ (s.dev = .ready ∨ s.dev = .degraded → (enterFenced s job).dev = .fenced) := by
  unfold enterFenced
  extract_lets qs s1 gone ks s2 s3
  have named : q ∈ qs := List.mem_filter.2 ⟨List.mem_range.2 hq, by simp [hbound, hjob]⟩
  have marked := markFenced_marks (s := s) named hbound
  obtain ⟨fenced, dev, fences⟩ := marked
  have stopped : FencesStay s1 s3 := by
    refine .trans (t := s2) ⟨rfl, rfl, fun _ => rfl⟩ (foldl_related (R := FencesStay) .refl .trans (fun u r => ?_) qs s2)
    have asked : AbortLeaves r u (requestPreempt u r) := by
      refine .of_modPart (fun x => ?_) u
      rfl
    exact .of_abort (asked.trans (stepAbort_leaves _ r causeHost (now u) false false))
  obtain ⟨dev', fences', stay⟩ := stopped
  have up : s3.dev = s.dev := dev'.trans dev
  split
  case isTrue ready =>
    obtain ⟨stands, parts⟩ := setDev_backstage (s := s3) (d := .fenced) (by rintro h; simp [h] at ready)
    exact ⟨stands.fences.trans (fences'.trans fences), by rw [parts]; exact (stay q).trans fenced, fun _ => stands.dev⟩
  case isFalse other =>
    exact ⟨fences'.trans fences, (stay q).trans fenced, fun h => absurd (by simpa [up] using h) other⟩

end

/-! ### The timing parent lost (R311) -/

/-- A suspect named: the tree context's, and nothing else that an abort reads. -/
theorem nameSuspect_names (s : State) (k dev : Nat) : treeAt (nameSuspect s k dev) k = { treeAt s k with suspectDev := dev }
    ∧ Backstage (modTree s k (fun x => { x with suspectDev := dev })) (nameSuspect s k dev) := by
  have named : Backstage (modTree s k (fun x => { x with suspectDev := dev })) (nameSuspect s k dev) := by
    unfold nameSuspect
    extract_lets r
    have flagged : Backstage (modTree s k (fun x => { x with suspectDev := dev })) (regFlag (modTree s k (fun x => { x with suspectDev := dev })) r 48) :=
      .of_fields rfl rfl
    exact flagged.trans (sendEvent_backstage _ _ _ _ _)
  refine ⟨?_, named⟩
  rw [treeAt, named.1.trees]
  exact (modTree_own s k k _).trans (if_pos rfl)

/-- An abort seen from a state with the same partitions, engines and controller. -/
theorem abortedAt_of_stands {s s0 t : State} {q a : Nat} {faulted : Bool} (parts : ∀ r, partAt s0 r = partAt s r)
    (running : s0.mgt.running = s.mgt.running) (engines : ∀ x, ∃ b d, tileAt s0 x = { tileAt s x with banks := b, drain := d })
    (g : AbortedAt s0 t q a faulted) : AbortedAt s t q a faulted := by
  have dma : ∀ x, (tileAt s0 x).dma = (tileAt s x).dma := fun x => by
    obtain ⟨b, d, hx⟩ := engines x
    rw [hx]
  unfold AbortedAt at g ⊢
  simpa only [parts, running, dma] using g

/-- A module unlocked, its parent named as the tree's suspect. -/
def parentNamed (s : State) (k p : Nat) : State := nameSuspect { s with tick := { s.tick with locked := false } } k (portAt s p).partnerDev

theorem parentNamed_names (s : State) (k p : Nat) : (parentNamed s k p).tick = { s.tick with locked := false }
    ∧ treeAt (parentNamed s k p) k = { treeAt s k with suspectDev := (portAt s p).partnerDev } ∧ (parentNamed s k p).mgt.running = s.mgt.running
    ∧ (∀ r, partAt (parentNamed s k p) r = partAt s r)
    ∧ ∀ x, ∃ b d, tileAt (parentNamed s k p) x = { tileAt s x with banks := b, drain := d } := by
  obtain ⟨tree, stands, parts⟩ := nameSuspect_names { s with tick := { s.tick with locked := false } } k (portAt s p).partnerDev
  exact ⟨stands.tick, tree, stands.running, parts, stands.engines⟩

theorem timingParentLost_aborts {s : State} {k p : Nat} (hparent : timingParent s = some (k, p)) (hstate : (partAt s (treeAt s k).part).state = .running)
    (hpurge : (partAt s (treeAt s k).part).purge = none) :
    (timingParentLost s).tick = { s.tick with locked := false } ∧ (treeAt (timingParentLost s) k).suspectDev = (portAt s p).partnerDev
      ∧ AbortedAt s (timingParentLost s) (treeAt s k).part (now s) false := by
  obtain ⟨tick, tree, running, parts, engines⟩ := parentNamed_names s k p
  have state : (partAt (parentNamed s k p) (treeAt s k).part).state = .running := by rw [parts]; exact hstate
  have purge : (partAt (parentNamed s k p) (treeAt s k).part).purge = none := by rw [parts]; exact hpurge
  have lost : timingParentLost s = stepAbort (parentNamed s k p) (treeAt s k).part causeSuspect (now s) false false := by
    have part : (treeAt (parentNamed s k p) k).part = (treeAt s k).part := by rw [tree]
    have now_ : now (parentNamed s k p) = now s := by rw [now, tick, now]
    simp only [timingParentLost, hparent]
    exact congrArg₂ (fun q a => stepAbort (parentNamed s k p) q causeSuspect a false false) part now_
  have leaves := stepAbort_leaves (parentNamed s k p) (treeAt s k).part causeSuspect (now s) false false
  rw [lost]
  refine ⟨leaves.tick.trans tick, ?_, ?_⟩
  · rw [treeAt, leaves.trees]
    exact congrArg TreeCtx.suspectDev tree
  · rw [stepAbort_running state purge]
    exact abortedAt_of_stands parts running engines (doAbort_aborts state purge)

end Sys2Proof.Machine

namespace Sys2Proof
open Sys2Proof.Machine

/-- Settles O57: a symbol is taken, then the abort or the fence acts on what the port's change leaves; an abort keeps the trees, the tick and every
fence. -/
theorem abortsFencesAndLostParents : Obligations.AbortsFencesAndLostParents := by
  unfold Obligations.AbortsFencesAndLostParents
  refine ⟨fun p c s => ⟨fun harr hepoch => ⟨fun hstate hpurge => ?_, fun hstate => ?_⟩,
      fun htyp hcrc hvalid => ⟨fun hseen => ?_, fun hseen => ⟨fun hother => ?_, fun hid hdev hnew hq hbound => ?_⟩⟩⟩,
    fun s => ⟨fun hlock => ?_, fun k p hparent hstate hpurge => ?_⟩⟩
  · refine ⟨_, congrArg Host.Outcome.next ((abortSymbol_present harr hepoch).trans (if_pos (by simp [hstate]))), ?_⟩
    have parts := (takeSymbol_onlyPorts s p c).reads.1 (treeAt s c.tree).part
    exact abortedAt_of_onlyPorts (takeSymbol_onlyPorts s p c) (doAbort_aborts (parts ▸ hstate) (parts ▸ hpurge))
  · refine ⟨_, congrArg Host.Outcome.next ((abortSymbol_present harr hepoch).trans (if_neg (by simp [hstate]))), ?_⟩
    have only := takeSymbol_onlyPorts s p c
    obtain ⟨mem, tiles, others, own⟩ := passAbort_passes (takeSymbol s p c) (treeAt s c.tree).part (field c.sym.toNat 24 8) (fullTick (now s) (field c.sym.toNat 0 24))
    obtain ⟨parts, -, -, -⟩ := only.reads
    obtain ⟨-, -, tiles', mem', -⟩ := only.same
    rw [parts] at own
    beta_reduce
    rw [own]
    exact ⟨rfl, rfl, hstate, fun r hr => (others r hr).trans (parts r), mem.trans mem', tiles.trans tiles'⟩
  · refine congrArg Host.Outcome.next ((fenceSymbol_goes htyp hcrc hvalid).trans ?_)
    exact if_pos hseen
  · refine ⟨_, congrArg Host.Outcome.next ((fenceSymbol_goes htyp hcrc hvalid).trans ((if_neg (by simpa using hseen)).trans (if_neg ?_))), ?_⟩
    · rcases hother with h | h <;> simp [h]
    · obtain ⟨parts, -, -, mem, dev, fences, -⟩ := (flood_onlyPorts _ _ _).same
      obtain ⟨parts', -, -, mem', dev', -⟩ := (takeSymbol_onlyPorts s p c).same
      exact ⟨fences, parts.trans parts', dev.trans dev', mem.trans mem'⟩
  · refine ⟨_, congrArg Host.Outcome.next ((fenceSymbol_goes htyp hcrc hvalid).trans ((if_neg (by simpa using hseen)).trans (if_pos ?_))), ?_⟩
    · simp [hid, hdev, hnew]
    · have noticed := flood_onlyPorts
        { takeSymbol s p c with fencesSeen := s.fencesSeen ++ [(field c.sym.toNat 0 16 + 65536 * (treeAt s c.tree).part, field c.sym.toNat 16 32)] }
        (treeAt s c.tree).part (fenceSlot (partAt s (treeAt s c.tree).part) (field c.sym.toNat 0 16) (field c.sym.toNat 16 32))
      have part := (noticed.reads.1 (treeAt s c.tree).part).trans ((takeSymbol_onlyPorts s p c).reads.1 _)
      obtain ⟨-, -, -, -, dev, fences, -⟩ := noticed.same
      obtain ⟨-, -, -, -, dev', -⟩ := (takeSymbol_onlyPorts s p c).same
      obtain ⟨seen, fenced, device⟩ := enterFenced_fences hq (by rw [part]; exact hbound) (congrArg jobIdOf part)
      exact ⟨seen.trans fences, fenced, fun h => device ((dev.trans dev') ▸ h)⟩
  · exact congrArg Host.Outcome.next (by simp [timingParentLost, timingParent, hlock])
  · obtain ⟨part, aborts⟩ := timingParentLost_aborts hparent hstate hpurge
    exact ⟨_, rfl, part, aborts⟩
end Sys2Proof
end

section
/-! SUPPORT. TICK_RECORD's span and registers, a boundary without bindings, and an attempt begun (R211 to R213, R218, R273). -/

namespace Sys2Proof.Machine

/-! ### Charges to a partition's regulator (R273, R274) -/

/-- Nothing differs but a partition's regulator and the requests at the far-store engine. -/
structure Charged (q : Nat) (s t : State) : Prop where
  rest : t = { s with parts := t.parts, fs := t.fs }
  others : ∀ r, r ≠ q → partAt t r = partAt s r
  own : ∃ w o n b, partAt t q = { partAt s q with regWait := w, regOps := o, nextOp := n, bucketTokens := b }

namespace Charged
variable {q : Nat} {s t u : State}

theorem refl (q : Nat) (s : State) : Charged q s s := ⟨rfl, fun _ _ => rfl, _, _, _, _, rfl⟩

theorem trans (h : Charged q s t) (g : Charged q t u) : Charged q s u := by
  obtain ⟨_, _, _, _, hown⟩ := h.own
  obtain ⟨w, o, n, b, gown⟩ := g.own
  exact ⟨by rw [g.rest, h.rest], fun r hr => (g.others r hr).trans (h.others r hr), w, o, n, b, by rw [gown, hown]⟩

theorem of_modPart {f : Part → Part} (h : ∀ p, ∃ w o n b, f p = { p with regWait := w, regOps := o, nextOp := n, bucketTokens := b }) (s : State) :
    Charged q s (modPart s q f) := by
  refine ⟨rfl, fun r hr => ?_, ?_⟩
  · rw [modPart_own, if_neg (Ne.symm hr)]
  · rw [modPart_own, if_pos rfl]
    exact h _

end Charged

section
variable (s : State) (q : Nat)

theorem regulate_charged (source addr bytes : Nat) : Charged q s (regulate s q source addr bytes) := by
  unfold regulate
  split
  · exact .refl q s
  · exact .of_modPart (fun _ => ⟨_, _, _, _, rfl⟩) s

theorem entered_charged (w : RegWait) (rest : List RegWait) : Charged q s (entered s q w rest) := by
  refine .trans (t := modPart s q (fun p => unitEntered p w rest)) (.of_modPart (fun p => ?_) s) ⟨rfl, fun _ _ => rfl, _, _, _, _, rfl⟩
  exact ⟨_, _, _, _, rfl⟩

theorem enterAll_charged (n : Nat) : Charged q s (enterAll n s q) := by
  induction n generalizing s with
  | zero => exact .refl q s
  | succ n ih =>
    unfold enterAll
    split
    case h_1 => exact .refl q s
    case h_2 s1 h =>
      cases hw : (partAt s q).regWait with
      | nil => rw [enterOne_none_waiting hw] at h; cases h
      | cons w rest =>
        by_cases hb : nextUnitBytes w ≤ (partAt s q).bucketTokens
        · rw [enterOne_funded hw hb] at h
          exact .trans (Option.some.inj h ▸ entered_charged s q w rest) (ih s1)
        · rw [enterOne_unfunded hw (Nat.lt_of_not_le hb)] at h
          cases h

theorem makeOp_charged (o : RegOp) : Charged q s (makeOp s q o) := by
  unfold makeOp
  extract_lets s1
  have listed : Charged q s (modPart s q (fun p => { p with regOps := p.regOps ++ [o], nextOp := o.id + 1 })) :=
    .of_modPart (fun _ => ⟨_, _, _, _, rfl⟩) s
  have asked : Charged q s s1 := listed.trans
    (foldl_related (R := Charged q) (.refl q) .trans (fun u x => regulate_charged u q (srcEngine o.engine o.id) x.1 x.2) o.spans _)
  exact asked.trans (enterAll_charged s1 q _)

theorem dropOp_charged (id : Nat) : Charged q s (dropOp s q id) := .of_modPart (fun _ => ⟨_, _, _, _, rfl⟩) s

theorem chargeNow_charged (engine : Nat) (all : List (Nat × Nat)) : Charged q s (chargeNow s q engine all) := by
  unfold chargeNow
  extract_lets p spans
  split
  · exact .refl q s
  · exact (makeOp_charged s q _).trans (dropOp_charged _ q _)
end

/-! ### TICK_RECORD (R218) -/

/-- A tick record's 16 bytes. -/
def tickRecordBytes (k fin off flags : Nat) : List Byte := toLe 8 k ++ toLe 4 fin ++ toLe 2 off ++ toLe 1 flags ++ [0]

theorem tickRecordBytes_length (k fin off flags : Nat) : (tickRecordBytes k fin off flags).length = 16 := by simp [tickRecordBytes]

section
variable {s : State} {q : Nat}

/-- A ring's record whose span is plain: its bytes written, the far store and the regulator used. -/
theorem ringWrite_plain {base n i : Nat} {rec_ : List Byte} (hn : 0 < n) (hrec : 0 < rec_.length)
    (hplain : PlainSpan s (base + i % n * rec_.length) rec_.length) {u : State} (hu : ringWrite s q base n i rec_ = u) :
    u.mem = writeBytes s.mem (base + i % n * rec_.length) rec_ ∧ u.regs = s.regs ∧ u.tiles = s.tiles ∧ (partAt u q).ctx = (partAt s q).ctx := by
  obtain ⟨p, us, c, written⟩ := spanWrite_plain hplain hrec
  rw [ringWrite, if_neg (by omega)] at hu
  simp only [written] at hu
  obtain ⟨rest, -, w, o, m, b, own⟩ := hu ▸ chargeNow_charged
    { s with mem := writeBytes s.mem (base + i % n * rec_.length) rec_, poison := p, upsets := us, fs := { s.fs with cache := c } } q engUpdate
    [(base + i % n * rec_.length, rec_.length)]
  refine ⟨by rw [rest], by rw [rest], by rw [rest], by rw [own]; rfl⟩

/-- The upper half of a register whose lower half is set. -/
theorem regField_regSet_upper (u : State) (a v : Nat) : regField (regSet u a 0 32 v) a 32 32 = regField u a 32 32 := by
  rw [regField, regSet, regPut_own, if_pos rfl, field_mod _ (by decide), field_eq, withField_eq, regField, field_eq]
  have low := Nat.mod_lt v (show 0 < 2 ^ 32 by decide)
  generalize v % 2 ^ 32 = y at low
  omega

/-- The registers after a tick record: SCH_SLACK and the count (R218). -/
theorem tickRegs (u : State) (a b fin k : Nat) (hab : a ≠ b) :
    let t := regPut (regCount u a 0 32 1) b (fin % 2 ^ 32 + k % 2 ^ 32 * 2 ^ 32)
    regField t a 0 32 = (regField u a 0 32 + 1) % 2 ^ 32 ∧ regField t a 32 32 = regField u a 32 32
      ∧ regGet t b = fin % 2 ^ 32 + k % 2 ^ 32 * 2 ^ 32 ∧ SameRegistersBut [b, a] u t := by
  intro t
  have count : ∀ lo n, regField t a lo n = regField (regCount u a 0 32 1) a lo n :=
    fun lo n => by rw [regField, regPut_own, if_neg (Ne.symm hab), regField]
  refine ⟨?_, ?_, ?_, fun x hx => ?_⟩
  · rw [count]
    exact regField_regSet u a _ (by decide)
  · rw [count]
    exact regField_regSet_upper u a _
  · rw [regPut_own, if_pos rfl]
    omega
  · obtain ⟨hb, ha⟩ : x ≠ b ∧ x ≠ a := by simpa using hx
    rw [regPut_own, if_neg (Ne.symm hb)]
    exact regSet_sameRegistersBut u a 0 32 _ x (by simpa using ha)

theorem schReg_ne (q : Nat) {a b : Nat} (h : a ≠ b) : schReg q a ≠ schReg q b := by
  unfold schReg ctl
  omega

theorem tickRecord_eq (s : State) (q k fin off flags : Nat) : tickRecord s q k fin off flags
    = regPut (regCount (ringWrite s q (partAt s q).carve 32768 (regField s (schReg q 0x20) 0 32) (tickRecordBytes k fin off flags)) (schReg q 0x20) 0 32 1)
        (schReg q 0x18) (fin % 2 ^ 32 + k % 2 ^ 32 * 2 ^ 32) := rfl

/-- A tick record written (R218). -/
theorem tickRecord_writes {k fin off flags i a : Nat} (hwf : Memory.wf s.mem = true) (hi : regField s (schReg q 0x20) 0 32 = i)
    (ha : (partAt s q).carve + i % 32768 * 16 = a) (hplain : PlainSpan s a 16) {t : State} (ht : tickRecord s q k fin off flags = t) :
    readBytes t.mem a 16 = tickRecordBytes k fin off flags ∧ SameMemoryOutside a 16 s t ∧ (partAt t q).ctx = (partAt s q).ctx
      ∧ regField t (schReg q 0x20) 0 32 = (i + 1) % 2 ^ 32 ∧ regField t (schReg q 0x20) 32 32 = regField s (schReg q 0x20) 32 32
      ∧ regGet t (schReg q 0x18) = fin % 2 ^ 32 + k % 2 ^ 32 * 2 ^ 32 ∧ SameRegistersBut [schReg q 0x18, schReg q 0x20] s t ∧ t.tiles = s.tiles := by
  have len := tickRecordBytes_length k fin off flags
  rw [tickRecord_eq, hi] at ht
  generalize hu : ringWrite s q (partAt s q).carve 32768 i (tickRecordBytes k fin off flags) = u at ht
  have ring := ringWrite_plain (n := 32768) (Nat.zero_lt_succ _) (len ▸ Nat.zero_lt_succ _) (by rw [len, ha]; exact hplain) hu
  rw [len, ha] at ring
  obtain ⟨mem, regs, tiles, ctx⟩ := ring
  have same : ∀ b, regGet u b = regGet s b := fun b => by rw [regGet, regs, regGet]
  have fields : ∀ lo n, regField u (schReg q 0x20) lo n = regField s (schReg q 0x20) lo n := fun lo n => by rw [regField, same, regField]
  obtain ⟨count, upper, slack, others⟩ := tickRegs u (schReg q 0x20) (schReg q 0x18) fin k (schReg_ne q (by decide))
  rw [fields, hi] at count
  rw [fields] at upper
  obtain ⟨bytes, outside⟩ := written_span hwf mem
  rw [len] at bytes outside
  subst ht
  exact ⟨bytes, outside, ctx, count, upper, slack, fun b hb => (others b hb).trans (same b), tiles⟩

theorem writeDue_due {k fin off flags : Nat} (h : (partAt s q).ctx.recordDue = some (k, fin, off, flags)) :
    writeDue s q = modCtx (tickRecord s q k fin off flags) q (fun c => { c with recordDue := none }) := by
  simp only [writeDue, h]
end

/-! ### TICK_BOUNDARY (R211 to R213) -/

theorem endTick_empty {s : State} {q : Nat} (t : Nat) (h : partAt s q = {}) : endTick t s q = s := by
  simp [endTick, h]

theorem startTick_idle {s : State} {q : Nat} (n : Nat) (h : (partAt s q).state = .empty) : startTick n s q = s := by
  simp [startTick, h]

theorem boundParts_unbound {s : State} (h : ∀ q, (partAt s q).binding = none) : boundParts s = [] := by
  simp [boundParts, treeOf, h]

theorem partAt_none {s : State} (h : s.parts = []) (q : Nat) : partAt s q = {} := by rw [partAt, h]; rfl

/-- The tick that begins at a boundary: its number, its first cycle and its period (R211, R212). -/
def tickTurned (s : State) : State :=
  { s with tick := { turnPeriod s.tick (now s + 1) with count := (now s + 1) % 2 ^ 64, began := s.cycle } }

theorem turnPeriod_due {g : TickGen} {n : Nat} (hp : g.pendingPeriod ≠ 0) (hn : g.pendingAt ≤ n) :
    turnPeriod g n = { g with period := g.pendingPeriod, pendingPeriod := 0 } := if_pos ⟨hp, hn⟩

theorem turnPeriod_early {g : TickGen} {n : Nat} (h : g.pendingPeriod = 0 ∨ n < g.pendingAt) : turnPeriod g n = g := if_neg (by omega)

/-- A boundary of partitions without a binding whose tick ends without effect. -/
theorem tickBoundary_unbound {s : State} (ended : ∀ q, endTick (now s) s q = s) (hb : ∀ q, (partAt s q).binding = none) :
    tickBoundary s = (List.range 16).foldl (startTick (now s + 1)) (announcePeriod (tickTurned s)) := by
  have before : boundParts s = [] := boundParts_unbound hb
  have after : boundParts (tickTurned s) = [] := boundParts_unbound hb
  have allEnded : (List.range 16).foldl (endTick (now s)) s = s := List.foldl_fixed' ended _
  unfold tickBoundary
  extract_lets t s1 s2 g s3 s4
  have ended1 : s1 = s := allEnded
  have voted : s2 = s := by
    unfold s2
    rw [ended1, before, List.foldl_nil]
  have turned : s3 = tickTurned s := by
    unfold s3 g
    rw [voted]
    rfl
  have sent : s4 = tickTurned s := by
    unfold s4
    rw [turned, after, List.foldl_nil]
  rw [sent]

theorem announcePeriod_treeless {s : State} (h : s.trees = []) : announcePeriod s = s := by
  have invalid : ∀ k, (treeAt s k).valid = false := fun k => by rw [treeAt, h]; rfl
  have unfound : (List.range 16).find? (fun k => (treeAt s k).valid && (treeAt s k).timing && (treeAt s k).root) = none :=
    List.find?_eq_none.2 fun k _ => by rw [invalid]; exact Bool.false_ne_true
  unfold announcePeriod
  rw [unfound]
  exact ite_self s

/-- A boundary with no partition and no tree: the tick alone turns. -/
theorem tickBoundary_bare {s : State} (hparts : s.parts = []) (htrees : s.trees = []) : tickBoundary s = tickTurned s := by
  rw [tickBoundary_unbound (fun q => endTick_empty _ (partAt_none hparts q)) (fun q => by rw [partAt_none hparts]),
    announcePeriod_treeless (s := tickTurned s) htrees]
  exact List.foldl_fixed' (fun q => startTick_idle _ (by rw [partAt_none (s := tickTurned s) hparts])) _

/-! ### An attempt begun (R213) -/

/-- Nothing but the tiles differs. -/
def TilesOnly (s t : State) : Prop := t = { s with tiles := t.tiles }

theorem TilesOnly.trans {s t u : State} (h : TilesOnly s t) (g : TilesOnly t u) : TilesOnly s u := by
  unfold TilesOnly at *
  rw [g, h]

theorem TilesOnly.fold {op : State → Nat → State} (step : ∀ s x, TilesOnly s (op s x)) (l : List Nat) (s : State) : TilesOnly s (l.foldl op s) :=
  foldl_related (R := TilesOnly) (fun _ => rfl) .trans step l s

theorem TilesOnly.reads {s t : State} (h : TilesOnly s t) :
    (∀ r, partAt t r = partAt s r) ∧ t.cmds = s.cmds ∧ t.hosts = s.hosts ∧ t.out = s.out ∧ t.tick = s.tick := by
  unfold TilesOnly at h
  rw [h]
  exact ⟨fun _ => rfl, rfl, rfl, rfl, rfl⟩

theorem refresh_tilesOnly (s : State) (t : Nat) : TilesOnly s (refresh s t) := (refresh_noted s t).rest

/-- A partition whose step `step` has its first attempt from tick f. -/
structure FirstAttempt (p : Part) (step f : Nat) : Prop where
  active : p.ctx.active = true
  from_ : p.ctx.firstTick = f
  step : p.ctx.step = step
  attempt : p.ctx.attempt = 1

theorem readyTile_tilesOnly (keep : Bool) (s : State) (t : Nat) : TilesOnly s (readyTile keep s t) := rfl

theorem partAt_modBinding (s : State) (q r : Nat) (f : Binding → Binding) :
    partAt (modBinding s q f) r = if q = r then { partAt s q with binding := (partAt s q).binding.map f } else partAt s r :=
  modPart_own s q r _

theorem beginAttempt_first (s : State) (q f : Nat) :
    FirstAttempt (partAt (beginAttempt s q f false) q) (partAt s q).ctx.step f
      ∧ (partAt (beginAttempt s q f false) q).state = (partAt s q).state ∧ (partAt (beginAttempt s q f false) q).startAt = (partAt s q).startAt
      ∧ (partAt (beginAttempt s q f false) q).settle = (partAt s q).settle
      ∧ ((partAt s q).binding = none → (partAt (beginAttempt s q f false) q).binding = none)
      ∧ (∀ r, r ≠ q → partAt (beginAttempt s q f false) r = partAt s r)
      ∧ (beginAttempt s q f false).cmds = s.cmds ∧ (beginAttempt s q f false).hosts = s.hosts ∧ (beginAttempt s q f false).tick = s.tick := by
  unfold beginAttempt
  extract_lets s1 s2 s3 ts
  have tiles : TilesOnly s3 (ts.foldl refresh (ts.foldl (readyTile true) s3)) :=
    .trans (.fold (readyTile_tilesOnly true) ts s3) (.fold refresh_tilesOnly ts _)
  obtain ⟨parts, cmds, hosts, -, tick⟩ := tiles.reads
  have joined : ∀ r, ∃ g, partAt s3 r = if q = r then { partAt s1 q with binding := (partAt s1 q).binding.map g } else partAt s1 r :=
    fun r => ⟨_, partAt_modBinding s1 q r _⟩
  obtain ⟨g, own⟩ := joined q
  rw [parts, own, if_pos rfl, show partAt s1 q = _ from (modPart_own s q q _).trans (if_pos rfl)]
  refine ⟨⟨rfl, rfl, rfl, rfl⟩, rfl, rfl, rfl, fun h => congrArg (Option.map g) h, fun r hr => ?_, cmds, hosts, tick⟩
  obtain ⟨g', other⟩ := joined r
  rw [parts, other, if_neg (Ne.symm hr)]
  exact (modPart_own s q r _).trans (if_neg (Ne.symm hr))

end Sys2Proof.Machine
end

section
/-! SUPPORT. START's first tick (R213, R371). -/

namespace Sys2Proof.Machine

/-! ### START's first tick (R213, R371) -/

theorem sendEvent_commands (s : State) (code part r0 r1 : Nat) :
    (sendEvent s code part r0 r1).cmds = s.cmds ∧ (sendEvent s code part r0 r1).hosts = s.hosts := by
  refine foldl_related (R := fun s t => t.cmds = s.cmds ∧ t.hosts = s.hosts) (fun _ => ⟨rfl, rfl⟩)
    (fun h g => ⟨g.1.trans h.1, g.2.trans h.2⟩) (fun s h => ?_) (List.range 4) s
  split <;> exact ⟨rfl, rfl⟩

theorem setPartState_commands (s : State) (q : Nat) (st : PartState) :
    (setPartState s q st).cmds = s.cmds ∧ (setPartState s q st).hosts = s.hosts := by
  unfold setPartState
  extract_lets old
  split
  · exact ⟨rfl, rfl⟩
  · exact sendEvent_commands _ _ _ _ _

theorem beginStep_first (s : State) (q step f : Nat) :
    FirstAttempt (partAt (beginStep s q step f) q) step f
      ∧ (partAt (beginStep s q step f) q).state = (partAt s q).state ∧ (partAt (beginStep s q step f) q).startAt = (partAt s q).startAt
      ∧ (partAt (beginStep s q step f) q).settle = (partAt s q).settle
      ∧ ((partAt s q).binding = none → (partAt (beginStep s q step f) q).binding = none)
      ∧ (∀ r, r ≠ q → partAt (beginStep s q step f) r = partAt s r)
      ∧ (beginStep s q step f).cmds = s.cmds ∧ (beginStep s q step f).hosts = s.hosts ∧ (beginStep s q step f).tick = s.tick := by
  unfold beginStep
  generalize hu : modCtx (latchStep s q) q (fun c => { c with step := step }) = u
  obtain ⟨first, state, startAt, settle, binding, others, cmds, hosts, tick⟩ := beginAttempt_first u q f
  have own : ∃ c, partAt u q = { partAt s q with ctx := c } ∧ c.step = step := by
    rw [← hu, modCtx_own, if_pos rfl, latchStep, modCtx_own, if_pos rfl]
    exact ⟨_, rfl, rfl⟩
  have other : ∀ r, r ≠ q → partAt u r = partAt s r := fun r hr => by
    rw [← hu, modCtx_own, if_neg (Ne.symm hr), latchStep, modCtx_own, if_neg (Ne.symm hr)]
  obtain ⟨c, own, hc⟩ := own
  rw [own] at first state startAt settle binding
  have kept : u.cmds = s.cmds ∧ u.hosts = s.hosts ∧ u.tick = s.tick := hu ▸ ⟨rfl, rfl, rfl⟩
  exact ⟨hc ▸ first, state, startAt, settle, binding, fun r hr => (others r hr).trans (other r hr), cmds.trans kept.1, hosts.trans kept.2.1,
    tick.trans kept.2.2⟩

/-- A partition that has started: RUNNING in its first attempt of `step` from tick n. -/
structure Started (p : Part) (step n : Nat) : Prop extends FirstAttempt p step n where
  running : p.state = .running
  startAt : p.startAt = none

section
variable {s : State} {q n : Nat}

theorem endWaiting_found {op st r0 : Nat} {c : Cmd} (h : waitingCmd s q op = some c) : endWaiting s q op st r0 = complete s c st r0 0 0 0 := by
  simp only [endWaiting, h]

/-- A loaded partition without a binding starts: START completes with the tick. -/
theorem startPart_starts {c : Cmd} (hjoin : (partAt s q).join = {}) (hbinding : (partAt s q).binding = none)
    (hcmd : waitingCmd s q opStart = some c) (hhost : c.host < s.hosts.length) {t : State} (ht : startPart s q n = t) :
    Started (partAt t q) (partAt s q).ctx.step n ∧ (partAt t q).binding = none
      ∧ (partAt t q).settle.journal = (partAt s q).settle.journal ∧ (∀ r, r ≠ q → partAt t r = partAt s r) ∧ t.tick = s.tick
      ∧ Recorded t c stOk n 0 := by
  unfold startPart at ht
  extract_lets p s1 s2 at ht
  rw [if_neg (show ¬ p.join.mode = 3 by simp [p, hjoin])] at ht
  have base : partAt (setPartState s q .running) q = { partAt s q with state := .running } := (setPartState_partAt s q q .running).trans (if_pos rfl)
  have own : (partAt s1 q).state = .running ∧ (partAt s1 q).startAt = none ∧ (partAt s1 q).binding = none
      ∧ (partAt s1 q).settle.journal = (partAt s q).settle.journal := by
    rw [show partAt s1 q = _ from (modPart_own _ q q _).trans (if_pos rfl), base]
    exact ⟨rfl, rfl, congrArg (Option.map _) hbinding, rfl⟩
  have other : ∀ r, r ≠ q → partAt s1 r = partAt s r := fun r hr => by
    refine (modPart_own _ q r _).trans ?_
    rw [if_neg (Ne.symm hr), setPartState_partAt, if_neg (Ne.symm hr)]
  have cmds : s1.cmds = s.cmds := (setPartState_commands s q .running).1
  have hosts : s1.hosts = s.hosts := (setPartState_commands s q .running).2
  have tick : s1.tick = s.tick := (setPartState_backstage s q .running).1.tick
  obtain ⟨running, named, unbound, journal⟩ := own
  obtain ⟨first, state, startAt, settle, binding, others, cmds', hosts', tick'⟩ := beginStep_first s1 q p.ctx.step n
  have found : waitingCmd (beginStep s1 q p.ctx.step n) q opStart = some c := by
    rw [waitingCmd, cmds', cmds]
    exact hcmd
  have ended : s2 = complete (beginStep s1 q p.ctx.step n) c stOk n 0 0 0 := endWaiting_found found
  have record := complete_onlyRecord (beginStep s1 q p.ctx.step n) c stOk n 0 0 0
  have parts := partAt_onlyRecord record
  have ticks : (complete (beginStep s1 q p.ctx.step n) c stOk n 0 0 0).tick = (beginStep s1 q p.ctx.step n).tick := by rw [record]
  rw [← ht, ended, parts]
  refine ⟨⟨first, state.trans running, startAt.trans named⟩, binding unbound, (congrArg Settle.journal settle).trans journal, fun r hr => ?_, ticks.trans (tick'.trans tick),
    complete_recorded (by rw [hosts', hosts]; exact hhost) (by decide) n 0 0 0⟩
  rw [parts, others r hr, other r hr]

/-- What a partition that has just started does in its first tick. -/
theorem startTick_started {u : State} {step : Nat} (hstate : (partAt s q).state = .loaded) (hdue : dueAt (partAt s q).startAt n = true)
    (hu : startPart s q n = u) (started : Started (partAt u q) step n) (hbinding : (partAt u q).binding = none)
    (hjournal : (partAt u q).settle.journal = []) {t : State} (ht : startTick n s q = t) :
    Started (partAt t q) step n ∧ (∀ r, r ≠ q → partAt t r = partAt u r) ∧ t.tick = u.tick ∧ t.cmds = u.cmds ∧ t.hosts = u.hosts ∧ t.out = u.out := by
  unfold startTick at ht
  extract_lets p s1 p1 s2 s3 last at ht
  have first : s1 = u := by
    simp only [s1, p, hstate]
    rw [if_pos hdue, hu]
  have unbound : isBound p1 = false := by simp only [p1, first, isBound, hbinding]; rfl
  rw [if_neg (show ¬ p1.state ≠ .running by simp only [p1, first, started.running]; decide), unbound, Bool.and_false, if_neg Bool.false_ne_true] at ht
  have changed : ∃ c, s2 = modCtx u q c ∧ ∀ x, (c x).active = x.active ∧ (c x).firstTick = x.firstTick ∧ (c x).step = x.step ∧ (c x).attempt = x.attempt :=
    ⟨_, congrArg (fun v => modCtx v q _) first, fun _ => ⟨rfl, rfl, rfl, rfl⟩⟩
  obtain ⟨c, changed, same⟩ := changed
  have own : partAt s2 q = { partAt u q with ctx := c (partAt u q).ctx } := by rw [changed, modCtx_own, if_pos rfl]
  have undelivered : deliverJournal s2 q n = s2 := by
    unfold deliverJournal
    rw [own]
    simp [hjournal]
  have tiles : TilesOnly s2 t := by
    rw [← ht]
    unfold s3
    rw [undelivered]
    exact .fold refresh_tilesOnly _ _
  obtain ⟨parts, cmds, hosts, out, tick⟩ := tiles.reads
  obtain ⟨active, firstTick, stepSame, attempt⟩ := same (partAt u q).ctx
  refine ⟨?_, fun r hr => ?_, ?_⟩
  · rw [parts, own]
    exact ⟨⟨active.trans started.active, firstTick.trans started.from_, stepSame.trans started.step, attempt.trans started.attempt⟩, started.running,
      started.startAt⟩
  · rw [parts, changed, modCtx_own, if_neg (Ne.symm hr)]
  · rw [tick, cmds, hosts, out, changed]
    exact ⟨rfl, rfl, rfl, rfl⟩

end

/-! ### The end of a tick of a partition that does not run -/

theorem modSettle_same {q : Nat} {p : Part} {s : State} (hparts : s.parts = [(q, p)]) (f : Settle → Settle) (hf : f p.settle = p.settle) :
    modSettle s q f = s := by
  have own : partAt s q = p := by simp [partAt, hparts, Tab.at, Tab.find]
  rw [modSettle, modPart, own, hf, setPart, hparts, Tab.put, if_pos rfl, ← hparts]

/-- Nothing ends with the tick of a loaded partition that neither shadows nor serves nor saves. -/
theorem endTick_loaded {s : State} {q : Nat} {p : Part} (t : Nat) (hparts : s.parts = [(q, p)]) (hstate : p.state = .loaded)
    (hckpt : p.ckpt.pending = false) (hjoin : p.join = {}) (hsettle : p.settle = {}) : endTick t s q = s := by
  have own : partAt s q = p := by simp [partAt, hparts, Tab.at, Tab.find]
  have printed : printTick s q t = s := by
    have unsent : sendPrint s q t = s := by simp [sendPrint, own, hjoin]
    simp only [printTick, unsent, own, hjoin]
    exact modSettle_same hparts _ (by rw [hsettle]; rfl)
  unfold endTick
  simp [own, hstate, printed, hckpt]

/-! ### One element of a list alone acts -/

/-- Where one element turns `before` into `after` and the others keep both, a list that names it once ends in `after`. -/
theorem foldl_once {α : Type} {op : State → α → State} {a : α} {before after : State → Prop} (acts : ∀ s, before s → after (op s a))
    (skips : ∀ s x, x ≠ a → before s → before (op s x)) (keeps : ∀ s x, x ≠ a → after s → after (op s x)) (l : List α) (hl : l.Nodup) (ha : a ∈ l)
    (s : State) (h : before s) : after (l.foldl op s) := by
  have past : ∀ (m : List α) (u : State), a ∉ m → after u → after (m.foldl op u) := fun m u hm hu =>
    List.foldlRecOn m op hu fun v hv x hx => keeps v x (fun e => hm (e ▸ hx)) hv
  induction l generalizing s with
  | nil => cases ha
  | cons x l ih =>
    obtain ⟨hx, hl⟩ := List.nodup_cons.1 hl
    by_cases hxa : x = a
    · subst hxa
      exact past l _ hx (acts s h)
    · exact ih hl ((List.mem_cons.1 ha).resolve_left (Ne.symm hxa)) _ (skips s x hxa h)

end Sys2Proof.Machine
end

section
/-! SUPPORT. O24. -/

namespace Sys2Proof.Machine

/-- A record due is written once (R218). -/
theorem writeDue_writes {s : State} {q k fin off flags i a : Nat} (hdue : (partAt s q).ctx.recordDue = some (k, fin, off, flags))
    (hwf : Memory.wf s.mem = true) (hi : regField s (schReg q 0x20) 0 32 = i) (ha : (partAt s q).carve + i % 32768 * 16 = a)
    (hplain : PlainSpan s a 16) {t : State} (ht : writeDue s q = t) :
    readBytes t.mem a 16 = tickRecordBytes k fin off flags ∧ SameMemoryOutside a 16 s t
      ∧ (partAt t q).ctx = { (partAt s q).ctx with recordDue := none }
      ∧ regField t (schReg q 0x20) 0 32 = (i + 1) % 2 ^ 32 ∧ regField t (schReg q 0x20) 32 32 = regField s (schReg q 0x20) 32 32
      ∧ regGet t (schReg q 0x18) = fin % 2 ^ 32 + k % 2 ^ 32 * 2 ^ 32 ∧ SameRegistersBut [schReg q 0x18, schReg q 0x20] s t ∧ t.tiles = s.tiles := by
  rw [writeDue_due hdue] at ht
  generalize hu : tickRecord s q k fin off flags = u at ht
  obtain ⟨bytes, outside, ctx, count, upper, slack, others, tiles⟩ := tickRecord_writes hwf hi ha hplain hu
  have same : t.mem = u.mem ∧ t.regs = u.regs ∧ t.tiles = u.tiles := by
    rw [← ht]
    simp only [modCtx_fields, and_self]
  obtain ⟨mem, regs, allTiles⟩ := same
  have gets : ∀ b, regGet t b = regGet u b := fun b => by rw [regGet, regs, regGet]
  have fields : ∀ b lo n, regField t b lo n = regField u b lo n := fun b lo n => by rw [regField, gets, regField]
  rw [SameMemoryOutside, mem, fields, fields, gets, SameRegistersBut]
  refine ⟨bytes, outside, ?_, count, upper, slack, fun b hb => (gets b).trans (others b hb), allTiles.trans tiles⟩
  rw [← ht, modCtx_own, if_pos rfl, ctx]

/-- A boundary at which a loaded partition, the only one, is due: every partition's turn but its own is without effect. -/
theorem tickBoundary_starts {s : State} {q f : Nat} {p : Part} {c : Cmd} (hq : q < 16) (hparts : s.parts = [(q, p)]) (hstate : p.state = .loaded)
    (hstart : p.startAt = some f) (hf : f ≤ now s + 1) (hlast : now s + 1 < 2 ^ 64) (hckpt : p.ckpt.pending = false) (hjoin : p.join = {})
    (hsettle : p.settle = {}) (hbinding : p.binding = none) (htrees : s.trees = []) (hcmd : waitingCmd s q opStart = some c)
    (hhost : c.host < s.hosts.length) :
    Started (partAt (tickBoundary s) q) p.ctx.step (now s + 1) ∧ now (tickBoundary s) = now s + 1
      ∧ Recorded (tickBoundary s) c stOk (now s + 1) 0 := by
  have own : partAt s q = p := by simp [partAt, hparts, Tab.at, Tab.find]
  have other : ∀ r, r ≠ q → partAt s r = {} := fun r hr => by simp [partAt, hparts, Tab.at, Tab.find, Ne.symm hr]
  have ended : ∀ r, endTick (now s) s r = s := fun r => by
    by_cases hr : r = q
    · exact hr ▸ endTick_loaded (now s) hparts hstate hckpt hjoin hsettle
    · exact endTick_empty _ (other r hr)
  have unbound : ∀ r, (partAt s r).binding = none := fun r => by
    by_cases hr : r = q
    · rw [hr, own, hbinding]
    · rw [other r hr]
  rw [tickBoundary_unbound ended unbound, announcePeriod_treeless (s := tickTurned s) htrees]
  generalize hu : tickTurned s = u
  have parts : ∀ r, partAt u r = partAt s r := fun _ => hu ▸ rfl
  have count : now u = now s + 1 := hu ▸ Nat.mod_eq_of_lt hlast
  have waiting : waitingCmd u q opStart = some c := hu ▸ hcmd
  have hosts : c.host < u.hosts.length := hu ▸ hhost
  generalize now s + 1 = n at hf count
  have idle : ∀ (t : State) r, r ≠ q → partAt t r = {} → startTick n t r = t := fun t r _ h => startTick_idle n (by rw [h])
  refine (foldl_once (op := startTick n) (a := q) (before := fun t => t = u)
    (after := fun t => (∀ r, r ≠ q → partAt t r = {}) ∧ Started (partAt t q) p.ctx.step n ∧ now t = n ∧ Recorded t c stOk n 0)
    (fun t ht => ?_) (fun t r hr ht => ?_) (fun t r hr ht => ?_) (List.range 16) List.nodup_range (List.mem_range.2 hq) u rfl).2
  · subst ht
    have ownPart : partAt t q = p := (parts q).trans own
    generalize hv : startPart t q n = v
    obtain ⟨started, noBinding, journal, others, tick, recorded⟩ :=
      startPart_starts (ownPart ▸ hjoin) (ownPart ▸ hbinding) waiting hosts hv
    rw [ownPart] at started journal
    have due : dueAt (partAt t q).startAt n = true := by rw [ownPart, hstart]; exact decide_eq_true hf
    obtain ⟨runs, others', tick', cmds, hosts', out⟩ := startTick_started (ownPart ▸ hstate) due hv started noBinding
      (journal.trans (congrArg Settle.journal hsettle)) rfl
    refine ⟨fun r hr => ?_, runs, ?_, recorded_kept recorded ⟨cmds ▸ List.Sublist.refl _, fun e he => out ▸ he, fun h => ?_⟩⟩
    · rw [others' r hr, others r hr, parts, other r hr]
    · rw [now, tick', tick]
      exact count
    · have host : hostAt (startTick n t q) h = hostAt v h := by rw [hostAt, hosts', hostAt]
      rw [host]
      exact ⟨rfl, rfl, fun _ hx _ => hx⟩
  · rw [ht, idle u r hr ((parts r).trans (other r hr))]
  · rw [idle t r hr (ht.1 r hr)]
    exact ht

end Sys2Proof.Machine

namespace Sys2Proof
open Sys2Proof.Machine

/-- Settles O24: a boundary without partitions only turns the tick; a record due is one span written, then two registers; and at a start every
partition's turn but the loaded one's is without effect. -/
theorem ticksAdvanceAndPartitionsStart : Obligations.TicksAdvanceAndPartitionsStart := by
  unfold Obligations.TicksAdvanceAndPartitionsStart
  refine ⟨⟨fun s hparts htrees => ?_, fun q s k fin off flags hdue hwf => ?_⟩,
    fun q f p s c hq hparts hstate hstart hf hlast hckpt hjoin hsettle hbinding htrees hpending hcmd hhost => ?_⟩
  · refine ⟨tickTurned s, congrArg Host.Outcome.next (tickBoundary_bare hparts htrees), rfl, rfl, fun ⟨hp, hn⟩ => ?_, fun h => ?_, rfl⟩
    · simp only [tickTurned, turnPeriod_due hp hn, and_self]
    · simp only [tickTurned, turnPeriod_early h, and_self]
  · intro i a hplain
    have done : exec (.tickRecord q) s = .next (writeDue s q) := rfl
    generalize ht : writeDue s q = t at done
    exact ⟨t, done, writeDue_writes hdue hwf rfl rfl hplain ht⟩
  · obtain ⟨started, count, recorded⟩ :=
      tickBoundary_starts hq hparts hstate hstart hf hlast hckpt hjoin hsettle hbinding htrees hcmd hhost
    have own : partAt s q = p := by simp [partAt, hparts, Tab.at, Tab.find]
    have done : exec .tickBoundary s = .next (tickBoundary s) := rfl
    exact ⟨_, done, started.running, started.active, started.from_, started.step, started.attempt, started.startAt, count, recorded⟩
end Sys2Proof
end

section
/-! SUPPORT. A packet that arrives and passes the checks of R302. -/

namespace Sys2Proof.Machine

/-! ### A packet that arrives (R302) -/

/-- A packet taken changes its port's receive buffers alone. -/
theorem takePacket_frame (s : State) (p : Nat) (k : Packet) : ∃ ports, takePacket s p k = { s with ports := ports }
    ∧ ∀ r, (portAt (takePacket s p k) r).sendRsp = (portAt s r).sendRsp ∧ (portAt (takePacket s p k) r).state = (portAt s r).state := by
  unfold takePacket
  extract_lets wire
  split
  · refine ⟨_, rfl, fun r => ?_⟩
    rw [modPort_own]
    split
    case isTrue h => exact h ▸ ⟨rfl, rfl⟩
    case isFalse => exact ⟨rfl, rfl⟩
  · exact ⟨s.ports, rfl, fun _ => ⟨rfl, rfl⟩⟩

section
variable {s : State} {p q typ : Nat} {k : Packet} {f : Flow}

/-- A packet that passes checks 1 to 5 does what its type does, taken from its port. -/
theorem receive_arrives (h : Arrives s p typ k q f) (go : State → Nat → Flow → State) : receive s p typ k go = go (takePacket s p k) q f := by
  obtain ⟨rfl, hform, hflow, rfl, -, hcval, -, -, hfence, hjob, hepoch⟩ := h
  obtain ⟨ports, taken, -⟩ := takePacket_frame s p k
  have flow : arrivalFlow (takePacket s p k) p k = some f := by rw [taken]; exact hflow
  have part : partAt (takePacket s p k) f.q = partAt s f.q := by rw [taken]; rfl
  have stopped : (k.cval && decide (p < 16) && cvuStopped (takePacket s p k) (rxUnit p)) = false := by
    cases hc : k.cval
    · rfl
    · rw [taken]
      simp [show cvuStopped { s with ports := ports } (rxUnit p) = false from (hcval hc).1]
  have sound : (k.cval && decide (p < 16) && decide (k.typ ≠ 3) && f.rxRun.isSome && runBad (takePacket s p k) (rxUnit p) f.q) = false := by
    cases hc : k.cval
    · rfl
    · rw [taken]
      simp [show runBad { s with ports := ports } (rxUnit p) f.q = false from (hcval hc).2]
  have current : (isBound (partAt s f.q) && decide (k.jobEpoch ≠ jobEpochOf (partAt s f.q))) = false := by
    cases hb : isBound (partAt s f.q)
    · rfl
    · simp [hjob hb]
  simp only [receive, hform, flow, part, hfence, stopped, sound, current, hepoch, ne_self_iff_false, decide_false, Bool.false_and,
    Bool.false_eq_true, if_false]

end
end Sys2Proof.Machine
end

section
/-! SUPPORT. Transfers noted and data landed: READ_DATA's trailer, its descriptor and its bytes (R301, R342). -/

namespace Sys2Proof.Machine

/-! ### Transfers noted: the descriptors of one tile, the check-value units and the log -/

/-- Nothing differs but tile t's lists of descriptors, the check-value units with their counts, the log, the flows and the poison marks. -/
structure StreamNoted (t : Nat) (s u : State) : Prop where
  rest : u = { s with tiles := u.tiles, cvus := u.cvus, regs := u.regs, mgt := u.mgt, flows := u.flows, poison := u.poison }
  own : ∃ d, tileAt u t = { tileAt s t with dma := d }
  others : ∀ y, y ≠ t → tileAt u y = tileAt s y

namespace StreamNoted
variable {t : Nat} {s u v : State}

theorem of_tiles (h : u = { s with cvus := u.cvus, regs := u.regs, mgt := u.mgt, flows := u.flows, poison := u.poison }) : StreamNoted t s u := by
  have tiles : u.tiles = s.tiles := by rw [h]
  have tile : ∀ y, tileAt u y = tileAt s y := fun y => by rw [tileAt, tiles, tileAt]
  exact ⟨by rw [tiles]; exact h, ⟨_, tile t⟩, fun y _ => tile y⟩

theorem refl (s : State) : StreamNoted t s s := of_tiles rfl

theorem trans (h : StreamNoted t s u) (g : StreamNoted t u v) : StreamNoted t s v := by
  obtain ⟨d, hd⟩ := h.own
  obtain ⟨d', gd⟩ := g.own
  exact ⟨by rw [g.rest, h.rest], ⟨d', by rw [gd, hd]⟩, fun y hy => (g.others y hy).trans (h.others y hy)⟩

theorem of_modDesc (s : State) (k : Nat) (f : Desc → Desc) : StreamNoted t s (modDesc s t k f) where
  rest := rfl
  own := ⟨_, by rw [modDesc, modHeadRun, modTile_own, if_pos rfl]⟩
  others y hy := by rw [modDesc, modHeadRun, modTile_own, if_neg (Ne.symm hy)]

theorem reads (h : StreamNoted t s u) : u.mem = s.mem ∧ u.parts = s.parts ∧ u.slots = s.slots ∧ u.slotGen = s.slotGen := by
  rw [h.rest]
  exact ⟨rfl, rfl, rfl, rfl⟩

theorem plainSpan {a n : Nat} (h : StreamNoted t s u) (plain : PlainSpan s a n) : PlainSpan u a n := by
  have banks : ∀ y, (tileAt u y).banks = (tileAt s y).banks := fun y => by
    by_cases hy : y = t
    · obtain ⟨d, own⟩ := h.own
      rw [hy, own]
    · rw [h.others y hy]
  have fs : u.fs = s.fs := by rw [h.rest]
  have chans : ∀ c, chanAt u c = chanAt s c := fun c => by rw [chanAt, fs, chanAt]
  unfold PlainSpan
  rw [banks, fs]
  simp only [chans]
  exact plain

end StreamNoted

section
variable (t : Nat) (s : State)

theorem logEntry_streamNoted (code index part : Nat) (d : List Nat) : StreamNoted t s (logEntry s code index part d) := .of_tiles rfl

theorem regSet_streamNoted (a lo n v : Nat) : StreamNoted t s (regSet s a lo n v) := .of_tiles rfl

theorem regBump_streamNoted (a lo n k : Nat) : StreamNoted t s (regBump s a lo n k) := regSet_streamNoted t s a lo n _

theorem modCvSlot_streamNoted (u q : Nat) (f : CvSlot → CvSlot) : StreamNoted t s (modCvSlot s u q f) := .of_tiles rfl

theorem modFlow_streamNoted (q i : Nat) (f : Flow → Flow) : StreamNoted t s (modFlow s q i f) := .of_tiles rfl

theorem cvMismatch_streamNoted (u q : Nat) : StreamNoted t s (cvMismatch s u q) :=
  .trans (.trans (regBump_streamNoted t s _ _ _ _) (regSet_streamNoted t _ _ _ _ _)) (regSet_streamNoted t _ _ _ _ _)

theorem linkStream_streamNoted (u q : Nat) (from_ : Option Word) (bs : List Byte) (last : Bool) :
    StreamNoted t s (linkStream s u q from_ bs last).2.2 := by
  unfold linkStream
  extract_lets ps run v
  split
  · exact (modCvSlot_streamNoted t s u q _).trans (regBump_streamNoted t _ _ _ _ _)
  · exact modCvSlot_streamNoted t s u q (fun c => { c with run := word run })

/-- A trailer's check moves its unit, its flow's running value and the log. -/
theorem checkTrailer_streamNoted (p q : Nat) (f : Flow) (k : Packet) : StreamNoted t s (checkTrailer s p q f k).2 := by
  unfold checkTrailer
  split
  · exact .refl s
  · extract_lets u alone was r bad s1 s2
    have noted : StreamNoted t s s1 := by
      have stream : StreamNoted t s r.2.2 := linkStream_streamNoted t s _ _ _ _ _
      unfold s1
      split
      · exact stream.trans (.trans (cvMismatch_streamNoted t _ _ _) (logEntry_streamNoted t _ _ _ _ _))
      · exact stream
    unfold s2
    split
    · exact noted
    · exact noted.trans (modFlow_streamNoted t _ _ _ _)

theorem abandonOf_streamNoted (k : Nat) : StreamNoted t s (abandonOf s t k) :=
  foldl_related (R := StreamNoted t) (op := fun s i => abandonStream s (40 + i) (((cvuAt s (40 + i)).busy.map Prod.fst).getD 0))
    .refl .trans (fun _ _ => .of_tiles rfl) _ s

/-- A transfer whose request has failed takes the status on its descriptor. -/
theorem failUse_streamNoted {x : SlotUse} {j : Nat} (h : x = .dma t j ∨ ∃ dst at_, x = .read t j dst at_) (st : Nat) :
    StreamNoted t s (failUse s x st) := by
  rcases h with rfl | ⟨dst, at_, rfl⟩
  all_goals exact .trans (.of_modDesc s j _) (abandonOf_streamNoted t _ j)
end

theorem checkTrailer_unchecked {s : State} {k : Packet} (h : k.cval = false) (p q : Nat) (f : Flow) : checkTrailer s p q f k = (false, s) := by
  simp [checkTrailer, h]

/-! ### Data landed -/

theorem poisonSpan_frame (s : State) (a n : Nat) : poisonSpan s a n = { s with poison := (poisonSpan s a n).poison } :=
  foldl_related (R := fun s t => t = { s with poison := t.poison }) (fun _ => rfl) (fun h g => by rw [g, h]) (fun _ _ => rfl) _ s

/-- A plain span of any length written: its bytes land, and no tile, partition, register or request slot changes. -/
theorem spanWrite_lands {s : State} {a : Nat} {bs : List Byte} (h : PlainSpan s a bs.length) {u : State} (hu : spanWrite s a bs = u) :
    u.mem = writeBytes s.mem a bs ∧ u.parts = s.parts ∧ u.regs = s.regs ∧ u.slots = s.slots ∧ u.slotGen = s.slotGen
      ∧ ∀ y, tileAt u y = tileAt s y := by
  cases bs with
  | cons b bs =>
    obtain ⟨_, _, _, written⟩ := spanWrite_plain h (Nat.zero_lt_succ _)
    rw [← hu, written]
    exact ⟨rfl, rfl, rfl, rfl, rfl, fun _ => rfl⟩
  | nil =>
    unfold spanWrite at hu
    split at hu
    · split at hu
      · subst hu
        refine ⟨rfl, rfl, rfl, rfl, rfl, fun y => ?_⟩
        rw [modDrain_own]
        split
        case isTrue h => rw [h]; rfl
        case isFalse => rfl
      · have idle : bankTurn s a ([] : List Byte).length = s := by
          unfold bankTurn
          split <;> rfl
        rw [idle] at hu
        subst hu
        exact ⟨rfl, rfl, rfl, rfl, rfl, fun _ => rfl⟩
      · subst hu
        exact ⟨rfl, rfl, rfl, rfl, rfl, fun _ => rfl⟩
      · subst hu
        exact ⟨rfl, rfl, rfl, rfl, rfl, fun _ => rfl⟩
    · subst hu
      exact ⟨rfl, rfl, rfl, rfl, rfl, fun _ => rfl⟩

/-- A packet's data landed in a plain span, its poisoned parts marked. -/
theorem landData_lands {s : State} {k : Packet} {a : Nat} (h : PlainSpan s a k.data.length) {u : State} (hu : landData s { k with addr := a } = u) :
    u.mem = writeBytes s.mem a k.data ∧ u.parts = s.parts ∧ u.regs = s.regs ∧ u.slots = s.slots ∧ u.slotGen = s.slotGen
      ∧ ∀ y, tileAt u y = tileAt s y := by
  generalize hv : spanWrite s a k.data = v
  obtain ⟨mem, parts, regs, slots, gen, tiles⟩ := spanWrite_lands h hv
  have marked : u = { v with poison := u.poison } := by
    rw [← hu, ← hv]
    exact foldl_related (R := fun s t => t = { s with poison := t.poison }) (fun _ => rfl) (fun h g => by rw [g, h])
      (fun s (x : Nat × Nat) => poisonSpan_frame s (a + x.1) x.2) _ _
  rw [marked]
  exact ⟨mem, parts, regs, slots, gen, tiles⟩

end Sys2Proof.Machine
end

section
/-! SUPPORT. Replies and the slots they end; what a timed-out request leaves (R223, R301, R302, R417). -/

namespace Sys2Proof.Machine

/-! ### Replies and their slots (R223, R301, R302) -/

/-- A request slot let go: it is listed no more, and its next use is under a new generation. -/
structure SlotEnded (n : Nat) (s t : State) : Prop where
  slots : t.slots = s.slots.filter (fun y => y.num ≠ n)
  gen : t.slotGen.at n 0 = (s.slotGen.at n 0 + 1) % 256

/-- A state after a packet has been taken and a slot let go. -/
structure SlotLetGo (n : Nat) (s t : State) : Prop extends SlotEnded n s t where
  rest : t = { s with ports := t.ports, slots := t.slots, slotGen := t.slotGen }

theorem releaseSlot_ends (s : State) (n : Nat) : SlotEnded n s (releaseSlot s n) :=
  ⟨rfl, by simp only [releaseSlot, Tab.at, Tab.find_put, if_pos, Option.getD_some]⟩

namespace SlotLetGo
variable {n : Nat} {s t : State}

theorem of_packet (s : State) (p : Nat) (k : Packet) (n : Nat) : SlotLetGo n s (releaseSlot (takePacket s p k) n) := by
  obtain ⟨ports, taken, -⟩ := takePacket_frame s p k
  rw [taken]
  obtain ⟨slots, gen⟩ := releaseSlot_ends { s with ports := ports } n
  exact ⟨⟨slots, gen⟩, rfl⟩

theorem reads (h : SlotLetGo n s t) : t.mem = s.mem ∧ t.parts = s.parts ∧ t.regs = s.regs ∧ t.tiles = s.tiles ∧ t.fs = s.fs := by
  rw [h.rest]
  exact ⟨rfl, rfl, rfl, rfl, rfl⟩

theorem plainSpan (h : SlotLetGo n s t) {a m : Nat} (plain : PlainSpan s a m) : PlainSpan t a m := by
  obtain ⟨-, -, -, tiles, fs⟩ := h.reads
  unfold PlainSpan tileAt chanAt at plain ⊢
  rw [tiles, fs]
  exact plain

end SlotLetGo

theorem SlotEnded.kept {n : Nat} {s t u : State} (h : SlotEnded n s t) (slots : u.slots = t.slots) (gen : u.slotGen = t.slotGen) : SlotEnded n s u :=
  ⟨slots.trans h.slots, (congrArg (Tab.at · n 0) gen).trans h.gen⟩

section
variable {s : State} {p q typ : Nat} {k : Packet} {f : Flow} {x : ReqSlot}

theorem replySlot_taken (s : State) (p : Nat) (f : Flow) (k : Packet) : replySlot (takePacket s p k) f k = replySlot s f k := by
  obtain ⟨_, taken, -⟩ := takePacket_frame s p k
  rw [taken]
  rfl

/-- A reply that names no open slot is counted. -/
theorem lateReply_counts (h : Arrives s p typ k q f) (hs : replySlot s f k = none) (go : Nat → Flow → State → ReqSlot → State)
    {t : State} (ht : receive s p typ k (fun s q f => withSlot s q f k (go q f)) = t) :
    regField t (schReg q 0x38) 32 32 = min (regField s (schReg q 0x38) 32 32 + 1) (2 ^ 32 - 1)
      ∧ SameRegistersBut [schReg q 0x38] s t ∧ t = { s with regs := t.regs, ports := t.ports } := by
  obtain ⟨ports, taken, -⟩ := takePacket_frame s p k
  rw [receive_arrives h, withSlot, replySlot_taken, hs, taken] at ht
  simp only at ht
  generalize hv : ({ s with ports := ports } : State) = v at ht
  have gets : ∀ a, regGet v a = regGet s a := fun a => by rw [← hv]; rfl
  have count : regField v (schReg q 0x38) 32 32 = regField s (schReg q 0x38) 32 32 := by rw [regField, gets, regField]
  have same := regBump_sameRegistersBut v (schReg q 0x38) 32 32 1
  have bumped := regField_regBump v (schReg q 0x38) 1 (lo := 32) (n := 32) (by decide)
  rw [ht] at same bumped
  refine ⟨bumped.trans (by rw [count]), fun a ha => (same a ha).trans (gets a), ?_⟩
  have rest : t = { v with regs := t.regs } := ht ▸ rfl
  rw [rest, ← hv]

/-- A reply that names an open slot ends it, then has its effect. -/
theorem reply_ends (h : Arrives s p typ k q f) (hs : replySlot s f k = some x) (go : Nat → Flow → State → ReqSlot → State) :
    ∃ v, SlotLetGo x.num s v ∧ receive s p typ k (fun s q f => withSlot s q f k (go q f)) = go q f v x := by
  refine ⟨_, .of_packet s p k x.num, ?_⟩
  rw [receive_arrives h, withSlot, replySlot_taken, hs]

/-! ### READ_DATA, ACK and FLOW_TIMEOUT -/

/-- A read whose data came with OK: they land where it was to put them (R301). -/
theorem landRead_lands {v : State} {t j dst at_ : Nat} (hok : k.status = stOk) (hlen : k.data.length = k.length) (plain : PlainSpan v dst k.length)
    (hwf : Memory.wf v.mem = true) {u : State} (hu : landRead v p q f k (.read t j dst at_) = u) :
    u.slots = v.slots ∧ u.slotGen = v.slotGen ∧ readBytes u.mem dst k.length = k.data ∧ SameMemoryOutside dst k.length v u ∧ u.parts = v.parts
      ∧ (k.cval = false → u.regs = v.regs) ∧ (∀ y, y ≠ t → tileAt u y = tileAt v y) ∧ ∃ d, tileAt u t = { tileAt v t with dma := d } := by
  rw [← hlen] at plain ⊢
  have checked : StreamNoted t v (keepStream (checkTrailer v p q f k).2 t j at_ k.data) :=
    (checkTrailer_streamNoted t v p q f k).trans (.of_modDesc _ j _)
  have regs : k.cval = false → (keepStream (checkTrailer v p q f k).2 t j at_ k.data).regs = v.regs := fun h => by
    rw [checkTrailer_unchecked h]
    rfl
  simp only [landRead] at hu
  rw [if_neg (not_not.2 hok)] at hu
  generalize keepStream (checkTrailer v p q f k).2 t j at_ k.data = v1 at hu checked regs
  generalize hv : landData v1 { k with addr := dst } = v2 at hu
  obtain ⟨mem, parts, regs2, slots, gen, tiles⟩ := landData_lands (checked.plainSpan plain) hv
  have marked : u = { v2 with poison := u.poison } := by
    rw [← hu]
    split
    · exact poisonSpan_frame v2 dst _
    · rfl
  obtain ⟨mem1, parts1, slots1, gen1⟩ := checked.reads
  rw [mem1] at mem
  obtain ⟨bytes, outside⟩ := written_span hwf mem
  obtain ⟨d, own⟩ := checked.own
  rw [marked]
  exact ⟨slots.trans slots1, gen.trans gen1, bytes, outside, parts.trans parts1, fun h => regs2.trans (regs h),
    fun y hy => (tiles y).trans (checked.others y hy), d, (tiles t).trans own⟩

/-- A slot in retention whose message was acknowledged (R417). -/
theorem retentionAcked_same {v : State} (h : x.ident = none) : retentionAcked v q x = v := by simp only [retentionAcked, h]

theorem retentionAcked_retention {v : State} {off n : Nat} (h : x.ident = some (off, n)) :
    (partAt (retentionAcked v q x) q).settle.retention = (partAt v q).settle.retention.map (fun m =>
      if m.flow = x.flow ∧ m.off = off ∧ m.idx = n then { m with acked := true } else m) := by
  simp only [retentionAcked, h]
  rw [modSettle_own, if_pos rfl]
  refine List.map_congr_left fun m _ => ?_
  simp [and_assoc]

theorem retentionAcked_frame (v : State) (q : Nat) (x : ReqSlot) : retentionAcked v q x = { v with parts := (retentionAcked v q x).parts } := by
  unfold retentionAcked
  split <;> rfl

/-- An acknowledgement with OK asks no more of a message, a transfer or a DEPOSIT. -/
theorem endRequest_ok {v : State} (hok : k.status = stOk) (h : x.usage = .send ∨ (∃ t j, x.usage = .dma t j) ∨ ∃ a b, x.usage = .deposit a b) :
    endRequest v k x = v := by
  rcases h with h | ⟨t, j, h⟩ | ⟨a, b, h⟩ <;> simp only [endRequest, h, hok, if_true]
end

/-! ### FLOW_TIMEOUT (R301) -/

/-- What a timed-out request leaves before its use ends: its slot let go, its part sent taken back. -/
def timedOut (s : State) (n : Nat) (x : ReqSlot) : State :=
  let gone (o : OutPkt) : Bool := o.pkt.slot = n && o.pkt.gen = x.gen && o.q = x.q && o.flow = x.flow
  let s1 := releaseSlot s n
  let s2 := { s1 with ports := s1.ports.map (fun y => (y.1, { y.2 with sendReq := y.2.sendReq.filter (fun o => !gone o) })) }
  modFlow s2 x.q x.flow (fun f => { f with
    queue := if f.txRun.isSome then (f.queue.dropWhile (fun o => !o.pkt.last)).drop 1 else f.queue
    txRun := none
    txPort := none })

section
variable {s : State} {n : Nat} {x : ReqSlot}

theorem flowTimeout_held (h : s.slots.find? (fun y => y.num = n) = some x) :
    flowTimeout n s = sourceLost (timeoutUse (timedOut s n x) x) x.q x.flow := by
  simp only [flowTimeout, h]
  rfl

theorem timedOut_frame (s : State) (n : Nat) (x : ReqSlot) : SlotEnded n s (timedOut s n x)
    ∧ timedOut s n x = { s with ports := (timedOut s n x).ports, flows := (timedOut s n x).flows, slots := (timedOut s n x).slots, slotGen := (timedOut s n x).slotGen } := by
  obtain ⟨slots, gen⟩ := releaseSlot_ends s n
  exact ⟨⟨slots, gen⟩, rfl⟩

/-- A partition that receives no cold stream loses no source. -/
theorem sourceLost_complete {u : State} {q : Nat} (h : (partAt u q).join = {}) (flow : Nat) : sourceLost u q flow = u := by
  simp [sourceLost, isIncomplete, h]

end

end Sys2Proof.Machine
end

section
/-! SUPPORT. READ_DATA, ACK and FLOW_TIMEOUT, each whole (R301, R417). -/

namespace Sys2Proof.Machine

section
variable {s : State} {n : Nat} {x : ReqSlot}

theorem timeoutUse_message {u : State} (hjoin : (partAt u x.q).join = {}) (h : x.usage = .send ∨ ∃ b, x.usage = .deposit x.q b) :
    timeoutUse u x = stepAbort u x.q causeTimeout (now u) false false := by
  rcases h with h | ⟨b, h⟩
  · simp only [timeoutUse, h, hjoin]
    exact if_neg nofun
  · simp only [timeoutUse, h]

/-- A message of a running job whose reply has not come: its slot is let go and the step aborts. -/
theorem flowTimeout_aborts (h : s.slots.find? (fun y => y.num = n) = some x) (hjoin : (partAt s x.q).join = {})
    (huse : x.usage = .send ∨ ∃ b, x.usage = .deposit x.q b) (hstate : (partAt s x.q).state = .running) (hpurge : (partAt s x.q).purge = none) :
    AbortedAt s (flowTimeout n s) x.q (now s) false ∧ ∀ y ∈ (flowTimeout n s).slots, y.num ≠ n := by
  rw [flowTimeout_held h]
  obtain ⟨ended, rest⟩ := timedOut_frame s n x
  generalize timedOut s n x = u at ended rest
  have same : u.parts = s.parts ∧ u.tiles = s.tiles ∧ u.tick = s.tick ∧ u.mgt = s.mgt := by
    rw [rest]
    exact ⟨rfl, rfl, rfl, rfl⟩
  obtain ⟨parts, tiles, tick, mgt⟩ := same
  have partsAt : ∀ r, partAt u r = partAt s r := fun r => by rw [partAt, parts, partAt]
  have leaves := stepAbort_leaves u x.q causeTimeout (now u) false false
  rw [timeoutUse_message ((partsAt x.q).symm ▸ hjoin) huse, sourceLost_complete ((leaves.join.trans (congrArg Part.join (partsAt x.q))).trans hjoin)]
  refine ⟨?_, fun y hy => ?_⟩
  · have aborted := doAbort_aborts (s := u) (a := now u) (cause := causeTimeout) (faulted := false) (wide := false)
      ((partsAt x.q).symm ▸ hstate) ((partsAt x.q).symm ▸ hpurge)
    rw [stepAbort_running ((partsAt x.q).symm ▸ hstate) ((partsAt x.q).symm ▸ hpurge)]
    have now_ : now u = now s := by rw [now, tick, now]
    rw [now_] at aborted ⊢
    exact abortedAt_of_stands partsAt (by rw [mgt]) (fun y => ⟨_, _, by rw [tileAt, tiles, ← tileAt]⟩) aborted
  · have kept := leaves.slots y hy
    rw [ended.slots] at kept
    exact of_decide_eq_true (List.mem_filter.1 kept).2

theorem timeoutUse_transfer {u : State} {t j : Nat} (h : x.usage = .dma t j ∨ ∃ dst at_, x.usage = .read t j dst at_) :
    timeoutUse u x = failUse u x.usage stTimeout := by
  rcases h with h | ⟨dst, at_, h⟩ <;> simp only [timeoutUse, h]

/-- A transfer whose reply has not come: its slot is let go and its descriptor takes TIMEOUT. -/
theorem flowTimeout_transfer {t j : Nat} (h : s.slots.find? (fun y => y.num = n) = some x) (hjoin : (partAt s x.q).join = {})
    (huse : x.usage = .dma t j ∨ ∃ dst at_, x.usage = .read t j dst at_) : SlotEnded x.num s (flowTimeout n s) ∧ (flowTimeout n s).mem = s.mem
      ∧ (flowTimeout n s).parts = s.parts ∧ (∀ y, y ≠ t → tileAt (flowTimeout n s) y = tileAt s y)
      ∧ ∃ d, tileAt (flowTimeout n s) t = { tileAt s t with dma := d } := by
  rw [flowTimeout_held h]
  obtain ⟨ended, rest⟩ := timedOut_frame s n x
  generalize timedOut s n x = u at ended rest
  have same : u.mem = s.mem ∧ u.parts = s.parts ∧ u.tiles = s.tiles := by
    rw [rest]
    exact ⟨rfl, rfl, rfl⟩
  obtain ⟨mem, parts, tiles⟩ := same
  have noted := failUse_streamNoted t u huse stTimeout
  obtain ⟨mem', parts', slots', gen'⟩ := noted.reads
  have join : (partAt (failUse u x.usage stTimeout) x.q).join = {} := by
    rw [partAt, parts', parts]
    exact hjoin
  have tile : ∀ y, tileAt u y = tileAt s y := fun y => by rw [tileAt, tiles, tileAt]
  have num : x.num = n := by simpa using List.find?_some h
  obtain ⟨d, own⟩ := noted.own
  rw [timeoutUse_transfer huse, sourceLost_complete join, num]
  exact ⟨ended.kept slots' gen', mem'.trans mem, parts'.trans parts, fun y hy => (noted.others y hy).trans (tile y), d, by rw [own, tile]⟩

theorem flowTimeout_free (h : s.slots.find? (fun y => y.num = n) = none) : flowTimeout n s = s := by
  simp only [flowTimeout, h]

end

section
variable {s : State} {p q : Nat} {k : Packet} {f : Flow} {x : ReqSlot}

theorem data_length {typ : Nat} (h : Arrives s p typ k q f) (ht : typ ≠ 2) : k.data.length = k.length := by
  obtain ⟨rfl, hform, -⟩ := h
  simp only [malformed, Bool.or_eq_false_iff] at hform
  simpa [ht] using hform.1.2

/-- A read's data with OK: the slot ends, and they land (R301). -/
theorem readData_lands {t j dst at_ : Nat} (h : Arrives s p 3 k q f) (hs : replySlot s f k = some x) (huse : x.usage = .read t j dst at_)
    (hok : k.status = stOk) (plain : PlainSpan s dst k.length) (hwf : Memory.wf s.mem = true) {u : State} (hu : readData p k s = u) :
    SlotEnded x.num s u ∧ readBytes u.mem dst k.length = k.data ∧ SameMemoryOutside dst k.length s u ∧ u.parts = s.parts
      ∧ (k.cval = false → u.regs = s.regs) ∧ (∀ y, y ≠ t → tileAt u y = tileAt s y) ∧ ∃ d, tileAt u t = { tileAt s t with dma := d } := by
  obtain ⟨v, gone, eq⟩ := reply_ends h hs (fun q f v x => landRead v p q f k x.usage)
  obtain ⟨mem, parts, regs, tiles, -⟩ := gone.reads
  have tile : ∀ y, tileAt v y = tileAt s y := fun y => by rw [tileAt, tiles, tileAt]
  have landed : landRead v p q f k (.read t j dst at_) = u := by rw [← hu, readData, eq, huse]
  obtain ⟨slots, gen, bytes, outside, parts', regs', others, d, own⟩ :=
    landRead_lands hok (data_length h (by decide)) (gone.plainSpan plain) (mem.symm ▸ hwf) landed
  rw [SameMemoryOutside, mem] at outside
  exact ⟨gone.kept slots gen, bytes, outside, parts'.trans parts, fun hc => (regs' hc).trans regs, fun y hy => (others y hy).trans (tile y), d,
    by rw [own, tile]⟩

/-- A read that ended with another status: the slot ends, and no byte changes (R301). -/
theorem readData_fails {t j dst at_ : Nat} (h : Arrives s p 3 k q f) (hs : replySlot s f k = some x) (huse : x.usage = .read t j dst at_)
    (hbad : k.status ≠ stOk) {u : State} (hu : readData p k s = u) :
    SlotEnded x.num s u ∧ u.mem = s.mem ∧ u.parts = s.parts ∧ (∀ y, y ≠ t → tileAt u y = tileAt s y)
      ∧ ∃ d, tileAt u t = { tileAt s t with dma := d } := by
  obtain ⟨v, gone, eq⟩ := reply_ends h hs (fun q f v x => landRead v p q f k x.usage)
  obtain ⟨mem, parts, -, tiles, -⟩ := gone.reads
  have tile : ∀ y, tileAt v y = tileAt s y := fun y => by rw [tileAt, tiles, tileAt]
  have failed : failUse v (.read t j dst at_) k.status = u := by
    rw [← hu, readData, eq, huse]
    exact (if_pos hbad).symm
  have noted := failUse_streamNoted t v (.inr ⟨dst, at_, rfl⟩ : SlotUse.read t j dst at_ = .dma t j ∨ _) k.status
  rw [failed] at noted
  obtain ⟨mem', parts', slots', gen'⟩ := noted.reads
  obtain ⟨d, own⟩ := noted.own
  exact ⟨gone.kept slots' gen', mem'.trans mem, parts'.trans parts, fun y hy => (noted.others y hy).trans (tile y), d, by rw [own, tile]⟩

/-- An acknowledgement with OK: the slot ends, and outbound retention notes it (R301, R417). -/
theorem ackPacket_ends (h : Arrives s p 4 k q f) (hs : replySlot s f k = some x) (hok : k.status = stOk)
    (huse : x.usage = .send ∨ (∃ t j, x.usage = .dma t j) ∨ ∃ a b, x.usage = .deposit a b) {t : State} (ht : ackPacket p k s = t) :
    SlotEnded x.num s t ∧ t.mem = s.mem ∧ t.regs = s.regs ∧ t.tiles = s.tiles ∧ (x.ident = none → t.parts = s.parts)
      ∧ ∀ off n, x.ident = some (off, n) → (partAt t q).settle.retention = (partAt s q).settle.retention.map (fun m =>
          if m.flow = x.flow ∧ m.off = off ∧ m.idx = n then { m with acked := true } else m) := by
  obtain ⟨v, gone, eq⟩ := reply_ends h hs (fun q f v x => endRequest (if k.status = stOk then retentionAcked v q x else v) k x)
  obtain ⟨mem, parts, regs, tiles, -⟩ := gone.reads
  have acked : t = retentionAcked v q x := by rw [← ht, ackPacket, eq, if_pos hok, endRequest_ok hok huse]
  have frame := retentionAcked_frame v q x
  rw [← acked] at frame
  have same : t.slots = v.slots ∧ t.slotGen = v.slotGen ∧ t.mem = v.mem ∧ t.regs = v.regs ∧ t.tiles = v.tiles := by
    rw [frame]
    exact ⟨rfl, rfl, rfl, rfl, rfl⟩
  obtain ⟨slots', gen', mem', regs', tiles'⟩ := same
  refine ⟨gone.kept slots' gen', mem'.trans mem, regs'.trans regs, tiles'.trans tiles, fun hn => ?_, fun off n hn => ?_⟩
  · rw [acked, retentionAcked_same hn, parts]
  · rw [acked, retentionAcked_retention hn, partAt, parts, ← partAt]

end

end Sys2Proof.Machine
end

section
/-! SUPPORT. The regulator's one funded span, and what a request's acceptance changes (R271, R273, R416). -/

namespace Sys2Proof.Machine

/-! ### The regulator: one funded span (R271, R273) -/

section
variable {s : State} {q : Nat}

theorem enterAll_idle (n : Nat) (h : (partAt s q).regWait = []) : enterAll n s q = s := by
  cases n with
  | zero => rfl
  | succ n => rw [enterAll, enterOne_none_waiting h]

theorem enterAll_enters {u : State} (n : Nat) (h : enterOne s q = some u) : enterAll (n + 1) s q = enterAll n u q := by
  simp only [enterAll, h]

/-- A request past its first unit touches one unit less. -/
theorem trafficUnits_past {a n : Nat} (h : 256 - a % 256 < n) : trafficUnits a n = trafficUnits (a + (256 - a % 256)) (n - (256 - a % 256)) + 1 := by
  rw [trafficUnits, trafficUnits, if_neg (by omega), if_neg (by omega)]
  omega

/-- The one request that waits, covered by the bucket, enters whole. -/
theorem enterAll_funded {n : Nat} {w : RegWait} (h : (partAt s q).regWait = [w]) (hpos : 0 < w.bytes) (hb : w.bytes ≤ (partAt s q).bucketTokens)
    (hn : trafficUnits w.addr w.bytes ≤ n) : (partAt (enterAll n s q) q).regWait = [] ∧ (partAt (enterAll n s q) q).regOps = (partAt s q).regOps
      ∧ (enterAll n s q).fs.issued = s.fs.issued := by
  have first : nextUnitBytes w ≤ w.bytes := Nat.min_le_left _ _
  induction n generalizing s w with
  | zero =>
    rw [trafficUnits, if_neg (by omega)] at hn
    omega
  | succ n ih =>
    have own : partAt (entered s q w []) q = unitEntered (partAt s q) w [] := by rw [partAt_entered, if_pos rfl]
    have waits := unitEntered_regWait (partAt s q) w []
    rw [← own] at waits
    rw [enterAll_enters n (enterOne_funded h (first.trans hb))]
    have ops : (partAt (entered s q w []) q).regOps = (partAt s q).regOps := by rw [own]; rfl
    by_cases hlast : w.bytes = nextUnitBytes w
    · rw [if_pos hlast] at waits
      rw [enterAll_idle n waits]
      exact ⟨waits, ops, rfl⟩
    · rw [if_neg hlast] at waits
      have unit : nextUnitBytes w = 256 - w.addr % 256 := by
        unfold nextUnitBytes at hlast ⊢
        omega
      have past := trafficUnits_past (a := w.addr) (n := w.bytes) (by omega)
      obtain ⟨waits', ops', issued'⟩ := ih waits (Nat.sub_pos_of_lt (by omega)) (by
        rw [own]
        exact Nat.sub_le_sub_right hb _) (by simp only [unit]; omega) (Nat.min_le_left _ _)
      exact ⟨waits', ops'.trans ops, issued'⟩

/-- An engine's operation of one funded span enters whole at once. -/
theorem makeOp_funded {o : RegOp} {a m : Nat} (hspans : o.spans = [(a, m)]) (hm : 0 < m) (hf : Funded s q m) :
    (partAt (makeOp s q o) q).regWait = [] ∧ (partAt (makeOp s q o) q).regOps = [o] ∧ (makeOp s q o).fs.issued = [] := by
  obtain ⟨hwait, hops, htokens, hissued⟩ := hf
  unfold makeOp
  extract_lets s1
  have asked : s1 = modPart (modPart s q (fun p => { p with regOps := p.regOps ++ [o], nextOp := o.id + 1 })) q
      (fun p => { p with regWait := p.regWait ++ [{ bytes := m, source := srcEngine o.engine o.id, addr := a }] }) := by
    unfold s1
    rw [hspans, List.foldl_cons, List.foldl_nil, regulate, if_neg (by omega)]
  have own : partAt s1 q = { partAt s q with
      regOps := [o], nextOp := o.id + 1, regWait := [{ bytes := m, source := srcEngine o.engine o.id, addr := a }] } := by
    rw [asked, modPart_own, if_pos rfl, modPart_own, if_pos rfl, hwait, hops]
    rfl
  have fs : s1.fs = s.fs := by rw [asked]; rfl
  have waits : (partAt s1 q).regWait = [{ bytes := m, source := srcEngine o.engine o.id, addr := a }] := by rw [own]
  obtain ⟨wait, ops, issued⟩ := enterAll_funded (n := regWaiting (partAt s1 q)) waits hm (by rw [own]; exact htokens)
    (by rw [regWaiting, waits]; exact Nat.le_of_eq (Nat.zero_add _).symm)
  exact ⟨wait, by rw [ops, own], by rw [issued, fs, hissued]⟩

end

/-! ### A request accepted (R302, R416) -/

/-- What a request's arrival, its regulator and its journal entry change: ports' receive buffers, the far-store engine, flows, and of the
partition its regulator and journal. -/
structure Admitted (q : Nat) (s t : State) : Prop where
  rest : t = { s with ports := t.ports, parts := t.parts, flows := t.flows, fs := t.fs }
  others : ∀ r, r ≠ q → partAt t r = partAt s r
  own : ∃ w o n b j, partAt t q = { partAt s q with
    regWait := w, regOps := o, nextOp := n, bucketTokens := b, settle := { (partAt s q).settle with journal := j } }
  ports : ∀ r, (portAt t r).sendRsp = (portAt s r).sendRsp ∧ (portAt t r).state = (portAt s r).state

namespace Admitted
variable {q : Nat} {s t u : State}

theorem refl (q : Nat) (s : State) : Admitted q s s := ⟨rfl, fun _ _ => rfl, ⟨_, _, _, _, _, rfl⟩, fun _ => ⟨rfl, rfl⟩⟩

theorem trans (h : Admitted q s t) (g : Admitted q t u) : Admitted q s u := by
  obtain ⟨_, _, _, _, _, hown⟩ := h.own
  obtain ⟨w, o, n, b, j, gown⟩ := g.own
  refine ⟨by rw [g.rest, h.rest], fun r hr => (g.others r hr).trans (h.others r hr), ⟨w, o, n, b, j, by rw [gown, hown]⟩, fun r => ?_⟩
  exact ⟨(g.ports r).1.trans (h.ports r).1, (g.ports r).2.trans (h.ports r).2⟩

theorem of_charged (h : Charged q s t) : Admitted q s t := by
  obtain ⟨rest, others, w, o, n, b, own⟩ := h
  have ports : t.ports = s.ports := by rw [rest]
  have flows : t.flows = s.flows := by rw [rest]
  refine ⟨by rw [ports, flows]; exact rest, others, ⟨w, o, n, b, _, own⟩, fun r => ?_⟩
  rw [portAt, ports, ← portAt]
  exact ⟨rfl, rfl⟩

theorem of_packet (s : State) (p : Nat) (k : Packet) : Admitted q s (takePacket s p k) := by
  obtain ⟨ports, taken, same⟩ := takePacket_frame s p k
  refine ⟨?_, fun r _ => ?_, ?_, same⟩
  · rw [taken]
  · rw [taken]; rfl
  · rw [taken]; exact ⟨_, _, _, _, _, rfl⟩

theorem of_farStore (s : State) (x : FarStore) : Admitted q s { s with fs := x } := ⟨rfl, fun _ _ => rfl, ⟨_, _, _, _, _, rfl⟩, fun _ => ⟨rfl, rfl⟩⟩

theorem of_modFlow (s : State) (i : Nat) (f : Flow → Flow) : Admitted q s (modFlow s q i f) :=
  ⟨rfl, fun _ _ => rfl, ⟨_, _, _, _, _, rfl⟩, fun _ => ⟨rfl, rfl⟩⟩

theorem of_modSettle (s : State) (l : List Msg) : Admitted q s (modSettle s q (fun x => { x with journal := x.journal ++ l })) := by
  refine ⟨rfl, fun r hr => ?_, ?_, fun r => ⟨rfl, rfl⟩⟩
  · rw [modSettle_own, if_neg (Ne.symm hr)]
  · rw [modSettle_own, if_pos rfl]
    exact ⟨_, _, _, _, _, rfl⟩

theorem of_journal (s : State) (f : Flow) (k : Packet) : Admitted q s (enterJournal s q f k) := by
  unfold enterJournal
  extract_lets p u off m
  obtain ⟨c, used⟩ := fcUseSpan_frame s (journalPlace s q f.idx (packetOffset s p k) (countAt f.rcvdIdx (packetOffset s p k))) (32 + k.length) true false
  have cached : Admitted q s u := by
    unfold u
    rw [used]
    exact of_farStore s _
  exact cached.trans ((of_modSettle u [m]).trans (of_modFlow _ f.idx _))

theorem part (h : Admitted q s t) : ∀ r, (partAt t r).state = (partAt s r).state ∧ (partAt t r).image = (partAt s r).image
    ∧ (partAt t r).join = (partAt s r).join ∧ (partAt t r).buckets = (partAt s r).buckets := fun r => by
  by_cases hr : r = q
  · obtain ⟨_, _, _, _, _, own⟩ := h.own
    rw [hr, own]
    exact ⟨rfl, rfl, rfl, rfl⟩
  · rw [h.others r hr]
    exact ⟨rfl, rfl, rfl, rfl⟩

theorem reads (h : Admitted q s t) : t.mem = s.mem ∧ t.regs = s.regs ∧ t.tiles = s.tiles ∧ t.devId = s.devId := by
  rw [h.rest]
  exact ⟨rfl, rfl, rfl, rfl⟩

end Admitted

end Sys2Proof.Machine
end

section
/-! SUPPORT. Tokens and deposits accepted: admitted, served and acknowledged (R222, R302, R416). -/

namespace Sys2Proof.Machine

section
variable {s : State} {p q : Nat} {k : Packet} {f : Flow}

/-- A request's own far-store access is its journal entry alone, unless it is a WRITE or a READ_REQ. -/
theorem servedSpans_message (h1 : k.typ ≠ 1) (h2 : k.typ ≠ 2) : servedSpans s q f k = if journals (partAt s q) k then
    [(journalPlace s q f.idx (packetOffset s (partAt s q) k) (countAt f.rcvdIdx (packetOffset s (partAt s q) k)), 32 + k.length)] else [] := by
  simp [servedSpans, farSpans, h1, h2]

theorem serveReady_one {o : RegOp} {v : Served} (hops : (partAt s q).regOps = [o]) (hwait : (partAt s q).regWait = []) (hissued : s.fs.issued = [])
    (hv : o.served = some v) (ht : v.pkt.typ ≠ 2) : serveReady 1 s q = serveNow (dropOp s q o.id) q v := by
  have slots : o.spans.all (fun x => spanSlots s x.1 x.2) = true := List.all_eq_true.2 fun x _ => by rw [spanSlots, hissued]; rfl
  have ready : servedReady s q o = true := by simp [servedReady, hv, opReady, hwait, slots, ht]
  simp only [serveReady, hops, List.find?_cons, ready, hv, Option.map_some, Option.getD_some]

/-- A message that is not a read is served at once where its journal entry is funded. -/
theorem serve_funded {v : Served} (h1 : v.pkt.typ ≠ 1) (h2 : v.pkt.typ ≠ 2) (hf : Funded s q (32 + v.pkt.length)) :
    ∃ u, Admitted q s u ∧ u.flows = s.flows ∧ serve s q f v = serveNow u q v := by
  unfold serve
  extract_lets spans o
  have unread : (decide (v.pkt.typ ≠ 2) || decide (slotsInUse s < 524288)) = true := by simp [h2]
  rw [unread, Bool.and_true]
  by_cases hnone : spans = []
  · exact ⟨s, .refl q s, rfl, if_pos (List.isEmpty_iff.2 hnone)⟩
  · have one : ∃ a, spans = [(a, 32 + v.pkt.length)] := by
      unfold spans at hnone ⊢
      split at hnone
      case isTrue => exact absurd rfl hnone
      case isFalse h =>
        rw [if_neg h]
        rw [servedSpans_message h1 h2] at hnone ⊢
        split at hnone
        case isTrue hj => exact ⟨_, if_pos hj⟩
        case isFalse => exact absurd rfl hnone
    obtain ⟨a, one⟩ := one
    obtain ⟨wait, ops, issued⟩ := makeOp_funded (o := o) one (by omega) hf
    have charged : Charged q s (dropOp (makeOp s q o) q o.id) := (makeOp_charged s q o).trans (dropOp_charged _ q o.id)
    refine ⟨_, .of_charged charged, by rw [charged.rest], (if_neg (by simpa using hnone)).trans ?_⟩
    exact serveReady_one ops wait issued rfl h2

/-- A request's answer goes on the port it came by. -/
theorem answer_replies {u : State} {st : Nat} (hp : p < 16) (hup : portUp s p = true)
    (same : (portAt u p).sendRsp = (portAt s p).sendRsp ∧ (portAt u p).state = (portAt s p).state) (hid : u.devId = s.devId) :
    Replied s (answer u p f k st) p f k 4 st [] ∧ answer u p f k st = { u with ports := (answer u p f k st).ports } := by
  have up : portUp u p = true := by rw [portUp, same.2]; exact hup
  have port : (if 16 ≤ p || portUp u p then p else portFor u f) = p := by simp [up]
  have sent : answer u p f k st = modPort u p (fun x => { x with sendRsp := x.sendRsp ++ [{ q := f.q, flow := f.idx, pkt := (replyPacket u p f k 4 st [] []).1 }] }) := by
    unfold answer reply
    simp only [port]
    rw [if_neg (by omega)]
    rfl
  refine ⟨⟨(replyPacket u p f k 4 st [] []).1, ?_, rfl, rfl, rfl, rfl, rfl, rfl, rfl, hid, rfl⟩, ?_⟩
  · rw [sent, modPort_own, if_pos rfl, same.1]
  · rw [sent]
    rfl

/-- A partition that serves no shadow forwards nothing. -/
theorem forwardToShadow_alone (h : (partAt s q).join = {}) : forwardToShadow s q f k = s := by
  simp [forwardToShadow, h]

/-- A fresh token or deposit: it is admitted, has its effect, and is acknowledged. -/
theorem accept_serves {typ : Nat} (h : Arrives s p typ k q f) (h1 : k.typ ≠ 1) (h2 : k.typ ≠ 2) (hc : k.cval = false) (hfresh : Fresh s q f k)
    (hf : Funded s q (32 + k.length)) (keeps : ∀ u, Admitted q s u → (partAt (requestEffect u q f k false) q).join = {}) :
    ∃ u, Admitted q s u ∧ accept (takePacket s p k) p q f k = answer (requestEffect u q f k false) p f k stOk := by
  obtain ⟨-, -, -, -, hflow, -⟩ := h
  obtain ⟨hnew, -⟩ := hfresh
  obtain ⟨ports, taken, -⟩ := takePacket_frame s p k
  have arrived : Admitted q s (takePacket s p k) := .of_packet s p k
  have served : accept (takePacket s p k) p q f k = serve (takePacket s p k) q f { port := p, flow := f.idx, bad := false, pkt := k } := by
    unfold accept
    extract_lets t x v
    have unchecked : t = (false, takePacket s p k) := checkTrailer_unchecked hc p q f
    have v_eq : v = { port := p, flow := f.idx, bad := false, pkt := k } := by unfold v; rw [unchecked]
    have part : x = partAt s q := by unfold x; rw [taken]; rfl
    rw [unchecked, v_eq, part]
    cases hj : journals (partAt s q) k
    · rfl
    · obtain ⟨unlisted, room⟩ := hnew hj
      rw [if_neg (by decide), taken]
      rw [show journalEntry { s with ports := ports } (partAt s q) f k = none from unlisted]
      exact if_neg (by rw [show journalFull { s with ports := ports } (partAt s q) f.idx k = false from room]; decide)
  rw [served]
  obtain ⟨u, admitted, flows, now_⟩ := serve_funded (s := takePacket s p k) (f := f) (q := q) (v := { port := p, flow := f.idx, bad := false, pkt := k }) h1 h2 (by rw [taken]; exact hf)
  rw [now_]
  have flow : flowAt u q f.idx = some f := by
    rw [flowAt, flows, taken]
    exact hflow
  unfold serveNow
  simp only [flow]
  rw [if_neg h2]
  have entered : Admitted q s (if journals (partAt u q) k then enterJournal u q f k else u) := by
    split
    · exact arrived.trans (admitted.trans (.of_journal u f k))
    · exact arrived.trans admitted
  generalize (if journals (partAt u q) k then enterJournal u q f k else u) = v at entered
  refine ⟨v, entered, ?_⟩
  rw [forwardToShadow_alone (keeps v entered)]

end
end Sys2Proof.Machine
end

section
/-! SUPPORT. TOKEN (R205). -/

namespace Sys2Proof.Machine

/-! ### The effect of a TOKEN (R205) -/

/-- The token of a TOKEN packet, read from its data: its tick and epoch are kept modulo their fields. -/
theorem tokenData_fields {a slot t tick epoch : Nat} {taken : Bool} {data : List Byte} (ha : a < 2 ^ 11) (hs : slot < 8) (ht : t < 1024)
    (hd : data = toLe 16 (tokenBits a slot taken t tick epoch).toNat) :
    field (le data 0 16) 0 11 = a ∧ field (le data 0 16) 11 3 = slot ∧ (le data 0 16).testBit 14 = taken ∧ field (le data 0 16) 16 10 = t := by
  have fits := (tokenBits a slot taken t tick epoch).isLt
  have whole : le data 0 16 = (tokenBits a slot taken t tick epoch).toNat := by
    have front := le_toLe_front 16 (tokenBits a slot taken t tick epoch).toNat []
    rw [List.append_nil, ← hd] at front
    exact front.trans (Nat.mod_eq_of_lt fits)
  have folded : tokenBits a slot taken t tick epoch = tokenBits a slot taken t (tick % 2 ^ 24) (epoch % 2 ^ 16) := by
    simp only [tokenBits, Nat.mod_mod]
  obtain ⟨factor, fslot, ftaken, ftile, -⟩ := tokenBits_fields taken ha hs ht (Nat.mod_lt tick (Nat.two_pow_pos 24)) (Nat.mod_lt epoch (Nat.two_pow_pos 16))
  rw [whole, folded]
  exact ⟨factor, fslot, ftaken, ftile⟩

section
variable {s u : State} {q : Nat}

theorem Admitted.partOfTile (h : Admitted q s u) (t : Nat) : partOfTile u t = partOfTile s t := by
  have rect : ∀ r, inRect (partAt u r) t = inRect (partAt s r) t := fun r => by
    by_cases hr : r = q
    · obtain ⟨_, _, _, _, _, own⟩ := h.own
      rw [hr, own]
      rfl
    · rw [h.others r hr]
  simp only [Machine.partOfTile, rect, (h.part _).1]

theorem Admitted.isFed (h : Admitted q s u) (t a slot : Nat) : isFed u q t a slot = isFed s q t a slot := by
  have tile : ∀ y, tileAt u y = tileAt s y := fun y => by rw [tileAt, h.reads.2.2.1, tileAt]
  obtain ⟨_, _, _, _, _, own⟩ := h.own
  unfold Machine.isFed
  simp only [tile, own]
  rfl

/-- A token accepted counts on its slot, and nothing but its tile's scoreboard and queue of firings changes. -/
structure TokenCounted (s u : State) (t a slot : Nat) (taken : Bool) : Prop where
  counts : (ctxOf u t a).counts = (ctxOf s t a).counts.set slot ((ctxOf s t a).counts.getD slot 0 + 1)
  takens : (ctxOf u t a).takens = (if slot = 0 then (ctxOf s t a).takens ++ [taken] else (ctxOf s t a).takens)
  actors : ∀ b, b ≠ a → ctxOf u t b = ctxOf s t b
  tiles : ∀ y, y ≠ t → tileAt u y = tileAt s y
  rest : TilesOnly s u

theorem acceptToken_counted {t a slot : Nat} {r : ActorRec} (hq : partOfTile s t = some q) (hr : actorRec s t a = some r) (hs : slot < r.slots)
    (hf : (ctxOf s t a).fired < r.firings) (hc : (ctxOf s t a).counts.getD slot 0 < 65535) (hfed : r.remote = true ∨ isFed s q t a slot = true)
    (hspec : (ctxOf s t a).specOpen = false) (taken : Bool) : TokenCounted s (acceptToken s t a slot taken) t a slot taken := by
  rw [acceptToken_counts hq hr hs hf hc hfed hspec taken]
  have noted := refresh_noted (modActor s t a (countToken slot taken)) t
  refine ⟨?_, ?_, fun b hb => ?_, fun y hy => ?_, TilesOnly.trans (t := modActor s t a (countToken slot taken)) rfl noted.rest⟩
  · rw [noted.ctxOf_eq, ctxOf_modActor, if_pos rfl]
    rfl
  · rw [noted.ctxOf_eq, ctxOf_modActor, if_pos rfl]
    rfl
  · rw [noted.ctxOf_eq, ctxOf_modActor, if_neg (Ne.symm hb)]
  · rw [noted.others y hy, tileAt_modActor_ne _ hy]

end

/-- What tokenPacket does with a fresh token of a partition that is there. -/
theorem tokenPacket_accepts {s : State} {p q : Nat} {k : Packet} {f : Flow} (h : Arrives s p 5 k q f) (hgone : partGone (partAt s q) = false)
    (hlen : k.length = 16) : tokenPacket p k s = accept (takePacket s p k) p q f k := by
  obtain ⟨ports, taken, -⟩ := takePacket_frame s p k
  have present : partGone (partAt (takePacket s p k) q) = false := by rw [taken]; exact hgone
  rw [tokenPacket, receive_arrives h, if_neg (by rw [present]; decide), if_neg (not_not.2 hlen)]

/-- A fresh TOKEN packet: its token counts, and it is acknowledged. -/
theorem tokenPacket_counts {s : State} {p q a slot t tick epoch : Nat} {k : Packet} {f : Flow} {taken : Bool} {r : ActorRec} (h : Arrives s p 5 k q f)
    (hc : k.cval = false) (hfresh : Fresh s q f k) (hgone : partGone (partAt s q) = false) (hfunded : Funded s q (32 + k.length)) (ha : a < 2 ^ 11)
    (hs8 : slot < 8) (ht : t < 1024) (hd : k.data = toLe 16 (tokenBits a slot taken t tick epoch).toNat) (hq : partOfTile s t = some q)
    (hr : actorRec s t a = some r) (hs : slot < r.slots) (hf : (ctxOf s t a).fired < r.firings) (hcount : (ctxOf s t a).counts.getD slot 0 < 65535)
    (hfed : r.remote = true ∨ isFed s q t a slot = true) (hspec : (ctxOf s t a).specOpen = false) {u : State} (hu : tokenPacket p k s = u) :
    Replied s u p f k 4 stOk [] ∧ (ctxOf u t a).counts = (ctxOf s t a).counts.set slot ((ctxOf s t a).counts.getD slot 0 + 1)
      ∧ (ctxOf u t a).takens = (if slot = 0 then (ctxOf s t a).takens ++ [taken] else (ctxOf s t a).takens)
      ∧ (∀ b, b ≠ a → ctxOf u t b = ctxOf s t b) ∧ (∀ y, y ≠ t → tileAt u y = tileAt s y) ∧ u.mem = s.mem ∧ u.regs = s.regs := by
  have typ : k.typ = 5 := h.1
  have hlen : k.length = 16 := by rw [← data_length h (by decide), hd, toLe_length]
  obtain ⟨-, -, -, -, -, -, hp, hup, -⟩ := id h
  obtain ⟨factor, fslot, ftaken, ftile⟩ := tokenData_fields ha hs8 ht hd
  have effect : ∀ v, Admitted q s v → TokenCounted v (requestEffect v q f k false) t a slot taken := fun v hv => by
    obtain ⟨-, -, tiles, -⟩ := hv.reads
    have ctx : ctxOf v t a = ctxOf s t a := by rw [ctxOf, tileAt, tiles, ← tileAt, ← ctxOf]
    have record : actorRec v t a = some r := by rw [actorRec, tileAt, tiles, ← tileAt, ← actorRec, hr]
    have counted := acceptToken_counted ((hv.partOfTile t).trans hq) record hs (ctx.symm ▸ hf) (ctx.symm ▸ hcount)
      ((hv.isFed t a slot).symm ▸ hfed) (ctx.symm ▸ hspec) taken
    have delivered : requestEffect v q f k false = acceptToken v t a slot taken := by
      simp [requestEffect, typ, deliverToken, factor, fslot, ftaken, ftile, (hv.partOfTile t).trans hq]
    rw [delivered]
    exact counted
  obtain ⟨v, admitted, done⟩ := accept_serves h (by rw [typ]; decide) (by rw [typ]; decide) hc hfresh hfunded fun v hv => by
    rw [(effect v hv).rest.reads.1, (hv.part q).2.2.1, hfresh.2.1]
  have counted := effect v admitted
  rw [tokenPacket_accepts h hgone hlen, done] at hu
  generalize requestEffect v q f k false = w at counted hu
  have ports : w.ports = v.ports ∧ w.devId = v.devId := by rw [counted.rest]; exact ⟨rfl, rfl⟩
  obtain ⟨replied, frame⟩ := answer_replies (s := s) (u := w) (k := k) (f := f) (st := stOk) hp hup
    (by rw [portAt, ports.1, ← portAt]; exact admitted.ports p) (ports.2.trans admitted.reads.2.2.2)
  rw [hu] at replied frame
  obtain ⟨mem, regs, tiles, -⟩ := admitted.reads
  have tileBefore : ∀ y, tileAt v y = tileAt s y := fun y => by rw [tileAt, tiles, tileAt]
  have ctxBefore : ∀ b, ctxOf v t b = ctxOf s t b := fun b => by rw [ctxOf, tileBefore, ctxOf]
  have after : u.tiles = w.tiles ∧ u.mem = w.mem ∧ u.regs = w.regs := by
    rw [frame]
    exact ⟨rfl, rfl, rfl⟩
  have within : w.mem = v.mem ∧ w.regs = v.regs := by
    rw [counted.rest]
    exact ⟨rfl, rfl⟩
  have tileAfter : ∀ y, tileAt u y = tileAt w y := fun y => by rw [tileAt, after.1, tileAt]
  have ctxAfter : ∀ b, ctxOf u t b = ctxOf w t b := fun b => by rw [ctxOf, tileAfter, ctxOf]
  simp only [ctxAfter, tileAfter]
  refine ⟨replied, ?_, ?_, fun b hb => (counted.actors b hb).trans (ctxBefore b), fun y hy => (counted.tiles y hy).trans (tileBefore y),
    after.2.1.trans (within.1.trans mem), after.2.2.trans (within.2.trans regs)⟩
  · rw [counted.counts, ctxBefore]
  · rw [counted.takens, ctxBefore]

end Sys2Proof.Machine
end

section
/-! SUPPORT. The effect of a DEPOSIT on its bucket (R66, R382, R563). -/

namespace Sys2Proof.Machine

/-! ### The effect of a DEPOSIT (R66, R382, R563) -/

/-- The bucket, rank and phase in a DEPOSIT's address. -/
theorem depositAddr_fields {addr b rank phase : Nat} (h : addr = b + rank * 2 ^ 16 + phase * 2 ^ 32) (hb : b < 2 ^ 16) (hr : rank < 2 ^ 16)
    (hp : phase < 4) : field addr 0 16 = b ∧ field addr 16 16 = rank ∧ field addr 32 2 = phase := by
  simp only [field_eq, h]
  refine ⟨?_, ?_, ?_⟩ <;> omega

section
variable {s v : State} {q b rank phase : Nat} {k : Packet}

/-- A block fault of a partition that shadows no other: ABORT is voted and the bucket spoilt, nothing else of the exchanges changes. -/
theorem blockFault_spoils (hjoin : (partAt v q).join = {}) {w : State} (hw : blockFault v q b = w) : w = { v with parts := w.parts } ∧ b ∈ (partAt w q).spoilt
    ∧ (partAt w q).ctx.votes.getLsbD voteAbort = true ∧ (partAt w q).buckets = (partAt v q).buckets ∧ (partAt w q).join = {} := by
  have raised : raiseVote v q voteAbort = modCtx v q (fun c => { c with votes := c.votes ||| BitVec.ofNat 8 (2 ^ voteAbort) }) := by
    rw [raiseVote, isShadowing, hjoin]
    rfl
  rw [blockFault, raised] at hw
  have own : partAt w q = { partAt v q with
      ctx := { (partAt v q).ctx with votes := (partAt v q).ctx.votes ||| BitVec.ofNat 8 (2 ^ voteAbort) }
      spoilt := insertNat (partAt v q).spoilt b } := by
    rw [← hw, modPart_own, if_pos rfl, modCtx_own, if_pos rfl]
  refine ⟨hw ▸ rfl, ?_, ?_, ?_, ?_⟩
  all_goals rw [own]
  · exact mem_insertNat _ b
  · have bit : (BitVec.ofNat 8 (2 ^ voteAbort)).getLsbD voteAbort = true := by decide
    simp only [BitVec.getLsbD_or, bit, Bool.or_true]
  · exact hjoin

theorem holdDeposit_holds {w : State} (hw : holdDeposit v q b k = w) : w = { v with parts := w.parts }
    ∧ partAt w q = { partAt v q with earlyDeposits := (partAt v q).earlyDeposits ++ [(b, k)] } := by
  refine ⟨hw ▸ rfl, ?_⟩
  rw [← hw, holdDeposit, modPart_own, if_pos rfl]

/-- A RANK or PHASE outside its range is a block fault. -/
theorem depositReceive_faults (hfields : field k.addr 0 16 = b ∧ field k.addr 16 16 = rank ∧ field k.addr 32 2 = phase)
    (h : bucketRec (partAt v q) b = none ∨ ∃ y, bucketRec (partAt v q) b = some y ∧ (y.p ≤ rank ∨ 2 ≤ phase)) :
    depositReceive v q k = blockFault v q b := by
  obtain ⟨fb, fr, fp⟩ := hfields
  rcases h with h | ⟨y, h, hout⟩
  · simp only [depositReceive, fb, h]
  · have out : (decide (y.p ≤ rank) || decide (2 ≤ phase)) = true := by simpa using hout
    simp only [depositReceive, fb, fr, fp, h, out, if_true]

/-- A DEPOSIT whose exchange has not opened is held. -/
theorem depositReceive_holds (hfields : field k.addr 0 16 = b ∧ field k.addr 16 16 = rank ∧ field k.addr 32 2 = phase) {y : BucketRec}
    (h : bucketRec (partAt v q) b = some y) (hr : rank < y.p) (hp : phase < 2) (hbusy : busyRun (partAt v q) b = none) :
    depositReceive v q k = holdDeposit v q b k := by
  obtain ⟨fb, fr, fp⟩ := hfields
  have out : (decide (y.p ≤ rank) || decide (2 ≤ phase)) = false := by simp; omega
  simp only [depositReceive, fb, fr, fp, h, out, hbusy, Bool.false_eq_true, if_false]

theorem sendBlocks_none (s : State) (q flow : Nat) (y : BucketRec) (run : BucketRun) (ph : Nat) : sendBlocks s q flow y run ph [] = s := rfl

theorem passBlocks_none (s : State) (q : Nat) (y : BucketRec) (run : BucketRun) : passBlocks s q y run [] = s := by
  unfold passBlocks
  simp only [List.filter_nil, List.map_nil, sendBlocks_none, List.foldl_fixed, ite_self]

/-- A block of a rank added to an exchange that awaits more of it. -/
theorem absorb_adds {y : BucketRec} {run : BucketRun} {i rank : Nat} {c : DBlock}
    (hrank : i = y.blocks → rank ∉ (run.blocks.at i {}).ranks) (hmore : (run.blocks.at i {}).ranks.length + 1 < y.need i) :
    absorb y run rank 0 i c = some ({ run with blocks := run.blocks.put i ((run.blocks.at i {}).add { c with ranks := [rank] }) }, []) := by
  have once : (decide (i = y.blocks) && (run.blocks.at i {}).ranks.contains rank) = false := by
    by_cases hi : i = y.blocks
    · simp [hi]
      simpa [hi] using hrank hi
    · simp [hi]
  have short : ((run.blocks.at i {}).add { c with ranks := [rank] }).ranks.length ≠ y.need i := by
    rw [DBlock.add, List.length_append, List.length_singleton]
    omega
  unfold absorb
  rw [if_neg (by decide)]
  simp only [once, Bool.false_eq_true, if_false]
  exact if_pos short

end
end Sys2Proof.Machine
end

section
/-! SUPPORT. DEPOSIT: its block added to its exchange, and what its acceptance keeps (R382, R563). -/

namespace Sys2Proof.Machine

section
variable {s v : State} {p q b rank phase : Nat} {k : Packet} {f : Flow}

/-- An exchange once a rank's block, of the packet's header and elements, has been added. -/
def withBlock (run : BucketRun) (rank h : Nat) (l : List Int) : BucketRun :=
  { run with blocks := run.blocks.put (h / 2 ^ 32) ((run.blocks.at (h / 2 ^ 32) {}).add { (blockFrom (h, l)).2 with ranks := [rank] }) }

/-- A DEPOSIT of one block that its open exchange awaits, with more to come, is added. -/
theorem depositReceive_adds (hfields : field k.addr 0 16 = b ∧ field k.addr 16 16 = rank ∧ field k.addr 32 2 = 0) {y : BucketRec} {i h : Nat}
    {run : BucketRun} {l : List Int} (hrec : bucketRec (partAt v q) b = some y) (hr : rank < y.p)
    (hbusy : busyRun (partAt v q) b = some (i, run)) (hspoilt : (partAt v q).spoilt.contains b = false) (htake : takeBlocks 256 k.data = some [(h, l)])
    (hheader : headerFault (partAt v q) y run h = false) (hfmt : field h 8 4 = 2 ↔ run.d64 = true)
    (hrank : h / 2 ^ 32 = y.blocks → rank ∉ (run.blocks.at (h / 2 ^ 32) {}).ranks)
    (hmore : (run.blocks.at (h / 2 ^ 32) {}).ranks.length + 1 < y.need (h / 2 ^ 32)) :
    depositReceive v q k = modRun v q i (fun _ => withBlock run rank h l) := by
  obtain ⟨fb, fr, fp⟩ := hfields
  have out : (decide (y.p ≤ rank) || decide (2 ≤ 0)) = false := by simp; omega
  have wide : ([(h, l)].any (fun x => decide (field x.1 8 4 = 2)) && !run.d64) = false := by
    cases hd : run.d64 <;> simp [hfmt, hd]
  have narrow : ([(h, l)].any (fun x => decide (field x.1 8 4 = 1)) && run.d64) = false := by
    cases hd : run.d64
    · simp
    · simp [hfmt.2 hd]
  have faults : [(h, l)].any (fun x => headerFault (partAt v q) y run x.1) = false := by simp [hheader]
  have taken : absorbAll y rank 0 ([(h, l)].map blockFrom) run = some (withBlock run rank h l, []) := by
    have first := absorb_adds (c := (blockFrom (h, l)).2) hrank hmore
    have index : (blockFrom (h, l)).1 = h / 2 ^ 32 := rfl
    simp only [List.map_cons, List.map_nil, absorbAll, index, first, Option.map_some, List.append_nil]
    rfl
  simp only [depositReceive, fb, fr, fp, hrec, out, hbusy, hspoilt, htake, faults, wide, narrow, taken, Bool.false_eq_true, if_false]
  exact passBlocks_none _ q y _

/-- What tokenPacket does with a fresh DEPOSIT of a partition that is there: its effect, of which only partition q knows, and an acknowledgement. -/
theorem depositPacket_serves (h : Arrives s p 6 k q f) (hc : k.cval = false) (hfresh : Fresh s q f k) (hgone : partGone (partAt s q) = false)
    (hfunded : Funded s q (32 + k.length)) (effect : ∀ v, Admitted q s v → depositReceive v q k = { v with parts := (depositReceive v q k).parts }
      ∧ (partAt (depositReceive v q k) q).join = {}) {u : State} (hu : depositPacket p k s = u) :
    Replied s u p f k 4 stOk [] ∧ u.mem = s.mem ∧ u.regs = s.regs ∧ u.tiles = s.tiles
      ∧ ∃ v, Admitted q s v ∧ partAt u q = partAt (depositReceive v q k) q := by
  have typ : k.typ = 6 := h.1
  obtain ⟨-, -, -, -, -, -, hp, hup, -⟩ := id h
  obtain ⟨ports, taken, -⟩ := takePacket_frame s p k
  have present : partGone (partAt (takePacket s p k) q) = false := by rw [taken]; exact hgone
  have received : ∀ v, requestEffect v q f k false = depositReceive v q k := fun v => by simp [requestEffect, typ]
  obtain ⟨v, admitted, done⟩ := accept_serves h (by rw [typ]; decide) (by rw [typ]; decide) hc hfresh hfunded fun v hv => by
    rw [received]
    exact (effect v hv).2
  rw [depositPacket, receive_arrives h, if_neg (by rw [present]; decide), done, received] at hu
  have rest := (effect v admitted).1
  generalize hw : depositReceive v q k = w at hu rest
  have within : w.ports = v.ports ∧ w.devId = v.devId ∧ w.mem = v.mem ∧ w.regs = v.regs ∧ w.tiles = v.tiles := by
    rw [rest]
    exact ⟨rfl, rfl, rfl, rfl, rfl⟩
  obtain ⟨wports, wid, wmem, wregs, wtiles⟩ := within
  obtain ⟨mem, regs, tiles, id_⟩ := admitted.reads
  obtain ⟨replied, frame⟩ := answer_replies (s := s) (u := w) (k := k) (f := f) (st := stOk) hp hup
    (by rw [portAt, wports, ← portAt]; exact admitted.ports p) (wid.trans id_)
  rw [hu] at replied frame
  have after : u.mem = w.mem ∧ u.regs = w.regs ∧ u.tiles = w.tiles ∧ u.parts = w.parts := by
    rw [frame]
    exact ⟨rfl, rfl, rfl, rfl⟩
  obtain ⟨umem, uregs, utiles, uparts⟩ := after
  exact ⟨replied, umem.trans (wmem.trans mem), uregs.trans (wregs.trans regs), utiles.trans (wtiles.trans tiles), v, admitted,
    by rw [hw, partAt, uparts, ← partAt]⟩

theorem Admitted.exchange (h : Admitted q s v) : bucketRec (partAt v q) = bucketRec (partAt s q) ∧ busyRun (partAt v q) = busyRun (partAt s q)
    ∧ headerFault (partAt v q) = headerFault (partAt s q) ∧ (partAt v q).spoilt = (partAt s q).spoilt
    ∧ (partAt v q).earlyDeposits = (partAt s q).earlyDeposits := by
  obtain ⟨_, _, _, _, _, own⟩ := h.own
  rw [own]
  exact ⟨rfl, rfl, rfl, rfl, rfl⟩

end

end Sys2Proof.Machine
end

section
/-! SUPPORT. O54. -/

namespace Sys2Proof.Machine

section
variable {s u : State} {p q b rank phase : Nat} {k : Packet} {f : Flow}

/-- A fresh DEPOSIT out of its bucket's range spoils the bucket. -/
theorem depositPacket_faults (h : Arrives s p 6 k q f) (hc : k.cval = false) (hfresh : Fresh s q f k) (hgone : partGone (partAt s q) = false)
    (hfunded : Funded s q (32 + k.length)) (hfields : field k.addr 0 16 = b ∧ field k.addr 16 16 = rank ∧ field k.addr 32 2 = phase)
    (hout : bucketRec (partAt s q) b = none ∨ ∃ y, bucketRec (partAt s q) b = some y ∧ (y.p ≤ rank ∨ 2 ≤ phase)) (hu : depositPacket p k s = u) :
    Replied s u p f k 4 stOk [] ∧ b ∈ (partAt u q).spoilt ∧ (partAt u q).ctx.votes.getLsbD voteAbort = true ∧ u.mem = s.mem
      ∧ (partAt u q).buckets = (partAt s q).buckets ∧ u.regs = s.regs ∧ u.tiles = s.tiles := by
  have fault : ∀ v, Admitted q s v → depositReceive v q k = blockFault v q b := fun v hv => depositReceive_faults hfields (by rw [hv.exchange.1]; exact hout)
  have join : ∀ v, Admitted q s v → (partAt v q).join = {} := fun v hv => (hv.part q).2.2.1.trans hfresh.2.1
  obtain ⟨replied, mem, regs, tiles, v, hv, own⟩ := depositPacket_serves h hc hfresh hgone hfunded (fun v hv => by
    obtain ⟨rest, -, -, -, joined⟩ := blockFault_spoils (join v hv) (fault v hv).symm
    exact ⟨rest, joined⟩) hu
  obtain ⟨-, spoilt, vote, buckets, -⟩ := blockFault_spoils (join v hv) (fault v hv).symm
  rw [own]
  exact ⟨replied, spoilt, vote, mem, buckets.trans (hv.part q).2.2.2, regs, tiles⟩

/-- A fresh DEPOSIT whose exchange has not opened is held for it. -/
theorem depositPacket_holds (h : Arrives s p 6 k q f) (hc : k.cval = false) (hfresh : Fresh s q f k) (hgone : partGone (partAt s q) = false)
    (hfunded : Funded s q (32 + k.length)) (hfields : field k.addr 0 16 = b ∧ field k.addr 16 16 = rank ∧ field k.addr 32 2 = phase) {y : BucketRec}
    (hrec : bucketRec (partAt s q) b = some y) (hr : rank < y.p) (hp : phase < 2) (hbusy : busyRun (partAt s q) b = none)
    (hu : depositPacket p k s = u) : Replied s u p f k 4 stOk [] ∧ (partAt u q).earlyDeposits = (partAt s q).earlyDeposits ++ [(b, k)] ∧ u.mem = s.mem
      ∧ (partAt u q).buckets = (partAt s q).buckets ∧ u.regs = s.regs ∧ u.tiles = s.tiles := by
  have held : ∀ v, Admitted q s v → depositReceive v q k = holdDeposit v q b k := fun v hv => by
    obtain ⟨record, busy, -⟩ := hv.exchange
    exact depositReceive_holds hfields (by rw [record]; exact hrec) hr hp (by rw [busy]; exact hbusy)
  obtain ⟨replied, mem, regs, tiles, v, hv, own⟩ := depositPacket_serves h hc hfresh hgone hfunded (fun v hv => by
    obtain ⟨rest, part⟩ := holdDeposit_holds (held v hv).symm
    exact ⟨rest, by rw [part]; exact (hv.part q).2.2.1.trans hfresh.2.1⟩) hu
  obtain ⟨-, part⟩ := holdDeposit_holds (held v hv).symm
  obtain ⟨-, -, -, -, early⟩ := hv.exchange
  rw [own, part]
  exact ⟨replied, congrArg (· ++ [(b, k)]) early, mem, (hv.part q).2.2.2, regs, tiles⟩

/-- A fresh DEPOSIT of one block that its open exchange awaits adds it to what has come. -/
theorem depositPacket_adds (h : Arrives s p 6 k q f) (hc : k.cval = false) (hfresh : Fresh s q f k) (hgone : partGone (partAt s q) = false)
    (hfunded : Funded s q (32 + k.length)) (hfields : field k.addr 0 16 = b ∧ field k.addr 16 16 = rank ∧ field k.addr 32 2 = 0) {y : BucketRec}
    {i hd : Nat} {run : BucketRun} {l : List Int} (hrec : bucketRec (partAt s q) b = some y) (hr : rank < y.p)
    (hbusy : busyRun (partAt s q) b = some (i, run)) (hspoilt : (partAt s q).spoilt.contains b = false) (htake : takeBlocks 256 k.data = some [(hd, l)])
    (hheader : headerFault (partAt s q) y run hd = false) (hfmt : field hd 8 4 = 2 ↔ run.d64 = true)
    (hrank : hd / 2 ^ 32 = y.blocks → rank ∉ (run.blocks.at (hd / 2 ^ 32) {}).ranks)
    (hmore : (run.blocks.at (hd / 2 ^ 32) {}).ranks.length + 1 < y.need (hd / 2 ^ 32)) (hu : depositPacket p k s = u) :
    Replied s u p f k 4 stOk [] ∧ u.mem = s.mem ∧ u.regs = s.regs ∧ u.tiles = s.tiles
      ∧ (partAt u q).buckets = (partAt s q).buckets.set i (withBlock run rank hd l) := by
  have added : ∀ v, Admitted q s v → depositReceive v q k = modRun v q i (fun _ => withBlock run rank hd l) := fun v hv => by
    obtain ⟨record, busy, header, spoilt, -⟩ := hv.exchange
    exact depositReceive_adds hfields (by rw [record]; exact hrec) hr (by rw [busy]; exact hbusy) (by rw [spoilt]; exact hspoilt) htake
      (by rw [header]; exact hheader) hfmt hrank hmore
  have part : ∀ v, Admitted q s v → partAt (depositReceive v q k) q
      = { partAt v q with buckets := (partAt v q).buckets.modify i (fun _ => withBlock run rank hd l) } := fun v hv => by
    rw [added v hv, modRun, modPart_own, if_pos rfl]
  obtain ⟨replied, mem, regs, tiles, v, hv, own⟩ := depositPacket_serves h hc hfresh hgone hfunded (fun v hv => by
    refine ⟨by rw [added v hv]; rfl, ?_⟩
    rw [part v hv]
    exact (hv.part q).2.2.1.trans hfresh.2.1) hu
  refine ⟨replied, mem, regs, tiles, ?_⟩
  rw [own, part v hv, List.set_eq_modify]
  exact congrArg (List.modify · i _) (hv.part q).2.2.2

/-- What the added block holds: the elements' sums, the marks of both, and the rank among those that have come. -/
theorem withBlock_adds {run : BucketRun} {h : Nat} (rank : Nat) (l : List Int) (hne : (run.blocks.at (h / 2 ^ 32) {}).ranks ≠ []) :
    (∀ j, j ≠ h / 2 ^ 32 → (withBlock run rank h l).blocks.at j {} = run.blocks.at j {})
      ∧ ((withBlock run rank h l).blocks.at (h / 2 ^ 32) {}).elems = ((run.blocks.at (h / 2 ^ 32) {}).elems.zip l).map (fun z => z.1 + z.2)
      ∧ ((withBlock run rank h l).blocks.at (h / 2 ^ 32) {}).nonfinite = ((run.blocks.at (h / 2 ^ 32) {}).nonfinite || h.testBit 0)
      ∧ ((withBlock run rank h l).blocks.at (h / 2 ^ 32) {}).sat = ((run.blocks.at (h / 2 ^ 32) {}).sat || h.testBit 1)
      ∧ ((withBlock run rank h l).blocks.at (h / 2 ^ 32) {}).empty = ((run.blocks.at (h / 2 ^ 32) {}).empty && h.testBit 3)
      ∧ ((withBlock run rank h l).blocks.at (h / 2 ^ 32) {}).ranks = (run.blocks.at (h / 2 ^ 32) {}).ranks ++ [rank] := by
  have filled : (run.blocks.at (h / 2 ^ 32) {}).ranks.isEmpty = false := by simpa using hne
  refine ⟨fun j hj => Tab.at_put_ne _ (Ne.symm hj) _ _, ?_⟩
  simp only [withBlock, Tab.at_put_same, DBlock.add, blockFrom, filled, Bool.false_eq_true, if_false, and_self]

end

end Sys2Proof.Machine

namespace Sys2Proof
open Sys2Proof.Machine

/-- Settles O54: a reply ends its slot and has its use's effect; a fresh token or deposit is admitted, has its effect on its tile or its bucket's
exchange, and is acknowledged. -/
theorem repliesTokensAndDepositsArrive : Obligations.RepliesTokensAndDepositsArrive := by
  unfold Obligations.RepliesTokensAndDepositsArrive
  refine ⟨fun s x => ?_, fun p q k f s hc hfresh hgone hfunded => ?_⟩
  · intro ended late
    refine ⟨fun p q k f h => ⟨fun hs => ?_, fun hs t j dst at_ huse => ⟨fun hok hplain hwf => ?_, fun hbad => ?_⟩⟩,
      fun p q k f h => ⟨fun hs => ?_, fun hs hok huse => ?_⟩,
      fun n hx hjoin => ⟨fun huse hstate hpurge => ?_, fun t j huse => ?_⟩, fun n hx => congrArg Host.Outcome.next (flowTimeout_free hx)⟩
    · exact ⟨_, rfl, lateReply_counts h hs (fun q f v x => landRead v p q f k x.usage) rfl⟩
    · obtain ⟨⟨slots, gen⟩, landed⟩ := readData_lands h hs huse hok hplain hwf rfl
      exact ⟨_, rfl, ⟨slots, gen⟩, landed⟩
    · obtain ⟨⟨slots, gen⟩, failed⟩ := readData_fails h hs huse hbad rfl
      exact ⟨_, rfl, ⟨slots, gen⟩, failed⟩
    · exact ⟨_, rfl, lateReply_counts h hs (fun q f v x => endRequest (if k.status = stOk then retentionAcked v q x else v) k x) rfl⟩
    · obtain ⟨⟨slots, gen⟩, acked⟩ := ackPacket_ends h hs hok huse rfl
      exact ⟨_, rfl, ⟨slots, gen⟩, acked⟩
    · exact ⟨_, rfl, flowTimeout_aborts hx hjoin huse hstate hpurge⟩
    · obtain ⟨⟨slots, gen⟩, failed⟩ := flowTimeout_transfer hx hjoin huse
      exact ⟨_, rfl, ⟨slots, gen⟩, failed⟩
  · refine ⟨fun a slot t tick epoch taken r h ha hs8 ht hd hq hr hs hf hcount _ hfed hspec => ?_, fun b rank phase h haddr hb hrank hphase => ?_⟩
    · exact ⟨_, rfl, tokenPacket_counts h hc hfresh hgone hfunded ha hs8 ht hd hq hr hs hf hcount hfed hspec rfl⟩
    · have fields := depositAddr_fields haddr hb hrank hphase
      refine ⟨fun hout => ⟨_, rfl, depositPacket_faults h hc hfresh hgone hfunded fields hout rfl⟩, fun y hrec hr hp =>
        ⟨fun hbusy => ⟨_, rfl, depositPacket_holds h hc hfresh hgone hfunded fields hrec hr hp hbusy rfl⟩, ?_⟩⟩
      intro i run hd l hbusy hspoilt hzero htake hheader hfmt hrepeat hne hmore
      subst hzero
      obtain ⟨replied, mem, regs, tiles, buckets⟩ :=
        depositPacket_adds h hc hfresh hgone hfunded fields hrec hr hbusy hspoilt htake hheader hfmt hrepeat hmore rfl
      exact ⟨_, rfl, replied, mem, regs, tiles, withBlock run rank hd l, buckets, rfl, withBlock_adds rank l hne⟩
end Sys2Proof
end

section
/-! SUPPORT. Byte-mode rows: plain spans copied, cleared and read one after another with nothing poisoned or upset (R249, R252). -/

namespace Sys2Proof.Machine

/-! ### Bytes moved -/

/-- Nothing stored is poisoned or upset. -/
def Unmarked (s : State) : Prop := s.poison = [] ∧ s.upsets = []

/-- Nothing differs but memory and the far cache; each tile stands as it was. -/
structure BytesMoved (s u : State) : Prop where
  rest : u = { s with mem := u.mem, tiles := u.tiles, fs := { s.fs with cache := u.fs.cache } }
  tiles : ∀ y, tileAt u y = tileAt s y

namespace BytesMoved
variable {s u v : State}

theorem refl (s : State) : BytesMoved s s := ⟨rfl, fun _ => rfl⟩

theorem trans (h : BytesMoved s u) (g : BytesMoved u v) : BytesMoved s v :=
  ⟨by rw [g.rest, h.rest], fun y => (g.tiles y).trans (h.tiles y)⟩

theorem of_cache (s : State) (m : List Host.Cell) (c : Tab (List CacheLine)) : BytesMoved s { s with mem := m, fs := { s.fs with cache := c } } :=
  ⟨rfl, fun _ => rfl⟩

theorem unmarked (h : BytesMoved s u) (hs : Unmarked s) : Unmarked u := by
  rw [h.rest]
  exact hs

theorem plainSpan (h : BytesMoved s u) {a n : Nat} (hp : PlainSpan s a n) : PlainSpan u a n := by
  have guards : u.fs.guards = s.fs.guards := by rw [h.rest]
  have chans : ∀ c, chanAt u c = chanAt s c := fun c => by rw [h.rest]; rfl
  simpa only [PlainSpan, h.tiles, guards, chans] using hp

theorem farStoreOpen (h : BytesMoved s u) (hopen : FarStoreOpen s) : FarStoreOpen u := by
  rw [h.rest]
  exact hopen

end BytesMoved

/-! ### One plain span written, cleared or copied -/

/-- A write within one unit of an open far store lands, the unit most recently used. -/
theorem farWriteUnit_open {s : State} (h : FarStoreOpen s) (a : Nat) (bs : List Byte) : farWriteUnit s a bs
    = fcUse (curePoison { s with mem := writeBytes s.mem a bs } a bs.length) ((a - fsBase) / 256) true false := by
  have unguarded : unitGuarded s ((a - fsBase) / 256) = false := by rw [unitGuarded, h.1, List.any_nil]
  simp only [farWriteUnit, h.isFenced_false, unguarded, Bool.false_eq_true, if_false]

/-- With nothing marked a write within a unit of an open far store changes its bytes and the far cache alone. -/
theorem farWriteUnit_moves {s : State} (h : FarStoreOpen s) (hs : Unmarked s) (a : Nat) (bs : List Byte) : BytesMoved s (farWriteUnit s a bs) := by
  rw [farWriteUnit_open h, curePoison_clean (s := { s with mem := writeBytes s.mem a bs }) hs.2 hs.1]
  obtain ⟨c, used⟩ := fcUse_frame { s with mem := writeBytes s.mem a bs } ((a - fsBase) / 256) true false
  rw [used]
  exact .of_cache s _ c

/-- With nothing marked a write to an open far store changes its bytes and the far cache alone. -/
theorem farWriteF_moves {n : Nat} {s : State} (h : FarStoreOpen s) (hs : Unmarked s) (a : Nat) (bs : List Byte) : BytesMoved s (farWriteF n s a bs) := by
  induction n generalizing s a bs with
  | zero => exact .refl s
  | succ n ih =>
    unfold farWriteF
    split
    · exact .refl s
    · have first := farWriteUnit_moves h hs a (bs.take (256 - a % 256))
      exact first.trans (ih (first.farStoreOpen h) (first.unmarked hs) _ _)

/-- A plain span lies in the far store, in a near store, or is empty at the end of one. -/
theorem plainSpan_place {s : State} {a n : Nat} (h : PlainSpan s a n) :
    (isTileAddr a = false ∧ (FarStoreOpen s ∨ n = 0))
      ∨ (isTileAddr a = true ∧ (windowPart (offOf a) = 0 ∧ (tileAt s (tileOf a)).banks = [] ∨ windowPart (offOf a) = 1 ∧ n = 0)) := by
  rcases h with ⟨htop, hoff, hbanks⟩ | ⟨ha, hopen⟩
  · by_cases hfar : a < 0x200000000
    · refine .inr ⟨decide_eq_true hfar, ?_⟩
      by_cases hnear : offOf a < 0x600000
      · exact .inl ⟨if_pos hnear, hbanks⟩
      · exact .inr ⟨(if_neg hnear).trans (if_pos (by omega)), by omega⟩
    · exact .inl ⟨decide_eq_false hfar, .inr (by omega)⟩
  · exact .inl ⟨decide_eq_false (by unfold fsBase at ha; omega), .inl hopen⟩

/-- With nothing marked a plain span written changes its bytes and the far cache alone. -/
theorem spanWrite_moves {s : State} {a : Nat} {bs : List Byte} (h : PlainSpan s a bs.length) (hs : Unmarked s) : BytesMoved s (spanWrite s a bs) := by
  rcases plainSpan_place h with ⟨far, hopen⟩ | ⟨near, ⟨window, idle⟩ | ⟨window, none_⟩⟩
  · rw [spanWrite_far far]
    rcases hopen with hopen | none_
    · exact farWriteF_moves hopen hs a bs
    · rw [none_]
      exact .refl s
  · have stored : spanWrite s a bs = { s with mem := writeBytes s.mem a bs } := by
      simp only [spanWrite, near, window, if_true, bankTurn_idle idle]
      exact curePoison_clean (s := { s with mem := writeBytes s.mem a bs }) hs.2 hs.1 a bs.length
    rw [stored]
    exact .of_cache s _ s.fs.cache
  · obtain rfl := List.length_eq_zero_iff.1 none_
    rw [spanWrite_accumulators near window]
    refine ⟨rfl, fun y => ?_⟩
    rw [modDrain_own]
    split
    next e => rw [e]; rfl
    · rfl

/-- With nothing marked a plain span cleared reads as zero, and nothing else but the far cache changes. -/
theorem spanClear_moves {s : State} {a n : Nat} (h : PlainSpan s a n) (hs : Unmarked s) (hwf : Memory.wf s.mem = true) :
    BytesMoved s (spanClear s a n) ∧ Memory.wf (spanClear s a n).mem = true
      ∧ ∀ b, readCells (spanClear s a n).mem b = if a ≤ b ∧ b < a + n then 0 else readCells s.mem b := by
  have written : spanClear s a n = spanWrite s a (List.replicate n 0) →
      BytesMoved s (spanClear s a n) ∧ Memory.wf (spanClear s a n).mem = true
        ∧ ∀ b, readCells (spanClear s a n).mem b = if a ≤ b ∧ b < a + n then 0 else readCells s.mem b := by
    intro e
    have plain : PlainSpan s a (List.replicate n (0 : Byte)).length := by rw [List.length_replicate]; exact h
    have mem := (spanWrite_lands plain rfl).1
    rw [e]
    refine ⟨spanWrite_moves plain hs, ?_, fun b => ?_⟩
    · rw [mem]
      exact wf_writeBytes hwf _ _
    · rw [mem, readCells_writeBytes hwf, List.length_replicate, List.getD_eq_getElem?_getD, List.getElem?_getD_replicate_default_eq]
  rcases plainSpan_place h with ⟨far, -⟩ | ⟨near, ⟨window, idle⟩ | ⟨window, -⟩⟩
  · exact written (by simp only [spanClear, far, Bool.false_and, Bool.false_eq_true, if_false])
  · have cleared : spanClear s a n = { s with mem := clearBytes s.mem a n } := by
      simp only [spanClear, near, window, bankTurn_idle idle]
      exact curePoison_clean (s := { s with mem := clearBytes s.mem a n }) hs.2 hs.1 a n
    rw [cleared]
    refine ⟨.of_cache s _ s.fs.cache, wf_clearBytes hwf a n, fun b => ?_⟩
    rw [readCells_clearBytes]
    by_cases hb : b < a ∨ a + n ≤ b
    · rw [if_pos hb, if_neg (by omega)]
    · rw [if_neg hb, if_pos (by omega)]
  · exact written (by simp only [spanClear, near, window]; rfl)

/-- A copy whose source reads clean is its bytes written. -/
theorem copySpan_clean {s s1 : State} {src n : Nat} {noalloc : Bool} {bs : List Byte} (h : spanFetch s src n noalloc = (bs, false, s1)) (dst : Nat) :
    copySpan s src dst n noalloc = spanWrite s1 dst bs := by
  simp only [copySpan, h, Bool.not_false, if_true]

theorem readBytes_length (m : List Host.Cell) (a n : Nat) : (readBytes m a n).length = n := by simp [readBytes]

/-- With nothing marked a copy between plain spans writes the source's bytes at the destination, and nothing else but the far cache changes. -/
theorem copySpan_moves {s : State} {src dst n : Nat} (hsrc : PlainSpan s src n) (hdst : PlainSpan s dst n) (hs : Unmarked s) (noalloc : Bool) :
    BytesMoved s (copySpan s src dst n noalloc) ∧ (copySpan s src dst n noalloc).mem = writeBytes s.mem dst (readBytes s.mem src n) := by
  obtain ⟨c, fetched⟩ := spanFetch_plain hsrc hs.2 hs.1 noalloc
  have plain : PlainSpan (withCache s c) dst (readBytes s.mem src n).length := by
    rw [readBytes_length]
    exact plainSpan_withCache c hdst
  rw [copySpan_clean fetched]
  exact ⟨.trans (.of_cache s s.mem c) (spanWrite_moves plain hs), (spanWrite_lands plain rfl).1⟩

/-! ### Rows one after another -/

/-- The writes of a COPY's rows. -/
def rowWrites (m : List Host.Cell) (n : Nat) (l : List (Nat × Nat)) : List (Nat × List Byte) := l.map (fun r => (r.2, readBytes m r.1 n))

/-- A row's write reads back as its source, where the other destinations lie apart. -/
theorem readBytes_rowWrites {m : List Host.Cell} (hwf : Memory.wf m = true) {n : Nat} {l : List (Nat × Nat)} {r : Nat × Nat} (hr : r ∈ l)
    (hapart : ∀ x ∈ l, x = r ∨ x.2 + n ≤ r.2 ∨ r.2 + n ≤ x.2) : readBytes (writeAll m (rowWrites m n l)) r.2 n = readBytes m r.1 n := by
  have listed : (r.2, readBytes m r.1 n) ∈ rowWrites m n l := List.mem_map_of_mem hr
  have read := readBytes_writeAll hwf listed (List.forall_mem_map.2 fun x hx => by
    rcases hapart x hx with rfl | apart
    · exact .inl rfl
    · exact .inr (by simpa only [Apart, readBytes_length] using apart))
  rwa [readBytes_length] at read

/-- A byte that no row covers stays. -/
theorem readCells_rowWrites {m : List Host.Cell} (hwf : Memory.wf m = true) {n b : Nat} {l : List (Nat × Nat)} (hb : ∀ r ∈ l, b < r.2 ∨ r.2 + n ≤ b) :
    readCells (writeAll m (rowWrites m n l)) b = readCells m b :=
  readCells_writeAll_outside hwf (List.forall_mem_map.2 fun r hr => by simpa only [readBytes_length] using hb r hr)

/-- Rows copied one after another, no destination meeting a source, are their sources' bytes written at their destinations. -/
theorem copyRows_moves {n : Nat} (noalloc : Bool) (l : List (Nat × Nat)) {s : State} (hs : Unmarked s) (hwf : Memory.wf s.mem = true)
    (hplain : ∀ r ∈ l, PlainSpan s r.1 n ∧ PlainSpan s r.2 n) (hapart : ∀ r ∈ l, ∀ r' ∈ l, r.2 + n ≤ r'.1 ∨ r'.1 + n ≤ r.2) :
    BytesMoved s (l.foldl (fun s r => copySpan s r.1 r.2 n noalloc) s)
      ∧ (l.foldl (fun s r => copySpan s r.1 r.2 n noalloc) s).mem = writeAll s.mem (rowWrites s.mem n l) := by
  induction l generalizing s with
  | nil => exact ⟨.refl s, rfl⟩
  | cons r l ih =>
    obtain ⟨psrc, pdst⟩ := hplain r List.mem_cons_self
    obtain ⟨first, mem⟩ := copySpan_moves psrc pdst hs noalloc
    obtain ⟨moved, rest⟩ := ih (first.unmarked hs) (by rw [mem]; exact wf_writeBytes hwf _ _)
      (fun x hx => (hplain x (List.mem_cons_of_mem r hx)).imp first.plainSpan first.plainSpan)
      (fun x hx y hy => hapart x (List.mem_cons_of_mem r hx) y (List.mem_cons_of_mem r hy))
    have unread : rowWrites (copySpan s r.1 r.2 n noalloc).mem n l = rowWrites s.mem n l := List.map_congr_left fun x hx => by
      have apart := hapart r List.mem_cons_self x (List.mem_cons_of_mem r hx)
      refine congrArg (Prod.mk x.2) (readBytes_congr fun c hlo hhi => ?_)
      rw [mem, readCells_writeBytes hwf, readBytes_length, if_neg (by omega)]
    refine ⟨first.trans moved, rest.trans ?_⟩
    rw [unread, mem]
    rfl

theorem readBytes_zero {m : List Host.Cell} {a n : Nat} (h : ∀ b, a ≤ b → b < a + n → readCells m b = 0) : readBytes m a n = List.replicate n 0 := by
  refine List.eq_replicate_iff.2 ⟨readBytes_length m a n, List.forall_mem_map.2 fun i hi => h _ (Nat.le_add_right a i) ?_⟩
  have := List.mem_range.1 hi
  omega

/-- Rows cleared one after another read as zero, and every other byte as before. -/
theorem clearRows_moves {n : Nat} (l : List (Nat × Nat)) {s : State} (hs : Unmarked s) (hwf : Memory.wf s.mem = true)
    (hplain : ∀ r ∈ l, PlainSpan s r.2 n) :
    BytesMoved s (l.foldl (fun s r => spanClear s r.2 n) s)
      ∧ ∀ b, readCells (l.foldl (fun s r => spanClear s r.2 n) s).mem b = if ∃ r ∈ l, r.2 ≤ b ∧ b < r.2 + n then 0 else readCells s.mem b := by
  induction l generalizing s with
  | nil => exact ⟨.refl s, fun b => (if_neg (by simp)).symm⟩
  | cons r l ih =>
    obtain ⟨first, wf, cells⟩ := spanClear_moves (hplain r List.mem_cons_self) hs hwf
    obtain ⟨moved, rest⟩ := ih (first.unmarked hs) wf (fun x hx => first.plainSpan (hplain x (List.mem_cons_of_mem r hx)))
    refine ⟨first.trans moved, fun b => (rest b).trans ?_⟩
    rw [cells]
    simp only [List.exists_mem_cons_iff]
    by_cases hl : ∃ x ∈ l, x.2 ≤ b ∧ b < x.2 + n
    · rw [if_pos hl, if_pos (.inr hl)]
    · simp only [hl, or_false, if_false]

/-- Rows prefetched one after another use the far cache alone. -/
theorem prefetchRows_frame {n : Nat} (l : List (Nat × Nat)) (s : State) :
    ∃ c, l.foldl (fun s r => fcUseSpan s r.1 n false false) s = withCache s c := by
  induction l generalizing s with
  | nil => exact ⟨s.fs.cache, rfl⟩
  | cons r l ih =>
    obtain ⟨c, used⟩ := fcUseSpan_frame s r.1 n false false
    obtain ⟨c', rest⟩ := ih (fcUseSpan s r.1 n false false)
    exact ⟨c', by rw [List.foldl_cons, rest, used]; rfl⟩

/-- Plain source rows of a stream read one after another: their bytes in order. -/
theorem streamBytes_plain {s : State} {d : DescF} (hs : Unmarked s) (hplain : ∀ r ∈ rowsOf d, PlainSpan s r.1 d.count) :
    ∃ c, streamBytes s d = ((rowsOf d).flatMap (fun r => readBytes s.mem r.1 d.count), withCache s c) := by
  unfold streamBytes
  generalize rowsOf d = l at hplain
  suffices h : ∀ (bs : List Byte) (c0 : Tab (List CacheLine)), ∃ c,
      l.foldl (fun a r => ((a.1 ++ (spanFetch a.2 r.1 d.count d.noalloc).1, (spanFetch a.2 r.1 d.count d.noalloc).2.2) : List Byte × State))
          (bs, withCache s c0) = (bs ++ l.flatMap (fun r => readBytes s.mem r.1 d.count), withCache s c) from h [] s.fs.cache
  induction l with
  | nil => exact fun bs c0 => ⟨c0, by rw [List.flatMap_nil, List.append_nil]; rfl⟩
  | cons r l ih =>
    intro bs c0
    obtain ⟨c1, fetched⟩ := spanFetch_plain (plainSpan_withCache c0 (hplain r List.mem_cons_self)) (s := withCache s c0) hs.2 hs.1 d.noalloc
    obtain ⟨c, rest⟩ := ih (fun x hx => hplain x (List.mem_cons_of_mem r hx)) (bs ++ readBytes s.mem r.1 d.count) c1
    refine ⟨c, ?_⟩
    rw [List.foldl_cons, List.flatMap_cons, ← List.append_assoc]
    simp only [fetched]
    exact rest

end Sys2Proof.Machine
end

section
/-! SUPPORT. COPY, FILL, PREFETCH and SCAN of a started descriptor, and the obligation (R249, R252, R341, R344). -/

namespace Sys2Proof.Machine

/-! ### The end of a stream (R341, R344) -/

/-- An event sent differs in the outbox and the event count alone. -/
theorem sendEvent_frame (s : State) (code part r0 r1 : Nat) : ∃ o e, sendEvent s code part r0 r1 = { s with out := o, eventNo := e } := by
  have sent := foldl_related (R := fun s t => t = { s with out := t.out }) (fun _ => rfl) (fun h g => by rw [g, h])
    (op := fun v h => if (hostAt v h).attached then emit v (.status h (statusBytes v code part 0 v.eventNo 2 h r0 r1 0 0)) else v)
    (fun v h => by split <;> rfl) (List.range 4) s
  exact ⟨_, _, congrArg (fun v : State => { v with eventNo := v.eventNo + 1 }) sent⟩

theorem cvDone_result (s : State) (u q run v : Nat) : (cvSlotAt (cvDone s u q run v) u q).result = word v := by
  have kept : cvSlotAt (cvDone s u q run v) u q = cvSlotAt (modCvSlot s u q (fun c => { c with run := word run, result := word v })) u q := rfl
  rw [kept, cvSlotAt_modCvSlot]

/-- A stream that is not held leaves its final value in its slot. -/
theorem cvStream_result {s : State} {u q : Nat} (h : (cvSlotAt s u q).hold = false) (bs : List Byte) :
    (cvSlotAt (cvStream s u q bs).2 u q).result = word (cvFinal (cvSlotAt s u q).params
      (cvRun (cvSlotAt s u q).params (if (cvSlotAt s u q).cont then (cvSlotAt s u q).run.toNat else (cvSlotAt s u q).init.toNat) bs)) := by
  simp only [cvStream, h, Bool.false_eq_true, if_false, cvDone_result]

/-- Check-value units, memory and tiles as they were. -/
def SameStores (s u : State) : Prop := u.cvus = s.cvus ∧ u.mem = s.mem ∧ u.tiles = s.tiles

theorem cvMismatch_sameStores (s : State) (u q : Nat) : SameStores s (cvMismatch s u q) := ⟨rfl, rfl, rfl⟩

theorem sendEvent_sameStores (s : State) (code part r0 r1 : Nat) : SameStores s (sendEvent s code part r0 r1) := by
  obtain ⟨o, e, sent⟩ := sendEvent_frame s code part r0 r1
  rw [sent]
  exact ⟨rfl, rfl, rfl⟩

/-- A stream's end leaves the check-value units, memory and tiles as the stream did. -/
theorem endStream_sameStores (s : State) (q : Nat) (d : DescF) (bs : List Byte) (tr : Nat) :
    SameStores (cvStream s d.unit q bs).2 (endStream s q d bs tr).2.2 := by
  have mismatch := cvMismatch_sameStores (cvStream s d.unit q bs).2 d.unit q
  obtain ⟨cvus, mem, tiles⟩ := sendEvent_sameStores (cvMismatch (cvStream s d.unit q bs).2 d.unit q) 0x8003 q d.unit q
  unfold endStream
  extract_lets c r
  split
  · exact ⟨rfl, rfl, rfl⟩
  · split
    · split
      · exact ⟨rfl, rfl, rfl⟩
      · exact ⟨cvus.trans mismatch.1, mem.trans mismatch.2.1, tiles.trans mismatch.2.2⟩
    · split
      · split
        · exact ⟨rfl, rfl, rfl⟩
        · exact mismatch
      · exact ⟨rfl, rfl, rfl⟩

theorem cvStream_stores (s : State) (u q : Nat) (bs : List Byte) : (cvStream s u q bs).2.mem = s.mem ∧ (cvStream s u q bs).2.tiles = s.tiles := by
  unfold cvStream
  extract_lets c run v
  split <;> exact ⟨rfl, rfl⟩

/-- A checked descriptor's stream, its bytes read, moves the check-value units as that stream; memory and tiles stay. -/
theorem checkStream_frame {s u : State} {d : DescF} {bs : List Byte} (h : streamBytes s d = (bs, u)) (q : Nat) :
    (checkStream s q d).2.2.cvus = (cvStream u d.unit q bs).2.cvus ∧ (checkStream s q d).2.2.mem = u.mem ∧ (checkStream s q d).2.2.tiles = u.tiles := by
  unfold checkStream
  simp only [h]
  obtain ⟨cvus, mem, tiles⟩ := endStream_sameStores u q d bs (if trailerAfter s q d then le (spanRead u (srcTrailer d) 8) 0 8 else 0)
  obtain ⟨smem, stiles⟩ := cvStream_stores u d.unit q bs
  exact ⟨cvus, mem.trans smem, tiles.trans stiles⟩

/-! ### A started descriptor's move -/

section
variable {s : State} {q t k : Nat} {d : DescF}

/-- A row whose descriptor's move ends with OK and leaves the tiles as they were completes with the descriptor's data moved. -/
theorem moves_completes {op : Nat} {c : Instr} {m : Bool × State} {P : State → Prop} (hm : DescMoves s q t k op d)
    (hc : exec c s = .next (runDesc op t k s)) (moved : ∀ tick spec, moveDesc (serveRequests s t k) q t k d tick spec = (stOk, m))
    (tiles : ∀ y, tileAt m.2 y = tileAt s y) (hP : ∀ f, P (modDesc m.2 t k f)) : Completes c s (fun u => DescMoved u t k ∧ P u) := by
  obtain ⟨r, x, hr, hx, hrun⟩ := runDesc_moves hm
  refine ⟨_, hc.trans (congrArg Host.Outcome.next (hrun _ (moved r.tick r.spec))), descMoved_modDesc (r := r) ?_ hx m.1, hP _⟩
  rw [headRun, tiles]
  exact hr

/-- Flag bits 3 to 5 clear: no check, no compression. -/
theorem plainFlags (h : d.flags % 64 / 8 = 0) : d.check = false ∧ d.srcComp = false ∧ d.dstComp = false := by
  simp only [DescF.check, DescF.srcComp, DescF.dstComp, Nat.testBit_eq_decide_div_mod_eq, decide_eq_false_iff_not]
  omega

theorem moveDesc_copy (hop : d.op = 1) (hsrc : remoteDev s d.src = none) (hdst : remoteDev s d.dst = none) (hflags : d.flags % 64 / 8 = 0)
    (tick : Nat) (spec : Bool) :
    moveDesc s q t k d tick spec = (stOk, false, (rowsOf d).foldl (fun s r => copySpan s r.1 r.2 d.count d.noalloc) s) := by
  obtain ⟨check, srcComp, dstComp⟩ := plainFlags hflags
  simp [moveDesc, moveRows, hop, hsrc, hdst, check, srcComp, dstComp]

theorem moveDesc_prefetch (hop : d.op = 4) (tick : Nat) (spec : Bool) :
    moveDesc s q t k d tick spec = (stOk, false, (rowsOf d).foldl (fun s r => fcUseSpan s r.1 d.count false false) s) := by
  simp [moveDesc, hop]

theorem moveDesc_fill (hop : d.op = 5) (tick : Nat) (spec : Bool) :
    moveDesc s q t k d tick spec = (stOk, false, (rowsOf d).foldl (fun s r => spanClear s r.2 d.count) s) := by
  simp [moveDesc, hop]

theorem moveDesc_scan (hop : d.op = 6) (hcheck : d.check = true) (tick : Nat) (spec : Bool) :
    moveDesc s q t k d tick spec = (stOk, (checkStream s q d).1, (checkStream s q d).2.2) := by
  simp [moveDesc, moveRows, hop, hcheck]

/-- The rows of a byte-mode operation, by their numbers. -/
theorem forall_rowsOf {p : Nat × Nat → Prop} :
    (∀ r ∈ rowsOf d, p r) ↔ ∀ r, r < d.rows → p (localAddr d.src + r * d.srcStride, localAddr d.dst + r * d.dstStride) := by
  simp [rowsOf]

end

end Sys2Proof.Machine

namespace Sys2Proof
open Sys2Proof.Machine

/-- Settles O44: a COPY's rows are writes apart of bytes that none of them changes, a FILL's are spans cleared, a PREFETCH uses the far cache alone,
and a SCAN's stream ends in its slot. -/
theorem rowTransfersMoveTheirBytes : Obligations.RowTransfersMoveTheirBytes := by
  unfold Obligations.RowTransfersMoveTheirBytes
  intro q t k d s hsrc hdst
  refine ⟨fun hm hflags hplain hapart hdisjoint => ?_, fun hm hplain => ?_, fun hm => ?_, fun hm hcheck hhold hplain => ?_⟩
  · obtain ⟨-, -, hop, -, -, -, -, hp, hu, hwf⟩ := id hm
    obtain ⟨moved, mem⟩ := copyRows_moves (s := serveRequests s t k) (n := d.count) d.noalloc (rowsOf d) ⟨hp, hu⟩ hwf (forall_rowsOf.2 hplain)
      (forall_rowsOf.2 fun r hr => forall_rowsOf.2 fun r' hr' => hdisjoint r r' hr hr')
    refine moves_completes hm rfl (moveDesc_copy hop hsrc hdst hflags) moved.tiles fun f => ⟨fun r hr => ?_, fun b hb => ?_, by rw [moved.rest]; rfl⟩
    · refine (congrArg (readBytes · _ _) mem).trans (readBytes_rowWrites hwf (forall_rowsOf.1 (fun _ h => h) r hr) (forall_rowsOf.2 fun r' hr' => ?_))
      by_cases h : r' = r
      · exact .inl (by rw [h])
      · exact .inr (hapart r' r hr' hr h)
    · exact (congrArg (readCells · b) mem).trans (readCells_rowWrites hwf (forall_rowsOf.2 hb))
  · obtain ⟨-, -, hop, -, -, -, -, hp, hu, hwf⟩ := id hm
    obtain ⟨moved, cells⟩ := clearRows_moves (s := serveRequests s t k) (n := d.count) (rowsOf d) ⟨hp, hu⟩ hwf (forall_rowsOf.2 hplain)
    refine moves_completes hm rfl (moveDesc_fill hop) moved.tiles fun f => ⟨fun r hr => ?_, fun b hb => ?_, by rw [moved.rest]; rfl⟩
    · exact readBytes_zero fun b hlo hhi => (cells b).trans (if_pos ⟨_, forall_rowsOf.1 (fun _ h => h) r hr, hlo, hhi⟩)
    · refine (cells b).trans (if_neg ?_)
      rintro ⟨r, hr, hlo, hhi⟩
      have outside := (forall_rowsOf (p := fun r => b < r.2 ∨ r.2 + d.count ≤ b)).2 hb r hr
      omega
  · obtain ⟨c, used⟩ := prefetchRows_frame (n := d.count) (rowsOf d) (serveRequests s t k)
    refine moves_completes hm rfl (moveDesc_prefetch hm.2.2.1) ?_ fun f => ?_
    · rw [used]
      exact fun _ => rfl
    · rw [used]
      exact ⟨rfl, rfl, rfl⟩
  · obtain ⟨-, -, hop, -, -, -, -, hp, hu, -⟩ := id hm
    obtain ⟨c, streamed⟩ := streamBytes_plain (s := serveRequests s t k) ⟨hp, hu⟩ (forall_rowsOf.2 hplain)
    obtain ⟨cvus, mem, tiles⟩ := checkStream_frame streamed q
    have ended : ∀ f, cvSlotAt (modDesc (checkStream (serveRequests s t k) q d).2.2 t k f) d.unit q
        = cvSlotAt (cvStream (withCache (serveRequests s t k) c) d.unit q ((rowsOf d).flatMap (fun r => readBytes s.mem r.1 d.count))).2 d.unit q :=
      fun f => congrArg (fun v => (Tab.at v d.unit {}).slots.at q {}) cvus
    refine moves_completes hm rfl (moveDesc_scan hop hcheck) (fun y => congrArg (Tab.at · y ({} : Tile)) tiles) fun f => ⟨mem, ?_⟩
    have result := (congrArg CvSlot.result (ended f)).trans (cvStream_result (s := withCache (serveRequests s t k) c) hhold _)
    refine (congrArg BitVec.toNat result).trans ?_
    rw [word, BitVec.toNat_ofNat, rowsOf, List.flatMap_map]
    rfl

end Sys2Proof
end

section
/-! SUPPORT. FAR_CACHE_ACCESS: the unit used, the error met, the slot given back (R263 to R265, R271). -/

namespace Sys2Proof.Machine

/-! ### The unit used -/

section
variable {s : State} {l : Nat} {write noalloc : Bool}

/-- A unit's line as an access leaves it. -/
def usedLine (s : State) (l : Nat) (write : Bool) : CacheLine := { unit := l, dirty := (fcLines s l).any (fun c => c.unit = l && c.dirty) || write }

/-- Whether an access leaves the cache as it is: its set is out of service, or it is a no-allocate read that misses. -/
def bypasses (s : State) (l : Nat) (write noalloc : Bool) : Bool := s.fs.setsOff.contains (fcSet l) || (!fcHit s l && !write && noalloc)

/-- A write, a read that hits or one that allocates leaves its unit most recently used, in a set in service. -/
theorem fcUse_uses (h : bypasses s l write noalloc = false) :
    (fcLines (fcUse s l write noalloc) l).head? = some (usedLine s l write) := by
  have used : (fcUse s l write noalloc).fs.cache
      = s.fs.cache.put (fcSet l) ((usedLine s l write :: (fcLines s l).filter (fun c => c.unit ≠ l)).take 16) :=
    congrArg FarStore.cache (if_neg (Bool.not_eq_true _ ▸ h))
  rw [fcLines, used, Tab.at_put_same, List.take_succ_cons, List.head?_cons]

theorem fcUse_bypasses (h : bypasses s l write noalloc = true) : fcUse s l write noalloc = s :=
  congrArg (fun f => { s with fs := f }) (if_pos h)

end

/-! ### The access -/

section
variable {s : State}

/-- The far-store request slots that an access leaves held: a descriptor's gives its own back. -/
def slotsLeft (source : Option Nat) (a : Nat) (s : State) : List FsReq :=
  match source.bind (fun n => servedReq s n a) with
  | some r => s.fs.issued.erase r
  | none => s.fs.issued

/-- A state in which other requests hold slots. -/
def withIssued (s : State) (l : List FsReq) : State := { s with fs := { s.fs with issued := l } }

/-- An access may be served: traffic of no partition finds a slot, a descriptor's has an issued request. -/
def Admits (source : Option Nat) (a : Nat) (s : State) : Prop :=
  (source = none ∧ slotFree s a = true) ∨ (∃ n r, source = some n ∧ servedReq s n a = some r)

/-- The state after the error that an access meets: at the far cache's line on a hit, at the DRAM on a miss. -/
def errorMet (s : State) (a : Nat) (e : EccEvent) : State := if fcHit s ((a - fsBase) / 256) then fcError s a e else dramError s a e

/-- An access served: its error, then its write or read. -/
def accessServed (s : State) (a : Nat) (w : Option (List Byte)) (n : Bool) (e : EccEvent) : State :=
  match w with
  | some bs => farWriteAccess (errorMet s a e) a bs e
  | none => farReadAccess (errorMet s a e) s a n

/-- An access that may not be served, or to no far-store address, changes nothing. -/
theorem farCacheAccess_idle {source : Option Nat} {a : Nat} (h : isFsAddr s a = false ∨ ¬Admits source a s) (w : Option (List Byte)) (n : Bool)
    (e : EccEvent) : farCacheAccess source a w n e s = s := by
  unfold farCacheAccess
  rcases h with h | h
  · simp [h]
  · split
    · rfl
    · cases source with
      | none => exact if_neg (fun free => h (.inl ⟨rfl, free⟩))
      | some src =>
        cases hr : servedReq s src a with
        | none => simp only [hr]
        | some r => exact absurd (.inr ⟨src, r, rfl, hr⟩) h

/-- An access that may be served is served, and gives its slot back. -/
theorem farCacheAccess_serves {source : Option Nat} {a : Nat} (ha : isFsAddr s a = true) (h : Admits source a s) {w : Option (List Byte)} {n : Bool}
    {e : EccEvent} {v : State} (hv : accessServed s a w n e = v) (issued : v.fs.issued = s.fs.issued) :
    farCacheAccess source a w n e s = withIssued v (slotsLeft source a s) := by
  subst hv
  unfold farCacheAccess
  rw [if_neg (by rw [ha]; decide)]
  rcases h with ⟨rfl, free⟩ | ⟨src, r, rfl, hr⟩
  · simp only [free, if_true]
    rw [slotsLeft, Option.bind_none, ← issued]
    rfl
  · simp only [hr, slotsLeft, Option.bind_some]
    rw [← issued]
    rfl

/-! ### The errors met -/

theorem errorMet_none (s : State) (a : Nat) : errorMet s a .none = s := by
  unfold errorMet
  split <;> rfl

theorem errorMet_path (s : State) (a : Nat) (x y : List Byte) : errorMet s a (.path x y) = pathError s a x y := by
  unfold errorMet
  split <;> rfl

theorem errorMet_miss {a : Nat} (h : fcHit s ((a - fsBase) / 256) = false) (e : EccEvent) : errorMet s a e = dramError s a e :=
  if_neg (by rw [h]; decide)

/-- An error counted at its channel is counted in FS_ERR. -/
theorem fsCount_counts (s : State) (a clo : Nat) {lo : Nat} (h : lo + 16 ≤ 64) :
    regField (fsCount s a lo clo) (ctl 0x408) lo 16 = min (regField s (ctl 0x408) lo 16 + 1) (2 ^ 16 - 1) := by
  have apart : ctl 0x408 ∉ [ctl (0x31000 + 8 * (fsLocate s a).1)] := by
    rw [List.mem_singleton]
    unfold ctl
    omega
  have kept := regBump_sameRegistersBut (regBump s (ctl 0x408) lo 16 1) (ctl (0x31000 + 8 * (fsLocate s a).1)) clo 16 1 (ctl 0x408) apart
  rw [regField, fsCount, kept]
  exact regField_regBump s (ctl 0x408) 1 h

/-- The first uncorrected error held leaves every register but FS_FIRST_ERR. -/
theorem fsFirstErr_frame (s : State) (a kind : Nat) :
    SameRegistersBut [ctl 0x410] s (fsFirstErr s a kind) ∧ fsFirstErr s a kind = { s with regs := (fsFirstErr s a kind).regs } := by
  unfold fsFirstErr
  extract_lets r
  split
  · exact ⟨fun _ _ => rfl, rfl⟩
  · exact ⟨fun x hx => (regSet_sameRegistersBut _ r _ _ _ x hx).trans
      ((regSet_sameRegistersBut _ r _ _ _ x hx).trans (regSet_sameRegistersBut _ r _ _ _ x hx)), rfl⟩

/-- An uncorrected error is counted and leaves its line poisoned; memory and the far store stay (R263). -/
theorem fsUncorrected_counts (s : State) (a kind : Nat) :
    regField (fsUncorrected s a kind) (ctl 0x408) 32 16 = min (regField s (ctl 0x408) 32 16 + 1) (2 ^ 16 - 1)
      ∧ (fsUncorrected s a kind).poison = insertNat s.poison (a / 64) ∧ (fsUncorrected s a kind).mem = s.mem ∧ (fsUncorrected s a kind).fs = s.fs := by
  obtain ⟨kept, held⟩ := fsFirstErr_frame (fsCount s a 32 40) a kind
  obtain ⟨m, logged⟩ := logError_frame (fsFirstErr (fsCount s a 32 40) a kind) 7 (fsLocate s a).1 (fsLocate s a).1 0xFF false [a, kind]
  have result : fsUncorrected s a kind = poisonLine { fsFirstErr (fsCount s a 32 40) a kind with mgt := m } (a / 64) := congrArg (poisonLine · (a / 64)) logged
  rw [result]
  refine ⟨?_, ?_, ?_, ?_⟩
  · have count : regGet (fsFirstErr (fsCount s a 32 40) a kind) (ctl 0x408) = regGet (fsCount s a 32 40) (ctl 0x408) := kept _ (by decide)
    exact (congrArg (field · 32 16) count).trans (fsCount_counts s a 40 (by decide))
  all_goals
    rw [held]
    rfl

theorem regField_of_regs {u : State} (h : u.regs = s.regs) (r lo n : Nat) : regField u r lo n = regField s r lo n := by
  unfold regField regGet
  rw [h]

/-- A corrected DRAM error is counted (R263). -/
theorem corrected_counts (s : State) (a : Nat) :
    regField (dramError s a .corrected) (ctl 0x408) 0 16 = min (regField s (ctl 0x408) 0 16 + 1) (2 ^ 16 - 1)
      ∧ (dramError s a .corrected).poison = s.poison ∧ (dramError s a .corrected).mem = s.mem ∧ (dramError s a .corrected).fs = s.fs := by
  have regs : (dramError s a .corrected).regs = (fsCount s a 0 24).regs := rfl
  exact ⟨(regField_of_regs regs _ _ _).trans (fsCount_counts s a 24 (by decide)), rfl, rfl, rfl⟩

/-- An uncorrected DRAM error is counted and leaves its line poisoned (R263). -/
theorem uncorrectable_counts (s : State) (a : Nat) :
    regField (dramError s a .uncorrectable) (ctl 0x408) 32 16 = min (regField s (ctl 0x408) 32 16 + 1) (2 ^ 16 - 1)
      ∧ (dramError s a .uncorrectable).poison = insertNat s.poison (a / 64) ∧ (dramError s a .uncorrectable).mem = s.mem
      ∧ (dramError s a .uncorrectable).fs = s.fs := fsUncorrected_counts s a 0

/-- A CHECK that fails once and then matches is a path error counted (R263). -/
theorem pathError_counts {a : Nat} {x y : List Byte} (hx : checkFails s a x = true) (hy : checkFails s a y = false) :
    regField (pathError s a x y) (ctl 0x408) 16 16 = min (regField s (ctl 0x408) 16 16 + 1) (2 ^ 16 - 1)
      ∧ (pathError s a x y).poison = s.poison ∧ (pathError s a x y).mem = s.mem ∧ (pathError s a x y).fs = s.fs := by
  have counted : pathError s a x y = modMon (regBump s (ctl 0x408) 16 16 1) (fun m => { m with fsCe := m.fsCe + 1 }) := by
    simp only [pathError, hx, hy, Bool.not_true, Bool.false_eq_true, if_false]
  rw [counted]
  exact ⟨regField_regBump s (ctl 0x408) 1 (by decide), rfl, rfl, rfl⟩

/-! ### Reads and writes of an open far store -/

/-- A read that may be served, with no line poisoned: the error met, the unit used, the slot given back. -/
theorem farCacheAccess_reads {source : Option Nat} {a : Nat} (ha : isFsAddr s a = true) (h : Admits source a s) (hopen : FarStoreOpen s) (hp : s.poison = [])
    {e : EccEvent} {v : State} (hv : errorMet s a e = v) (fs : v.fs = s.fs) (n : Bool) :
    farCacheAccess source a none n e s = withIssued (fcUse v ((a - fsBase) / 256) false n) (slotsLeft source a s) := by
  subst hv
  have clean : linePoisoned s (a / 64) = false := by simp [linePoisoned, hp, hopen.isFenced_false]
  have served : accessServed s a none n e = fcUse (errorMet s a e) ((a - fsBase) / 256) false n := by
    simp only [accessServed, farReadAccess, clean, Bool.false_eq_true, if_false]
  obtain ⟨c, used⟩ := fcUse_frame (errorMet s a e) ((a - fsBase) / 256) false n
  exact farCacheAccess_serves ha h served (by rw [used, fs])

theorem farWriteF_nil (n : Nat) (s : State) (a : Nat) : farWriteF n s a [] = s := by
  cases n <;> rfl

/-- A write within one unit is one unit's write. -/
theorem farWriteF_unit {a : Nat} {bs : List Byte} (hpos : 0 < bs.length) (hfit : a % 256 + bs.length ≤ 256) :
    farWriteF bs.length s a (bs.take (256 - a % 256)) = farWriteUnit s a bs := by
  have whole : bs.take (256 - a % 256) = bs := List.take_of_length_le (by omega)
  obtain ⟨n, hn⟩ := Nat.exists_eq_succ_of_ne_zero (Nat.ne_of_gt hpos)
  have rest : bs.drop (256 - a % 256) = [] := List.drop_eq_nil_of_le (by omega)
  have some_ : ¬bs.isEmpty = true := by simpa using List.ne_nil_of_length_pos hpos
  simp only [hn, farWriteF, whole, rest, farWriteF_nil, some_, Bool.false_eq_true, if_false]

/-- A write within one unit that may be served and meets no error: its bytes, the unit used, the slot given back. -/
theorem farCacheAccess_writes {source : Option Nat} {a : Nat} (ha : isFsAddr s a = true) (h : Admits source a s) (hopen : FarStoreOpen s)
    {bs : List Byte} (hpos : 0 < bs.length) (hfit : a % 256 + bs.length ≤ 256) (n : Bool) :
    farCacheAccess source a (some bs) n .none s = withIssued
      (fcUse (curePoison { s with mem := writeBytes s.mem a bs } a bs.length) ((a - fsBase) / 256) true false) (slotsLeft source a s) := by
  have served : accessServed s a (some bs) n .none
      = fcUse (curePoison { s with mem := writeBytes s.mem a bs } a bs.length) ((a - fsBase) / 256) true false := by
    simp only [accessServed, farWriteAccess, errorMet_none, farWriteF_unit hpos hfit, farWriteUnit_open hopen]
  obtain ⟨c, used⟩ := fcUse_frame (curePoison { s with mem := writeBytes s.mem a bs } a bs.length) ((a - fsBase) / 256) true false
  exact farCacheAccess_serves ha h served (by rw [used]; rfl)

/-! ### What an access leaves -/

section
variable {source : Option Nat} {a : Nat}

/-- A read that meets no error leaves its unit most recently used, where it hits or allocates. -/
theorem cleanRead_completes (ha : isFsAddr s a = true) (h : Admits source a s) (hopen : FarStoreOpen s) (hp : s.poison = []) {n : Bool}
    (used : bypasses s ((a - fsBase) / 256) false n = false) : Completes (.farCacheAccess source a none n .none) s (fun u =>
      (fcLines u ((a - fsBase) / 256)).head?.map CacheLine.unit = some ((a - fsBase) / 256) ∧ u.fs.issued = slotsLeft source a s
        ∧ u = { s with fs := u.fs }) :=
  ⟨_, congrArg Host.Outcome.next (farCacheAccess_reads ha h hopen hp (errorMet_none s a) rfl n),
    congrArg (Option.map CacheLine.unit) (fcUse_uses used), rfl, rfl⟩

/-- A no-allocate read that misses leaves the cache as it is. -/
theorem bypassingRead_completes (ha : isFsAddr s a = true) (h : Admits source a s) (hopen : FarStoreOpen s) (hp : s.poison = []) {n : Bool}
    (bypass : bypasses s ((a - fsBase) / 256) false n = true) : Completes (.farCacheAccess source a none n .none) s (fun u =>
      u.fs.cache = s.fs.cache ∧ u.fs.issued = slotsLeft source a s ∧ u = { s with fs := u.fs }) := by
  refine ⟨_, congrArg Host.Outcome.next (farCacheAccess_reads ha h hopen hp (errorMet_none s a) rfl n), ?_⟩
  rw [fcUse_bypasses bypass]
  exact ⟨rfl, rfl, rfl⟩

/-- A read that meets an error leaves it counted, and its line as the error leaves it. -/
theorem erringRead_completes (ha : isFsAddr s a = true) (h : Admits source a s) (hopen : FarStoreOpen s) (hp : s.poison = []) {e : EccEvent} {v : State}
    (hv : errorMet s a e = v) (fs : v.fs = s.fs) (n : Bool) {lo x : Nat} (count : regField v (ctl 0x408) lo 16 = x) {p : List Nat} (poison : v.poison = p)
    (mem : v.mem = s.mem) : Completes (.farCacheAccess source a none n e) s (fun u =>
      regField u (ctl 0x408) lo 16 = x ∧ u.mem = s.mem ∧ u.poison = p ∧ u.fs.issued = slotsLeft source a s) := by
  refine ⟨_, congrArg Host.Outcome.next (farCacheAccess_reads ha h hopen hp hv fs n), ?_⟩
  obtain ⟨c, used⟩ := fcUse_frame v ((a - fsBase) / 256) false n
  rw [used]
  exact ⟨count, mem, poison, rfl⟩

/-- A write within one unit that meets no error stands in memory, its unit dirty and most recently used, in a set in service. -/
theorem cleanWrite_completes (ha : isFsAddr s a = true) (h : Admits source a s) (hopen : FarStoreOpen s) (hset : fcSet ((a - fsBase) / 256) ∉ s.fs.setsOff)
    {bs : List Byte} (hpos : 0 < bs.length) (hfit : a % 256 + bs.length ≤ 256) (hwf : Memory.wf s.mem = true) (n : Bool) :
    Completes (.farCacheAccess source a (some bs) n .none) s (fun u =>
      readBytes u.mem a bs.length = bs ∧ SameMemoryOutside a bs.length s u
        ∧ (fcLines u ((a - fsBase) / 256)).head? = some { unit := (a - fsBase) / 256, dirty := true } ∧ u.fs.issued = slotsLeft source a s
        ∧ u.regs = s.regs ∧ u.tiles = s.tiles) := by
  obtain ⟨read, outside⟩ := written_span (s := s) (u := { s with mem := writeBytes s.mem a bs }) hwf rfl
  refine ⟨_, congrArg Host.Outcome.next (farCacheAccess_writes ha h hopen hpos hfit n), read, outside, ?_, rfl, rfl, rfl⟩
  have serviced : bypasses (curePoison { s with mem := writeBytes s.mem a bs } a bs.length) ((a - fsBase) / 256) true false = false := by
    simpa [bypasses, curePoison] using hset
  have used := fcUse_uses serviced
  rw [usedLine, Bool.or_true] at used
  exact used

end

end

end Sys2Proof.Machine
end

section
/-! SUPPORT. Guards acknowledged and read again, the far store lost, and the obligation (R266, R269, R271, R274). -/

namespace Sys2Proof.Machine

section
variable {s : State} {g unit : Nat} {x : Guard}

/-! ### GUARD_STALE_ACK (R269) -/

/-- The guards after guard g's acknowledgement of a unit. -/
def acknowledged (g unit : Nat) (l : List Guard) : List Guard :=
  l.map (fun x => if x.id = g then { x with acks := x.acks.filter (· ≠ unit) } else x)

/-- While another guard awaits the unit's acknowledgement nothing lands. -/
theorem guardStaleAck_waits {y : Guard} (hy : y ∈ s.fs.guards) (hid : y.id ≠ g) (hack : unit ∈ y.acks) :
    guardStaleAck g unit s = modFs s (fun f => { f with guards := acknowledged g unit f.guards }) := by
  have awaits : (acknowledged g unit s.fs.guards).any (fun x => x.acks.contains unit) = true := by
    refine List.any_eq_true.2 ⟨y, List.mem_map.2 ⟨y, hy, if_neg hid⟩, ?_⟩
    rw [List.contains_eq_mem]
    exact decide_eq_true hack
  exact if_pos awaits

theorem isFenced_unfenced (hchan : ∀ c, (chanAt s c).state ≠ 3) (a : Nat) : isFenced s a = false := decide_eq_false (hchan _)

/-- A held write that lands where no channel is fenced. -/
theorem landWrite_lands (hchan : ∀ c, (chanAt s c).state ≠ 3) (a : Nat) (bs : List Byte) :
    landWrite s (a, bs) = fcUse (curePoison { s with mem := writeBytes s.mem a bs } a bs.length) ((a - fsBase) / 256) true false :=
  if_neg (by rw [isFenced_unfenced hchan]; decide)

/-- The last acknowledgement of the one guard's unit lands its held write. -/
theorem guardStaleAck_lands {a : Nat} {bs : List Byte} (hg : s.fs.guards = [x]) (hid : x.id = g) (hacks : x.acks = [unit]) (hheld : x.held = [(a, bs)])
    (hunit : (a - fsBase) / 256 = unit) :
    guardStaleAck g unit s = landWrite (modFs s (fun f => { f with guards := [{ x with acks := [], held := [] }] })) (a, bs) := by
  simp [guardStaleAck, modFs, hg, hid, hacks, hheld, hunit]

/-- With the one guard's last acknowledgement of a unit its held write lands, and nothing else changes but the guard and the far cache. -/
theorem lastAck_completes {a : Nat} {bs : List Byte} (hg : s.fs.guards = [x]) (hid : x.id = g) (hacks : x.acks = [unit]) (hheld : x.held = [(a, bs)])
    (hchan : ∀ c, (chanAt s c).state ≠ 3) (hunit : (a - fsBase) / 256 = unit) (hwf : Memory.wf s.mem = true) :
    Completes (.guardStaleAck g unit) s (fun u => u.fs.guards = [{ x with acks := [], held := [] }]
      ∧ readBytes u.mem a bs.length = bs ∧ SameMemoryOutside a bs.length s u ∧ u.tiles = s.tiles ∧ u.regs = s.regs) := by
  have landed := landWrite_lands (s := modFs s (fun f => { f with guards := [{ x with acks := [], held := [] }] })) hchan a bs
  obtain ⟨c, used⟩ := fcUse_frame (curePoison { s with
    mem := writeBytes s.mem a bs, fs := { s.fs with guards := [{ x with acks := [], held := [] }] } } a bs.length) ((a - fsBase) / 256) true false
  obtain ⟨read, outside⟩ := written_span (s := s) (u := { s with mem := writeBytes s.mem a bs }) hwf rfl
  exact ⟨_, congrArg Host.Outcome.next ((guardStaleAck_lands hg hid hacks hheld hunit).trans (landed.trans used)), rfl, read, outside, rfl, rfl⟩

/-! ### GUARD_REFETCH (R269, R274) -/

/-- A unit that is not STALE, or whose acknowledgement is awaited, is not read again. -/
theorem guardRefetch_idle (hg : s.fs.guards = [x]) (hid : x.id = g) (h : unit ∈ x.acks ∨ unit ∉ x.stale) : guardRefetch g unit s = s := by
  rcases h with h | h <;> simp [guardRefetch, hg, hid, h]

/-- A guard's unit is STALE no more. -/
def clearStale (g unit : Nat) (s : State) : State :=
  modFs s (fun f => { f with guards := f.guards.map (fun y => if y.id = g then { y with stale := y.stale.filter (· ≠ unit) } else y) })

theorem clearStale_guard (hg : s.fs.guards = [x]) (hid : x.id = g) :
    (clearStale g unit s).fs.guards = [{ x with stale := x.stale.filter (· ≠ unit) }] := by
  have cleared : (clearStale g unit s).fs.guards
      = s.fs.guards.map (fun y => if y.id = g then { y with stale := y.stale.filter (· ≠ unit) } else y) := rfl
  rw [cleared, hg, List.map_singleton, if_pos hid]

/-- The one open guard is g, whose unit is STALE and acknowledged, its write landed, and its descriptor has made its last read. -/
structure ReadsAgain (s : State) (g unit : Nat) (x : Guard) : Prop where
  one : s.fs.guards = [x]
  id : x.id = g
  stale : unit ∈ x.stale
  acked : unit ∉ x.acks
  landed : x.held = []
  moved : guardMoved s x = true

/-- A STALE unit whose write has landed is read again, charged to the guard's partition. -/
theorem guardRefetch_rereads (h : ReadsAgain s g unit x) : guardRefetch g unit s
      = charged s x.q engGuard [(fsBase + 256 * unit, 256)] (fun s => clearStale g unit (refetch s x.q (descOf x.bytes) unit)) := by
  have found : s.fs.guards.find? (fun y => decide (y.id = g)) = some x := by simp [h.one, h.id]
  have ready : (!x.stale.contains unit || x.acks.contains unit || !guardMoved s x
      || s.fs.guards.any (fun y => y.held.any (fun w => decide ((w.1 - fsBase) / 256 = unit)))) = false := by
    simp [h.one, h.stale, h.acked, h.landed, h.moved]
  simp only [guardRefetch, found, ready, Bool.false_eq_true, if_false]
  rfl

/-! ### An engine's operation of one funded span (R271, R273) -/

/-- The guards and the channels stand. -/
def KeepsGuards (s u : State) : Prop := u.fs.guards = s.fs.guards ∧ u.fs.chans = s.fs.chans

theorem KeepsGuards.trans {s t u : State} (h : KeepsGuards s t) (g : KeepsGuards t u) : KeepsGuards s u := ⟨g.1.trans h.1, g.2.trans h.2⟩

theorem enterOne_enters {s u : State} {q : Nat} (h : enterOne s q = some u) : ∃ w rest, u = entered s q w rest := by
  cases hw : (partAt s q).regWait with
  | nil => rw [enterOne_none_waiting hw] at h; cases h
  | cons w rest =>
    by_cases hb : nextUnitBytes w ≤ (partAt s q).bucketTokens
    · rw [enterOne_funded hw hb] at h
      exact ⟨w, rest, (Option.some.inj h).symm⟩
    · rw [enterOne_unfunded hw (Nat.lt_of_not_le hb)] at h
      cases h

theorem enterAll_keepsGuards (n : Nat) (s : State) (q : Nat) : KeepsGuards s (enterAll n s q) := by
  induction n generalizing s with
  | zero => exact ⟨rfl, rfl⟩
  | succ n ih =>
    unfold enterAll
    split
    case h_1 => exact ⟨rfl, rfl⟩
    case h_2 s1 h =>
      obtain ⟨w, rest, rfl⟩ := enterOne_enters h
      exact ih (entered s q w rest)

theorem makeOp_keepsGuards (s : State) (q : Nat) (o : RegOp) : KeepsGuards s (makeOp s q o) := by
  unfold makeOp
  extract_lets s1
  have asked : s1.fs = s.fs := foldl_related (R := fun s t => t.fs = s.fs) (fun _ => rfl) (fun h g => g.trans h)
    (fun s x => by unfold regulate; split <;> rfl) o.spans _
  obtain ⟨guards, chans⟩ := enterAll_keepsGuards (regWaiting (partAt s1 q)) s1 q
  rw [asked] at guards chans
  exact ⟨guards, chans⟩

/-- An engine's operation of one funded far-store span is done at once. -/
theorem charged_funded {q engine a n : Nat} (ha : fsBase ≤ a) (hn : 0 < n) (hf : Funded s q n) (work : State → State) :
    ∃ v, Charged q s v ∧ KeepsGuards s v ∧ charged s q engine [(a, n)] work = work v := by
  have far : farSpans [(a, n)] = [(a, n)] := by simp [farSpans, ha, hn]
  unfold charged
  rw [far]
  extract_lets p spans done o
  split
  · exact ⟨s, .refl q s, ⟨rfl, rfl⟩, rfl⟩
  · have unmade : p.regOps.find? (fun o => decide (o.engine = engine) && decide (o.spans = spans) && o.served.isNone) = none := by
      rw [show p.regOps = [] from hf.2.1]
      rfl
    obtain ⟨wait, -, issued⟩ := makeOp_funded (o := o) rfl hn hf
    have ready : opReady (makeOp s q o) q o = true := by simp [opReady, wait, spanSlots, issued]
    refine ⟨dropOp (makeOp s q o) q o.id, (makeOp_charged s q o).trans (dropOp_charged _ q o.id), makeOp_keepsGuards s q o, ?_⟩
    rw [unmade]
    exact if_pos ready

/-! ### A unit copied again (R269) -/

theorem fsReadMark_unfenced (hchan : ∀ c, (chanAt s c).state ≠ 3) (hp : s.poison = []) (a n : Nat) : fsReadMark s a n = s :=
  List.foldl_fixed' (fun l => by simp [isFenced_unfenced hchan, hp]) _

/-- With no channel fenced and nothing poisoned a read of the far store, guarded or not, gives its bytes, clean, and at most uses the far cache. -/
theorem spanFetch_unfenced (hchan : ∀ c, (chanAt s c).state ≠ 3) (hp : s.poison = []) {a : Nat} (ha : fsBase ≤ a) (n : Nat) (noalloc : Bool) :
    ∃ c, spanFetch s a n noalloc = (readBytes s.mem a n, false, withCache s c) := by
  obtain ⟨c, used⟩ : ∃ c, fcUseSpan s a n false noalloc = withCache s c := fcUseSpan_frame s a n false noalloc
  have mark : fsReadMark (withCache s c) a n = withCache s c := fsReadMark_unfenced (s := withCache s c) hchan hp a n
  have clean : spanPoisoned (withCache s c) a n = false :=
    spanPoisoned_clean hp fun l _ => .inr (isFenced_unfenced (s := withCache s c) hchan _)
  have far : isTileAddr a = false := decide_eq_false (by unfold fsBase at ha; omega)
  refine ⟨c, ?_⟩
  simp only [spanFetch, spanRead, far, Bool.false_eq_true, if_false, used, mark, clean]
  rfl

/-- A plain span of a state that holds a guard lies in a near store. -/
theorem plainSpan_guarded {a n : Nat} (hg : s.fs.guards ≠ []) (h : PlainSpan s a n) :
    a + n ≤ 0x200000000 ∧ offOf a + n ≤ 0x600000 ∧ (tileAt s (tileOf a)).banks = [] := h.resolve_right fun far => hg far.2.1

/-- A byte-mode COPY of one row, a unit of the far store. -/
structure CopiesUnit (d : DescF) (unit : Nat) : Prop where
  op : d.op = 1
  srcComp : d.srcComp = false
  dstComp : d.dstComp = false
  rows : d.rows = 1
  src : localAddr d.src = fsBase + 256 * unit
  count : d.count = 256

/-- A COPY's one row of one unit, read again, is copied whole. -/
theorem refetchRows_unit {d : DescF} (hd : CopiesUnit d unit) :
    refetchRows s d unit = copySpan s (fsBase + 256 * unit) (localAddr d.dst) 256 d.noalloc := by
  simp [refetchRows, rowsOf, hd.rows, hd.src, hd.count]

/-- A STALE unit of such a COPY put in place again: its bytes are written at the destination; guards, tiles and registers stay. -/
theorem refetch_unit {d : DescF} (hd : CopiesUnit d unit) (hchan : ∀ c, (chanAt s c).state ≠ 3) (hp : s.poison = [])
    (hplain : PlainSpan s (localAddr d.dst) 256) {q : Nat} {u : State} (hu : refetch s q d unit = u) :
    u.mem = writeBytes s.mem (localAddr d.dst) (readBytes s.mem (fsBase + 256 * unit) 256) ∧ u.fs.guards = s.fs.guards ∧ u.tiles = s.tiles
      ∧ u.regs = s.regs := by
  obtain ⟨c, fetched⟩ := spanFetch_unfenced hchan hp (Nat.le_add_right fsBase (256 * unit)) 256 d.noalloc
  have copied : refetch s q d unit = spanWrite (withCache s c) (localAddr d.dst) (readBytes s.mem (fsBase + 256 * unit) 256) := by
    rw [← copySpan_clean fetched, ← refetchRows_unit hd]
    simp [refetch, hd.op, hd.srcComp, hd.dstComp]
  have length := readBytes_length s.mem (fsBase + 256 * unit) 256
  generalize readBytes s.mem (fsBase + 256 * unit) 256 = bs at copied length ⊢
  obtain ⟨_, _, _, written⟩ := spanWrite_plain (s := withCache s c) (bs := bs) (by rw [length]; exact plainSpan_withCache c hplain) (by omega)
  rw [← hu, copied, written]
  exact ⟨rfl, rfl, rfl, rfl⟩

/-- A STALE unit of a PREFETCH read again, on its partition's account, is STALE no more. -/
theorem refetchedPrefetch_completes (h : ReadsAgain s g unit x) (hf : Funded s x.q 256) (hop : (descOf x.bytes).op = 4) :
    Completes (.guardRefetch g unit) s (fun u => u.fs.guards = [{ x with stale := x.stale.filter (· ≠ unit) }]
      ∧ (∀ r, r ≠ x.q → partAt u r = partAt s r) ∧ u = { s with parts := u.parts, fs := u.fs }) := by
  obtain ⟨v, paid, ⟨guards, -⟩, done⟩ := charged_funded (engine := engGuard) (Nat.le_add_right fsBase (256 * unit)) (by decide) hf
    (fun s => clearStale g unit (refetch s x.q (descOf x.bytes) unit))
  have reread : refetch v x.q (descOf x.bytes) unit = v := by simp [refetch, hop]
  rw [reread] at done
  refine ⟨_, congrArg Host.Outcome.next ((guardRefetch_rereads h).trans done), ?_, paid.others, ?_⟩
  · exact clearStale_guard (guards.trans h.one) h.id
  · rw [clearStale, paid.rest]
    rfl

/-- A STALE unit of a COPY of one row of it read again, on its partition's account, stands at its destination, and is STALE no more. -/
theorem refetchedCopy_completes (h : ReadsAgain s g unit x) (hf : Funded s x.q 256) {d : DescF} (hx : descOf x.bytes = d) (hd : CopiesUnit d unit)
    (hchan : ∀ c, (chanAt s c).state ≠ 3) (hplain : PlainSpan s (localAddr d.dst) 256) (hp : s.poison = []) (hwf : Memory.wf s.mem = true) :
    Completes (.guardRefetch g unit) s (fun u => u.fs.guards = [{ x with stale := x.stale.filter (· ≠ unit) }]
      ∧ readBytes u.mem (localAddr d.dst) 256 = readBytes s.mem (fsBase + 256 * unit) 256 ∧ SameMemoryOutside (localAddr d.dst) 256 s u
      ∧ u.tiles = s.tiles ∧ u.regs = s.regs) := by
  obtain ⟨v, paid, ⟨guards, chans⟩, done⟩ := charged_funded (engine := engGuard) (Nat.le_add_right fsBase (256 * unit)) (by decide) hf
    (fun s => clearStale g unit (refetch s x.q (descOf x.bytes) unit))
  obtain ⟨mem, poison, tiles, regs⟩ : v.mem = s.mem ∧ v.poison = s.poison ∧ v.tiles = s.tiles ∧ v.regs = s.regs := by
    rw [paid.rest]
    exact ⟨rfl, rfl, rfl, rfl⟩
  have plain : PlainSpan v (localAddr d.dst) 256 := by
    obtain ⟨htop, hoff, hbanks⟩ := plainSpan_guarded (by rw [h.one]; exact List.cons_ne_nil _ _) hplain
    exact .inl ⟨htop, hoff, by rw [tileAt, tiles]; exact hbanks⟩
  subst hx
  generalize hw : refetch v x.q (descOf x.bytes) unit = w at done
  obtain ⟨wmem, wguards, wtiles, wregs⟩ :=
    refetch_unit hd (fun c => by rw [chanAt, chans]; exact hchan c) (poison.trans hp) plain hw
  rw [mem] at wmem
  obtain ⟨read, outside⟩ := written_span (u := clearStale g unit w) hwf wmem
  rw [readBytes_length] at read outside
  exact ⟨_, congrArg Host.Outcome.next ((guardRefetch_rereads h).trans done),
    clearStale_guard ((wguards.trans guards).trans h.one) h.id, read, outside, wtiles.trans tiles, wregs.trans regs⟩

/-! ### WRITEBACK_TIMEOUT (R266) -/

/-- A partition that loses what the far store held for it. -/
def lostPart (p : Part) : Part :=
  { p with
    settle := { p.settle with journal := [], retention := [], pieces := [], settledPrint := none }
    ckpt := { p.ckpt with copy := p.ckpt.copy.map (fun c => { c with staged := [] }) } }

theorem partAt_loseFarStore (s : State) (q : Nat) : partAt (loseFarStore s) q = lostPart (partAt s q) := by
  have parts : (loseFarStore s).parts = s.parts.map (fun x => (x.1, lostPart x.2)) := rfl
  rw [partAt, parts, Tab.at, Tab.find_mapValues, partAt, Tab.at]
  cases s.parts.find q <;> rfl

/-- The far store's bytes are lost, and no others. -/
theorem loseFarStore_cells (s : State) (a : Nat) :
    readCells (loseFarStore s).mem a = if fsBase ≤ a ∧ a < 0xFF000000000 then 0 else readCells s.mem a := by
  refine (readCells_filter s.mem (fun a => !decide (fsBase ≤ a ∧ a < 0xFF000000000)) a).trans ?_
  by_cases h : fsBase ≤ a ∧ a < 0xFF000000000 <;> simp [h]

theorem writebackTimeout_idle (h : s.fs.draining = false) : writebackTimeout s = s := if_pos (by rw [h]; rfl)

theorem writebackTimeout_loses (h : s.fs.draining = true) :
    writebackTimeout s = modFs (loseFarStore s) (fun f => { f with lost := true, draining := false }) := if_neg (by rw [h]; decide)

/-- A write-back not complete in time loses what the far store held, and nothing else. -/
theorem writebackTimeout_completes (h : s.fs.draining = true) : Completes .writebackTimeout s (fun u =>
    u.fs.lost = true ∧ u.fs.draining = false ∧ u.fs.cache = [] ∧ u.mgt.log = []
      ∧ (∀ a, fsBase ≤ a → a < 0xFF000000000 → readCells u.mem a = 0)
      ∧ (∀ a, a < fsBase ∨ 0xFF000000000 ≤ a → readCells u.mem a = readCells s.mem a) ∧ (∀ q, partAt u q = lostPart (partAt s q))
      ∧ u.tiles = s.tiles ∧ u.regs = s.regs) := by
  refine ⟨_, congrArg Host.Outcome.next (writebackTimeout_loses h), rfl, rfl, rfl, rfl, fun a hlo hhi => ?_, fun a ha => ?_,
    partAt_loseFarStore s, rfl, rfl⟩
  · exact (loseFarStore_cells s a).trans (if_pos ⟨hlo, hhi⟩)
  · exact (loseFarStore_cells s a).trans (if_neg (by omega))

end

end Sys2Proof.Machine

namespace Sys2Proof
open Sys2Proof.Machine

/-- Settles O50: an access is its error, its unit used and its slot given back; a guard's last acknowledgement lands its write, and its unit is copied
again past the regulator; a far store lost keeps no byte of its own. -/
theorem farCacheAndGuardsServe : Obligations.FarCacheAndGuardsServe := by
  unfold Obligations.FarCacheAndGuardsServe
  refine ⟨fun source a s => ?_, fun g unit s => ?_, fun g unit x s hg hid => ?_, fun s => ?_⟩
  · intro l can left
    refine ⟨fun h w n e => congrArg Host.Outcome.next (farCacheAccess_idle h w n e), fun ha h hchan hguards hp hset => ?_⟩
    have hopen : FarStoreOpen s := ⟨hguards, hchan⟩
    have serviced : s.fs.setsOff.contains (fcSet l) = false := by rw [List.contains_eq_mem, decide_eq_false hset]
    refine ⟨fun n hit => cleanRead_completes ha h hopen hp ?_, fun miss => bypassingRead_completes ha h hopen hp ?_,
      fun bs n hpos hfit hwf => cleanWrite_completes ha h hopen hset hpos hfit hwf n, fun n miss => ?_, fun n miss => ?_, fun n x y hx hy => ?_⟩
    · rw [bypasses, serviced]
      rcases hit with hit | hit <;> simp [l, hit]
    · have missed : fcHit s ((a - fsBase) / 256) = false := miss
      simp [bypasses, missed]
    · obtain ⟨count, poison, mem, fs⟩ := corrected_counts s a
      exact erringRead_completes ha h hopen hp (errorMet_miss miss .corrected) fs n count (poison.trans hp) mem
    · obtain ⟨count, poison, mem, fs⟩ := uncorrectable_counts s a
      obtain ⟨u, hu, counted, kept, spoilt, issued⟩ :=
        erringRead_completes ha h hopen hp (errorMet_miss miss .uncorrectable) fs n count (poison.trans (congrArg (insertNat · (a / 64)) hp)) mem
      exact ⟨u, hu, counted, spoilt, kept, issued⟩
    · obtain ⟨count, poison, mem, fs⟩ := pathError_counts hx hy
      exact erringRead_completes ha h hopen hp (errorMet_path s a x y) fs n count (poison.trans hp) mem
  · exact ⟨fun y hy hid hack => ⟨_, congrArg Host.Outcome.next (guardStaleAck_waits hy hid hack), rfl⟩,
      fun x a bs hg hid hacks hheld hchan _ hunit hwf => lastAck_completes hg hid hacks hheld hchan hunit hwf⟩
  · exact ⟨fun h => congrArg Host.Outcome.next (guardRefetch_idle hg hid h),
      fun hstale hacks hheld hmoved hf hop => refetchedPrefetch_completes ⟨hg, hid, hstale, hacks, hheld, hmoved⟩ hf hop,
      fun hstale hacks hheld hmoved hf hop hsrcComp hdstComp hrows hsrc hcount => refetchedCopy_completes ⟨hg, hid, hstale, hacks, hheld, hmoved⟩ hf rfl
        ⟨hop, hsrcComp, hdstComp, hrows, hsrc, hcount⟩⟩
  · refine ⟨fun h => congrArg Host.Outcome.next (writebackTimeout_idle h), fun h => ?_⟩
    obtain ⟨u, hu, lost, drained, cache, log, far, near, parts, rest⟩ := writebackTimeout_completes h
    refine ⟨u, hu, lost, drained, cache, log, far, near, fun q => ?_, rest⟩
    rw [parts]
    exact ⟨rfl, rfl, rfl, rfl, rfl⟩

end Sys2Proof
end
